-- ==== Sys2Proof/Syntax.lean ====
section
/-! DEFINITION. The instructions of Mirpin with their operands decoded, and the events of the machine:
one constructor of `Instr` for each row of spec/opcode_table.json (08 R154 and the instruction chapters). -/

namespace Sys2Proof

/-- The four last-result latches (R49), in the order of their operand codes (R148). -/
inductive Latch where
  | la | lf | lx | lm
  deriving DecidableEq, Repr

/-- A lane source (R148, R149). -/
inductive Src where
  | v (n : Nat)
  | o (n : Nat)
  | latch (l : Latch)
  | s (k : Nat)
  | zero
  | lane
  | quad
  | lit (w : Word)
  | g (n : Nat)
  deriving DecidableEq, Repr

/-- A lane destination (R149). -/
inductive Dst where
  | v (n : Nat)
  | o (n : Nat)
  | s (k : Nat)
  | zero
  deriving DecidableEq, Repr

/-- A group source (R149). -/
inductive GSrc where
  | g (n : Nat)
  | zero
  | lit (w : Word)
  deriving DecidableEq, Repr

/-- A group destination (R149). -/
inductive GDst where
  | g (n : Nat)
  | zero
  deriving DecidableEq, Repr

/-- The destination of `wred`: a lane destination or a g register (R190). -/
inductive RedDst where
  | lane (d : Dst)
  | g (n : Nat)
  deriving DecidableEq, Repr

/-- A register of the main file or the operand file, where a form takes only those (R255, R285). -/
inductive VReg where
  | v (n : Nat)
  | o (n : Nat)
  deriving DecidableEq, Repr

/-- The integer types of R167. -/
inductive IntTy where
  | i32 | n32 | i64 | n64
  deriving DecidableEq, Repr

/-- The float types of `fclass` (R180). -/
inductive FloatTy where
  | f32 | f64 | f16 | bf16
  deriving DecidableEq, Repr

/-- The formats of `cvt` (R184): element format codes 0x0-0x5 and 0x8-0xF of R64. -/
inductive Fmt where
  | bf16 | f16 | e4m3 | e5m2 | i8 | n8 | f32 | f64 | i16 | n16 | i32 | n32 | i64 | n64
  deriving DecidableEq, Repr

/-- The RND field (R150). -/
inductive Rnd where
  | dflt | rne | rtz | rup | rdn
  deriving DecidableEq, Repr

/-- Conditions (R155). -/
inductive Cond where
  | eq | ne | lt | le | gt | ge | un | ord
  deriving DecidableEq, Repr

/-- `fsgn` selectors (R181). -/
inductive SgnSel where
  | copy | neg | abs | xsgn
  deriving DecidableEq, Repr

/-- `pk` selectors (R185). -/
inductive PkSel where
  | f16 | bf16 | e4m3 | e5m2
  deriving DecidableEq, Repr

/-- `shfl` modes (R187). -/
inductive ShflMode where
  | idx | up | down | xor
  deriving DecidableEq, Repr

/-- `vote` modes (R188). -/
inductive VoteMode where
  | all | any | uni
  deriving DecidableEq, Repr

/-- Reduction operations (R190). -/
inductive RedOp where
  | add | min | max | and | or | xor
  deriving DecidableEq, Repr

/-- Types of a reduction (R190). -/
inductive RedTy where
  | int (t : IntTy)
  | f32
  deriving DecidableEq, Repr

/-- Memory sizes (R151). -/
inductive Size where
  | n8 | i8 | n16 | i16 | b32 | b64 | b128
  deriving DecidableEq, Repr

/-- The memory extension word (R151). -/
structure MemWord where
  ofs : BitVec 24
  evp : BitVec 2
  evo : Bool
  sz : Size
  deriving DecidableEq, Repr

/-- Atomic operations (R152, R213). -/
inductive AtomOp where
  | add | min | max | and | or | xor | exch | fadd
  deriving DecidableEq, Repr

/-- Types of an atomic (R152). -/
inductive AtomTy where
  | int (t : IntTy)
  | f32
  deriving DecidableEq, Repr

/-- Orders of an atomic (R126). -/
inductive Order where
  | rlx | acq | rel | ar
  deriving DecidableEq, Repr

/-- Kinds of fence (R152). -/
inductive FenceKind where
  | sc | acq | rel | ar
  deriving DecidableEq, Repr

/-- Scopes (R14, R152). -/
inductive Scope where
  | core | clus | die | dev | sys
  deriving DecidableEq, Repr

/-- Where `sdef` takes its shape from (R218). -/
inductive Shape where
  | regs (n : Nat)
  | record (h : GSrc)
  deriving DecidableEq, Repr

/-- Kinds of copy (R228). -/
inductive CopyKind where
  | plain | gather | decomp | mom
  deriving DecidableEq, Repr

/-- Fills of a triangular loop (R237). -/
inductive TFill where
  | zero | ninf | gf
  deriving DecidableEq, Repr

/-- Parts of a format block (R251). -/
inductive FbPart where
  | both | lo | hi
  deriving DecidableEq, Repr

/-- Covariance overrides (R87). -/
inductive CovSel where
  | mcr | ind | pos | neg
  deriving DecidableEq, Repr

/-- Non-linear forms (R91). -/
inductive NlForm where
  | relu | exp | sig | tanh | rcp
  deriving DecidableEq, Repr

/-- Collapse modes with their second source (R97, R252). -/
inductive Coll where
  | mean
  | std
  | upper (k : GSrc)
  | lower (k : GSrc)
  | sample (z : Src)
  deriving DecidableEq, Repr

/-- Level-of-detail modes of `sample` (R285). -/
inductive LodMode where
  | implicit | lod | bias
  deriving DecidableEq, Repr

/-- Kinds of `tlbi` (R357). -/
inductive TlbiKind where
  | page | range | asn | all
  deriving DecidableEq, Repr

/-- Who makes a register write or a mailbox command (R325, R343, R367, R403). -/
inductive Writer where
  | firmware
  | platform
  | owner (p : Nat)
  | other
  deriving DecidableEq, Repr

/-- A unit that holds an access: an engine thread, a lane load of a panel, a fixed node, the controller of a spool, a launch's
dependence reads, or the packet reads of a queue (R349). -/
inductive HeldUnit where
  | thread (tid : Nat)
  | lane (wid entry idx : Nat)
  | node (nid : Nat)
  | spool (sid : Nat)
  | launch (lid : Nat)
  | queue (q : Nat)
  deriving DecidableEq, Repr

/-- What an uncorrectable error strikes (R364). -/
inductive ErrorSite where
  | core (n : Nat)
  | line (pa : Nat)
  deriving DecidableEq, Repr

/-- The opcode table. `wid` names a wave (R307), `e` a panel-table entry. -/
inductive Instr where
  -- integer (R169-R174)
  | add (d : Dst) (a b : Src)
  | addLong (ty : IntTy) (sat : Bool) (d : Dst) (a b : Src)
  | sub (d : Dst) (a b : Src)
  | subLong (ty : IntTy) (sat : Bool) (d : Dst) (a b : Src)
  | adds (d : Dst) (a b : Src)
  | addsLong (ty : IntTy) (d : Dst) (a b : Src)
  | subs (d : Dst) (a b : Src)
  | subsLong (ty : IntTy) (d : Dst) (a b : Src)
  | mul (d : Dst) (a b : Src)
  | mulLong (ty : IntTy) (sat : Bool) (d : Dst) (a b : Src)
  | mulh (d : Dst) (a b : Src)
  | mulhLong (ty : IntTy) (d : Dst) (a b : Src)
  | mad (ty : IntTy) (sat : Bool) (d : Dst) (a b c : Src)
  | and (d : Dst) (a b : Src)
  | andLong (ty : IntTy) (d : Dst) (a b : Src)
  | or (d : Dst) (a b : Src)
  | orLong (ty : IntTy) (d : Dst) (a b : Src)
  | xor (d : Dst) (a b : Src)
  | xorLong (ty : IntTy) (d : Dst) (a b : Src)
  | andn (d : Dst) (a b : Src)
  | andnLong (ty : IntTy) (d : Dst) (a b : Src)
  | shl (d : Dst) (a b : Src)
  | shlLong (ty : IntTy) (d : Dst) (a b : Src)
  | shr (d : Dst) (a b : Src)
  | shrLong (ty : IntTy) (d : Dst) (a b : Src)
  | min (d : Dst) (a b : Src)
  | minLong (ty : IntTy) (d : Dst) (a b : Src)
  | max (d : Dst) (a b : Src)
  | maxLong (ty : IntTy) (d : Dst) (a b : Src)
  | absd (d : Dst) (a b : Src)
  | absdLong (ty : IntTy) (d : Dst) (a b : Src)
  | popc (d : Dst) (a : Src)
  | popcLong (ty : IntTy) (d : Dst) (a : Src)
  | clz (d : Dst) (a : Src)
  | clzLong (ty : IntTy) (d : Dst) (a : Src)
  | brev (d : Dst) (a : Src)
  | brevLong (ty : IntTy) (d : Dst) (a : Src)
  | bfx (ty : IntTy) (d : Dst) (a : Src) (pos width : Nat)
  | bfi (ty : IntTy) (d : Dst) (a b : Src) (pos width : Nat)
  | icmp (cond : Cond) (ty : IntTy) (p : Nat) (a b : Src)
  | sel (ty : IntTy) (d : Dst) (a b : Src) (p : Nat)
  | mov (d : Dst) (a : Src)
  | movLong (ty : IntTy) (d : Dst) (a : Src)
  -- float (R176-R185)
  | fadd (d : Dst) (a b : Src)
  | faddLong (rnd : Rnd) (d : Dst) (a b : Src)
  | fsub (d : Dst) (a b : Src)
  | fsubLong (rnd : Rnd) (d : Dst) (a b : Src)
  | fmul (d : Dst) (a b : Src)
  | fmulLong (rnd : Rnd) (d : Dst) (a b : Src)
  | ffma (rnd : Rnd) (d : Dst) (a b c : Src)
  | ffma3 (rnd : Rnd) (d : Dst) (a b c e : Src)
  | fmin (d : Dst) (a b : Src)
  | fminLong (mx : Bool) (d : Dst) (a b : Src)
  | fcmp (cond : Cond) (p : Nat) (a b : Src)
  | fdiv (d : Dst) (a b : Src)
  | fdivLong (rnd : Rnd) (d : Dst) (a b : Src)
  | frcp (d : Dst) (a : Src)
  | frcpLong (rnd : Rnd) (d : Dst) (a : Src)
  | frsq (d : Dst) (a : Src)
  | frsqLong (rnd : Rnd) (d : Dst) (a : Src)
  | fsqrt (d : Dst) (a : Src)
  | fsqrtLong (rnd : Rnd) (d : Dst) (a : Src)
  | fexp2 (d : Dst) (a : Src)
  | fexp2Long (rnd : Rnd) (d : Dst) (a : Src)
  | flog2 (d : Dst) (a : Src)
  | flog2Long (rnd : Rnd) (d : Dst) (a : Src)
  | fsin (d : Dst) (a : Src)
  | fsinLong (rnd : Rnd) (cos : Bool) (d : Dst) (a : Src)
  | fclass (d : Dst) (a : Src)
  | fclassLong (ty : FloatTy) (d : Dst) (a : Src)
  | fsgn (d : Dst) (a b : Src)
  | fsgnLong (wide : Bool) (sel : SgnSel) (d : Dst) (a b : Src)
  | dadd (d : Dst) (a b : Src)
  | daddLong (rnd : Rnd) (d : Dst) (a b : Src)
  | dmul (d : Dst) (a b : Src)
  | dmulLong (rnd : Rnd) (d : Dst) (a b : Src)
  | dfma (rnd : Rnd) (d : Dst) (a b c : Src)
  | ddiv (d : Dst) (a b : Src)
  | ddivLong (rnd : Rnd) (d : Dst) (a b : Src)
  | dsqrt (d : Dst) (a : Src)
  | dsqrtLong (rnd : Rnd) (d : Dst) (a : Src)
  | dcmp (cond : Cond) (p : Nat) (a b : Src)
  | dmin (d : Dst) (a b : Src)
  | dminLong (mx : Bool) (d : Dst) (a b : Src)
  | hadd2 (d : Dst) (a b : Src)
  | hadd2Long (bf : Bool) (rnd : Rnd) (d : Dst) (a b : Src)
  | hmul2 (d : Dst) (a b : Src)
  | hmul2Long (bf : Bool) (rnd : Rnd) (d : Dst) (a b : Src)
  | hfma2 (bf : Bool) (rnd : Rnd) (d : Dst) (a b c : Src)
  | cvt (dst src : Fmt) (rnd : Rnd) (d : Dst) (a : Src)
  | pk (sel : PkSel) (rnd : Rnd) (d : Dst) (a b c : Src)
  -- lane and wave (R186-R191)
  | qswz (d : Dst) (a : Src) (sel : Byte)
  | shfl (d : Dst) (a b : Src)
  | shflLong (mode : ShflMode) (d : Dst) (a b : Src)
  | vote (mode : VoteMode) (p q : Nat)
  | ballot (d : GDst) (q : Nat)
  | wred (op : RedOp) (ty : RedTy) (d : RedDst) (a : Src)
  | wscan (op : RedOp) (excl : Bool) (ty : RedTy) (d : Dst) (a : Src)
  -- group-wide and predicate (R192-R198)
  | gadd (d : GDst) (a b : GSrc)
  | gsub (d : GDst) (a b : GSrc)
  | gmul (d : GDst) (a b : GSrc)
  | gand (d : GDst) (a b : GSrc)
  | gor (d : GDst) (a b : GSrc)
  | gxor (d : GDst) (a b : GSrc)
  | gshLeft (d : GDst) (a n : GSrc)
  | gshRight (d : GDst) (a n : GSrc)
  | gmov (d : GDst) (a : GSrc)
  | gmovCtl (c : Nat) (a : GSrc)
  | gcmp (cond : Cond) (uns : Bool) (gp : Nat) (a b : GSrc)
  | gread (d : GDst) (c : Nat)
  | plog (grp : Bool) (d a b : Nat) (table : BitVec 4)
  | pmask (p : Nat) (a : GSrc)
  -- control (R199-R207)
  | bra (disp : BitVec 30)
  | brc (neg : Bool) (q : Nat) (disp : BitVec 30)
  | brcSplit (neg : Bool) (q : Nat) (disp : BitVec 30)
  | call (d : GDst) (disp : BitVec 30)
  | ret (a : GSrc)
  | retTret
  | exit
  | seam (ident : BitVec 12) (k : BitVec 3)
  | seamTimeout (wid e : Nat)
  | yield
  | yieldExpiry (wid e : Nat)
  | trapf
  | trap (code : Byte)
  | bkpt (code : Byte)
  -- memory (R208-R216)
  | ld (m : MemWord) (d : Dst) (a : Src)
  | st (m : MemWord) (a b : Src)
  | lds (m : MemWord) (d : Dst) (a : Src)
  | sts (m : MemWord) (a b : Src)
  | ldp (m : MemWord) (d : Dst) (win : Nat) (b : Src)
  | atom (op : AtomOp) (ty : AtomTy) (ord : Order) (scope : Scope) (loc : Bool) (d : Dst) (a b : Src)
  | cas (ty : IntTy) (ord : Order) (scope : Scope) (loc : Bool) (d : Dst) (a n c : Src)
  | fence (kind : FenceKind) (scope : Scope)
  -- streams (R217-R223)
  | sdef (k : Nat) (shape : Shape) (c : GSrc) (pfd : BitVec 2)
  | sxi (d : Dst) (sa sb : Nat) (cnt : GDst) (gpa gpb : Nat) (steps : Nat)
  | sadvSkip (gp k : Nat) (b : GSrc)
  | sadvGe (gp k : Nat) (b : GSrc)
  -- barriers and copies (R224-R235)
  | barr (d : GDst) (h : Nat)
  | bwait (d : GDst) (h : Nat) (ph : GSrc)
  | barrierWaitDone (wid e : Nat)
  | bexp (d : GDst) (h : Nat) (n : GSrc)
  | copy (kind : CopyKind) (out : Bool) (evp : BitVec 2) (evo : Bool) (bh : Nat) (l h : GSrc) (gx : Nat)
  | copyLanding (tid : Nat)
  | lflush (dev : Bool) (h : GSrc)
  | lflushComplete (wid e : Nat)
  | qpost (db : Bool) (d : GDst) (q a : GSrc)
  | sread (d : Dst) (k : Nat) (b : Src)
  | swrite (v : Src) (k : Nat) (b : Src)
  -- matrix (R236-R251)
  | mloop (areg : Option Nat) (g bh fb ksteps : Nat) (sat init tri : Bool) (tfill : TFill)
  | mloopComplete (tid : Nat)
  | maccGet (mom : Bool) (d : Nat) (c : GSrc) (nreg : Nat) (str : Half)
  | maccPut (mom : Bool) (d : Nat) (c : GSrc) (nreg : Nat) (str : Half)
  | msoft (pout : GSrc) (g bh : Nat) (e4m3 tri first : Bool)
  | msoftComplete (tid : Nat)
  | fbset (k : Nat) (part : FbPart) (a b : GSrc)
  -- moment (R252)
  | madd (d a b : Nat)
  | maddLong (sub : Bool) (cov : CovSel) (d a b : Nat)
  | mmul (d a b : Nat)
  | mmulLong (cov : CovSel) (d a b : Nat)
  | mnl (f : NlForm) (d a : Nat)
  | mcoll (mode : Coll) (d : Dst) (a : Nat)
  -- deprecated (R253-R256)
  | mmq (fmt : Nat) (init : Bool) (ksteps g : Nat)
  | ldq (m : MemWord) (d : VReg) (a : Src)
  | sbar (d : GDst) (h : Nat)
  -- graphics (R285-R292)
  | sample (lodm : LodMode) (pse : Option Nat) (d a : Nat) (h : GSrc)
  | gath (ne : Nat) (pse : Option Nat) (d : VReg) (a : Nat) (h : GSrc)
  | texqSize (d : Dst) (h : GSrc) (b : Src)
  | texqRes (d : Dst) (h : GSrc) (b : Src)
  | emit (fault : Bool) (port : Nat) (va : VReg) (kn : GSrc)
  | emitClose (fault : Bool) (port : Nat)
  | emitWake (wid e : Nat)
  | pull (any : Bool) (d : VReg) (port nreg : Nat)
  | pullWake (wid e : Nat)
  | endOfStreamAppend (sid : Nat)
  | trace (port : Option Nat) (rmask : Byte) (cullb first : Bool) (d a : Nat) (root : GSrc)
  | traceResume (port : Option Nat) (d a : Nat) (t : Src)
  | traversalComplete (tid lane : Nat)
  | disc (neg : Bool) (p : Nat)
  | discAll
  | mest (g bh nbx : Nat) (cand : Bool) (range : Nat)
  | mestComplete (tid : Nat)
  -- system (R356-R358)
  | ctxSkip
  | ctxFwd (d : GDst)
  | ctxEnd (a b : GSrc)
  | ctxFqpop (d : GDst)
  | ctxReply (d : GDst) (a b : GSrc)
  | tlbi (kind : TlbiKind) (a b : GSrc)
  | tlbiComplete (wid e : Nat)
  | genInc (d : GDst) (a : GSrc)
  | genChangeComplete (wid e : Nat)
  | genRd (d : GDst) (a : GSrc)
  -- issue, splits and fuses (R25, R33, R142-R144, R156)
  | clauseHeader (w : Word)
  | stallHintExpiry (wid e : Nat)
  | variableLatencyResult (wid e idx : Nat) (quads : BitVec 16)
  | missSplit (wid e : Nat)
  | forcedFuseIssue (wid e : Nat)
  | storeDrain (wid e : Nat)
  | reservedOpcode (w : Word)
  -- held faults (R138, R349, R351)
  | staleGenerationReject (u : HeldUnit)
  | heldEngineFault (u : HeldUnit)
  -- pre-emption and replay (R359-R366)
  | gangSave (gid : Nat)
  | gangSaveComplete (gid : Nat)
  | gangRestore (gid : Nat)
  -- queues and scheduling (R325-R340)
  | nopPacket (q : Nat)
  | gridPacket (q : Nat)
  | patternPacket (q : Nat)
  | waitPacket (q : Nat)
  | waitPacketSatisfied (q : Nat)
  | illegalPacket (q : Nat)
  | patternPlacement (lid : Nat)
  | gangPlacement (die lid gang : Nat)
  | residencyReport (die : Nat)
  | stealMessage (thief victim lid : Nat)
  -- debug (R309-R323)
  | stopComplete (wid e : Nat)
  | traceSample (core : Nat)
  | logGapEntry (p : Nat)
  -- display (R367-R381)
  | descriptorTake (h : Nat)
  | writebackFrameStart (h : Nat)
  | bandLaunch (h b : Nat)
  | bandDeadline (h b : Nat)
  | bandFixedFilter (h b : Nat)
  | bandScanout (h b : Nat) (late : Option Nat)
  | fallbackRecord (h : Nat)
  -- fixed nodes (R257-R284)
  | rasterTriangle (nid : Nat)
  | blendRecord (nid : Nat)
  | blendEndOfStream (nid : Nat)
  | travRay (nid : Nat)
  -- partitions, security, bring-up and links (R386-R409)
  | partSet (p : Nat) (en : Bool) (clus kfirst kcnt gbase gsize : Nat)
  | partReset (who : Writer) (p : Nat)
  | keyLoad (who : Writer) (slot : Nat) (adr : DWord)
  | attest (who : Writer) (nonce report : DWord)
  | cert (who : Writer) (buf : DWord) (size : Nat)
  | imageLoad (p : Nat) (image dest : DWord) (emul : Bool) (asn : Nat)
  | linkTrain (who : Writer) (port : Nat)
  | linkRetrain (who : Writer) (port : Nat)
  | linkDisable (who : Writer) (port : Nat)
  | fwUpdate (image : DWord)
  | bringupStage (good : Bool)
  -- acts of agents outside the module (R137, R308, R325, R343, R364, R367, R399-R401, R403), and events without operands
  | fqreply (who : Writer) (p : Nat) (val : DWord)
  | savePoolBind (who : Writer) (p : Nat) (val : DWord)
  | savePoolUnbind (who : Writer) (p : Nat) (val : DWord)
  | preempt (who : Writer) (p : Nat) (val : DWord)
  | uncorrectableError (site : ErrorSite)
  | doorbellWrite (q : Nat) (ofs : Nat) (val : Word)
  | qcfgWrite (who : Writer) (q : Nat) (val : DWord)
  | dbgStop (p : Nat) (cmd : DWord)
  | dbgResume (p : Nat) (cmd : DWord)
  | dbgStep (p : Nat) (cmd : DWord)
  | dbgRead (p : Nat) (cmd : DWord)
  | dbgWrite (p : Nat) (cmd : DWord)
  | dbgReadpt (p : Nat) (cmd : DWord)
  | dbgWrpc (p : Nat) (cmd : DWord)
  | dbgReadcnt (p : Nat) (cmd : DWord)
  | mirrorStrobe (p : Nat) (val : DWord)
  | headEnable (who : Writer) (h : Nat) (val : DWord)
  | headDisable (who : Writer) (h : Nat) (val : DWord)
  | idle
  | wake
  | moduleReset
  | powerRemoval
  | clockThrottle (cclk : Nat)
  | thermalTrip
  | hostWindowAccess (ofs : Nat) (data : List Byte) (write : Bool)
  | ualinkLinkFailure (port : Nat)
  | uetRemoteAccess (asn : Nat) (va : Nat) (data : List Byte) (write : Bool)
  | registerWrite (who : Writer) (ofs : Nat) (val : DWord)
  | ualinkPeerAccess (port : Nat) (pa : Nat) (data : List Byte) (write : Bool)
  deriving DecidableEq, Repr

end Sys2Proof
end

