-- ==== Sys2Proof/Machine/Exact.lean ====
section
/-! DEFINITION. Exact values and rounding (04 R65-R72, R77, R78, R83): floats decode to exact numbers, every operation
is done on exact numbers, and its result is rounded once. Flags are masks over the low byte of %fpc (R59). -/

namespace Sys2Proof.Machine

/-! ## Flags as masks -/

def fINV : Word := 0x01
def fDZ : Word := 0x02
def fOVF : Word := 0x04
def fUNF : Word := 0x08
def fINX : Word := 0x10
def fSAT : Word := 0x20
def fPWB : Word := 0x40
def fGDIV : Word := 0x80

/-! ## Formats -/

/-- A rounding mode (R69). -/
inductive Mode where
  | rne | rtz | rup | rdn
  deriving DecidableEq, Repr

/-- A floating-point format (R66, R67): the codes are those of magnitudes. -/
structure FloatFmt where
  width : Nat
  frac : Nat
  bias : Nat
  largest : Nat
  inf : Option Nat
  nan : Nat
  deriving DecidableEq, Repr

def f64 : FloatFmt :=
  { width := 64, frac := 52, bias := 1023, largest := 0x7FEFFFFFFFFFFFFF, inf := some 0x7FF0000000000000
    nan := 0x7FF8000000000000 }
def f32 : FloatFmt :=
  { width := 32, frac := 23, bias := 127, largest := 0x7F7FFFFF, inf := some 0x7F800000, nan := 0x7FC00000 }
def f16 : FloatFmt := { width := 16, frac := 10, bias := 15, largest := 0x7BFF, inf := some 0x7C00, nan := 0x7E00 }
def bf16 : FloatFmt := { width := 16, frac := 7, bias := 127, largest := 0x7F7F, inf := some 0x7F80, nan := 0x7FC0 }
def e5m2 : FloatFmt := { width := 8, frac := 2, bias := 15, largest := 0x7B, inf := some 0x7C, nan := 0x7E }
def e4m3 : FloatFmt := { width := 8, frac := 3, bias := 7, largest := 0x7E, inf := none, nan := 0x7F }

def FloatFmt.signBit (f : FloatFmt) : Nat := 2 ^ (f.width - 1)

/-- A code with its sign. -/
def FloatFmt.signed (f : FloatFmt) (neg : Bool) (mag : Nat) : Nat := if neg then f.signBit + mag else mag

/-- A value of a format (R66, R67): (−1)^neg × m × 2^e when finite. -/
inductive FVal where
  | nan
  | inf (neg : Bool)
  | fin (neg : Bool) (m : Nat) (e : Int)
  deriving DecidableEq, Repr

def FVal.isNan : FVal → Bool
  | .nan => true
  | _ => false

def FVal.isZero : FVal → Bool
  | .fin _ m _ => m == 0
  | _ => false

def FVal.isInf : FVal → Bool
  | .inf _ => true
  | _ => false

def FVal.neg : FVal → Bool
  | .nan => false
  | .inf s => s
  | .fin s _ _ => s

def FVal.negate : FVal → FVal
  | .nan => .nan
  | .inf s => .inf (!s)
  | .fin s m e => .fin (!s) m e

/-- What a code stands for (R66, R67). -/
def FloatFmt.decode (f : FloatFmt) (code : Nat) : FVal :=
  let neg := code / f.signBit % 2 == 1
  let mag := code % f.signBit
  if f.inf = some mag then .inf neg
  else if f.largest < mag then .nan
  else if mag < 2 ^ f.frac then .fin neg mag (1 - f.bias - f.frac)
  else .fin neg (2 ^ f.frac + mag % 2 ^ f.frac) ((mag / 2 ^ f.frac : Nat) - f.bias - f.frac)

/-- A subnormal code (R70). -/
def FloatFmt.subnormal (f : FloatFmt) (code : Nat) : Bool :=
  let mag := code % f.signBit
  decide (0 < mag) && decide (mag < 2 ^ f.frac)

/-- The decoding under FTZ: a subnormal reads as zero of its sign (R70) (assumption 60, DEDUCED). -/
def FloatFmt.decodeFtz (f : FloatFmt) (ftz : Bool) (code : Nat) : FVal :=
  if ftz && f.subnormal code then .fin (code / f.signBit % 2 == 1) 0 (1 - f.bias - f.frac) else f.decode code

/-! ## Rounding -/

/-- A magnitude: n × 2^e exactly, or with `sticky` a number strictly between n × 2^e and (n + 1) × 2^e. A sticky
magnitude is given finely enough that the rounding quantum exceeds 2^e. -/
structure Mag where
  n : Nat
  e : Int
  sticky : Bool
  deriving DecidableEq, Repr

/-- The multiple of 2^q that a magnitude rounds to, and whether it differs (R69). -/
def Mag.roundAt (x : Mag) (mode : Mode) (neg : Bool) (q : Int) : Nat × Bool :=
  if q ≤ x.e then (x.n * 2 ^ (x.e - q).toNat, x.sticky)
  else
    let d := (q - x.e).toNat
    let k := x.n / 2 ^ d
    let rem := x.n % 2 ^ d
    let half := 2 ^ (d - 1)
    let inexact := rem != 0 || x.sticky
    let up := match mode with
      | .rne => decide (half < rem) || (rem == half && (x.sticky || k % 2 == 1))
      | .rtz => false
      | .rup => inexact && !neg
      | .rdn => inexact && neg
    (if up then k + 1 else k, inexact)

/-- The exponent of the leading bit. -/
def Mag.lead (x : Mag) : Int := (Nat.log2 x.n : Int) + x.e

/-- Tiny after rounding (R70): the rounded value, its exponent unbounded, lies below the smallest normal. -/
def FloatFmt.tiny (f : FloatFmt) (mode : Mode) (neg : Bool) (x : Mag) : Bool :=
  decide (x.lead < 1 - f.bias) &&
    (decide (x.lead < -f.bias) || (x.roundAt mode neg (x.lead - f.frac)).1 != 2 ^ (f.frac + 1))

/-- What an overflow delivers (R67, R69). -/
def FloatFmt.overflow (f : FloatFmt) (mode : Mode) (neg : Bool) : Nat :=
  match f.inf with
  | none => f.signed neg f.largest
  | some inf =>
    match mode, neg with
    | .rne, _ => f.signed neg inf
    | .rtz, _ => f.signed neg f.largest
    | .rup, false => f.signed neg inf
    | .rup, true => f.signed neg f.largest
    | .rdn, false => f.signed neg f.largest
    | .rdn, true => f.signed neg inf

/-- Round(x, fmt, mode) (R69, R70): the code and the flags of a magnitude with a sign; `ftz` flushes a subnormal
result. -/
def FloatFmt.round (f : FloatFmt) (mode : Mode) (ftz neg : Bool) (x : Mag) : Nat × Word :=
  if x.n = 0 && !x.sticky then (f.signed neg 0, 0)
  else
    let least : Int := 1 - f.bias - f.frac
    let q := if x.lead - f.frac < least then least else x.lead - f.frac
    let r := x.roundAt mode neg q
    let code := (q - least).toNat * 2 ^ f.frac + r.1
    if f.largest < code then (f.overflow mode neg, fOVF ||| fINX)
    else if ftz && decide (0 < code) && decide (code < 2 ^ f.frac) then (f.signed neg 0, fUNF ||| fINX)
    else (f.signed neg code, if r.2 then (if f.tiny mode neg x then fUNF ||| fINX else fINX) else 0)

/-- A format's canonical NaN (R68), its infinity and its zero of a sign. -/
def FloatFmt.infinity (f : FloatFmt) (neg : Bool) : Nat := f.signed neg (f.inf.getD f.nan)

/-! ## Exact sums of products -/

/-- The product of two values (R71): none for 0 × ∞. -/
def mulVal : FVal → FVal → FVal
  | .fin s m e, .fin s' m' e' => .fin (s != s') (m * m') (e + e')
  | .nan, _ => .nan
  | _, .nan => .nan
  | .inf s, .inf s' => .inf (s != s')
  | .inf s, .fin s' m _ => if m = 0 then .nan else .inf (s != s')
  | .fin s m _, .inf s' => if m = 0 then .nan else .inf (s != s')

/-- The least exponent among finite terms. -/
def leastExp : List FVal → Int → Int
  | [], k => k
  | .fin _ _ e :: l, k => leastExp l (if e < k then e else k)
  | _ :: l, k => leastExp l k

/-- An exact sum of finite terms as a multiple of 2^k, `k` at most every exponent (R80, R190). -/
def sumAt (k : Int) : List FVal → Int
  | [] => 0
  | .fin s m e :: l => (if s then -((m * 2 ^ (e - k).toNat : Nat) : Int) else ((m * 2 ^ (e - k).toNat : Nat) : Int)) + sumAt k l
  | _ :: l => sumAt k l

/-- The exact sum of finite terms as a signed magnitude; a sum of zero takes its sign from R71. -/
def sumTerms (mode : Mode) (ts : List FVal) : Bool × Mag :=
  let k := leastExp ts 0
  let x := sumAt k ts
  if x = 0 then
    let neg := if ts.all (·.isZero) && ts.all (·.neg) && !ts.isEmpty then true
      else if ts.all (·.isZero) && ts.all (fun t => !t.neg) then false
      else decide (mode = .rdn)
    (neg, { n := 0, e := 0, sticky := false })
  else (decide (x < 0), { n := x.natAbs, e := k, sticky := false })

/-- A sum of products and addends, formed exactly and rounded once, with the special operands in the order of R177 and
R81 (R71, R81, R176, R177, R190) (assumption 65, DEDUCED). -/
def FloatFmt.fused (f : FloatFmt) (mode : Mode) (ftz : Bool) (ps : List (FVal × FVal)) (as : List FVal) : Nat × Word :=
  let ts := ps.map (fun p => mulVal p.1 p.2) ++ as
  if (ps.any fun p => p.1.isNan || p.2.isNan) || as.any (·.isNan) then (f.nan, 0)
  else if ts.any (·.isNan) then (f.nan, fINV)
  else if ts.any (fun t => t.isInf && t.neg) && ts.any (fun t => t.isInf && !t.neg) then (f.nan, fINV)
  else if ts.any (·.isInf) then (f.infinity (ts.any fun t => t.isInf && t.neg), 0)
  else
    let r := sumTerms mode ts
    f.round mode ftz r.1 r.2

/-! ## Division and roots (R77, R78) -/

/-- A quotient of natural numbers as a magnitude. -/
def quotient (a b : Nat) (e : Int) : Mag :=
  { n := a * 2 ^ 128 / b, e := e - 128, sticky := a * 2 ^ 128 % b != 0 }

/-- The largest r below 2^k whose square, added to a root found so far, does not exceed `n`. -/
def rootFrom (n : Nat) : Nat → Nat → Nat
  | 0, r => r
  | k + 1, r => rootFrom n k (if (r + 2 ^ k) * (r + 2 ^ k) ≤ n then r + 2 ^ k else r)

/-- The integer square root. -/
def natRoot (n : Nat) : Nat := rootFrom n (Nat.log2 n / 2 + 1) 0

/-- √(m × 2^e). -/
def rootMag (m : Nat) (e : Int) : Mag :=
  let odd := e % 2 == 1
  let m := if odd then 2 * m else m
  let e := if odd then e - 1 else e
  let r := natRoot (m * 2 ^ 128)
  { n := r, e := e / 2 - 64, sticky := r * r != m * 2 ^ 128 }

/-- 1 / √(m × 2^e). -/
def invRootMag (m : Nat) (e : Int) : Mag :=
  let odd := e % 2 == 1
  let m := if odd then 2 * m else m
  let e := if odd then e - 1 else e
  let r := natRoot (2 ^ 320 / m)
  { n := r, e := -(e / 2) - 160, sticky := r * r * m != 2 ^ 320 }

/-- x / y (R77, R78). -/
def FloatFmt.div (f : FloatFmt) (mode : Mode) (ftz : Bool) (a b : FVal) : Nat × Word :=
  match a, b with
  | .nan, _ => (f.nan, 0)
  | _, .nan => (f.nan, 0)
  | .inf _, .inf _ => (f.nan, fINV)
  | .inf s, .fin s' _ _ => (f.infinity (s != s'), 0)
  | .fin s _ _, .inf s' => (f.signed (s != s') 0, 0)
  | .fin s m e, .fin s' m' e' =>
    if m' = 0 then (if m = 0 then (f.nan, fINV) else (f.infinity (s != s'), fDZ))
    else f.round mode ftz (s != s') (quotient m m' (e - e'))

/-- 1 / x (R78). -/
def FloatFmt.rcp (f : FloatFmt) (mode : Mode) (ftz : Bool) (a : FVal) : Nat × Word :=
  f.div mode ftz (.fin false 1 0) a

/-- √x (R77, R78). -/
def FloatFmt.sqrt (f : FloatFmt) (mode : Mode) (ftz : Bool) : FVal → Nat × Word
  | .nan => (f.nan, 0)
  | .inf true => (f.nan, fINV)
  | .inf false => (f.infinity false, 0)
  | .fin s m e => if m = 0 then (f.signed s 0, 0) else if s then (f.nan, fINV) else f.round mode ftz false (rootMag m e)

/-- 1 / √x (R77, R78). -/
def FloatFmt.rsq (f : FloatFmt) (mode : Mode) (ftz : Bool) : FVal → Nat × Word
  | .nan => (f.nan, 0)
  | .inf true => (f.nan, fINV)
  | .inf false => (f.signed false 0, 0)
  | .fin s m e =>
    if m = 0 then (f.infinity s, fDZ) else if s then (f.nan, fINV) else f.round mode ftz false (invRootMag m e)

/-! ## Comparison -/

/-- Compares finite or infinite values: negative when the first is less; −0 equals +0. -/
def cmpVal : FVal → FVal → Int
  | .inf true, .inf true => 0
  | .inf true, _ => -1
  | _, .inf true => 1
  | .inf false, .inf false => 0
  | .inf false, _ => 1
  | _, .inf false => -1
  | a, b => sumAt (leastExp [a, b] 0) [a, b.negate]

/-- A comparison condition (R155, R179). -/
def condVal (c : Cond) (a b : FVal) : Bool :=
  if a.isNan || b.isNan then (c == .ne || c == .un)
  else
    let d := cmpVal a b
    match c with
    | .eq => d == 0
    | .ne => d != 0
    | .lt => decide (d < 0)
    | .le => decide (d ≤ 0)
    | .gt => decide (0 < d)
    | .ge => decide (0 ≤ d)
    | .un => false
    | .ord => true

/-- Less, with −0 below +0 (R178). -/
def lessVal (a b : FVal) : Bool := decide (cmpVal a b < 0) || (cmpVal a b == 0 && a.neg && !b.neg)

/-- The minimum or maximum of two codes (R178); `a` and `b` are their decodings. -/
def FloatFmt.minMax (f : FloatFmt) (mx : Bool) (x y : Nat) (a b : FVal) : Nat :=
  match a.isNan, b.isNan with
  | true, true => f.nan
  | true, false => y
  | false, true => x
  | false, false => if lessVal b a = mx then x else y

/-! ## Conversion to integers (R83) -/

/-- The limits of an integer format (R65). -/
def intLow (w : Nat) (signed : Bool) : Int := if signed then -(2 ^ (w - 1)) else 0
def intHigh (w : Nat) (signed : Bool) : Int := if signed then 2 ^ (w - 1) - 1 else 2 ^ w - 1

/-- Saturate(x) to an integer format, and whether it clamps (R65). -/
def saturate (w : Nat) (signed : Bool) (x : Int) : Int × Bool :=
  if x < intLow w signed then (intLow w signed, true)
  else if intHigh w signed < x then (intHigh w signed, true)
  else (x, false)

/-- An integer's bit pattern of w bits (R65). -/
def wrap (w : Nat) (x : Int) : Nat := (x % (2 ^ w : Int)).toNat

/-- Rounds a finite value to an integer (R69). -/
def roundInt (mode : Mode) (neg : Bool) (x : Mag) : Int × Bool :=
  if x.n = 0 && !x.sticky then (0, false)
  else
    let r := x.roundAt mode neg 0
    (if neg then -(r.1 : Int) else (r.1 : Int), r.2)

/-- Float to integer (R83). -/
def toInt (w : Nat) (signed : Bool) (mode : Mode) : FVal → Int × Word
  | .nan => (0, fINV)
  | .inf s => (if s then intLow w signed else intHigh w signed, fINV)
  | .fin s m e =>
    let r := roundInt mode s { n := m, e := e, sticky := false }
    let c := saturate w signed r.1
    if c.2 then (c.1, fINV) else (c.1, if r.2 then fINX else 0)

/-- Rounds an exact value of another format into a format (R67, R83). -/
def FloatFmt.convert (f : FloatFmt) (mode : Mode) : FVal → Nat × Word
  | .nan => (f.nan, 0)
  | .inf s =>
    (match f.inf with
     | none => (f.nan, fINV)
     | some _ => (f.infinity s, 0))
  | .fin s m e => f.round mode false s { n := m, e := e, sticky := false }

/-- Integer to float (R83). -/
def FloatFmt.ofInt (f : FloatFmt) (mode : Mode) (x : Int) : Nat × Word :=
  f.round mode false (decide (x < 0)) { n := x.natAbs, e := 0, sticky := false }

/-- The float format of a conversion format, if it is one (R64). -/
def Fmt.float : Fmt → Option FloatFmt
  | .bf16 => some Machine.bf16
  | .f16 => some Machine.f16
  | .e4m3 => some Machine.e4m3
  | .e5m2 => some Machine.e5m2
  | .f32 => some Machine.f32
  | .f64 => some Machine.f64
  | _ => none

/-- The width and signedness of an integer format (R64, R65). -/
def Fmt.int : Fmt → Nat × Bool
  | .i8 => (8, true)
  | .n8 => (8, false)
  | .i16 => (16, true)
  | .n16 => (16, false)
  | .i32 => (32, true)
  | .n32 => (32, false)
  | .i64 => (64, true)
  | .n64 => (64, false)
  | _ => (32, false)

/-- How a register holds an integer of a format (R65): extended to 32 bits when narrower. -/
def holdInt (w : Nat) (x : Int) : Nat := wrap (if w = 64 then 64 else 32) x

/-- The integer that a register holds in a format (R65). -/
def readInt (src : Fmt) (x : Nat) : Int :=
  if (Fmt.int src).2 then signedOf (Fmt.int src).1 x else ((x % 2 ^ (Fmt.int src).1 : Nat) : Int)

/-- An integer in a format, as a register holds it: wrapped, then extended (R65, R184). -/
def wrapInt (dst : Fmt) (v : Int) : Nat :=
  let n := wrap (Fmt.int dst).1 v
  holdInt (Fmt.int dst).1 (if (Fmt.int dst).2 then signedOf (Fmt.int dst).1 n else (n : Int))

/-- One conversion (R83, R184), from the bits that a register holds to those that a register holds. -/
def convertCode (dst src : Fmt) (mode : Mode) (x : Nat) : Nat × Word :=
  match Fmt.float src, Fmt.float dst with
  | some f, some g => g.convert mode (f.decode (x % 2 ^ f.width))
  | some f, none =>
    let r := toInt (Fmt.int dst).1 (Fmt.int dst).2 mode (f.decode (x % 2 ^ f.width))
    (holdInt (Fmt.int dst).1 r.1, r.2)
  | none, some g => g.ofInt mode (readInt src x)
  | none, none => (wrapInt dst (readInt src x), 0)

end Sys2Proof.Machine
end

