-- ==== Sys2Proof/Machine/State.lean ====
section
/-! DEFINITION. Every piece of state the spec gives the machine (INVENTORY.md, "State"), as plain data, the stops of
a step, and the state after reset. A `List (Nat × α)` is a sparse map: keys strictly rising, no entry at the default
(Machine/Sparse.lean). Times are counts of core cycles (`cycle`). -/

namespace Sys2Proof.Machine

/-- One bit for each lane of a wave, lane n at bit n. -/
abbrev Mask := BitVec 64

/-- One 32-bit word for each lane of a wave. -/
abbrev LaneVec := List Word

/-- The 64-bit values of a latch, one for each lane. -/
abbrev LatchVec := List DWord

/-- The clause a panel is in: the header's address and word, and how many instructions of it have issued (R140,
R146). `fresh`: WAIT and DRN are still to be waited for (R142, R146). -/
structure Clause where
  addr : Nat
  word : Word
  pos : Nat
  fresh : Bool
  deriving DecidableEq, Repr

/-- A stack entry (R21, R22): `waiting` is its kind, else pending. A waiting entry keeps the clause that its seam ends
(R145), where its lanes go on (R23). -/
structure StackEntry where
  mask : Mask
  pc : Nat
  waiting : Bool
  clause : Option Clause
  deriving DecidableEq, Repr

/-- A stream shape register (R53). Extents and strides by dimension. -/
structure Stream where
  defined : Bool
  exh : Bool
  rank : Nat
  fmt : Nat
  cursor : Nat
  ext : List Word
  strd : List DWord
  base : Nat
  deriving DecidableEq, Repr

def Stream.zero : Stream :=
  { defined := false, exh := false, rank := 0, fmt := 0, cursor := 0, ext := [0, 0, 0, 0, 0],
    strd := [0, 0, 0, 0, 0], base := 0 }

/-- How the bytes of an access become a lane's words: a memory size (R209), or an element's format (R217). -/
inductive Conv where
  | mem (sz : Size)
  | elem (fmt : Nat)
  deriving DecidableEq, Repr

/-- Where a lane's result of some words goes: the destination operand with the latch `lm`, and for a stream the element's address and
bytes. -/
structure HeldDst where
  dst : Dst
  words : Nat
  elem : Option (Nat × Nat)
  deriving DecidableEq, Repr

/-- The read-modify-write of one lane, with its operands as captured (R213, R215). -/
inductive Rmw where
  | atom (op : AtomOp) (ty : IntTy) (b : Nat)
  | cas (ty : IntTy) (new old : Nat)
  deriving DecidableEq, Repr

/-- What an access does once it is performed. -/
inductive HeldAct where
  /-- bytes for the instruction that waits at its place, or a write that it may then make -/
  | pass
  /-- a line of code -/
  | code
  /-- a fill of the record cache of the cluster -/
  | record
  | load (conv : Conv) (dst : HeldDst)
  | store (bs : List Byte)
  | rmw (op : Rmw) (ord : Order) (scope : Scope) (dst : HeldDst)
  deriving DecidableEq, Repr

/-- An access of a lane, with what it does once performed, its override of the eviction priority (R113), and, where the home L2
rejected it, the fault ID of its record (R208, R349). -/
structure HeldAccess where
  lane : Nat
  va : Nat
  n : Nat
  write : Bool
  fid : Nat
  act : HeldAct
  evp : Option Nat
  deriving DecidableEq, Repr

/-- An instruction that has issued and waits for something before it completes (R227, R234, R286, R287, R357,
R358, R356 `ctx.fwd`), with its length in words. -/
structure Waiting where
  instr : Instr
  len : Nat
  since : Nat
  /-- what the wait is for: the phase of a barrier, the fault ID of `ctx.fwd` -/
  aux : Nat
  /-- accesses of its lanes that the home L2 rejected, and that wait for replies (R208, R349) -/
  held : List HeldAccess := []
  deriving DecidableEq, Repr

/-- The trap frame (R353): the resume PC and clause, whether the trap was raised on an instruction, how many words
that instruction has, and the generation that its accesses carried (R350). -/
structure Frame where
  pc : Nat
  clause : Option Clause
  onInstr : Bool
  len : Nat
  gen : Nat
  deriving DecidableEq, Repr

/-- What a panel's STATE field reports besides TRAP (R18, R19). -/
inductive Status where
  | run
  | seamw
  | ffw
  | barw
  | stop
  deriving DecidableEq, Repr

/-- A result of an issued instruction that has not been delivered (R20, R143): its slot, the quads it is outstanding
for, the interlock keys of the registers it writes, when it issued, the instruction with its address, the loads that the home L2
served, those that it rejected and that wait for a reply, and the bytes of those that have been retried. A store some of whose lanes
are held is one too, in no slot (R208). -/
structure Outstanding where
  slot : Option Nat
  quads : BitVec 16
  keys : List Nat
  issued : Nat
  instr : Instr
  pc : Nat
  gen : Nat
  active : Mask
  asked : List HeldAccess
  held : List HeldAccess
  got : List (Nat × List Byte)
  deriving DecidableEq, Repr

/-- A panel and its panel-table entry (R18-R20, R26, R44-R61). -/
structure Panel where
  valid : Bool
  pc : Nat
  qmask : BitVec 16
  status : Status
  /-- the status to return to after a stop (R310) -/
  under : Status
  frame : Option Frame
  seamk : BitVec 3
  seamid : BitVec 12
  /-- the cycle at which the wait in SEAMW or FFW began, less the part counted before a save or a stop -/
  since : Nat
  /-- WAITCT where it is frozen -/
  waitct : Nat
  origin : BitVec 2
  stall : BitVec 4
  iss : Bool
  mask : Mask
  discarded : Mask
  stack : List StackEntry
  clause : Option Clause
  g : List (Nat × DWord)
  gp : BitVec 4
  s : List (Nat × Stream)
  fb : List (Nat × BitVec 128)
  fpc : Word
  mcr : Word
  px : Word
  /-- the progress of an instruction of the handler, while %px is that of the interrupted one (R61, R353) -/
  hpx : Word
  /-- the number of the `mmq` that it is in, among the matrix operations (R236, R254) -/
  mmq : Option Nat
  xcause : Word
  xpc : DWord
  xaddr : DWord
  outst : List Outstanding
  /-- stores accepted by no L1 or bank yet (R142) -/
  undrained : Nat
  wait : Option Waiting
  /-- issues nothing before this cycle (R144, R145, R205) -/
  hold : Nat
  /-- ready since this cycle without issuing (R342) -/
  ready : Nat
  /-- the wait until `hold` is that of a `yield` (R205) -/
  yielded : Bool
  /-- issues nothing before a cycle, for a reason: bank conflicts and misses of the L1 TLB (R45, R313) -/
  pause : List (Nat × Nat)
  /-- since when the panel is in its clause; and the clause just left had a stall hint and began then (R144) -/
  entered : Nat
  hinted : Option Nat
  /-- a stop has been asked for or, in STOP, made: by a captured breakpoint with its code, or by a command (R309) -/
  stopAsked : Option (Option Byte)
  /-- stop again after one instruction (R311 STEP) -/
  stepping : Bool
  /-- the cycle in which its last instruction was complete -/
  doneAt : Nat
  /-- what the instruction that it is in has read: addresses with their bytes, a layout record among them (R120, R217) -/
  got : List (Nat × List Byte)
  deriving DecidableEq, Repr

/-- An invalid entry reads as all zeros (R18). -/
def Panel.empty : Panel :=
  { valid := false, pc := 0, qmask := 0, status := .run, under := .run, frame := none, seamk := 0, seamid := 0,
    since := 0, waitct := 0, origin := 0, stall := 0, iss := false, mask := 0, discarded := 0, stack := [],
    clause := none, g := [], gp := 0, s := [], fb := [], fpc := 0, mcr := 0x4, px := 0, hpx := 0, mmq := none, xcause := 0, xpc := 0,
    xaddr := 0, outst := [], undrained := 0, wait := none, hold := 0, ready := 0, yielded := false, pause := [],
    entered := 0, hinted := none, stopAsked := none, stepping := false, doneAt := 0, got := [] }

/-- The ticket of a quad (R272): the record it took from a pixel quad spool; `four` once an emit of four registers carries it
(R268). -/
structure Ticket where
  tile : Nat × Nat
  x : Nat
  y : Nat
  pseq : Nat
  z : List Word
  coverage : BitVec 4
  four : Bool := false
  deriving DecidableEq, Repr

/-- Flags of a completed engine operation that its issuing panel has not yet observed (R73, R195): the panel's quads, the
record that counted the operation, by its workgroup's place in the gang and its offset in that one's A window, the flags,
and NEGVAR. -/
structure Owed where
  quads : BitVec 16
  gwg : Nat
  ofs : Nat
  flags : Word
  negvar : Bool
  deriving DecidableEq, Repr

/-- A wave (R16, R17, R44) in its slot. -/
structure Wave where
  alive : Bool
  wg : Nat
  idx : Nat
  width : Nat
  base : Nat
  regs : Nat
  v : List (Nat × LaneVec)
  o : List (Nat × LaneVec)
  latch : List (Nat × LatchVec)
  p : List (Nat × Mask)
  exited : Mask
  panels : List (Nat × Panel)
  tickets : List (Nat × Ticket)
  /-- the sixteen stall counters (R314) -/
  stalls : List (Nat × Word)
  /-- the matrix operation in flight (R236) -/
  matrix : Option Nat
  owed : List Owed
  /-- lanes whose next write is a release at `.clus` or wider, by a `fence` (R126) -/
  releasing : Mask
  /-- the cycle of its last split (R26) -/
  splitAt : Option Nat
  deriving DecidableEq, Repr

def Wave.empty : Wave :=
  { alive := false, wg := 0, idx := 0, width := 0, base := 0, regs := 0, v := [], o := [], latch := [], p := [],
    exited := 0, panels := [], tickets := [], stalls := [], matrix := none, owed := [],
    releasing := 0, splitAt := none }

/-- The values a wave left for a successor on its slot (R41): the launch, the base, the chain registers. -/
structure Chain where
  lid : Nat
  base : Nat
  v : List (Nat × LaneVec)
  g : List (Nat × DWord)
  deriving DecidableEq, Repr

/-- A workgroup (R38, R55, R57, R104, R259). `index` is its linear index in the launch (R51), `gwg` its place in the
gang. -/
structure Workgroup where
  gid : Nat
  lid : Nat
  index : Nat
  gwg : Nat
  core : Nat
  wbase : Nat
  wsize : Nat
  abase : Nat
  asize : Nat
  cbase : Nat
  csize : Nat
  handles : List Word
  pw : List (Nat × Nat)
  tba : Nat
  /-- the slots of its waves, by wave index -/
  slots : List Nat
  inPorts : List (Option Nat)
  outPorts : List (Option Nat)
  closed : List Nat
  node : Nat
  retired : Bool
  deriving DecidableEq, Repr

/-- The pre-emption states of a gang (R359). -/
inductive PreState where
  | run
  | stopping
  | saving
  | saved
  | restoring
  | lost
  deriving DecidableEq, Repr

/-- What a save keeps of one workgroup (R63, R361): its waves, their times counted from the save, and its windows'
bytes, by offset. -/
structure SavedWg where
  wg : Nat
  /-- the wave identifiers that its waves had -/
  wids : List Nat
  waves : List Wave
  w : List Host.Cell
  a : List Host.Cell
  c : List Host.Cell
  deriving DecidableEq, Repr

/-- The saved context of a gang: its area, in the reserve area when `reserve`. -/
structure SavedGang where
  area : Nat
  units : Nat
  reserve : Bool
  wgs : List SavedWg
  /-- replies to its lanes' held faults that came while it was saved: fault ID and FAIL -/
  replies : List (Nat × Bool)
  deriving DecidableEq, Repr

/-- A gang placed on the cores (R39, R359, R365). -/
structure Gang where
  lid : Nat
  index : Nat
  wgs : List Nat
  pre : PreState
  /-- uncorrectable errors that have affected it -/
  errors : Nat
  /-- the error it ended with -/
  ended : Option Nat
  done : Bool
  saved : Option SavedGang
  /-- its save was abandoned: it is passed over as a victim (R363) -/
  passed : Bool
  /-- the chain values its first run inherited, by workgroup and wave (R42) -/
  inherited : List (Nat × Chain)
  cluster : Nat
  base : Nat
  deriving DecidableEq, Repr

/-- The fields of a grid packet or a node entry (R329). -/
structure GridSpec where
  flags : Nat
  mthr : Nat
  width : Nat
  nwav : Nat
  gang : Nat
  regs : Nat
  prod : Nat
  ex : Nat
  ey : Nat
  ez : Nat
  wsz : Nat
  asz : Nat
  csz : Nat
  cvlo : Nat
  cvn : Nat
  cglo : Nat
  cgn : Nat
  nbar : Nat
  entry : Nat
  tba : Nat
  btab : List Nat
  pw : List (Nat × Nat)
  depbm : Nat
  dshp : Nat
  pex : Nat
  pey : Nat
  pez : Nat
  cbm : Nat
  signal : Nat
  sigval : Nat
  deriving DecidableEq, Repr

/-- What a launch is: a grid, a node of a pattern (the pattern's launch and the node's place), or a band (R329,
R332, R377). -/
inductive LaunchKind where
  | grid
  | node (pattern : Nat) (k : Nat)
  | pattern
  | band (h b frame : Nat)
  deriving DecidableEq, Repr

/-- A write of the scheduler that is still to be made (R331, R335): the status word of its launch as it then is, bytes, one bit, an
error word if still 0, or 0x11 in an error word whose own write has failed. -/
inductive SchedWrite where
  | status (addr : Nat)
  | word (addr : Nat) (bs : List Byte)
  | setBit (addr k : Nat)
  | error (addr code : Nat)
  | errorAgain (addr : Nat)
  deriving DecidableEq, Repr

/-- The raster state a pattern read at launch (R269, R410). -/
structure RasterState where
  sx : DWord
  sy : DWord
  ox : DWord
  oy : DWord
  cull : Nat
  fcw : Bool
  /-- the colour and depth layout records, as read (R118) -/
  colour : List Byte
  depth : Option (List Byte)
  deriving DecidableEq, Repr

/-- The kinds of fixed node (R257). -/
inductive NodeKind where
  | raster
  | blend
  | trav
  deriving DecidableEq, Repr

/-- A node of a pattern as its table declares it (R332): a fixed node's kind; a program node's launch; the spools of its
in-ports and out-ports; the raster state. -/
structure NodeSpec where
  kind : Option NodeKind
  lid : Nat
  ins : List (Option Nat)
  outs : List (Option Nat)
  raster : Option RasterState
  deriving DecidableEq, Repr

/-- A declared spool (R258, R332): slots, bytes of a slot, BCST. -/
structure SpoolDecl where
  slots : Nat
  bytes : Nat
  bcst : Bool
  deriving DecidableEq, Repr

/-- A pattern as its packet and table declare it (R332). -/
structure PatternSpec where
  nrec : Nat
  nodes : List NodeSpec
  spools : List SpoolDecl
  deriving DecidableEq, Repr

/-- A launch in progress (R328-R338). -/
structure Launch where
  kind : LaunchKind
  queue : Nat
  asn : Nat
  part : Nat
  cls : Nat
  packet : Nat
  spec : GridSpec
  /-- for each die: chunk number, and the unstarted gangs of the current chunk (R337) -/
  chunks : List (Nat × List Nat)
  /-- gangs not yet completed -/
  live : Nat
  error : Nat
  replays : Nat
  /-- the last report each die sent of its ready gangs (R338), by sender -/
  reports : List Nat
  /-- for a pattern: what it declares, and whether its instances and spools are placed -/
  pattern : Option PatternSpec
  placed : Bool
  /-- the scheduler's writes still to be made, and the fault ID that holds the first of them -/
  writes : List SchedWrite
  held : Option Nat
  /-- the completion signal is among the writes -/
  signalled : Bool
  /-- taken in this order among all launches (R340) -/
  order : Nat
  done : Bool
  deriving DecidableEq, Repr

/-- A record in a spool: its tag's KIND, LMASK, FAULT and EOS bits, placement index and payload words (R262). -/
structure Record where
  seq : Nat
  kind : Nat
  lmask : BitVec 4
  fault : Bool
  eos : Bool
  words : List Word
  /-- the ticket that an emit to a blender port carries (R272) -/
  ticket : Option Ticket
  deriving DecidableEq, Repr

/-- What the controller of a spool keeps of its own (R259, R260, R286): the ends that the launch bound, where the storage lies, a
core and offset on the chip or the address `hdr` in memory, and what waits until the storage can be reached. The header, the
slots and the tags lie in the storage alone (Machine/SpoolStore.lean). -/
structure SpoolUnit where
  lid : Nat
  nslot : Nat
  ssz : Nat
  mem : Bool
  quad : Bool
  bcst : Bool
  hdr : Nat
  /-- for a broadcast spool, each consumer instance and the index of the record that it takes next, mod 2^32 (R263) -/
  readers : List (Nat × Nat)
  /-- the tickets that its records carry, by placement index (R272) -/
  tickets : List (Nat × Ticket)
  store : Option (Nat × Nat)
  /-- the die of a replica of a primitive spool (R266), or the core of a share of a quad spool (R270, R272) -/
  die : Option Nat
  /-- the declared spool (for a share, with its core), and whether raster produces it or blend consumes it -/
  decl : Nat
  fromRaster : Bool
  toBlend : Bool
  /-- closes, and dropped records of a fixed node, that are not yet in the header: whether each closes, and with fault (R264) -/
  pending : List (Bool × Bool)
  /-- the fault ID that holds its controller (R349) -/
  held : Option Nat
  deriving DecidableEq, Repr

/-- A spool as its storage shows it (R260-R262): the header's fields, and its records from TAIL on; the end-of-stream record is
among them once appended. -/
structure Spool extends SpoolUnit where
  flt : Bool
  cls : Bool
  opened : Nat
  head : Nat
  tail : Nat
  records : List Record
  deriving DecidableEq, Repr

/-- An instance of a fixed node (R257, R272, R333): the core or cluster it runs on; a `raster` instance's out-ports are the
shares of its quad spool. -/
structure Node where
  lid : Nat
  kind : NodeKind
  place : Nat
  ins : List (Option Nat)
  outs : List (Option Nat)
  state : Option RasterState
  /-- `blend`: records that wait for tickets of lower PSEQ (R272); `raster`: quads that wait for slots; `trav`: a hit of a fetch
  that could not be serviced (R284) -/
  heldRecords : List Record
  /-- tiles touched, in order of first touch (R273) -/
  touched : List (Nat × Nat)
  closed : Bool
  /-- the fault ID that holds it, and the address of its access -/
  held : Option Nat
  heldAddr : Nat
  deriving DecidableEq, Repr

/-- One lane's ray in flight (R282, R283): the saved traversal state's words. -/
structure RayState where
  lane : Nat
  words : List Word
  /-- from `trace.resume`: the t to record (R292) -/
  resume : Option Word
  done : Bool
  deriving DecidableEq, Repr

/-- A copy (R228-R233): its record as read, the local address, the box offsets, the auxiliary offset, a gather's rows,
how many units have been issued and how many have landed, the non-resident tiles touched, whether any such tile or page was, and
its flags. -/
structure CopyOp where
  kind : CopyKind
  out : Bool
  loc : Nat
  handle : Nat
  record : List Byte
  ofs : List Int
  auxo : Nat
  rows : List Nat
  issued : Nat
  landed : Nat
  absent : List Nat
  touched : Bool
  flags : Word
  negvar : Bool
  /-- the override of the eviction priority on the global side (R113, R228) -/
  evp : Option Nat
  deriving DecidableEq, Repr

/-- A matrix loop (R237-R246): its operand registers, format block and fields, the bytes of a register tile's rows with their
lanes, the written rows, the K-steps completed (KDONE), and its flags so far. -/
structure MatOp where
  g : List DWord
  fb : BitVec 128
  ksteps : Nat
  sat : Bool
  init : Bool
  tri : Bool
  tfill : TFill
  areg : Option (List (List Byte))
  lanes : List Nat
  written : List Bool
  kdone : Nat
  flags : Word
  negvar : Bool
  deriving DecidableEq, Repr

/-- An online softmax step (R248-R250): its operand registers, the address of P, the rows completed (ROWS), and its flags so far. -/
structure SoftOp where
  g : List DWord
  pout : Nat
  e4m3 : Bool
  tri : Bool
  first : Bool
  rows : Nat
  flags : Word
  deriving DecidableEq, Repr

/-- A motion estimate (R382-R384): its operand registers and fields, the blocks completed, and its flags so far. -/
structure MestOp where
  g : List DWord
  nbx : Nat
  cand : Bool
  range : Nat
  blocks : Nat
  flags : Word
  deriving DecidableEq, Repr

/-- What an engine thread does, with the values captured at its fork (R130, R236). The last is the rays of one `trace`
or `trace.resume` (R283, R292), with the port and the first result register. -/
inductive Engine where
  | copy (x : CopyOp)
  | mloop (x : MatOp)
  | msoft (x : SoftOp)
  | mest (x : MestOp)
  | trace (port : Option Nat) (dst : Nat) (rays : List RayState)
  deriving DecidableEq, Repr

/-- An engine thread (R130): its issuing wave and panel, what it captured at its fork, the barrier record that counts
it as a local address, and what holds it (the fault ID, or none while the record waits for room). -/
structure Thread where
  wid : Nat
  entry : Nat
  /-- the quads of the issuing panel, by which it is found later (R73) -/
  quads : BitVec 16
  gid : Nat
  core : Nat
  part : Nat
  asn : Nat
  gen : Nat
  pc : Nat
  bar : Option Nat
  engine : Engine
  held : Option Nat
  /-- the lane of the ray that is held, and the address of its fetch -/
  ray : Option (Nat × Nat)
  deriving DecidableEq, Repr

/-- A cached leaf translation (R348): the TLB that holds it (a core's, a cluster's, or that of the module's units), the
entry's bits and the level it was read at. -/
structure TlbEntry where
  unit : Nat
  part : Nat
  asn : Nat
  page : Nat
  level : Nat
  bits : DWord
  deriving DecidableEq, Repr

/-- A line of a core's L1 (R111, R113, R138): the generation of its address space at its fill, its eviction priority, the cycle
it was filled or allocated in, one validity bit a word, one written bit a byte, its 128 data bytes. -/
structure L1Line where
  gen : Nat
  evp : Nat
  since : Nat
  valid : BitVec 32
  written : BitVec 128
  data : List Byte
  deriving DecidableEq, Repr

def L1Line.empty : L1Line := { gen := 0, evp := 0, since := 0, valid := 0, written := 0, data := [] }

/-- A line of a core's instruction cache (R10, R358): 128 bytes of code, and the cycle it was filled in. -/
structure ILine where
  since : Nat
  data : List Byte
  deriving DecidableEq, Repr

/-- A queue descriptor (R325), and packets taken and not completed, oldest first: ring slot index, packet bytes. -/
structure Queue where
  qbase : DWord
  qcfg : DWord
  qrd : Word
  qput : Word
  qann : Word
  qstat : DWord
  /-- the packet taken and not yet started: its bytes (R326, R328) -/
  taken : Option (List Byte)
  /-- the address that `taken` was read from -/
  packet : Nat
  /-- packets started and not completed -/
  inFlight : Nat
  /-- a wait packet's address and value (R328) -/
  waitFor : Option (Nat × Nat)
  held : Option Nat
  deriving DecidableEq, Repr

def Queue.reset : Queue :=
  { qbase := 0, qcfg := 0x20, qrd := 0, qput := 0, qann := 0, qstat := 0, taken := none, packet := 0,
    inFlight := 0, waitFor := none, held := none }

/-- A fault record written or to be written (R350). -/
structure FaultRec where
  addr : Nat
  asn : Nat
  gtag : Nat
  cause : Nat
  sub : Nat
  flags : Nat
  agent : Nat
  wid : Nat
  entry : Nat
  fid : Nat
  pc : Nat
  gang : Nat
  queue : Nat
  deriving DecidableEq, Repr

/-- A mailbox (R387). `pending` is the command in progress, while BUSY = 1. -/
structure Mailbox where
  stat : DWord
  args : List DWord
  pending : Option Instr
  deriving DecidableEq, Repr

/-- The registers of a partition: translation (R343), configuration (R388), debug port (R308), mailbox (R387), image
log (R395). -/
structure Partition where
  astbase : DWord
  astcnt : DWord
  fqbase : DWord
  fqsize : DWord
  fqhead : Word
  fqtail : Word
  fqpend : DWord
  savebase : DWord
  savesize : DWord
  savectl : DWord
  rsvstat : DWord
  en : Bool
  clus : BitVec 8
  kfirst : Nat
  kcnt : Nat
  gbase : Nat
  gsize : Nat
  dbgctl : DWord
  dbgdata : DWord
  dbgstat : DWord
  trbase : DWord
  trsize : DWord
  trhead : DWord
  trtail : DWord
  trlost : DWord
  logbase : DWord
  logsize : DWord
  loghead : DWord
  logtail : DWord
  mirctl : DWord
  mbox : Mailbox
  imageLog : List Byte
  /-- the partition's record count (R350 FID) -/
  fid : Nat
  /-- records that wait for room or for a ring slot that translates (R343, R351) -/
  waiting : List FaultRec
  /-- fault IDs written with HELD = 1 that have had no reply -/
  unreplied : List Nat
  /-- sequence numbers of trace and log records (R315, R321) -/
  trseq : Nat
  logseq : Nat
  /-- a trace record has been dropped since the last one written (R315) -/
  gap : Nat
  /-- the first log entry dropped since the last one written (R322) -/
  logGap : Option Nat
  /-- the entries of the log ring that gangs in replay mode have taken (R322) -/
  replay : List Nat
  /-- the panels that a debug command is still to stop (R309): wave and entry -/
  stops : List (Nat × Nat)
  deriving DecidableEq, Repr

def Mailbox.reset : Mailbox := { stat := 0, args := [0, 0, 0, 0, 0, 0, 0, 0], pending := none }

def Partition.reset : Partition :=
  { astbase := 0, astcnt := 0, fqbase := 0, fqsize := 0, fqhead := 0, fqtail := 0, fqpend := 0, savebase := 0,
    savesize := 0, savectl := 0, rsvstat := 0, en := false, clus := 0, kfirst := 0, kcnt := 0, gbase := 0, gsize := 0,
    dbgctl := 0, dbgdata := 0, dbgstat := 0, trbase := 0, trsize := 0, trhead := 0, trtail := 0, trlost := 0,
    logbase := 0, logsize := 0, loghead := 0, logtail := 0, mirctl := 0, mbox := Mailbox.reset, imageLog := [],
    fid := 0, waiting := [], unreplied := [], trseq := 0, logseq := 0, gap := 0, logGap := none,
    replay := [], stops := [] }

/-- A band of a frame (R374-R379): its gang's launch, whether its content in OUT is complete, whether its gang was killed,
and its code once decided. -/
structure Band where
  launch : Option Nat
  published : Bool
  killed : Bool
  code : Option Nat
  deriving DecidableEq, Repr

def Band.fresh : Band := { launch := none, published := false, killed := false, code := none }

/-- What a band was scanned from (R376, R381): the layout record's bytes and the descriptor's SEQ; none is zero pixels. -/
abbrev BandSource := Option (List Byte × Nat)

/-- A frame descriptor as taken (R372, R373): its address and bytes, its barrier table, and the layout records of OUT, SRC0,
SRC1 and MOT, empty where it names none. -/
structure FrameDesc where
  addr : Nat
  bytes : List Byte
  btab : List Nat
  out : List Byte
  src0 : List Byte
  src1 : List Byte
  mot : List Byte
  deriving DecidableEq, Repr

/-- A head (R367), with the frame in progress. `line` is the current line: those before it have passed (R374). -/
structure Head where
  hctl : DWord
  htim : DWord
  pclk : DWord
  kcfg : DWord
  fdbase : DWord
  fdcfg : DWord
  fdrd : Word
  fdann : Word
  wbrec : DWord
  wbcbm : DWord
  line : Nat
  frame : Nat
  leadIn : Bool
  running : Bool
  undr : Bool
  err : BitVec 4
  /-- EN was written 0: stops at the end of the frame (R368) -/
  stopping : Bool
  /-- the descriptor in force: that of the last frame that took one (R373, R381); and the one taken for the next frame -/
  desc : Option FrameDesc
  next : Option FrameDesc
  nextTaken : Bool
  /-- the frame, and the next, is a repeat frame; its descriptor failed R372 -/
  repeating : Bool
  descError : Bool
  nextRepeat : Bool
  nextError : Bool
  underrun : Bool
  /-- a writeback head has zeroed the frame's bitmap (R370); the frame's record is written (R381) -/
  started : Bool
  recorded : Bool
  /-- the inputs of the frame, and of the next, whose bitmap has shown an error word (R375): 0 that of CBM0, 1 SRC1, 2 MOT -/
  failed : List Nat
  nextFailed : List Nat
  bands : List (Nat × Band)
  nextBands : List (Nat × Band)
  sources : List (Nat × BandSource)
  /-- what the link was sent for the last line: red, green and blue of each pixel (R369) -/
  sent : List (List Nat)
  deriving DecidableEq, Repr

def Head.reset : Head :=
  { hctl := 0, htim := 0, pclk := 0, kcfg := 0, fdbase := 0, fdcfg := 0, fdrd := 0, fdann := 0, wbrec := 0, wbcbm := 0,
    line := 0, frame := 0, leadIn := false, running := false, undr := false, err := 0, stopping := false, desc := none,
    next := none, nextTaken := false, repeating := false, descError := false, nextRepeat := false, nextError := false,
    underrun := false, started := false, recorded := false, failed := [], nextFailed := [], bands := [], nextBands := [],
    sources := [], sent := [] }

/-- The links' states (R369, R399-R401). -/
inductive LinkState where
  | down
  | up
  | failed
  deriving DecidableEq, Repr

/-- The registers of BAR0 (R324). -/
structure Regs where
  ident : DWord
  errata : DWord
  winctl : DWord
  therm : DWord
  pwrcap : DWord
  clkstat : DWord
  mbox : Mailbox
  queues : List (Nat × Queue)
  parts : List (Nat × Partition)
  heads : List (Nat × Head)
  deriving DecidableEq, Repr

def Regs.reset : Regs :=
  { ident := 0x9600020000000000, errata := 0, winctl := 0, therm := 0, pwrcap := 3200, clkstat := 33,
    mbox := Mailbox.reset, queues := [], parts := [], heads := [] }

/-- The mirror (R323): copies of the registers, of every panel table and of the stall counters at the last strobe. -/
structure Mirror where
  regs : Regs
  tables : List (Nat × List (BitVec 128))
  stalls : List (Nat × List Word)
  deriving DecidableEq, Repr

/-- An entry of the translated-image cache (R395): D, A, the image's PMASK, the code. -/
structure Translated where
  digest : List Byte
  applied : DWord
  pmask : DWord
  code : List Byte
  deriving DecidableEq, Repr

/-- What a core cycle holds: one panel's next instruction, one event of the opcode table, or some events and then what every
core issues by R342 (assumption 3, DESIGN CHOICE). -/
inductive Turn where
  | issue (wid entry : Nat)
  | act (i : Instr)
  | cycle (acts : List Instr)
  deriving DecidableEq, Repr

/-- The instruction in execution: its wave, panel entry and length in words. -/
structure Cur where
  wid : Nat
  entry : Nat
  len : Nat
  deriving DecidableEq, Repr

/-- A core's sampling (R317): the fabric cycle of its last sample, the slot it picked last, and for each slot the entry it picked
last. -/
structure Sampler where
  last : Nat
  slot : Nat
  entries : List (Nat × Nat)
  deriving DecidableEq, Repr

def Sampler.reset : Sampler := { last := 0, slot := 63, entries := [] }

structure State where
  -- memories
  mem : List Host.Cell
  lineKey : List (Nat × Nat)
  poison : List (Nat × Bool)
  wStore : List Host.Cell
  aStore : List Host.Cell
  cStore : List Host.Cell
  shadow : List (Nat × Word)
  l1 : List (Nat × L1Line)
  /-- the lines of the cores' instruction caches, by core, address space and virtual line -/
  icache : List (Nat × ILine)
  recCache : List (Nat × List Byte)
  tlb : List TlbEntry
  -- waves, workgroups, gangs, launches
  waves : List (Nat × Wave)
  chains : List (Nat × Chain)
  wgs : List (Nat × Workgroup)
  gangs : List (Nat × Gang)
  launches : List (Nat × Launch)
  spools : List (Nat × SpoolUnit)
  nodes : List (Nat × Node)
  threads : List (Nat × Thread)
  /-- the next number for a workgroup, gang, launch, spool, node or thread -/
  serial : Nat
  -- registers
  regs : Regs
  mirror : Mirror
  /-- for each key slot that has been loaded, its key block plus 1 -/
  keys : List (Nat × Nat)
  links : List (Nat × LinkState)
  stage : Nat
  /-- no step of the current stage has failed -/
  good : Bool
  /-- idle, or waking from it (R404) -/
  idle : Bool
  powered : Bool
  tripped : Bool
  /-- a limit is exceeded at the lowest clock (R403) -/
  hot : Bool
  retired : List Nat
  coreErrors : List (Nat × Nat)
  /-- the partition of a core's last owner, for R391 -/
  owners : List (Nat × Nat)
  rollback : Nat
  images : List Translated
  /-- the firmware installed since the module was shipped (R392) -/
  firmware : Option (List Byte)
  cycle : Nat
  /-- fabric cycles since power-on, the part of one that has passed (in units of 1/CCLK), and when the compute dies last powered
  up (R11, R318) -/
  fab : Nat
  fabPart : Nat
  fabUp : Nat
  /-- the part of a cycle, in units of 1/CCLK, that the display cores' clock has gained on the compute cores' (R11) -/
  dispPart : Nat
  -- the model's own
  turns : List Turn
  cur : Option Cur
  /-- the queue last served of each class (R340), and for each die the period of its last report (R338) -/
  served : List (Nat × Nat)
  reported : List (Nat × Nat)
  samplers : List (Nat × Sampler)
  freeCtr : Nat
  deriving DecidableEq, Repr

/-- Why a step stops with a fault. -/
inductive Fault where
  /-- an instruction executed with no live panel as its panel: raised by the meanings of code forms; safe, since the
  machine never issues one so -/
  | noPanel
  deriving DecidableEq, Repr

/-- Why a step has no meaning. -/
inductive Refusal where
  /-- an instruction with no meaning in this model yet; safe -/
  | notModelled (mnemonic : String)
  deriving DecidableEq, Repr

/-- The module after reset and power-on (R62 for waves: none is placed; R325, R343, R388, R308, R367, R386, R403, R407
for the registers; the values the spec does not state are those of assumption 2, DESIGN CHOICE). -/
def State.reset : State :=
  { mem := [], lineKey := [], poison := [], wStore := [], aStore := [], cStore := [], shadow := [], l1 := [], icache := [],
    recCache := [], tlb := [], waves := [], chains := [], wgs := [], gangs := [], launches := [], spools := [],
    nodes := [], threads := [], serial := 0, regs := Regs.reset,
    mirror := { regs := Regs.reset, tables := [], stalls := [] }, keys := [], links := [], stage := 0,
    good := true, idle := false, powered := true, tripped := false, hot := false, retired := [], coreErrors := [], owners := [],
    rollback := 0, images := [], firmware := none, cycle := 0, fab := 0, fabPart := 0, fabUp := 0, dispPart := 0, turns := [], cur := none,
    served := [], reported := [], samplers := [], freeCtr := 0 }

end Sys2Proof.Machine
end

