-- ==== Sys2Proof/Config.lean ====
section
/-! DEFINITION. The free values: what the spec leaves open, as constants without a body, so that nothing can be proved
of them (assumption 10, DESIGN CHOICE). A first argument `ctr` is State.freeCtr, which every use advances. -/

namespace Sys2Proof.Config

/-- A byte read under key `read` that was written under key `written` (R110, R390: noise), for the data unit that holds
the byte. -/
opaque noise (pa written read block : Nat) : Byte

/-- Bytes that an agent outside the module supplies: a UALink peer's memory (R400). -/
opaque peerByte (ctr pa : Nat) : Byte

/-- The UALink port through which a peer module is reached (R400 names 16 ports and 64 peers, and no map). -/
opaque peerPort (peer : Nat) : Fin 28

/-- A value that the spec leaves open. -/
opaque free (ctr k : Nat) : DWord

/-- FQTAIL mod FQSIZE where FQSIZE is 0 (R356). -/
opaque fqSlot (tail : Word) : DWord

/-- Where a launch places the storage of a spool in global memory: R260 gives no address (assumption 16, DESIGN CHOICE). -/
opaque spoolBase (launch spool : Nat) : BitVec 51

/-- What lies behind the header of a save area: R361 gives it no layout. Byte i of what a save writes for the workgroups of a
gang, the state that other bytes encode, and the 128-byte line at which firmware keeps a partition's reserve area (R362;
assumption 30, DESIGN CHOICE). -/
opaque savedByte (wgs : List Machine.SavedWg) (i : Nat) : Byte
opaque savedState (body : List Byte) : List Machine.SavedWg
opaque reserveLine (part : Nat) : BitVec 32

/-- The layouts of the `trav` node's records, which the spec gives only in size (R265) and for the tag (R282): the ray,
root and flags of a ray record, as the eight words of `trace`, two of the root and one laid out as its extension word;
the state and t of a resumption record; the words of a hit record, from the eight results of R292 and the tag
(assumption 26, DESIGN CHOICE). -/
opaque rayRecord (payload : List Word) : List Word
opaque resumption (payload : List Word) : List Word × Word
opaque hitRecord (results : List Word) (tag : Word) : List Word

/-- What the spec names of the security processor and does not give (R387, R392, R393; assumption 14, DESIGN CHOICE): the private
key's signatures by their bytes, the certificate chain, of at least one byte; whether a firmware image's signature verifies. -/
opaque signature (body : List Byte) (i : Nat) : Byte
opaque certificate (i : Nat) : Byte
opaque certificateLength : BitVec 39
def certificateSize : Nat := certificateLength.toNat + 1
opaque authentic (image : List Byte) : Bool

/-- A firmware image, whose layout the spec does not give: its size, which fits in memory, its rollback number, its errata mask, and the image
that the module is shipped with. -/
opaque firmwareLength : BitVec 39
def firmwareSize : Nat := firmwareLength.toNat + 1
opaque rollbackOf (image : List Byte) : BitVec 6
opaque errataOf (image : List Byte) : DWord
opaque shipped : List Byte

/-- The code of a Cersan image with relocations, or with other than one code section, at an address: R394 gives no layout of
these. -/
opaque relocated (image : List Byte) (dest : Nat) : List Byte

/-- The head that a port of the LINK command drives, if any: R387 numbers none of the 28 ports, 8 of heads, 16 of UALink
and 4 of Ultra Ethernet. -/
opaque portHead (port : Nat) : Option (Fin 8)

/-- The four Ultra Ethernet ports among them. -/
opaque uetPort (k : Nat) : Fin 28

/-- The key slot under which a UALink peer reaches this module's memory (R400 gives none). -/
opaque peerKey (port pa : Nat) : BitVec 6

/-- The partition in which system software has registered a range for remote access, if any (R401 gives no register). -/
opaque uetRegion (ctr asn va n : Nat) : Option (BitVec 3)

end Sys2Proof.Config
end

