-- ==== Sys2Proof/Machine/Sparse.lean ====
section
/-! DEFINITION. Sparse maps: lists of key and value pairs in one canonical form, keys strictly rising and no entry at
the default `d`. -/

namespace Sys2Proof.Machine

/-- The value at a key. -/
def Sparse.get {α : Type} (d : α) (l : List (Nat × α)) (k : Nat) : α :=
  match l.find? (fun e => e.1 == k) with
  | some e => e.2
  | none => d

/-- Changes the value at a key, keeping the canonical form. -/
def Sparse.set {α : Type} [DecidableEq α] (d : α) (l : List (Nat × α)) (k : Nat) (x : α) : List (Nat × α) :=
  l.filter (fun e => decide (e.1 < k)) ++ (if x = d then [] else [(k, x)]) ++ l.filter (fun e => decide (k < e.1))

/-- Keys strictly rising, no default entry. -/
def Sparse.wf {α : Type} [DecidableEq α] (d : α) : List (Nat × α) → Bool
  | [] => true
  | e :: l => l.all (fun e' => decide (e.1 < e'.1)) && !decide (e.2 = d) && Sparse.wf d l

/-- A map in which a missing key is absent: the values in use. -/
def Sparse.find {α : Type} (l : List (Nat × α)) (k : Nat) : Option α :=
  match l.find? (fun e => e.1 == k) with
  | some e => some e.2
  | none => none

/-- Binds a key to a value. -/
def Sparse.put {α : Type} (l : List (Nat × α)) (k : Nat) (x : α) : List (Nat × α) :=
  l.filter (fun e => decide (e.1 < k)) ++ (k, x) :: l.filter (fun e => decide (k < e.1))

/-- Unbinds a key. -/
def Sparse.erase {α : Type} (l : List (Nat × α)) (k : Nat) : List (Nat × α) := l.filter (fun e => e.1 != k)

/-- Keys strictly rising. -/
def Sparse.ordered {α : Type} : List (Nat × α) → Bool
  | [] => true
  | e :: l => l.all (fun e' => decide (e.1 < e'.1)) && Sparse.ordered l

/-- Changes the bytes from address `k` on. -/
def Sparse.setBytes (l : List Host.Cell) (k : Nat) : List Byte → List Host.Cell
  | [] => l
  | b :: bs => Sparse.setBytes (Sparse.set 0 l k b) (k + 1) bs

/-- The canonical form of a memory: addresses strictly rising, and no entry equal to what an unlisted address reads as,
which is 0 (assumption 1, DESIGN CHOICE). -/
def Memory.wf (l : List Host.Cell) : Bool := Sparse.wf 0 l

/-- The `n` bytes from address `k` on. -/
def Sparse.getBytes (l : List Host.Cell) (k n : Nat) : List Byte := (List.range n).map fun i => Sparse.get 0 l (k + i)

/-- Sorts a list by a key, least first; of equal keys the first stays first. -/
def insertBy {α : Type} (key : α → Nat) (x : α) : List α → List α
  | [] => [x]
  | y :: l => if key x ≤ key y then x :: y :: l else y :: insertBy key x l

def sortBy {α : Type} (key : α → Nat) (l : List α) : List α := l.foldr (insertBy key) []

/-- A little-endian number (R4). -/
def ofBytes : List Byte → Nat
  | [] => 0
  | b :: bs => b.toNat + 256 * ofBytes bs

/-- The `n` low bytes of a number, least significant first (R4). -/
def toBytes : Nat → Nat → List Byte
  | 0, _ => []
  | n + 1, x => BitVec.ofNat 8 x :: toBytes n (x / 256)

/-- A field of a byte list: `n` bytes from byte `k`, little-endian. -/
def fieldAt (bs : List Byte) (k n : Nat) : Nat := ofBytes ((bs.drop k).take n)

end Sys2Proof.Machine
end

