-- ==== Sys2Proof/Machine/Memory.lean ====
section
/-! DEFINITION. Global memory as its agents reach it: keys and poison of physical lines (06 R109, R110, 18 R364,
20 R390), page tables and TLBs (18 R343-R348), the L1 of a core (06 R111, R112), and the local stores (06 R103). -/

namespace Sys2Proof.Machine

/-- Bytes of device memory (00 R7, R109). -/
def memorySize : Nat := 2 ^ 39

-- Accessors of the containers of State.
def State.wave (s : State) (wid : Nat) : Wave := Sparse.get Wave.empty s.waves wid
def State.setWave (s : State) (wid : Nat) (w : Wave) : State := { s with waves := Sparse.set Wave.empty s.waves wid w }
def State.part (s : State) (p : Nat) : Partition := Sparse.get Partition.reset s.regs.parts p
def State.setPart (s : State) (p : Nat) (x : Partition) : State :=
  { s with regs := { s.regs with parts := Sparse.set Partition.reset s.regs.parts p x } }
def State.queue (s : State) (q : Nat) : Queue := Sparse.get Queue.reset s.regs.queues q
def State.setQueue (s : State) (q : Nat) (x : Queue) : State :=
  { s with regs := { s.regs with queues := Sparse.set Queue.reset s.regs.queues q x } }
def State.head (s : State) (h : Nat) : Head := Sparse.get Head.reset s.regs.heads h
def State.setHead (s : State) (h : Nat) (x : Head) : State :=
  { s with regs := { s.regs with heads := Sparse.set Head.reset s.regs.heads h x } }
def State.wg? (s : State) (k : Nat) : Option Workgroup := Sparse.find s.wgs k
def State.gang? (s : State) (k : Nat) : Option Gang := Sparse.find s.gangs k
def State.launch? (s : State) (k : Nat) : Option Launch := Sparse.find s.launches k
def State.unit? (s : State) (k : Nat) : Option SpoolUnit := Sparse.find s.spools k
def State.node? (s : State) (k : Nat) : Option Node := Sparse.find s.nodes k
def State.thread? (s : State) (k : Nat) : Option Thread := Sparse.find s.threads k
def State.putWg (s : State) (k : Nat) (x : Workgroup) : State := { s with wgs := Sparse.put s.wgs k x }
def State.putGang (s : State) (k : Nat) (x : Gang) : State := { s with gangs := Sparse.put s.gangs k x }
def State.putLaunch (s : State) (k : Nat) (x : Launch) : State := { s with launches := Sparse.put s.launches k x }
def State.putUnit (s : State) (k : Nat) (x : SpoolUnit) : State := { s with spools := Sparse.put s.spools k x }
def State.putNode (s : State) (k : Nat) (x : Node) : State := { s with nodes := Sparse.put s.nodes k x }
def State.putThread (s : State) (k : Nat) (x : Thread) : State := { s with threads := Sparse.put s.threads k x }

/-! ## Physical memory -/

/-- The key in a slot: its key block plus 1 (R390); 0 for a slot never loaded. -/
def State.keyId (s : State) (slot : Nat) : Nat := Sparse.get 0 s.keys slot

/-- The mark of lines written under a slot: of its key, or of the slot itself where it was never loaded, so that no two such
slots share one (assumption 2, DESIGN CHOICE). -/
def State.keyTag (s : State) (slot : Nat) : Nat := if s.keyId slot = 0 then slot + 1 else s.keyId slot + 64

/-- The byte at a physical address read under a key slot (R110, R390): plain where the line was written under that
key or never written, else noise. -/
def State.readKeyed (s : State) (slot pa : Nat) : Byte :=
  let tag := Sparse.get 0 s.lineKey (pa / 128)
  if tag = 0 ∨ tag = s.keyTag slot then Sparse.get 0 s.mem pa
  else Config.noise pa tag (s.keyTag slot) (ofBytes (Sparse.getBytes s.mem (pa / 16 * 16) 16))

/-- Before a partial write under another key, the rest of the line becomes what that key reads (R110, R390). -/
def State.rekeyLine (s : State) (slot line : Nat) : State :=
  let tag := Sparse.get 0 s.lineKey line
  if tag = s.keyTag slot then s
  else if tag = 0 then { s with lineKey := Sparse.set 0 s.lineKey line (s.keyTag slot) }
  else
    { s with
      mem := Sparse.setBytes s.mem (128 * line) ((List.range 128).map fun i => s.readKeyed slot (128 * line + i))
      lineKey := Sparse.set 0 s.lineKey line (s.keyTag slot) }

/-- Writes one byte under a key slot. No lines of an L2 are held: what is written under one of two keys reaches memory at once
(R110; assumption 107, DESIGN CHOICE). -/
def State.writeKeyed (s : State) (slot pa : Nat) (b : Byte) : State :=
  let s := s.rekeyLine slot (pa / 128)
  { s with mem := Sparse.set 0 s.mem pa b }

/-- Consecutive bytes under a key slot. -/
def State.readKeyedBytes (s : State) (slot pa n : Nat) : List Byte := (List.range n).map fun i => s.readKeyed slot (pa + i)

def State.writeKeyedBytes (s : State) (slot pa : Nat) : List Byte → State
  | [] => s
  | b :: bs => (s.writeKeyed slot pa b).writeKeyedBytes slot (pa + 1) bs

/-- A write of a whole 128-byte line clears its poison (R364). -/
def State.clearPoison (s : State) (line : Nat) : State := { s with poison := Sparse.set false s.poison line false }

def State.poisoned (s : State) (pa : Nat) : Bool := Sparse.get false s.poison (pa / 128)

/-! ## Translation -/

/-- Who makes a global access: the core whose L1 it goes through, if any (R132), the partition, the address space, the
generation it carries (R138), its override of the eviction priority (R113), and the TLBs it translates through (R348): a core's
of the same number, else its cluster's; the module's own units share TLBs of their own (assumption 7, DESIGN CHOICE). What the
instruction has read already (R208, R217) it does not read again; the lanes of one instruction read a peer's memory at one time
(R124). -/
structure Acc where
  core : Option Nat
  part : Nat
  asn : Nat
  gen : Nat
  evp : Option Nat := none
  clus : Option Nat := none
  got : List (Nat × List Byte) := []
  ctr : Option Nat := none
  deriving DecidableEq, Repr

/-- A failed access (R347): cause, subkind and address; a poisoned line read on the way (R364), or a peer whose link is down (R400),
with the address. -/
inductive XFail where
  | fail (cause sub addr : Nat)
  | poison (addr : Nat)
  | dead (addr : Nat)
  deriving DecidableEq, Repr

/-- The cause, subkind and address that a record or a trap gives of a failure. R400 gives an access to a peer whose link is down the
error 0x11 and no record (assumption 117, DESIGN CHOICE). -/
def XFail.cause : XFail → Nat
  | .fail c _ _ => c
  | .poison _ => 0x10
  | .dead _ => 0x11
def XFail.sub : XFail → Nat
  | .fail _ k _ => k
  | .poison _ => 0
  | .dead _ => 0
def XFail.addr : XFail → Nat
  | .fail _ _ va => va
  | .poison va => va
  | .dead va => va

/-- Where a virtual address leads: a leaf with the physical address, or a sparse page whose leaf is not valid (R115). -/
inductive Place where
  | leaf (bits : DWord) (pa : Nat)
  | sparse
  deriving DecidableEq, Repr

/-- Fields of a page-table entry (R346). -/
def pteKey (e : DWord) : Nat := bits 63 58 e.toNat
def ptePeer (e : DWord) : Bool := e.getLsbD 57
def ptePin (e : DWord) : Bool := e.getLsbD 52
def pteAddr (e : DWord) : Nat := bits 51 12 e.toNat * 4096
def pteCont (e : DWord) : Bool := e.getLsbD 11
def pteSparse (e : DWord) : Bool := e.getLsbD 10
def pteEvp (e : DWord) : Nat := bits 9 8 e.toNat
def pteCmp (e : DWord) : Bool := e.getLsbD 7
def pteWt (e : DWord) : Bool := e.getLsbD 6
def pteCache (e : DWord) : Nat := bits 5 4 e.toNat
def pteEx (e : DWord) : Bool := e.getLsbD 3
def pteWr (e : DWord) : Bool := e.getLsbD 2
def pteLeaf (e : DWord) : Bool := e.getLsbD 1
def pteValid (e : DWord) : Bool := e.getLsbD 0

/-- The address-space table entry of an ASN (R344): its 16 meaningful bytes, if the ASN lies below ASTCNT. The entry
is read as it lies in memory, for R344 gives the table no key. -/
def State.astAddr (s : State) (p asn : Nat) : Nat := (s.part p).astbase.toNat + 32 * asn

def State.astRaw (s : State) (p asn : Nat) : Nat := ofBytes (Sparse.getBytes s.mem (s.astAddr p asn) 16)

def astValid (e : Nat) : Bool := e % 2 == 1
def astSysp (e : Nat) : Bool := e / 2 % 2 == 1
def astHpriv (e : Nat) : Bool := e / 4 % 2 == 1
def astRoot (e : Nat) : Nat := bits 51 12 e * 4096
def astTkey (e : Nat) : Nat := bits 57 52 e
def astGen (e : Nat) : Nat := bits 79 64 e

/-- Whether an ASN names a valid entry; none lies outside device memory (R2: the nearest illegal use is an ASN without an
entry). -/
def State.asnOk (s : State) (p asn : Nat) : Bool :=
  decide (asn < (s.part p).astcnt.toNat) && decide (s.astAddr p asn + 32 ≤ memorySize) && astValid (s.astRaw p asn)

/-- The current generation of an address space (R138). -/
def State.genOf (s : State) (p asn : Nat) : Nat := astGen (s.astRaw p asn)

/-- The lowest bit of the index that level `l` takes from the address, which is also the log of what an entry covers
(R345). -/
def levelShift (l : Nat) : Nat := 16 + 9 * (l - 1)

/-- Order 4 of R347: an entry that breaks the layout of R346 at its level. -/
def pteBad (e : DWord) (level : Nat) : Bool :=
  bits 56 53 e.toNat != 0 ||
  (if pteLeaf e then
    decide (4 ≤ level) || pteCache e == 3 || pteAddr e % 2 ^ levelShift level != 0 || (pteCont e && level != 1) ||
      (pteCmp e && ptePeer e)
  else level == 1 || bits 63 52 e.toNat != 0 || bits 11 2 e.toNat != 0)

/-- One step of a walk: an invalid sparse entry, a leaf, the next node, or a failure (R345, R347 orders 3 and 4). -/
inductive WalkStep where
  | sparse
  | leaf (e : DWord)
  | node (addr : Nat)
  | fail (sub : Nat)
  deriving DecidableEq, Repr

def walkStep (e : DWord) (level : Nat) : WalkStep :=
  if pteValid e = false then (if pteSparse e then .sparse else .fail 0)
  else if pteBad e level then .fail 1
  else if pteLeaf e then .leaf e
  else .node (pteAddr e)

/-- The rest of a walk from a node: the entry at the virtual address's index of each level in turn (R345). A node outside
device memory is a frame outside the partition's grant, the nearest stated illegal use (R2, R347 order 5). -/
def State.walk (s : State) (tkey va : Nat) : List Nat → Nat → Except XFail (Option (DWord × Nat))
  | [], _ => .error (.fail 0x10 1 va)
  | level :: rest, node =>
    let ea := node + 8 * (va / 2 ^ levelShift level % (if level = 5 then 32 else 512))
    if memorySize ≤ ea then .error (.fail 0x10 2 va)
    else if s.poisoned ea then .error (.poison va)
    else
      let e : DWord := BitVec.ofNat 64 (ofBytes (s.readKeyedBytes tkey ea 8))
      match walkStep e level with
      | .sparse => .ok none
      | .leaf e => .ok (some (e, level))
      | .node a => s.walk tkey va rest a
      | .fail sub => .error (.fail 0x10 sub va)

/-- The L2 TLB of a cluster, and the TLBs of units that belong to no cluster, among the units of `State.tlb`: below them the
cores' L1 TLBs by core. -/
def clusterTlb (k : Nat) : Nat := 512 + k
def moduleTlb : Nat := 1023

/-- The L1 TLB that an access looks in first, and the TLB behind it. -/
def Acc.tlb1 (a : Acc) : Nat :=
  match a.core, a.clus with
  | some c, _ => c
  | none, some k => clusterTlb k
  | none, none => moduleTlb
def Acc.tlb2 (a : Acc) : Nat :=
  match a.core with
  | some c => clusterTlb (c / 48)
  | none => a.tlb1

/-- A TLB entry that covers an address (R348). -/
def TlbEntry.covers (t : TlbEntry) (p asn va : Nat) : Bool :=
  t.part == p && t.asn == asn && t.page == va / 2 ^ levelShift t.level

/-- What one TLB holds for an address. -/
def State.tlbIn (s : State) (unit p asn va : Nat) : Option (DWord × Nat) :=
  match s.tlb.find? (fun t => t.unit == unit && t.covers p asn va) with
  | some t => some (t.bits, t.level)
  | none => none

/-- What the TLBs of an access hold for an address. -/
def State.tlbFind (s : State) (a : Acc) (va : Nat) : Option (DWord × Nat) :=
  (s.tlbIn a.tlb1 a.part a.asn va).or (s.tlbIn a.tlb2 a.part a.asn va)

/-- The leaf for an address, from a TLB or by a walk (R348); none for a sparse page. -/
def State.leafOf (s : State) (a : Acc) (va : Nat) : Except XFail (Option (DWord × Nat)) :=
  match s.tlbFind a va with
  | some x => .ok (some x)
  | none =>
    let e := s.astRaw a.part a.asn
    s.walk (astTkey e) va [5, 4, 3, 2, 1] (astRoot e)

/-- A frame inside the partition's grant, with a key of the partition (R347 order 5). A peer's frame lies in no grant
of this module (assumption 13, DESIGN CHOICE). -/
def Partition.grants (x : Partition) (e : DWord) (level : Nat) : Bool :=
  (ptePeer e || (decide (x.gbase * 2 ^ 30 ≤ pteAddr e) &&
    decide (pteAddr e + 2 ^ levelShift level ≤ (x.gbase + x.gsize) * 2 ^ 30))) &&
  decide (x.kfirst ≤ pteKey e) && decide (pteKey e < x.kfirst + x.kcnt)

/-- The kinds of access a page must permit (R346). -/
inductive Need where
  | read
  | write
  | fetch
  deriving DecidableEq, Repr

def Need.allowed : Need → DWord → Bool
  | .read, _ => true
  | .write, e => pteWr e
  | .fetch, e => pteEx e

/-- Translation (R347, orders 1 to 6). -/
def State.translate (s : State) (a : Acc) (va : Nat) (need : Need) : Except XFail Place :=
  if 2 ^ 57 ≤ va then .error (.fail 0x10 3 va)
  else if s.asnOk a.part a.asn = false then .error (.fail 0x10 4 va)
  else if s.poisoned (s.astAddr a.part a.asn) then .error (.poison va)
  else match s.leafOf a va with
    | .error e => .error e
    | .ok none => .ok .sparse
    | .ok (some (e, level)) =>
      let pa := pteAddr e + va % 2 ^ levelShift level
      if (s.part a.part).grants e level = false ∨ (ptePeer e = false ∧ memorySize ≤ pa) then .error (.fail 0x10 2 va)
      else if need.allowed e = false then .error (.fail 0x11 0 va)
      else .ok (.leaf e pa)

/-- What a walk leaves in a TLB: the leaf it read (R348, assumption 7, DESIGN CHOICE). -/
def State.cacheIn (s : State) (a : Acc) (va : Nat) (x : DWord × Nat) (unit : Nat) : State :=
  if (s.tlbIn unit a.part a.asn va).isSome then s
  else
    { s with
      tlb := { unit := unit, part := a.part, asn := a.asn, page := va / 2 ^ levelShift x.2, level := x.2, bits := x.1 } :: s.tlb }

/-- An access leaves its leaf in the TLBs that it looked in. -/
def State.cacheLeaf (s : State) (a : Acc) (va : Nat) : State :=
  if 2 ^ 57 ≤ va || !s.asnOk a.part a.asn then s
  else match s.leafOf a va with
    | .ok (some x) => (s.cacheIn a va x a.tlb2).cacheIn a va x a.tlb1
    | _ => s

def State.cacheLeaves (s : State) (a : Acc) : List Nat → State
  | [] => s
  | va :: vas => (s.cacheLeaf a va).cacheLeaves a vas

/-- The first of some addresses that fails, or the places of all of them. -/
def State.translateAll (s : State) (a : Acc) (need : Need) : List Nat → Except XFail (List Place)
  | [] => .ok []
  | va :: vas =>
    match s.translate a va need with
    | .error e => .error e
    | .ok x =>
      match s.translateAll a need vas with
      | .error e => .error e
      | .ok xs => .ok (x :: xs)

/-! ## The L1 of a core -/

/-- Where a core's L1 holds a line: lines of one physical line under different key indices are distinct (R110), and so are
those of different address spaces, since each carries the generation of its own (R138). -/
def l1Index (core asn key line : Nat) : Nat := ((core * 2 ^ 16 + asn) * 64 + key) * 2 ^ 32 + line
def ixLine (ix : Nat) : Nat := ix % 2 ^ 32
def ixKey (ix : Nat) : Nat := ix / 2 ^ 32 % 64
def ixAsn (ix : Nat) : Nat := ix / 2 ^ 38 % 2 ^ 16
def ixCore (ix : Nat) : Nat := ix / 2 ^ 54

def State.l1At (s : State) (ix : Nat) : L1Line := Sparse.get L1Line.empty s.l1 ix
def State.setL1At (s : State) (ix : Nat) (x : L1Line) : State := { s with l1 := Sparse.set L1Line.empty s.l1 ix x }

/-- The lines of a core's L1, by place. -/
def State.l1Lines (s : State) (core : Nat) : List Nat := (s.l1.filter fun e => ixCore e.1 == core).map (·.1)

/-- Sends the written bytes of a line to its home L2 and leaves them valid (R112); a line written whole clears the poison of
its memory (R364). -/
def State.writeBackLine (s : State) (ix : Nat) : State :=
  let x := s.l1At ix
  let s := (List.range 128).foldl (fun s i =>
    if x.written.getLsbD i then s.writeKeyed (ixKey ix) (128 * ixLine ix + i) (x.data.getD i 0) else s) s
  let s := if x.written = BitVec.allOnes 128 then s.clearPoison (ixLine ix) else s
  s.setL1At ix { x with written := 0 }

/-- The lines that an L1 of 128 KiB holds (R10). -/
def l1Capacity : Nat := 1024

/-- How soon a line is replaced: a line touched in this cycle stays; then by eviction priority, 0 first (R113); then the one
that has been touched longest ago (assumption 6, DESIGN CHOICE). -/
def State.evictRank (s : State) (ix : Nat) : Nat :=
  let x := s.l1At ix
  ((if x.since = s.cycle then 1 else 0) * 4 + x.evp) * 2 ^ 64 + x.since

/-- Makes room for one more line: the first in rank is written back and dropped. -/
def State.makeRoom (s : State) (core ix : Nat) : State :=
  let ls := s.l1Lines core
  if ls.contains ix || decide (ls.length < l1Capacity) then s
  else match ls with
    | [] => s
    | l :: ls =>
      let v := ls.foldl (fun b y => if s.evictRank y < s.evictRank b then y else b) l
      (s.writeBackLine v).setL1At v L1Line.empty

/-- A byte that a load may take from the line: in a valid word filled or written under the access's generation (R111, R138). -/
def L1Line.hit (x : L1Line) (gen i : Nat) : Bool := x.gen == gen && x.valid.getLsbD (i / 4)

/-- A line leaves its L1, its written bytes for its home L2. -/
def State.giveUp (s : State) (ix : Nat) : State := (s.writeBackLine ix).setL1At ix L1Line.empty

/-- The lines of a core's L1 that hold a physical line under a key, in whatever address space. -/
def State.copiesOf (s : State) (core key line : Nat) : List Nat :=
  (s.l1Lines core).filter fun ix => ixKey ix == key && ixLine ix == line

/-- Of one physical line under one key a core's L1 holds one copy, that of the address space that touched it last: every access of
the core sees one order of the writes to it (R124, R127, R129). -/
def State.soleLine (s : State) (ix : Nat) : State :=
  ((s.copiesOf (ixCore ix) (ixKey ix) (ixLine ix)).filter fun y => y != ix).foldl State.giveUp s

/-- A line that carries another generation is written back and given up before it is used (R138, R139). -/
def State.renewLine (s : State) (gen ix : Nat) : State :=
  let x := s.l1At ix
  if x.gen = gen ∨ x = L1Line.empty then s else s.giveUp ix

/-- A merging fill: the line from L2, keeping every written byte (R111). -/
def State.fillLine (s : State) (core gen evp ix : Nat) : State :=
  let s := (s.renewLine gen ix).makeRoom core ix
  let x := s.l1At ix
  s.setL1At ix
    { gen := gen, evp := evp, since := s.cycle, valid := BitVec.allOnes 32, written := x.written
      data := (List.range 128).map fun i =>
        if x.written.getLsbD i then x.data.getD i 0 else s.readKeyed (ixKey ix) (128 * ixLine ix + i) }

/-- A load touches a byte: an invalid word makes a merging fill (R111). A hit leaves the line's priority as it is, a store gives it
its own (assumption 106, DESIGN CHOICE). -/
def State.touchL1 (s : State) (core gen evp ix i : Nat) : State :=
  let s := s.soleLine ix
  if (s.l1At ix).hit gen i then s.setL1At ix { s.l1At ix with since := s.cycle } else s.fillLine core gen evp ix

/-- A word is valid when all of its four bytes are written (R111). -/
def wordsWritten (w : BitVec 128) (valid : BitVec 32) : BitVec 32 :=
  BitVec.ofBoolListLE ((List.range 32).map fun k => valid.getLsbD k ||
    (w.getLsbD (4 * k) && w.getLsbD (4 * k + 1) && w.getLsbD (4 * k + 2) && w.getLsbD (4 * k + 3)))

/-- A store of one byte into an L1: the line is allocated without a fetch, and the byte marked written (R111). -/
def State.storeL1 (s : State) (core gen evp ix i : Nat) (b : Byte) : State :=
  let s := ((s.soleLine ix).renewLine gen ix).makeRoom core ix
  let x := s.l1At ix
  let written := x.written ||| BitVec.twoPow 128 i
  s.setL1At ix
    { gen := gen, evp := evp, since := s.cycle
      valid := wordsWritten written x.valid, written := written
      data := (List.range 128).map fun k => if k = i then b else x.data.getD k 0 }

/-- A release at `.clus` or wider: the core's written bytes go to L2 (R112). -/
def State.releaseL1 (s : State) (core : Nat) : State := (s.l1Lines core).foldl State.writeBackLine s

/-- An acquire at `.clus` or wider: every unwritten valid word is invalid (R112). -/
def State.acquireL1 (s : State) (core : Nat) : State :=
  (s.l1Lines core).foldl (fun s ix =>
    let x := s.l1At ix
    if x.written = 0 then s.setL1At ix L1Line.empty
    else s.setL1At ix { x with valid := wordsWritten x.written 0 }) s

/-- Drops a line after an atomic at the home L2 (R124, R128). -/
def State.dropLine (s : State) (ix : Nat) : State := s.setL1At ix L1Line.empty

/-- Where a core's instruction cache holds a line of an address space (R10, R358). -/
def codeIndex (core asn line : Nat) : Nat := (core * 2 ^ 16 + asn) * 2 ^ 50 + line
def codeCore (ix : Nat) : Nat := ix / 2 ^ 66
def codeAsn (ix : Nat) : Nat := ix / 2 ^ 50 % 2 ^ 16

/-! ## Accesses -/

def State.bumpFree (s : State) : State := { s with freeCtr := s.freeCtr + 1 }

/-- The line of an L1 through which an access reaches a place, with the byte's place in it; none for uncached, L2-only and
peer pages and for units without an L1 (R113, R132). -/
def Acc.line (a : Acc) : Place → Option (Nat × Nat × Nat)
  | .sparse => none
  | .leaf e pa =>
    match a.core with
    | none => none
    | some c => if ptePeer e || pteCache e != 0 then none else some (c, l1Index c a.asn (pteKey e) (pa / 128), pa % 128)

/-- The eviction priority that an access gives its line (R113). -/
def Acc.priority (a : Acc) : Place → Nat
  | .sparse => 0
  | .leaf e _ => a.evp.getD (pteEvp e)

/-- A load makes its places readable: the merging fills of all its words come before any of them is read, so that a load sees
each line at one time (R111, R123, R124). -/
def State.touchPlaces (s : State) (a : Acc) : List Place → State
  | [] => s
  | x :: xs =>
    (match a.line x with
     | none => s
     | some (c, ix, i) => s.touchL1 c a.gen (a.priority x) ix i).touchPlaces a xs

/-- An access of a core that passes its L1: what the L1 holds of the line is given up first, so that every access of the core sees
one order of the writes to it (R124, R128). -/
def State.bypass (s : State) (a : Acc) (key line : Nat) : State :=
  match a.core with
  | none => s
  | some k => (s.copiesOf k key line).foldl State.giveUp s

/-- Reads one byte where a translation leads (R111-R115, R400). -/
def State.readPlace (s : State) (a : Acc) (x : Place) : State × Byte :=
  match x with
  | .sparse => (s, 0)
  | .leaf e pa =>
    if ptePeer e then (s, Config.peerByte (a.ctr.getD s.freeCtr) pa)
    else match a.line x with
      | some (c, ix, i) =>
        let s := s.touchL1 c a.gen (a.priority x) ix i
        (s, (s.l1At ix).data.getD i 0)
      | none =>
        let s := s.bypass a (pteKey e) (pa / 128)
        (s, s.readKeyed (pteKey e) pa)

/-- Writes one byte where a translation leads: a store to a sparse page is discarded (R115); a write-through page's
store reaches L2 as well (R113); a peer's memory is outside the module. -/
def State.writePlace (s : State) (a : Acc) (b : Byte) (x : Place) : State :=
  match x with
  | .sparse => s
  | .leaf e pa =>
    if ptePeer e then s
    else match a.line x with
      | some (c, ix, i) =>
        let s := s.storeL1 c a.gen (a.priority x) ix i b
        if pteWt e then s.writeBackLine ix else s
      | none => (s.bypass a (pteKey e) (pa / 128)).writeKeyed (pteKey e) pa b

def Place.isPeer : Place → Bool
  | .sparse => false
  | .leaf e _ => ptePeer e

def State.readEach (s : State) (a : Acc) : List Place → State × List Byte
  | [] => (s, [])
  | x :: xs =>
    let r := s.readPlace a x
    let r' := r.1.readEach a xs
    (r'.1, r.2 :: r'.2)

/-- Reads the bytes of one load. -/
def State.readPlaces (s : State) (a : Acc) (ps : List Place) : State × List Byte := (s.touchPlaces a ps).readEach a ps

def State.writePlaces (s : State) (a : Acc) : List Place → List Byte → State
  | x :: xs, b :: bs => (s.writePlace a b x).writePlaces a xs bs
  | _, _ => s

/-- The addresses of an access of `n` bytes (R102: modulo 2^64). -/
def spanOf (va n : Nat) : List Nat := (List.range n).map fun i => (va + i) % 2 ^ 64

/-- Whether a place is a peer whose link is down (R400), or a poisoned line (R364). -/
def State.deadPlace (s : State) : Place → Bool
  | .sparse => false
  | .leaf e _ => ptePeer e && Sparse.find s.links (Config.peerPort (bits 51 46 (pteAddr e))) != some .up

/-- See assumption 84, DEDUCED. -/
def State.poisonPlace (s : State) : Place → Bool
  | .sparse => false
  | .leaf e pa => !ptePeer e && s.poisoned pa

/-- The physical address of a byte that an access writes past the L1s. -/
def Acc.pastL1 (a : Acc) (x : Place) : Option Nat :=
  match x with
  | .sparse => none
  | .leaf e pa => if ptePeer e || (a.line x).isSome then none else some pa

/-- A write of whole lines at their home L2 clears their poison (R364): those whose every byte is among the addresses that it
writes. -/
def State.clearCovered (s : State) (pas : List Nat) : State :=
  ((s.poison.map (·.1)).filter fun k => (List.range 128).all fun i => pas.contains (128 * k + i)).foldl State.clearPoison s

/-- The fills of a load of `n` bytes, before it reads (R111). -/
def State.touchVa (s : State) (a : Acc) (va n : Nat) : State :=
  match s.translateAll a .read (spanOf va n) with
  | .error _ => s
  | .ok ps => (s.cacheLeaves a (spanOf va n)).touchPlaces a ps

/-- A read of `n` bytes by an agent: its bytes, or the failure of the first byte that fails. -/
def State.readVa (s : State) (a : Acc) (va n : Nat) : State × Except XFail (List Byte) :=
  match s.translateAll a .read (spanOf va n) with
  | .error e => (s, .error e)
  | .ok ps =>
    if ps.any s.deadPlace then (s, .error (.dead va)) else
    let r := (s.cacheLeaves a (spanOf va n)).readPlaces a ps
    (if ps.any Place.isPeer then r.1.bumpFree else r.1, .ok r.2)

/-- A write by an agent: all of its bytes, or none. A whole line written at its home L2 clears its poison (R364). -/
def State.writeVa (s : State) (a : Acc) (va : Nat) (bs : List Byte) : Except XFail State :=
  match s.translateAll a .write (spanOf va bs.length) with
  | .error e => .error e
  | .ok ps =>
    if ps.any s.deadPlace then .error (.dead va) else
    let t := (s.cacheLeaves a (spanOf va bs.length)).writePlaces a ps bs
    .ok (t.clearCovered (ps.filterMap a.pastL1))

/-! ## Local stores -/

/-- The three stores of a core (R103). -/
inductive Store where
  | w
  | a
  | c
  deriving DecidableEq, Repr

def State.store (s : State) : Store → List Host.Cell
  | .w => s.wStore
  | .a => s.aStore
  | .c => s.cStore

def State.setStore (s : State) : Store → List Host.Cell → State
  | .w, l => { s with wStore := l }
  | .a, l => { s with aStore := l }
  | .c, l => { s with cStore := l }

/-- The key of a byte of a core's store: no store has more than 2^21 bytes. -/
def storeIndex (core ofs : Nat) : Nat := core * 2 ^ 21 + ofs

def State.readStore (s : State) (k : Store) (core ofs n : Nat) : List Byte :=
  Sparse.getBytes (s.store k) (storeIndex core ofs) n

def State.writeStore (s : State) (k : Store) (core ofs : Nat) (bs : List Byte) : State :=
  s.setStore k (Sparse.setBytes (s.store k) (storeIndex core ofs) bs)

/-- The shadow word of the word of an A store that holds a byte. -/
def shadowIndex (core ofs : Nat) : Nat := storeIndex core ofs / 4

/-- Clears VAL in the words of a range of an A store (R320). -/
def State.clearShadow (s : State) (core ofs n : Nat) : State :=
  { s with shadow := s.shadow.filter fun e =>
      decide (e.1 < shadowIndex core ofs) || decide (shadowIndex core (ofs + n - 1) < e.1) }

/-- A write to an A store that is not checked: it clears VAL in the words it writes (R320). -/
def State.writeUnchecked (s : State) (core ofs : Nat) (bs : List Byte) : State :=
  (s.writeStore .a core ofs bs).clearShadow core ofs bs.length

/-- Fields of a local address (R103). -/
def laSpace (a : Nat) : Nat := a / 2 ^ 29 % 8
def laReserved (a : Nat) : Nat := a / 2 ^ 27 % 4
def laCore (a : Nat) : Nat := a / 2 ^ 21 % 64
def laOfs (a : Nat) : Nat := a % 2 ^ 21

/-- The core numbers of R7: compute cores 48 to a cluster, display cores 384 to 387, which form one cluster (R14). -/
def clusterOf (core : Nat) : Nat := core / 48
def clusterBase (core : Nat) : Nat := if core < 384 then core / 48 * 48 else 384

/-- The store, core and offset a local address names, for a workgroup (R104): for SPACE 3, the A window of the
workgroup of the same gang on core CORE. -/
structure LocalPlace where
  store : Store
  core : Nat
  ofs : Nat
  deriving DecidableEq, Repr

/-- The failures of a local access, in the order of R106. -/
inductive LFail where
  | range
  | access
  | align
  deriving DecidableEq, Repr

/-- The workgroup of a gang on a core. -/
def State.gangWgOn (s : State) (gid core : Nat) : Option Workgroup :=
  match s.gang? gid with
  | none => none
  | some g => (g.wgs.filterMap s.wg?).find? (fun w => w.core == core)

/-- Checks an access of `n` bytes at a local address for an agent that may touch the stores of `admits`, with an
alignment, in the order of R106, and finds it. -/
def State.findLocal (s : State) (wg : Workgroup) (admits : Store → Bool → Bool) (align addr n : Nat) :
    Except LFail LocalPlace :=
  if 4 ≤ laSpace addr || laReserved addr != 0 then .error .range
  else if laSpace addr = 3 then
    if admits .a true = false then .error .access
    else if addr % align != 0 then .error .align
    else if 48 ≤ laCore addr then .error .range
    else
      match s.gangWgOn wg.gid (clusterBase wg.core + laCore addr) with
      | none => .error .range
      | some t =>
        if t.asize < laOfs addr + n || s.retired.contains t.core then .error .range
        else .ok { store := .a, core := t.core, ofs := t.abase + laOfs addr }
  else
    let k := if laSpace addr = 0 then Store.w else if laSpace addr = 1 then Store.a else Store.c
    let base := if laSpace addr = 0 then wg.wbase else if laSpace addr = 1 then wg.abase else wg.cbase
    let size := if laSpace addr = 0 then wg.wsize else if laSpace addr = 1 then wg.asize else wg.csize
    if admits k false = false then .error .access
    else if addr % align != 0 then .error .align
    else if size < laOfs addr + n then .error .range
    else .ok { store := k, core := wg.core, ofs := base + laOfs addr }

def State.readLocal (s : State) (x : LocalPlace) (n : Nat) : List Byte := s.readStore x.store x.core x.ofs n
def State.writeLocal (s : State) (x : LocalPlace) (bs : List Byte) : State := s.writeStore x.store x.core x.ofs bs

-- The agents of R106.
def admitLane (k : Store) (_ : Bool) : Bool := k != .c
def admitAtomic (k : Store) (_ : Bool) : Bool := k == .a
def admitAny (_ : Store) (_ : Bool) : Bool := true
def admitC (k : Store) (_ : Bool) : Bool := k == .c
def admitA (k : Store) (_ : Bool) : Bool := k == .a
def admitW (k : Store) (_ : Bool) : Bool := k == .w

end Sys2Proof.Machine
end

