-- ==== Sys2Proof/Machine/Faults.lean ====
section
/-! DEFINITION. Fault records and the fault ring (18 R343, R349-R351), and the trace ring (16 R315-R318). -/

namespace Sys2Proof.Machine

/-- The accesses that the device makes to a partition's rings: in SAVECTL.ASN, through no L1 (R343) (assumption 18, DEDUCED). -/
def State.ringAcc (s : State) (p : Nat) : Acc :=
  let asn := bits 31 16 (s.part p).savectl.toNat
  { core := none, part := p, asn := asn, gen := s.genOf p asn }

/-- The 64 bytes of a fault record (R350). -/
def FaultRec.bytes (r : FaultRec) : List Byte :=
  toBytes 8 r.addr ++ toBytes 2 r.asn ++ toBytes 2 r.gtag ++ toBytes 1 r.cause ++ toBytes 1 r.sub ++ toBytes 1 r.flags ++
  toBytes 1 r.agent ++ toBytes 2 r.wid ++ toBytes 1 r.entry ++ toBytes 1 0 ++ toBytes 4 r.fid ++ toBytes 8 r.pc ++
  toBytes 8 r.gang ++ toBytes 2 r.queue ++ toBytes 22 0

/-- The HELD flag of a record (R350): a reply is required. -/
def FaultRec.heldFlag (r : FaultRec) : Bool := r.flags / 4 % 2 == 1

/-- Writes the waiting records of a partition in order, while the ring has room and its slot translates (R343, R351). -/
def State.flushRing (s : State) (p : Nat) : List FaultRec → State
  | [] => s.setPart p { s.part p with waiting := [] }
  | r :: rs =>
    let x := s.part p
    let size := x.fqsize.toNat
    if size = 0 ∨ (x.fqhead - x.fqtail).toNat = size then s.setPart p { x with waiting := r :: rs }
    else
      match s.writeVa (s.ringAcc p) (x.fqbase.toNat + 64 * (x.fqhead.toNat % size)) r.bytes with
      | .error _ => s.setPart p { x with waiting := r :: rs }
      | .ok s' =>
        let x := s'.part p
        (s'.setPart p { x with
          fqhead := x.fqhead + 1
          unreplied := if r.heldFlag then x.unreplied ++ [r.fid] else x.unreplied }).flushRing p rs

/-- Tries the waiting records again (R343). -/
def State.retryRing (s : State) (p : Nat) : State := s.flushRing p (s.part p).waiting

/-- Records a fault: the record takes the partition's next fault ID, which is delivered (R349-R351). -/
def State.recordFault (s : State) (p : Nat) (r : FaultRec) : State × Nat :=
  let x := s.part p
  let fid := x.fid % 2 ^ 32
  let s := s.setPart p { x with
    fid := x.fid + 1
    fqpend := if r.heldFlag then x.fqpend + 1 else x.fqpend
    waiting := x.waiting ++ [{ r with fid := fid }] }
  (s.retryRing p, fid)

/-- A record of a gang's access that is held. -/
def State.gangRecord (s : State) (gid asn gen : Nat) (x : XFail) (flags agent wid entry pc : Nat) : FaultRec :=
  let g := s.gang? gid
  { addr := x.addr
    asn := asn, gtag := gen
    cause := x.cause
    sub := x.sub
    flags := flags, agent := agent, wid := wid, entry := entry, fid := 0, pc := pc, gang := (g.map (·.index)).getD 0
    queue := ((g.bind fun g => s.launch? g.lid).map (·.queue)).getD 0 }

/-! ## The trace ring -/

/-- Fabric cycles since a die last powered up (R11, R318): the compute dies, or the hub die. -/
def State.fabric (s : State) (die : Nat) : Nat := if die < 4 then s.fab - s.fabUp else s.fab

/-- The die of a core, and whether it is the hub die (R7, R315). -/
def dieByte (core : Nat) : Nat := if core < 384 then core / 96 else 4

/-- A trace record header (R315). -/
def traceHeader (type len rsn seq cyc die : Nat) : List Byte :=
  toBytes 1 type ++ toBytes 1 len ++ toBytes 1 rsn ++ toBytes 1 0 ++ toBytes 4 seq ++ toBytes 6 cyc ++ toBytes 1 die ++
  toBytes 1 0

/-- The panel block of a trace record (R315). -/
def panelBlock (wid entry state qmask pc : Nat) : List Byte :=
  toBytes 2 wid ++ toBytes 1 entry ++ toBytes 1 state ++ toBytes 2 qmask ++ toBytes 2 0 ++ toBytes 8 pc

/-- The STATE field of a panel-table entry (R18, R19). -/
def Panel.stateCode (p : Panel) : Nat :=
  match p.status with
  | .run => if p.frame.isSome then 5 else 0
  | .seamw => 1
  | .ffw => 2
  | .barw => 3
  | .stop => 4

/-- Bytes of a ring free before its tail, with one unit left free (R315). -/
def ringFree (size head tail : Nat) : Nat := if size = 0 then 0 else (tail + size - head % size - 32 + size) % size

/-- Writes consecutive units of a ring, wrapping at its end; a unit that does not translate is dropped. -/
def State.writeRing (s : State) (p base size head : Nat) : List Byte → Nat → State
  | _, 0 => s
  | bs, n + 1 =>
    let s' := match s.writeVa (s.ringAcc p) (base + head % size) (bs.take 32) with
      | .ok s' => s'
      | .error _ => s
    s'.writeRing p base size (head + 32) (bs.drop 32) n

/-- Accepts one record into the trace ring of a partition, or drops and counts it (R315, R318). -/
def State.traceAppend (s : State) (p type rsn die : Nat) (body : List Byte) (len : Nat) : State :=
  let x := s.part p
  let size := x.trsize.toNat * 4096
  if ringFree size x.trhead.toNat x.trtail.toNat < 32 * len then
    s.setPart p { x with trlost := if x.trlost = BitVec.allOnes 64 then x.trlost else x.trlost + 1, gap := x.gap ||| 1 }
  else
    let s := s.writeRing p x.trbase.toNat size x.trhead.toNat
      (traceHeader type len rsn (x.trseq % 2 ^ 32) (s.fabric die % 2 ^ 48) die ++ body) len
    s.setPart p { s.part p with
      trhead := BitVec.ofNat 64 ((x.trhead.toNat + 32 * len) % size)
      trseq := x.trseq + 1 }

/-- A trace record, preceded by a lost record after a drop (R315, R316): only while TRCEN = 1. -/
def State.traceRecord (s : State) (p type rsn die : Nat) (body : List Byte) (len : Nat) : State :=
  if (s.part p).dbgctl.getLsbD 2 = false then s
  else if (s.part p).gap % 2 = 1 then
    let s' := s.traceAppend p 0x0F 0 die (toBytes 8 (s.part p).trlost.toNat ++ toBytes 8 0) 1
    if (s'.part p).trseq = (s.part p).trseq then s'
    else (s'.setPart p { s'.part p with gap := (s'.part p).gap / 2 * 2 }).traceAppend p type rsn die body len
  else s.traceAppend p type rsn die body len

end Sys2Proof.Machine
end

