-- ==== Sys2Proof/Machine/SpoolStore.lean ====
section
/-! DEFINITION. The storage of a spool (12 R260-R264): its header, slots and tags as bytes of an A store or of global memory, and
what its controller does with them. -/

namespace Sys2Proof.Machine

/-! ## The layout (R260) -/

/-- Where slot i's payload and tag lie in the storage. -/
def SpoolUnit.slotAt (u : SpoolUnit) (seq : Nat) : Nat := 64 + seq % u.nslot * u.ssz
def SpoolUnit.tagAt (u : SpoolUnit) (seq : Nat) : Nat := 64 + u.nslot * u.ssz + 4 * (seq % u.nslot)

/-- The bytes of a spool's storage. -/
def SpoolUnit.size (u : SpoolUnit) : Nat := 64 + u.nslot * (u.ssz + 4)

/-- A tag (R262), as a slot holds it or as `pull` delivers it. -/
def Record.tag (r : Record) (full : Bool) : Word :=
  BitVec.ofNat 32 (r.seq % 2 ^ 16 * 2 ^ 16 + r.kind % 2 ^ 8 * 2 ^ 8 + r.lmask.toNat * 16 + full.toNat * 8 + r.eos.toNat * 4 +
    r.fault.toNat * 2)

/-- The first 16 bytes of the header (R261). -/
def Spool.headerBytes (x : Spool) : List Byte :=
  toBytes 4 (x.nslot - 1 + (x.ssz / 16 - 1) * 2 ^ 12) ++
  toBytes 1 (x.mem.toNat + 2 * x.cls.toNat + 4 * x.flt.toNat + 8 * x.quad.toNat + 16 * x.bcst.toNat) ++
  toBytes 3 x.opened ++ toBytes 4 x.tail ++ toBytes 4 x.head

/-! ## Access to the storage -/

/-- The accesses of a controller to storage in memory: through no L1, in the pattern's address space (R132, R260). -/
def State.spoolAcc (s : State) (u : SpoolUnit) : Acc :=
  match s.launch? u.lid with
  | none => { core := none, part := 0, asn := 0, gen := 0 }
  | some l => { core := none, part := l.part, asn := l.asn, gen := s.genOf l.part l.asn }

/-- An address in each page of the storage. -/
def SpoolUnit.pages (u : SpoolUnit) : List Nat :=
  ((List.range (u.size / 65536 + 1)).map fun i => u.hdr + 65536 * i) ++ [u.hdr + u.size - 1]

/-- What stops a controller whose storage faults (R286, R349); it uses none of its storage until all of it can be written
(assumption 16, DESIGN CHOICE). -/
def State.storageFault (s : State) (u : SpoolUnit) : Option XFail :=
  match u.store with
  | some _ => none
  | none =>
    match s.translateAll (s.spoolAcc u) .write u.pages with
    | .error e => some e
    | .ok _ => none

def State.readSpool (s : State) (u : SpoolUnit) (k n : Nat) : List Byte :=
  match u.store with
  | some (core, ofs) => s.readStore .a core (ofs + k) n
  | none =>
    match (s.readVa (s.spoolAcc u) (u.hdr + k) n).2 with
    | .ok bs => bs
    | .error _ => List.replicate n 0

/-- A write to the storage; on the chip it clears the shadow words (R320). -/
def State.writeSpool (s : State) (u : SpoolUnit) (k : Nat) (bs : List Byte) : State :=
  match u.store with
  | some (core, ofs) => s.writeUnchecked core (ofs + k) bs
  | none =>
    match s.writeVa (s.spoolAcc u) (u.hdr + k) bs with
    | .ok s => s
    | .error _ => s

/-- The record in the slot of a placement index. -/
def State.slotRecord (s : State) (u : SpoolUnit) (seq : Nat) : Record :=
  let t := fieldAt (s.readSpool u (u.tagAt seq) 4) 0 4
  let bs := s.readSpool u (u.slotAt seq) u.ssz
  { seq := seq, kind := bits 15 8 t, lmask := BitVec.ofNat 4 (bits 7 4 t), fault := t.testBit 1, eos := t.testBit 2
    words := (List.range (u.ssz / 4)).map fun i => BitVec.ofNat 32 (fieldAt bs (4 * i) 4)
    ticket := Sparse.find u.tickets seq }

/-- The distance of index `b` from index `a` (R261: mod 2^32). -/
def seqFrom (a b : Nat) : Nat := (b + 2 ^ 32 - a) % 2 ^ 32

/-- A spool as its storage shows it (R260-R262). -/
def State.viewSpool (s : State) (u : SpoolUnit) : Spool :=
  let h := s.readSpool u 0 16
  let flags := fieldAt h 4 1
  let head := fieldAt h 12 4
  let tail := fieldAt h 8 4
  { u with
    flt := flags.testBit 2, cls := flags.testBit 1, opened := fieldAt h 5 3, head := head, tail := tail
    records := (List.range (Nat.min (seqFrom tail head) u.nslot)).map fun i => s.slotRecord u ((tail + i) % 2 ^ 32) }

def State.spool? (s : State) (k : Nat) : Option Spool := (s.unit? k).map s.viewSpool

/-- Puts a spool's header into its storage, and keeps the controller's own part. -/
def State.putSpool (s : State) (k : Nat) (x : Spool) : State :=
  (s.writeSpool x.toSpoolUnit 0 x.headerBytes).putUnit k x.toSpoolUnit

/-- The launch's write of a spool (R104, R333): its header with 48 bytes of zeros, and every tag clear. -/
def State.initSpool (s : State) (k : Nat) (u : SpoolUnit) (producers : Nat) : State :=
  let x : Spool := { u with flt := false, cls := producers == 0, opened := producers, head := 0, tail := 0, records := [] }
  let s := (s.writeSpool u 0 (x.headerBytes ++ List.replicate 48 0)).putUnit k u
  s.writeSpool u (u.tagAt 0) (List.replicate (4 * u.nslot) 0)

/-! ## Placing and taking (R263) -/

/-- The instances of one declared spool: its replicas (R266). -/
def State.replicas (s : State) (k : Nat) : List Nat :=
  match s.unit? k with
  | none => []
  | some x => (s.spools.filter fun e => e.2.lid == x.lid && e.2.decl == x.decl).map (·.1)

/-- A consumer instance that still takes records: a workgroup not retired, or a fixed node not closed (assumption 76, DEDUCED). -/
def State.readerLive (s : State) (k : Nat) : Bool :=
  match s.wg? k, s.node? k with
  | some w, _ => !w.retired
  | none, some n => !n.closed
  | none, none => false

/-- Records before the end-of-stream record. -/
def Spool.full (x : Spool) : List Record := x.records.filter fun r => !r.eos

/-- How many records no live consumer instance of a broadcast spool has left to take (R263). -/
def State.swept (s : State) (x : Spool) : Nat :=
  if x.bcst = false then 0
  else (x.readers.filter fun r => s.readerLive r.1).foldl (fun m r => Nat.min m (seqFrom x.tail r.2)) x.full.length

/-- Slots free for records (R263): the end-of-stream record takes one. -/
def State.freeIn (s : State) (x : Spool) : Nat := x.nslot + s.swept x - x.records.length

/-- The first n records leave: their slots' tags are clear, and TAIL passes them. -/
def State.dropRecords (s : State) (k : Nat) (x : Spool) (n : Nat) : State :=
  let tags := (List.range n).foldl (fun s i => s.writeSpool x.toSpoolUnit (x.tagAt (x.tail + i)) (toBytes 4 0)) s
  tags.putSpool k { x with
    tail := (x.tail + n) % 2 ^ 32
    tickets := x.tickets.filter fun t => decide (n ≤ seqFrom x.tail t.1) }

/-- The slots of records that every consumer has taken become free. -/
def State.sweep (s : State) (k : Nat) : State :=
  match s.spool? k with
  | none => s
  | some x => if s.swept x = 0 then s else s.dropRecords k x (s.swept x)

/-- One record goes into its slot, with its tag (R262, R286). -/
def State.writeSlot (s : State) (u : SpoolUnit) (r : Record) : State :=
  let bs := r.words.flatMap fun w => toBytes 4 w.toNat
  (s.writeSpool u (u.slotAt r.seq) ((bs ++ List.replicate (u.ssz - bs.length) 0).take u.ssz)).writeSpool u (u.tagAt r.seq)
    (toBytes 4 (r.tag true).toNat)

/-- Places records at HEAD (R263). -/
def State.placeIn (s : State) (k : Nat) (rs : List Record) : State :=
  let s := s.sweep k
  match s.spool? k with
  | none => s
  | some x =>
    let rs := rs.zipIdx.map fun e => { e.1 with seq := (x.head + e.2) % 2 ^ 32 }
    let t := rs.foldl (fun s r => s.writeSlot x.toSpoolUnit r) s
    t.putSpool k { x with
      head := (x.head + rs.length) % 2 ^ 32
      tickets := rs.foldl (fun l r => match r.ticket with
        | none => l
        | some t => Sparse.put l r.seq t) x.tickets }

/-- The records that lie before a consumer instance, the end-of-stream record among them. -/
def Spool.ahead (x : Spool) (inst : Nat) : List Record :=
  if x.bcst then x.records.drop (seqFrom x.tail ((Sparse.find x.readers inst).getD x.tail)) else x.records

/-- A consumer instance takes n records, which are not end-of-stream (R263). -/
def State.takeRecords (s : State) (k inst n : Nat) : State :=
  match s.spool? k with
  | none => s
  | some x =>
    if x.bcst then
      (s.putUnit k { x.toSpoolUnit with
        readers := Sparse.put x.readers inst (((Sparse.find x.readers inst).getD x.tail + n) % 2 ^ 32) }).sweep k
    else s.dropRecords k x n

/-- A controller that can act: its storage can be written. -/
def State.reachable (s : State) (k : Nat) : Bool :=
  match s.unit? k with
  | none => false
  | some u => (s.storageFault u).isNone

/-- A spool whose consumer instances have all retired (R300). -/
def State.deadSpool (s : State) (k : Nat) : Bool :=
  !(s.wgs.any fun e => !e.2.retired && e.2.inPorts.contains (some k)) &&
  !(s.nodes.any fun e => !e.2.closed && e.2.ins.contains (some k))

/-- Places records in every replica of a spool (R266); a dead one discards them (R300). -/
def State.placeRecords (s : State) (k : Nat) (rs : List Record) : State :=
  (s.replicas k).foldl (fun s k => if s.deadSpool k then s else s.placeIn k rs) s

/-- n records can be placed in every replica that is not dead. -/
def State.fits (s : State) (k n : Nat) : Bool :=
  (s.replicas k).all fun k => s.deadSpool k || (s.reachable k && (match s.spool? k with
    | none => false
    | some x => decide (n ≤ s.freeIn x)))

/-! ## Closing (R264) -/

/-- A close of one producer in the header, or a dropped record's FLT. -/
def Spool.note (x : Spool) (e : Bool × Bool) : Spool :=
  if e.1 then { x with flt := x.flt || e.2, opened := x.opened - 1, cls := x.cls || decide (x.opened ≤ 1) }
  else { x with flt := x.flt || e.2 }

/-- The controller takes what is pending into the header, once it can. -/
def State.settleSpool (s : State) (k : Nat) : State :=
  match s.spool? k with
  | none => s
  | some x =>
    if x.pending.isEmpty || (s.storageFault x.toSpoolUnit).isSome then s
    else s.putSpool k { x.pending.foldl Spool.note x with pending := [] }

def State.noteSpool (s : State) (k : Nat) (e : Bool × Bool) : State :=
  match s.unit? k with
  | none => s
  | some u => (s.putUnit k { u with pending := u.pending ++ [e] }).settleSpool k

/-- One producer closes a spool, with fault or without (R264, R266). -/
def State.closeSpool (s : State) (k : Nat) (fault : Bool) : State :=
  (s.replicas k).foldl (fun s k => s.noteSpool k (true, fault)) s

/-- The end-of-stream record (R264). -/
def endOfStream (flt : Bool) : Record :=
  { seq := 0, kind := 0, lmask := 0, fault := flt, eos := true, words := [], ticket := none }

/-- A closed spool with room for its end-of-stream record. -/
def State.endReady (s : State) (x : Spool) : Bool := x.cls && !(x.records.any (·.eos)) && decide (0 < s.freeIn x)

end Sys2Proof.Machine
end

