-- ==== Sys2Proof/Machine/Gangs.lean ====
section
/-! DEFINITION. How gangs, launches and spools end: closing ports (12 R264), completion bits, error words and signals
(17 R331, R335), and the end of a gang with an error (18 R353, R356). -/

namespace Sys2Proof.Machine

/-- The scheduler's access to a launch's address space. -/
def State.launchAcc (s : State) (l : Launch) : Acc :=
  { core := none, part := l.part, asn := l.asn, gen := s.genOf l.part l.asn }

/-- The write of a code into an error word that is still 0 (R335). -/
def State.writeErrorWord (s : State) (a : Acc) (addr code : Nat) : Except XFail State :=
  match s.readVa a addr 8 with
  | (_, .error e) => .error e
  | (s', .ok bs) => if ofBytes bs = 0 then s'.writeVa a addr (toBytes 8 code) else .ok s'

/-- One write of the scheduler (R331, R335). -/
def State.schedWrite (s : State) (l : Launch) (a : Acc) : SchedWrite → Except XFail State
  | .status addr => s.writeVa a addr (toBytes 8 (l.error + (l.replays % 2 ^ 16) * 2 ^ 16))
  | .word addr bs => s.writeVa a addr bs
  | .setBit addr k =>
    match s.readVa a (addr + k / 8) 1 with
    | (_, .error e) => .error e
    | (s', .ok bs) => s'.writeVa a (addr + k / 8) [bs.headD 0 ||| BitVec.twoPow 8 (k % 8)]
  | .error addr code => s.writeErrorWord a addr code
  | .errorAgain addr => s.writeErrorWord a addr 0x11

def SchedWrite.addr : SchedWrite → Nat
  | .status a => a
  | .word a _ => a
  | .setBit a k => a + k / 8
  | .error a _ => a
  | .errorAgain a => a

/-- The record of a fault on one of the scheduler's accesses: agent 6, held (R349, R350). -/
def schedFault (l : Launch) (gen : Nat) (e : XFail) (addr : Nat) : FaultRec :=
  { addr := addr, asn := l.asn, gtag := gen
    cause := e.cause
    sub := e.sub
    flags := 5, agent := 6, wid := 0x7FFF, entry := 0xFF, fid := 0, pc := 0, gang := 0, queue := l.queue }

/-- Makes the scheduler's waiting writes of a launch in order, until one fails: that one is held (R331, R349). -/
def State.schedWrites (s : State) (lid : Nat) (l : Launch) : List SchedWrite → State
  | [] => s.putLaunch lid { l with writes := [] }
  | w :: ws =>
    match s.schedWrite l (s.launchAcc l) w with
    | .ok s' => s'.schedWrites lid l ws
    | .error e =>
      let r := s.recordFault l.part (schedFault l (s.genOf l.part l.asn) e w.addr)
      r.1.putLaunch lid { l with writes := w :: ws, held := some r.2 }

/-- Adds scheduler writes to a launch and makes what can be made. -/
def State.addWrites (s : State) (lid : Nat) (ws : List SchedWrite) : State :=
  match s.launch? lid with
  | none => s
  | some l => if l.held.isSome then s.putLaunch lid { l with writes := l.writes ++ ws } else s.schedWrites lid l (l.writes ++ ws)

/-- QSTAT after a packet completes (R325): DONE rises, the first error is kept. -/
def qstatDone (q : DWord) (code : Nat) : DWord :=
  let done := (bits 63 32 q.toNat + 1) % 2 ^ 32
  let err := if bits 7 0 q.toNat = 0 then code else bits 7 0 q.toNat
  BitVec.ofNat 64 (done * 2 ^ 32 + bits 31 16 q.toNat * 2 ^ 16 + err % 256)

/-- A packet of a queue completes (R325, R331). -/
def State.packetDone (s : State) (q code : Nat) : State :=
  let x := s.queue q
  s.setQueue q { x with qstat := qstatDone x.qstat code, inFlight := x.inFlight - 1 }

/-- The status word and the signal value of a completed launch (R331). -/
def signalWrites (l : Launch) : List SchedWrite :=
  if l.spec.signal = 0 then []
  else [.status (l.spec.signal + 8), .word l.spec.signal (toBytes 8 l.spec.sigval)]

/-- Completes a grid or a pattern once its gangs or nodes have completed and its writes are made (R331): a pattern's
records are discarded (R300). -/
def State.settleTop (s : State) (lid : Nat) : State :=
  match s.launch? lid with
  | none => s
  | some l =>
    if l.done || l.live != 0 then s
    else
      let s := if l.signalled then s else (s.putLaunch lid { l with signalled := true }).addWrites lid (signalWrites l)
      match s.launch? lid with
      | none => s
      | some l =>
        if l.writes.isEmpty && !l.done then
          let s := s.putLaunch lid { l with done := true }
          { s with spools := s.spools.filter fun e => e.2.lid != lid }.packetDone l.queue l.error
        else s

/-- One node of a pattern has retired (R257). -/
def State.nodeRetired (s : State) (pat : Nat) : State :=
  match s.launch? pat with
  | none => s
  | some l => (s.putLaunch pat { l with live := l.live - 1 }).settleTop pat

/-- Marks a launch complete once its gangs have completed and its writes are made (R331); a node's pattern waits for them as well
(R335). -/
def State.settleLaunch (s : State) (lid : Nat) : State :=
  match s.launch? lid with
  | none => s
  | some l =>
    if l.done || l.live != 0 then s
    else match l.kind with
      | .grid | .pattern => s.settleTop lid
      | .node pat _ => if l.writes.isEmpty then (s.putLaunch lid { l with done := true }).nodeRetired pat else s
      | .band _ _ _ => s.putLaunch lid { l with done := true }

/-- A workgroup closes the out-ports it has left open (R264). -/
def State.closePorts (s : State) (k : Nat) (fault : Bool) : State :=
  match s.wg? k with
  | none => s
  | some w =>
    let s := w.outPorts.zipIdx.foldl (fun s e =>
      match e.1 with
      | some sp => if w.closed.contains e.2 then s else s.closeSpool sp fault
      | none => s) s
    s.putWg k { w with closed := List.range 8 }

/-- The partition that runs on a workgroup's launch. -/
def State.wgPart (s : State) (w : Workgroup) : Nat :=
  match s.launch? w.lid with
  | none => 0
  | some l => l.part

def State.wgAsn (s : State) (w : Workgroup) : Nat :=
  match s.launch? w.lid with
  | none => 0
  | some l => l.asn

/-- The sixteen stall counters as bytes (R316). -/
def stallBytes (w : Wave) : List Byte := (List.range 16).flatMap fun k => toBytes 4 (Sparse.get 0 w.stalls k).toNat

/-- A wave is no longer alive: its slot is free, and its wave-exit record is written (R314, R316). -/
def State.dropWave (s : State) (p wid entry : Nat) : State :=
  let w := s.wave wid
  if w.alive = false then s
  else
    let pan := Sparse.get Panel.empty w.panels entry
    let s := s.traceRecord p 0x08 0 (dieByte (wid / 64))
      (panelBlock wid entry pan.stateCode pan.qmask.toNat pan.pc ++ stallBytes w) 3
    s.setWave wid Wave.empty

/-- The identifier of the wave in a slot of workgroup `k`, while that wave is alive: a slot is free once its wave has
ended. -/
def State.waveIn (s : State) (k core slot : Nat) : Option Nat :=
  let w := s.wave (core * 64 + slot)
  if w.alive = true ∧ w.wg = k then some (core * 64 + slot) else none

/-- The identifiers of the live waves of workgroup `k`. -/
def State.liveWaves (s : State) (k : Nat) (w : Workgroup) : List Nat := w.slots.filterMap (s.waveIn k w.core)

/-- The lowest entry of a wave that holds a panel: the last panel of a wave that is stopped (R316; assumption 93, DESIGN CHOICE). -/
def Wave.lastEntry (w : Wave) : Nat := ((List.range 8).find? fun e => (Sparse.get Panel.empty w.panels e).valid).getD 0

/-- The waves of a workgroup leave their slots. -/
def State.dropWaves (s : State) (p k : Nat) (w : Workgroup) : State :=
  (s.liveWaves k w).foldl (fun s wid => s.dropWave p wid (s.wave wid).lastEntry) s

/-- The completion bits of a gang's workgroups, or of one of them (R335). -/
def bitWrites (l : Launch) (ws : List Workgroup) : List SchedWrite :=
  if l.spec.cbm = 0 then [] else ws.map fun w => .setBit l.spec.cbm w.index

/-- The address of a bitmap's error word (R335). -/
def errorWord (cbm n : Nat) : Nat := cbm + 8 * ((n + 63) / 64)

def GridSpec.count (g : GridSpec) : Nat := g.ex * g.ey * g.ez

/-- Whether a launch's gangs are replayable (R329 REPL). -/
def GridSpec.repl (g : GridSpec) : Bool := g.flags / 2 % 2 == 1

/-- The number of the frame after a head's current one (R368). -/
def Head.nextFrame (x : Head) : Nat := if x.leadIn then 0 else (x.frame + 1) % 2 ^ 32

def Head.vtotal (x : Head) : Nat := bits 63 48 x.htim.toNat
def Head.guard (x : Head) : Nat := bits 31 24 x.hctl.toNat

/-- The line, in the current frame's count, of a band's deadline (R374): of the current frame's band, or the next one's. -/
def Head.deadline (x : Head) (next : Bool) (b : Nat) : Int := (32 * b : Int) - x.guard + (if next then x.vtotal else 0)

/-- A band's gang, of launch `lid`, has retired: before its deadline the band that it was launched for is published (R376, R377). -/
def State.publish (s : State) (lid h b frame : Nat) : State :=
  let x := s.head h
  let done := fun (l : List (Nat × Band)) =>
    let y := Sparse.get Band.fresh l b
    if y.launch = some lid then Sparse.set Band.fresh l b { y with published := true } else l
  if x.leadIn = false ∧ frame = x.frame then
    (if (x.line : Int) < x.deadline false b then s.setHead h { x with bands := done x.bands } else s)
  else if frame = x.nextFrame ∧ (x.line : Int) < x.deadline true b then s.setHead h { x with nextBands := done x.nextBands }
  else s

/-- One gang of a launch has completed, with an error or without (R331, R335). -/
def State.gangDone (s : State) (lid : Nat) (err : Option Nat) (final : List SchedWrite) : State :=
  match s.launch? lid with
  | none => s
  | some l =>
    let error := if l.error = 0 then err.getD 0 else l.error
    let s := s.putLaunch lid { l with live := l.live - 1, error := error }
    let s := match l.kind, err with
      | .node pat _, some e =>
        (match s.launch? pat with
         | none => s
         | some x => s.putLaunch pat { x with error := if x.error = 0 then e else x.error })
      | .band h b frame, none => s.publish lid h b frame
      | _, _ => s
    let s := s.addWrites lid (match err with
      | none => final
      | some e => if l.spec.cbm = 0 then [] else [.error (errorWord l.spec.cbm l.spec.count) e])
    s.settleLaunch lid

/-! ## Save areas (R343, R362) -/

def Partition.bound (x : Partition) : Bool := x.savectl.getLsbD 1
def Partition.reserveBusy (x : Partition) : Bool := x.rsvstat.getLsbD 0

/-- The ranges of a partition's pool that hold saved gangs. -/
def State.poolUsed (s : State) (p : Nat) : List (Nat × Nat) :=
  s.gangs.filterMap fun e => match e.2.saved, s.launch? e.2.lid with
    | some v, some l => if l.part = p ∧ v.reserve = false ∧ e.2.done = false then some (v.area, v.units) else none
    | _, _ => none

/-- SAVECTL with BIND and the ASN as written, and BOUND and ERR as given. -/
def savectl (bind bound : Bool) (err asn : Nat) : DWord :=
  BitVec.ofNat 64 (bind.toNat + 2 * bound.toNat + 16 * err + 65536 * asn)

def Partition.saveAsn (x : Partition) : Nat := bits 31 16 x.savectl.toNat

/-- Unbinds a pool whose BIND is 0 once no saved gang lies in it (R362). -/
def State.settlePool (s : State) (p : Nat) : State :=
  let x := s.part p
  if x.savectl.getLsbD 0 = false ∧ x.bound = true ∧ (s.poolUsed p).isEmpty = true then
    s.setPart p { x with savectl := savectl false false (bits 7 4 x.savectl.toNat) x.saveAsn }
  else s

def State.setReserve (s : State) (p : Nat) (busy : Bool) : State :=
  s.setPart p { s.part p with rsvstat := if busy then 1 else 0 }

/-- A gang that may be a victim again. -/
def Gang.again (e : Nat × Gang) : Nat × Gang := (e.1, { e.2 with passed := false })

/-- The area of a gang is free. -/
def State.freeArea (s : State) (p gid : Nat) : State :=
  match s.gang? gid with
  | none => s
  | some g =>
    let t := s.putGang gid { g with saved := none }
    let t : State := match g.saved with
      | some v => if v.reserve then { t.setReserve p false with gangs := t.gangs.map Gang.again } else t
      | none => t
    t.settlePool p

/-- Ends a gang with an error: its panels and engine threads stop, its workgroups' open ports close with fault, its save
area is free, and it completes (R264, R331, R335, R353, R356) (assumption 77, DEDUCED). -/
def State.endGang (s : State) (gid err : Nat) : State :=
  match s.gang? gid with
  | none => s
  | some g =>
    if g.done then s
    else
      let p := match s.launch? g.lid with
        | none => 0
        | some l => l.part
      let s := g.wgs.foldl (fun s k =>
        match s.wg? k with
        | none => s
        | some w => (((s.dropWaves p k w).releaseL1 w.core).closePorts k true).putWg k { w with retired := true, closed := List.range 8 }) s
      let s := { s with threads := s.threads.filter fun e => e.2.gid != gid }
      let s := (s.putGang gid { g with done := true, ended := some err }).freeArea p gid
      s.gangDone g.lid (some err) []

/-- An end record (R350, R353, R356): cause 0x40, with the error code and the value given. -/
def endRecord (l : Launch) (gang wid entry addr err pc gen : Nat) : FaultRec :=
  { addr := addr, asn := l.asn, gtag := gen, cause := 0x40, sub := err, flags := 0, agent := 0, wid := wid,
    entry := entry, fid := 0, pc := pc, gang := gang, queue := l.queue }

/-- Ends the gang of a wave with an error and an end record. -/
def State.endWithRecord (s : State) (wid entry err addr : Nat) : State :=
  let w := s.wave wid
  match s.wg? w.wg with
  | none => s
  | some wg =>
    match s.launch? wg.lid, s.gang? wg.gid with
    | some l, some g =>
      let pc := (Sparse.get Panel.empty w.panels entry).pc
      ((s.recordFault l.part (endRecord l g.index wid entry addr err pc (s.genOf l.part l.asn))).1).endGang wg.gid err
    | _, _ => s

end Sys2Proof.Machine
end

