-- ==== Sys2Proof/Machine/Ops.lean ====
section
/-! DEFINITION. The named operations over waves, panels and lanes, taking a precise trap (18 R352, R353) and returning
from one (R354), and moving past an instruction. -/

namespace Sys2Proof.Machine

abbrev Out := Host.Outcome State Fault Refusal

/-! ## Waves and panels -/

def Wave.panel (w : Wave) (e : Nat) : Panel := Sparse.get Panel.empty w.panels e
def Wave.setPanel (w : Wave) (e : Nat) (p : Panel) : Wave := { w with panels := Sparse.set Panel.empty w.panels e p }
def State.panel (s : State) (c : Cur) : Panel := (s.wave c.wid).panel c.entry
def State.setPanel (s : State) (c : Cur) (p : Panel) : State := s.setWave c.wid ((s.wave c.wid).setPanel c.entry p)
def State.curWave (s : State) (c : Cur) : Wave := s.wave c.wid

def zeroLanes : LaneVec := List.replicate 64 0
def zeroLatch : LatchVec := List.replicate 64 0

def Wave.vreg (w : Wave) (n : Nat) : LaneVec := Sparse.get zeroLanes w.v n
def Wave.oreg (w : Wave) (n : Nat) : LaneVec := Sparse.get zeroLanes w.o n
def Wave.latchVec (w : Wave) (l : Nat) : LatchVec := Sparse.get zeroLatch w.latch l
def Wave.pred (w : Wave) (k : Nat) : Mask := Sparse.get 0 w.p k

/-- The values `f j` in the lanes of a mask, the old ones elsewhere (R47). -/
def mergeLanes (m : Mask) (old : LaneVec) (f : Nat → Word) : LaneVec :=
  (List.range 64).map fun j => if m.getLsbD j then f j else old.getD j 0

def mergeLatch (m : Mask) (old : LatchVec) (f : Nat → DWord) : LatchVec :=
  (List.range 64).map fun j => if m.getLsbD j then f j else old.getD j 0

/-- The bits `f j` in the lanes of a mask, the old ones elsewhere (R52). -/
def mergeMask (m old : Mask) (f : Nat → Bool) : Mask :=
  BitVec.ofBoolListLE ((List.range 64).map fun j => if m.getLsbD j then f j else old.getLsbD j)

/-- The mask of the lanes that satisfy a test. -/
def maskOf (f : Nat → Bool) : Mask := BitVec.ofBoolListLE ((List.range 64).map f)

def Wave.setV (w : Wave) (n : Nat) (m : Mask) (f : Nat → Word) : Wave :=
  { w with v := Sparse.set zeroLanes w.v n (mergeLanes m (w.vreg n) f) }
def Wave.setO (w : Wave) (n : Nat) (m : Mask) (f : Nat → Word) : Wave :=
  { w with o := Sparse.set zeroLanes w.o n (mergeLanes m (w.oreg n) f) }
def Wave.setLatch (w : Wave) (l : Nat) (m : Mask) (f : Nat → DWord) : Wave :=
  { w with latch := Sparse.set zeroLatch w.latch l (mergeLatch m (w.latchVec l) f) }
def Wave.setPred (w : Wave) (k : Nat) (m : Mask) (f : Nat → Bool) : Wave :=
  { w with p := Sparse.set 0 w.p k (mergeMask m (w.pred k) f) }

/-- The numbers of the latches (R49). -/
def latchNo : Latch → Nat
  | .la => 0 | .lf => 1 | .lx => 2 | .lm => 3

def Panel.greg (p : Panel) (n : Nat) : DWord := Sparse.get 0 p.g n
def Panel.setG (p : Panel) (n : Nat) (x : DWord) : Panel := { p with g := Sparse.set 0 p.g n x }
def Panel.setGp (p : Panel) (n : Nat) (b : Bool) : Panel :=
  { p with gp := if b then p.gp ||| BitVec.twoPow 4 n else p.gp &&& ~~~ BitVec.twoPow 4 n }
def Panel.stream (p : Panel) (k : Nat) : Stream := Sparse.get Stream.zero p.s k
def Panel.setStream (p : Panel) (k : Nat) (x : Stream) : Panel := { p with s := Sparse.set Stream.zero p.s k x }
def Panel.format (p : Panel) (k : Nat) : BitVec 128 := Sparse.get 0 p.fb k
def Panel.setFormat (p : Panel) (k : Nat) (x : BitVec 128) : Panel := { p with fb := Sparse.set 0 p.fb k x }

/-- Writes a group destination (R149): zero discards. -/
def Panel.writeG (p : Panel) : GDst → DWord → Panel
  | .g n, x => p.setG n x
  | .zero, _ => p

/-- The value of a group source (R46): a literal is sign-extended from 32 bits (R192). -/
def Panel.gsrc (p : Panel) : GSrc → DWord
  | .g n => p.greg n
  | .zero => 0
  | .lit w => w.signExtend 64

/-- The lanes of a set of quads. -/
def quadLanes (q : BitVec 16) : Mask := maskOf fun j => q.getLsbD (j / 4)

/-- The quads with a lane in a mask. -/
def lanesQuads (m : Mask) : BitVec 16 :=
  BitVec.ofBoolListLE ((List.range 16).map fun i =>
    m.getLsbD (4 * i) || m.getLsbD (4 * i + 1) || m.getLsbD (4 * i + 2) || m.getLsbD (4 * i + 3))

def countBits {n : Nat} (x : BitVec n) : Nat := (List.range n).countP fun i => x.getLsbD i

/-- The lanes a wave has (R16). -/
def waveLanes (width : Nat) : Mask := maskOf fun j => decide (j < width)

/-- The quads of a wave that have exited: all four lanes have (R17). -/
def Wave.exitedQuads (w : Wave) : BitVec 16 :=
  BitVec.ofBoolListLE ((List.range 16).map fun i => decide (4 * i < w.width) &&
    w.exited.getLsbD (4 * i) && w.exited.getLsbD (4 * i + 1) && w.exited.getLsbD (4 * i + 2) &&
    w.exited.getLsbD (4 * i + 3))

/-- The entries of a wave that hold a panel (R18). -/
def Wave.entries (w : Wave) : List Nat := (List.range 8).filter fun e => (w.panel e).valid

/-- The clause header's fields (R141). -/
def hdrN (h : Word) : Nat := bits 31 28 h.toNat
def hdrCls (h : Word) : Nat := bits 27 25 h.toNat
def hdrWait (h : Word) : Nat := bits 24 19 h.toNat
def hdrDrn (h : Word) : Bool := h.getLsbD 18
def hdrGe (h : Word) : Bool := h.getLsbD 17
def hdrGn (h : Word) : Bool := h.getLsbD 16
def hdrGp (h : Word) : Nat := bits 15 13 h.toNat
def hdrSlot (h : Word) : Nat := bits 12 10 h.toNat
def hdrStall (h : Word) : Nat := bits 9 4 h.toNat

/-- The guard of the panel's clause, lane by lane (R142). -/
def Panel.guard (p : Panel) (w : Wave) : Mask :=
  match p.clause with
  | none => BitVec.allOnes 64
  | some cl =>
    if hdrGe cl.word = false then BitVec.allOnes 64
    else if hdrGn cl.word then ~~~ (w.pred (hdrGp cl.word)) else w.pred (hdrGp cl.word)

/-- The active lanes: in the panel's mask with a true guard (R142, R166). -/
def Panel.active (p : Panel) (w : Wave) : Mask := p.mask &&& p.guard w

/-- 4 × (the panel's quads + the wave's exited quads) (R33). -/
def Panel.effWidth (p : Panel) (w : Wave) : Nat := 4 * (countBits p.qmask + countBits w.exitedQuads)

/-! ## Moving past an instruction -/

/-- The panel after the instruction of `len` words at its PC, at cycle `now`: the PC advances, and after a clause's last
instruction the next word is a header and the stall hint holds the panel (R140, R144); a mixed clause issues at most
every second cycle (R145). -/
def Panel.advance (p : Panel) (len now : Nat) : Panel :=
  match p.clause with
  | none => { p with pc := (p.pc + 4 * len) % 2 ^ 57, doneAt := now, got := [] }
  | some cl =>
    if hdrN cl.word ≤ cl.pos + 1 then
      { p with
        pc := (p.pc + 4 * len) % 2 ^ 57, clause := none, doneAt := now, got := []
        hinted := if hdrStall cl.word = 0 then none else some p.entered
        hold := if hdrStall cl.word = 0 then (if hdrCls cl.word = 7 then now + 2 else p.hold) else now + 1 + hdrStall cl.word }
    else
      { p with
        pc := (p.pc + 4 * len) % 2 ^ 57, clause := some { cl with pos := cl.pos + 1, fresh := false }, doneAt := now, got := []
        hinted := none
        hold := if hdrCls cl.word = 7 then now + 2 else p.hold }

def State.advance (s : State) (c : Cur) : State := s.setPanel c ((s.panel c).advance c.len s.cycle)

/-- The instruction is complete: the panel moves past it (assumption 4, DESIGN CHOICE). -/
def finish (c : Cur) (s : State) : Out := .next (s.advance c)

/-- A control transfer: the panel continues at a clause header (R140). -/
def Panel.jump (p : Panel) (target : Nat) (now : Nat) : Panel :=
  { p.advance 1 now with pc := target % 2 ^ 57, clause := none }

/-! ## Progress inside an instruction (R61) -/

/-- The progress of the panel's own instruction: %px, which in a handler is that of the interrupted instruction (R353; assumption
80, DEDUCED). -/
def Panel.progress (p : Panel) : Word := if p.frame.isSome then p.hpx else p.px
def Panel.setProgress (p : Panel) (x : Word) : Panel := if p.frame.isSome then { p with hpx := x } else { p with px := x }
def State.setProgress (s : State) (c : Cur) (x : Nat) : State := s.setPanel c ((s.panel c).setProgress (BitVec.ofNat 32 x))

/-- The bytes of a layout record (R118). -/
def recordSize : Nat := 192

/-- The next step of an instruction of several: of what it has read only the record stays (R120). -/
def Panel.nextStep (p : Panel) : Panel := { p with got := p.got.filter fun g => g.2.length == recordSize }

/-! ## Exceptions -/

/-- A clause that is resumed in its middle: WAIT and DRN are re-applied (R146) (assumption 56, DEDUCED). -/
def Clause.resumed (x : Clause) : Clause := { x with fresh := true }

/-- The places of %xcause (R352). -/
structure Cause where
  cause : Nat
  info : Nat := 0
  write : Bool := false
  fetch : Bool := false
  loc : Bool := false
  mcode : Bool := false
  addr : Nat := 0
  deriving DecidableEq, Repr

def Cause.word (x : Cause) : Word :=
  BitVec.ofNat 32 (x.cause + x.info % 256 * 2 ^ 16 + x.write.toNat * 2 ^ 24 + x.fetch.toNat * 2 ^ 25 +
    x.loc.toNat * 2 ^ 26 + x.mcode.toNat * 2 ^ 27)

/-- What %xpc holds (R352): the instruction's address, or that of the clause header for a header trap or a fetch fault. -/
def Panel.trapPc (p : Panel) (onInstr : Bool) : Nat :=
  match p.clause with
  | none => p.pc
  | some cl => if onInstr then p.pc else cl.addr

/-- The panel at the entry of its handler (R353): the frame keeps the resume PC and clause, %xcause, %xpc and %xaddr are
written, STATE becomes TRAP and the panel continues at the trap base. `after`: the trap resumes behind the instruction
(R202). -/
def Panel.enterTrap (p : Panel) (x : Cause) (tba len now gen : Nat) (after onInstr : Bool) : Panel :=
  let q := if after then p.advance len now else p
  { p with
    frame := some { pc := q.pc, clause := q.clause, onInstr := onInstr, len := len, gen := gen }
    xcause := x.word, xpc := BitVec.ofNat 64 (p.trapPc onInstr), xaddr := BitVec.ofNat 64 x.addr
    pc := tba, clause := none, status := .run, wait := none, waitct := 0, hold := now, hpx := 0, got := [] }

/-- The `gen.inc` that a panel waits in (R358), with its address space: what it waits for is its new generation, with the ASN
above it. -/
def Panel.changes (p : Panel) (asn : Nat) : Bool :=
  match p.wait with
  | none => false
  | some x =>
    match x.instr with
    | .genInc .. => x.aux / 2 ^ 16 == asn
    | _ => false

/-- A generation change of an address space is under way (R139, R358). -/
def State.changing (s : State) (p asn : Nat) : Bool :=
  s.waves.any fun e => e.2.alive && ((s.wg? e.2.wg).map s.wgPart) == some p && e.2.entries.any fun k => (e.2.panel k).changes asn

/-- The generation in force in the contexts of an address space (R138): while a change is under way, still the old one, so that
what issues then is judged at the home L2 as older (assumption 90, DESIGN CHOICE). -/
def State.contextGen (s : State) (p asn : Nat) : Nat :=
  if s.changing p asn then (s.genOf p asn + 2 ^ 16 - 1) % 2 ^ 16 else s.genOf p asn

/-- A precise trap on a panel (R353): with no handler, or in its handler already, the gang ends with error 0x12 (R353,
R354). -/
def State.takeTrap (s : State) (c : Cur) (x : Cause) (after : Bool := false) (onInstr : Bool := true) : State :=
  let w := s.wave c.wid
  let p := w.panel c.entry
  match s.wg? w.wg with
  | none => s
  | some wg =>
    if p.frame.isSome || wg.tba == 0 then s.endWithRecord c.wid c.entry 0x12 (p.trapPc onInstr)
    else
      let part := s.wgPart wg
      let s := s.setPanel c (p.enterTrap x wg.tba c.len s.cycle (s.contextGen part (s.wgAsn wg)) after onInstr)
      let q := s.panel c
      if (s.part part).dbgctl.getLsbD 8 then
        s.traceRecord part 0x06 (x.word.toNat % 256) (dieByte (c.wid / 64))
          (panelBlock c.wid c.entry q.stateCode q.qmask.toNat q.pc) 1
      else s

def trapTo (c : Cur) (x : Cause) (s : State) : Out := .next (s.takeTrap c x)

/-- The precise illegal trap (R156). -/
def illegal (c : Cur) (s : State) : Out := trapTo c { cause := 0x01 } s

/-- A panel back from its handler (R354, R202): the frame is restored, and %xcause, %xpc and %xaddr read zero. The
clause's WAIT and DRN are waited for again (R146). -/
def Panel.leaveTrap (p : Panel) (f : Frame) : Panel :=
  { p with
    pc := f.pc, frame := none, xcause := 0, xpc := 0, xaddr := 0, status := .run
    clause := f.clause.map Clause.resumed }

/-- A failed local access (R106): a precise trap with the 32-bit local address (R352). -/
def localTrap (c : Cur) (write : Bool) (e : LFail) (addr : Nat) (s : State) : Out :=
  trapTo c
    { cause := (match e with
        | .range => 0x14
        | .access => 0x15
        | .align => 0x13)
      write := write, loc := true, addr := addr } s

/-! ## The context of a panel -/

/-- Who a panel's accesses are made for (R130, R138): its core, partition, address space and the generation of its context; with what
its instruction has read already. -/
def State.laneAcc (s : State) (c : Cur) : Acc :=
  match s.wg? (s.wave c.wid).wg with
  | none => { core := some (c.wid / 64), part := 0, asn := 0, gen := 0 }
  | some wg =>
    let p := s.wgPart wg
    let a := s.wgAsn wg
    { core := some (c.wid / 64), part := p, asn := a, gen := s.contextGen p a, got := (s.panel c).got }

/-- A handle is bound (R55). -/
def handleBound (h : Word) : Bool := h.getLsbD 31

/-- Privileged code (R355): SYSP, or HPRIV in a trap handler. -/
def State.privileged (s : State) (c : Cur) : Bool :=
  let a := s.laneAcc c
  let e := s.astRaw a.part a.asn
  astSysp e || (astHpriv e && (s.panel c).frame.isSome)

def emptyWg : Workgroup :=
  { gid := 0, lid := 0, index := 0, gwg := 0, core := 0, wbase := 0, wsize := 0, abase := 0, asize := 0, cbase := 0,
    csize := 0, handles := [], pw := [], tba := 0, slots := [], inPorts := [], outPorts := [], closed := [], node := 0,
    retired := true }

def State.curWg (s : State) (c : Cur) : Workgroup := (s.wg? (s.wave c.wid).wg).getD emptyWg

/-- A failed access of a lane or a fetch (R347, R349): a precise trap; a poisoned line on the way ends the gang (R364). -/
def accessTrap (c : Cur) (write fetch : Bool) (e : XFail) (s : State) : Out :=
  match e with
  | .poison _ => .next (s.endGang (s.curWg c).gid 0x10)
  | .dead _ => .next (s.endGang (s.curWg c).gid 0x11)
  | .fail cause sub addr => trapTo c { cause := cause, info := sub, write := write, fetch := fetch, addr := addr } s

/-- The gang of a wave executes: it is not on its way to a save (R360). -/
def State.waveRuns (s : State) (wid : Nat) : Bool :=
  match (s.wg? (s.wave wid).wg).bind fun w => s.gang? w.gid with
  | none => false
  | some g => g.pre == .run && !g.done

/-- The gang of a wave executes, or comes to the boundaries at which it can be saved (R360). -/
def State.waveEnds (s : State) (wid : Nat) : Bool :=
  match (s.wg? (s.wave wid).wg).bind fun w => s.gang? w.gid with
  | none => false
  | some g => (g.pre == .run || g.pre == .stopping) && !g.done

/-- IDENT (R386): generation 2, the compute cores not retired once their dies are up, and STAGE. -/
def State.identWord (s : State) : DWord :=
  let n := if s.stage < 3 ∧ s.idle = false then 0 else 384 - (s.retired.filter (· < 384)).length
  BitVec.ofNat 64 (0x9600 * 2 ^ 48 + 2 * 2 ^ 40 + n * 2 ^ 16 + s.stage)

def State.showIdent (s : State) : State := { s with regs := { s.regs with ident := s.identWord } }
def State.atStage (s : State) (n : Nat) : State := { s with stage := n }.showIdent

/-- An idle module begins to wake (R404). -/
def State.wakeUp (s : State) : State := if s.stage = 7 then s.atStage 1 else s

end Sys2Proof.Machine
end

