-- ==== Sys2Proof/Machine/Flags.lean ====
section
/-! DEFINITION. The flags and controls of %fpc and %mcr (03 R58-R60, 04 R72), and every flag computation of the integer
forms (09 R169, R170). Float flags come with each rounding (Machine/Exact.lean). -/

namespace Sys2Proof.Machine

/-- Sets sticky flags of %fpc (R72): none is ever cleared by hardware. -/
def Panel.raise (p : Panel) (fl : Word) : Panel := { p with fpc := p.fpc ||| (fl &&& 0xFF) }

/-- Sets NEGVAR in %mcr (R60). -/
def Panel.raiseNegvar (p : Panel) (b : Bool) : Panel := if b then { p with mcr := p.mcr ||| 0x100 } else p

/-- %fpc.RM (R59). -/
def fpcMode (fpc : Word) : Mode :=
  match bits 17 16 fpc.toNat with
  | 0 => .rne
  | 1 => .rtz
  | 2 => .rup
  | _ => .rdn

/-- %fpc.FTZ (R59). -/
def fpcFtz (fpc : Word) : Bool := fpc.getLsbD 18

/-- The rounding mode of an instruction: its suffix, or %fpc.RM (R69). -/
def modeOf (r : Rnd) (fpc : Word) : Mode :=
  match r with
  | .dflt => fpcMode fpc
  | .rne => .rne
  | .rtz => .rtz
  | .rup => .rup
  | .rdn => .rdn

/-- %mcr.NVC (R60). -/
def mcrClamp (mcr : Word) : Bool := mcr.getLsbD 2

/-- The flags of all the active lanes of an instruction (R72, R166). -/
def orFlags (l : List Word) : Word := l.foldl (fun x y => x ||| y) 0

/-- What an integer form delivers of its exact value (R65, R169): wrapped, or saturated with SAT. -/
def deliverInt (w : Nat) (signed sat : Bool) (x : Int) : Nat × Word :=
  if sat then
    let r := saturate w signed x
    (wrap w r.1, if r.2 then fSAT else 0)
  else (wrap w x, 0)

/-- A write of a control register (R58-R60, R194): read-only registers and fields keep their values, reserved fields
take zero, and COV = 3 leaves COV and raises INV. -/
def Panel.writeControl (p : Panel) (c : Nat) (x : Word) : Panel :=
  if c = 0 then { p with fpc := x &&& 0x0007FFFF }
  else if c = 1 then
    if x &&& 3 = 3 then { p with mcr := (x &&& 0x10C) ||| (p.mcr &&& 3), fpc := p.fpc ||| fINV }
    else { p with mcr := x &&& 0x10F }
  else p

/-- A read of a control register (R58, R61): %tba is the workgroup's. -/
def Panel.readControl (p : Panel) (tba c : Nat) : DWord :=
  if c = 0 then p.fpc.setWidth 64
  else if c = 1 then p.mcr.setWidth 64
  else if c = 2 then p.px.setWidth 64
  else if c = 3 then BitVec.ofNat 64 tba
  else if c = 4 then p.xcause.setWidth 64
  else if c = 5 then p.xpc
  else if c = 6 then p.xaddr
  else 0

/-- The condition of `trapf` (R206): an enabled flag of %fpc, or NEGVAR with NVT. -/
def Panel.arithmetic (p : Panel) : Nat :=
  (p.fpc.toNat % 256 &&& (p.fpc.toNat / 256 % 256)) + (if p.mcr.getLsbD 8 && p.mcr.getLsbD 3 then 256 else 0)

end Sys2Proof.Machine
end

