-- ==== Sys2Proof/WellFormed.lean ====
section
/-! DEFINITION. Which instructions have an encoding: every operand of a kind its field admits (08 R148, R149)
and every number within its field (08 R150-R153 and the instruction chapters). -/

namespace Sys2Proof

/-- A lane source its code can name (R148). -/
def Src.wf : Src → Bool
  | .v n => n < 192
  | .o n => n < 16
  | .s k => k < 8
  | .g n => n < 32
  | _ => true

/-- A 64-bit lane source (R149). -/
def Src.wf64 : Src → Bool
  | .v n => n < 192 && n % 2 == 0
  | .o n => n < 16 && n % 2 == 0
  | .s k => k < 8
  | .g n => n < 32
  | .lane => false
  | .quad => false
  | _ => true

def Src.isLit : Src → Bool
  | .lit _ => true
  | _ => false

def Src.isStream : Src → Bool
  | .s _ => true
  | _ => false

/-- A source of the width of an operand type. -/
def Src.wfOf (wide : Bool) (a : Src) : Bool := if wide then a.wf64 else a.wf

/-- A source in a form whose extension word carries no literal (R147). -/
def Src.wfLong (wide : Bool) (a : Src) : Bool := a.wfOf wide && !a.isLit

/-- Two operands that both name the literal name one literal (R147). -/
def Src.sameLit : Src → Src → Bool
  | .lit a, .lit b => a == b
  | _, _ => true

def Dst.wf : Dst → Bool
  | .v n => n < 192
  | .o n => n < 16
  | .s k => k < 8
  | .zero => true

def Dst.wf64 : Dst → Bool
  | .v n => n < 192 && n % 2 == 0
  | .o n => n < 16 && n % 2 == 0
  | .s _ => false
  | .zero => true

def Dst.wfOf (wide : Bool) (d : Dst) : Bool := if wide then d.wf64 else d.wf

def Dst.isStream : Dst → Bool
  | .s _ => true
  | _ => false

/-- A lane destination that may not be a stream (R209, R220, R223). -/
def Dst.wfReg (d : Dst) : Bool := d.wf && !d.isStream

def GSrc.wf : GSrc → Bool
  | .g n => n < 32
  | _ => true

def GSrc.isLit : GSrc → Bool
  | .lit _ => true
  | _ => false

def GSrc.wfLong (a : GSrc) : Bool := a.wf && !a.isLit

def GSrc.sameLit : GSrc → GSrc → Bool
  | .lit a, .lit b => a == b
  | _, _ => true

def GDst.wf : GDst → Bool
  | .g n => n < 32
  | .zero => true

def VReg.wf : VReg → Bool
  | .v n => n < 192
  | .o n => n < 16

/-- The first of four registers (R255). -/
def VReg.wf4 : VReg → Bool
  | .v n => n < 192 && n % 4 == 0
  | .o n => n < 16 && n % 4 == 0

/-- A type of 64 bits (R167). -/
def IntTy.wide : IntTy → Bool
  | .i64 => true
  | .n64 => true
  | _ => false

def IntTy.signed : IntTy → Bool
  | .i32 => true
  | .i64 => true
  | _ => false

def IntTy.width (t : IntTy) : Nat := if t.wide then 64 else 32

def FloatTy.wide : FloatTy → Bool
  | .f64 => true
  | _ => false

def Fmt.wide : Fmt → Bool
  | .f64 => true
  | .i64 => true
  | .n64 => true
  | _ => false

def RedTy.wide : RedTy → Bool
  | .int t => t.wide
  | .f32 => false

def AtomTy.wide : AtomTy → Bool
  | .int t => t.wide
  | .f32 => false

/-- The f32 type is admitted with three reductions only (R190). -/
def RedTy.admits : RedTy → RedOp → Bool
  | .f32, .and => false
  | .f32, .or => false
  | .f32, .xor => false
  | _, _ => true

def RedDst.wf (wide : Bool) : RedDst → Bool
  | .lane d => d.wfOf wide
  | .g n => n < 32

/-- A field of `bfx` and `bfi` (R173). -/
def fieldWf (ty : IntTy) (pos width : Nat) : Bool :=
  pos < 64 && 1 ≤ width && width ≤ 64 && pos + width ≤ ty.width

/-- The compare conditions without the two of NaN (R155). -/
def Cond.ordered : Cond → Bool
  | .un => false
  | .ord => false
  | _ => true

/-- The conditions of the local forms of R151: no eviction priority. -/
def MemWord.plain (m : MemWord) : Bool := m.evp == 0 && !m.evo

def Size.bytes : Size → Nat
  | .n8 => 1 | .i8 => 1 | .n16 => 2 | .i16 => 2 | .b32 => 4 | .b64 => 8 | .b128 => 16

/-- The destination of a load of a size (R209). -/
def Size.dstWf : Size → Dst → Bool
  | .b64, d => d.wf64
  | .b128, .v n => n < 192 && n % 4 == 0
  | .b128, .zero => true
  | .b128, _ => false
  | _, d => d.wfReg

/-- The data operand of a store of a size (R210) (assumption 78, DEDUCED). -/
def Size.srcWf : Size → Src → Bool
  | .b64, b => b.wfLong true
  | .b128, .v n => n < 192 && n % 4 == 0
  | .b128, .zero => true
  | .b128, _ => false
  | .i8, _ => false
  | .i16, _ => false
  | _, b => b.wfLong false

def AtomTy.admits : AtomTy → AtomOp → Bool
  | .f32, op => op == .fadd
  | _, _ => true

def Coll.wf : Coll → Bool
  | .upper k => k.wfLong
  | .lower k => k.wfLong
  | .sample z => z.wfLong false
  | _ => true

def optBelow (n : Nat) : Option Nat → Bool
  | none => true
  | some k => k < n

def Shape.wf : Shape → Bool
  | .regs n => n ≤ 23
  | .record h => h.wfLong

/-- Two-operand forms: short with literal, long without. -/
def wfShort2 (wide : Bool) (d : Dst) (a b : Src) : Bool :=
  d.wfOf wide && a.wfOf wide && b.wfOf wide && a.sameLit b
def wfShort1 (wide : Bool) (d : Dst) (a : Src) : Bool := d.wfOf wide && a.wfOf wide
def wfLong2 (wide : Bool) (d : Dst) (a b : Src) : Bool := d.wfOf wide && a.wfLong wide && b.wfLong wide
def wfLong1 (wide : Bool) (d : Dst) (a : Src) : Bool := d.wfOf wide && a.wfLong wide
def wfLong3 (wide : Bool) (d : Dst) (a b c : Src) : Bool := wfLong2 wide d a b && c.wfLong wide
def wfCmp (wide : Bool) (p : Nat) (a b : Src) : Bool := p < 8 && a.wfLong wide && b.wfLong wide
def wfGroup2 (d : GDst) (a b : GSrc) : Bool := d.wf && a.wf && b.wf && a.sameLit b

/-- Whether an instruction has a place in code at all: the events of the machine have none. -/
def Instr.coded : Instr → Bool
  | .barrierWaitDone .. | .seamTimeout .. | .yieldExpiry .. | .copyLanding .. | .lflushComplete .. | .mloopComplete ..
  | .msoftComplete .. | .emitWake .. | .pullWake .. | .endOfStreamAppend .. | .traversalComplete .. | .mestComplete ..
  | .tlbiComplete .. | .genChangeComplete .. | .clauseHeader .. | .stallHintExpiry .. | .variableLatencyResult ..
  | .missSplit .. | .forcedFuseIssue .. | .storeDrain .. | .staleGenerationReject .. | .heldEngineFault .. | .fqreply ..
  | .savePoolBind .. | .savePoolUnbind .. | .preempt .. | .gangSave .. | .gangSaveComplete .. | .gangRestore ..
  | .uncorrectableError .. | .doorbellWrite .. | .qcfgWrite .. | .nopPacket .. | .gridPacket .. | .patternPacket ..
  | .waitPacket .. | .waitPacketSatisfied .. | .illegalPacket .. | .patternPlacement .. | .gangPlacement ..
  | .residencyReport .. | .stealMessage .. | .dbgStop .. | .stopComplete .. | .dbgResume .. | .dbgStep .. | .dbgRead ..
  | .dbgWrite .. | .dbgReadpt .. | .dbgWrpc .. | .dbgReadcnt .. | .traceSample .. | .logGapEntry .. | .mirrorStrobe ..
  | .headEnable .. | .headDisable .. | .descriptorTake .. | .writebackFrameStart .. | .bandLaunch .. | .bandDeadline ..
  | .bandFixedFilter .. | .bandScanout .. | .fallbackRecord .. | .rasterTriangle .. | .blendRecord ..
  | .blendEndOfStream .. | .travRay .. | .partSet .. | .partReset .. | .keyLoad .. | .attest .. | .cert ..
  | .imageLoad .. | .linkTrain .. | .linkRetrain .. | .linkDisable .. | .fwUpdate .. | .idle | .wake | .bringupStage ..
  | .moduleReset | .powerRemoval | .clockThrottle .. | .thermalTrip | .hostWindowAccess .. | .ualinkLinkFailure ..
  | .uetRemoteAccess .. | .registerWrite .. | .ualinkPeerAccess .. => false
  | _ => true

/-- Every operand of a code form fits its field. -/
def Instr.WellFormed : Instr → Bool
  | .add d a b | .sub d a b | .adds d a b | .subs d a b | .mul d a b | .mulh d a b | .and d a b | .or d a b
  | .xor d a b | .andn d a b | .shl d a b | .shr d a b | .min d a b | .max d a b | .absd d a b => wfShort2 false d a b
  | .addLong ty _ d a b | .subLong ty _ d a b | .mulLong ty _ d a b => wfLong2 ty.wide d a b
  | .addsLong ty d a b | .subsLong ty d a b | .mulhLong ty d a b | .andLong ty d a b | .orLong ty d a b
  | .xorLong ty d a b | .andnLong ty d a b | .shlLong ty d a b | .shrLong ty d a b | .minLong ty d a b
  | .maxLong ty d a b | .absdLong ty d a b => wfLong2 ty.wide d a b
  | .mad ty _ d a b c => wfLong3 ty.wide d a b c
  | .popc d a | .clz d a | .brev d a | .mov d a => wfShort1 false d a
  | .popcLong ty d a | .clzLong ty d a | .brevLong ty d a | .movLong ty d a => wfLong1 ty.wide d a
  | .bfx ty d a pos width => wfLong1 ty.wide d a && fieldWf ty pos width
  | .bfi ty d a b pos width => wfLong2 ty.wide d a b && fieldWf ty pos width
  | .icmp cond ty p a b => cond.ordered && wfCmp ty.wide p a b
  | .sel ty d a b p => wfLong2 ty.wide d a b && decide (p < 8)
  | .fadd d a b | .fsub d a b | .fmul d a b | .fmin d a b | .fdiv d a b | .fsgn d a b | .hadd2 d a b
  | .hmul2 d a b | .shfl d a b => wfShort2 false d a b
  | .faddLong _ d a b | .fsubLong _ d a b | .fmulLong _ d a b | .fdivLong _ d a b => wfLong2 false d a b
  | .ffma _ d a b c => wfLong3 false d a b c
  | .ffma3 _ d a b c e => wfLong3 false d a b c && e.wfLong false
  | .fminLong _ d a b => wfLong2 false d a b
  | .fcmp _ p a b => wfCmp false p a b
  | .frcp d a | .frsq d a | .fsqrt d a | .fexp2 d a | .flog2 d a | .fsin d a | .fclass d a => wfShort1 false d a
  | .frcpLong _ d a | .frsqLong _ d a | .fsqrtLong _ d a | .fexp2Long _ d a | .flog2Long _ d a
  | .fsinLong _ _ d a => wfLong1 false d a
  | .fclassLong ty d a => d.wf && a.wfLong ty.wide
  | .fsgnLong wide which d a b =>
    d.wfOf wide && a.wfLong wide && (match which with
      | .neg => b == .zero
      | .abs => b == .zero
      | _ => b.wfLong wide)
  | .dadd d a b | .dmul d a b | .ddiv d a b | .dmin d a b => wfShort2 true d a b
  | .daddLong _ d a b | .dmulLong _ d a b | .ddivLong _ d a b | .dminLong _ d a b => wfLong2 true d a b
  | .dfma _ d a b c => wfLong3 true d a b c
  | .dsqrt d a => wfShort1 true d a
  | .dsqrtLong _ d a => wfLong1 true d a
  | .dcmp _ p a b => wfCmp true p a b
  | .hadd2Long _ _ d a b | .hmul2Long _ _ d a b | .shflLong _ d a b => wfLong2 false d a b
  | .hfma2 _ _ d a b c => wfLong3 false d a b c
  | .cvt dst src _ d a => d.wfOf dst.wide && a.wfLong src.wide
  | .pk which _ d a b c =>
    wfLong2 false d a b && (match which with
      | .f16 => c == .zero
      | .bf16 => c == .zero
      | _ => c.wfLong false)
  | .qswz d a _ => wfLong1 false d a
  | .vote _ p q => p < 8 && q < 8
  | .ballot d q => d.wf && decide (q < 8)
  | .wred op ty d a => ty.admits op && d.wf ty.wide && a.wfLong ty.wide
  | .wscan op _ ty d a => ty.admits op && wfLong1 ty.wide d a
  | .gadd d a b | .gsub d a b | .gmul d a b | .gand d a b | .gor d a b | .gxor d a b | .gshLeft d a b
  | .gshRight d a b => wfGroup2 d a b
  | .gmov d a => d.wf && a.wf
  | .gmovCtl c a => decide (c ≤ 6) && a.wf
  | .gcmp cond _ gp a b => cond.ordered && decide (gp < 4) && a.wfLong && b.wfLong
  | .gread d c => d.wf && decide (c ≤ 6)
  | .plog grp d a b _ => if grp then d < 4 && a < 4 && b < 4 else d < 8 && a < 8 && b < 8
  | .pmask p a => decide (p < 8) && a.wf
  | .brc _ q _ | .brcSplit _ q _ => q < 8
  | .call d _ => d.wf
  | .ret a => a.wf
  | .ld m d a => m.sz.dstWf d && a.wfLong true
  | .st m a b => m.sz.srcWf b && a.wfLong true
  | .lds m d a => m.plain && m.sz.dstWf d && a.wfLong false
  | .sts m a b => m.plain && m.sz.srcWf b && a.wfLong false
  | .ldp m d win b => m.plain && m.sz != .b128 && m.sz.dstWf d && decide (win < 8) && b.wfLong false
  | .atom op ty _ _ loc d a b => ty.admits op && d.wfOf ty.wide && a.wfLong (!loc) && b.wfLong ty.wide
  | .cas ty _ _ loc d a n c => d.wfOf ty.wide && a.wfLong (!loc) && n.wfLong ty.wide && c.wfLong ty.wide
  | .sdef k shape c _ => decide (k < 8) && shape.wf && c.wfLong
  | .sxi d sa sb cnt gpa gpb steps =>
    d.wfReg && sa < 8 && sb < 8 && sa != sb && cnt.wf && gpa < 4 && gpb < 4 && 1 ≤ steps && steps ≤ 64
  | .sadvSkip gp k b | .sadvGe gp k b => gp < 4 && k < 8 && b.wf
  | .barr d h | .sbar d h => d.wf && decide (h < 16)
  | .bwait d h n | .bexp d h n => d.wf && decide (h < 16) && n.wf
  | .copy _ _ _ _ bh l h gx => decide (bh < 16) && l.wfLong && h.wfLong && decide (gx ≤ 29)
  | .lflush _ h => h.wf
  | .qpost _ d q a => d.wf && q.wfLong && a.wfLong
  | .sread d k b => d.wfReg && decide (k < 8) && b.wf
  | .swrite v k b => v.wf && !v.isStream && decide (k < 8) && b.wf && v.sameLit b
  | .mloop areg g bh fb ksteps _ _ _ _ =>
    (match areg with
      | none => true
      | some a => a < 192 && a % 4 == 0) && g ≤ 28 && bh < 16 && fb < 8 && 1 ≤ ksteps && ksteps < 4096
  | .maccGet mom d c nreg str | .maccPut mom d c nreg str =>
    decide (d < 192) && (!mom || d % 2 == 0) && c.wfLong && 1 ≤ nreg && nreg ≤ 16 && str.toNat % 4 == 0
  | .msoft pout g bh _ _ _ => pout.wfLong && g ≤ 30 && bh < 16
  | .fbset k part a b =>
    decide (k < 8) && (match part with
      | .both => a.wfLong && b.wfLong
      | .lo => a.wfLong && b == .zero
      | .hi => a == .zero && b.wfLong)
  | .madd d a b | .mmul d a b => d < 96 && a < 96 && b < 96
  | .maddLong _ _ d a b | .mmulLong _ d a b => d < 96 && a < 96 && b < 96
  | .mnl _ d a => d < 96 && a < 96
  | .mcoll mode d a => mode.wf && d.wf && decide (a < 96)
  | .mmq fmt _ ksteps g => fmt ≤ 5 && 1 ≤ ksteps && ksteps < 4096 && g ≤ 30
  | .ldq m d a => m.sz == .b32 && d.wf4 && a.wfLong true
  | .sample _ pse d a h => optBelow 8 pse && d < 192 && d % 4 == 0 && a < 192 && a % 4 == 0 && h.wfLong
  | .gath ne pse d a h => 1 ≤ ne && ne ≤ 4 && optBelow 8 pse && d.wf && decide (a < 192) && h.wfLong
  | .texqSize d h b | .texqRes d h b =>
    d.wf64 && h.wf && b.wf && (match h, b with
      | .lit x, .lit y => x == y
      | _, _ => true)
  | .emit _ port va kn => decide (port < 8) && va.wf && kn.wf
  | .emitClose _ port => port < 8
  | .pull _ d port nreg => d.wf && decide (port < 8) && decide (nreg < 64)
  | .trace port _ _ _ d a root =>
    optBelow 8 port && d < 192 && d % 4 == 0 && a < 192 && a % 4 == 0 && root.wfLong
  | .traceResume port d a t => optBelow 8 port && d < 192 && d % 4 == 0 && a < 192 && a % 4 == 0 && t.wfLong false
  | .disc _ p => p < 8
  | .mest g bh nbx _ range => g ≤ 29 && bh < 16 && 1 ≤ nbx && nbx ≤ 64 && 1 ≤ range && range ≤ 64
  | .ctxFwd d | .ctxFqpop d => d.wf
  | .ctxEnd a b => a.wfLong && b.wfLong
  | .ctxReply d a b => d.wf && a.wfLong && b.wfLong
  | .tlbi _ a b => a.wfLong && b.wfLong
  | .genInc d a | .genRd d a => d.wf && a.wf
  | .reservedOpcode w => 0x78 ≤ w.toNat / 2 ^ 25
  | _ => true

end Sys2Proof
end

