-- ==== Sys2Proof/Machine/Operands.lean ====
section
/-! DEFINITION. Operands: what every form names and how wide, the checks of decode that need the panel's context (08
R145, R157, R158, 03 R47, 02 R31, R32), the values sources deliver (03 R46) and the writing of destinations. -/

namespace Sys2Proof.Machine

/-- What an instruction names: lane operands with their number of registers, group operands, predicates. -/
structure Uses where
  dst : List (Dst × Nat) := []
  src : List (Src × Nat) := []
  gdst : List GDst := []
  gsrc : List GSrc := []
  pdst : List Nat := []
  psrc : List Nat := []
  gpdst : List Nat := []
  gpsrc : List Nat := []
  /-- first registers of groups whose lengths only a layout record gives (R290) -/
  first : List Nat := []

def lw (wide : Bool) : Nat := if wide then 2 else 1

def sizeCount : Size → Nat
  | .b64 => 2
  | .b128 => 4
  | _ => 1

def u2 (wide : Bool) (d : Dst) (a b : Src) : Uses := { dst := [(d, lw wide)], src := [(a, lw wide), (b, lw wide)] }
def u1 (wide : Bool) (d : Dst) (a : Src) : Uses := { dst := [(d, lw wide)], src := [(a, lw wide)] }
def u3 (wide : Bool) (d : Dst) (a b c : Src) : Uses :=
  { dst := [(d, lw wide)], src := [(a, lw wide), (b, lw wide), (c, lw wide)] }
def uCmp (wide : Bool) (p : Nat) (a b : Src) : Uses := { pdst := [p], src := [(a, lw wide), (b, lw wide)] }
def uG (d : GDst) (a b : GSrc) : Uses := { gdst := [d], gsrc := [a, b] }
def gRun (n k : Nat) : List GSrc := (List.range k).map fun i => .g (n + i)
def VReg.dst : VReg → Dst
  | .v n => .v n
  | .o n => .o n
def VReg.src : VReg → Src
  | .v n => .v n
  | .o n => .o n
/-- See assumption 79, DEDUCED. -/
def optP (p : Option Nat) : List Nat := p.toList

/-- The registers of the payload that an `emit` names with a literal (R286). -/
def emitRegs : GSrc → Nat
  | .lit w => bits 13 8 w.toNat + 1
  | _ => 1

/-- The operands of every form (R154 and the instruction chapters). -/
def usesOf : Instr → Uses
  | .add d a b | .sub d a b | .adds d a b | .subs d a b | .mul d a b | .mulh d a b | .and d a b | .or d a b
  | .xor d a b | .andn d a b | .shl d a b | .shr d a b | .min d a b | .max d a b | .absd d a b | .fadd d a b
  | .fsub d a b | .fmul d a b | .fmin d a b | .fdiv d a b | .fsgn d a b | .hadd2 d a b | .hmul2 d a b
  | .shfl d a b => u2 false d a b
  | .addLong ty _ d a b | .subLong ty _ d a b | .mulLong ty _ d a b | .addsLong ty d a b | .subsLong ty d a b
  | .mulhLong ty d a b | .andLong ty d a b | .orLong ty d a b | .xorLong ty d a b | .andnLong ty d a b
  | .shlLong ty d a b | .shrLong ty d a b | .minLong ty d a b | .maxLong ty d a b
  | .absdLong ty d a b => u2 ty.wide d a b
  | .mad ty _ d a b c => u3 ty.wide d a b c
  | .popc d a | .clz d a | .brev d a | .mov d a | .frcp d a | .frsq d a | .fsqrt d a | .fexp2 d a | .flog2 d a
  | .fsin d a | .fclass d a => u1 false d a
  | .popcLong ty d a | .clzLong ty d a | .brevLong ty d a | .movLong ty d a => u1 ty.wide d a
  | .bfx ty d a _ _ => u1 ty.wide d a
  | .bfi ty d a b _ _ => u2 ty.wide d a b
  | .icmp _ ty p a b => uCmp ty.wide p a b
  | .sel ty d a b p => { u2 ty.wide d a b with psrc := [p] }
  | .faddLong _ d a b | .fsubLong _ d a b | .fmulLong _ d a b | .fdivLong _ d a b | .fminLong _ d a b => u2 false d a b
  | .ffma _ d a b c => u3 false d a b c
  | .ffma3 _ d a b c e => { dst := [(d, 1)], src := [(a, 1), (b, 1), (c, 1), (e, 1)] }
  | .fcmp _ p a b => uCmp false p a b
  | .frcpLong _ d a | .frsqLong _ d a | .fsqrtLong _ d a | .fexp2Long _ d a | .flog2Long _ d a
  | .fsinLong _ _ d a => u1 false d a
  | .fclassLong ty d a => { dst := [(d, 1)], src := [(a, lw ty.wide)] }
  | .fsgnLong wide _ d a b => u2 wide d a b
  | .dadd d a b | .dmul d a b | .ddiv d a b | .dmin d a b => u2 true d a b
  | .daddLong _ d a b | .dmulLong _ d a b | .ddivLong _ d a b | .dminLong _ d a b => u2 true d a b
  | .dfma _ d a b c => u3 true d a b c
  | .dsqrt d a => u1 true d a
  | .dsqrtLong _ d a => u1 true d a
  | .dcmp _ p a b => uCmp true p a b
  | .hadd2Long _ _ d a b | .hmul2Long _ _ d a b | .shflLong _ d a b => u2 false d a b
  | .hfma2 _ _ d a b c => u3 false d a b c
  | .cvt out src _ d a => { dst := [(d, lw out.wide)], src := [(a, lw src.wide)] }
  | .pk _ _ d a b c => u3 false d a b c
  | .qswz d a _ => u1 false d a
  | .vote _ p q => { pdst := [p], psrc := [q] }
  | .ballot d q => { gdst := [d], psrc := [q] }
  | .wred _ ty (.lane d) a => u1 ty.wide d a
  | .wred _ ty (.g n) a => { gdst := [.g n], src := [(a, lw ty.wide)] }
  | .wscan _ _ ty d a => u1 ty.wide d a
  | .gadd d a b | .gsub d a b | .gmul d a b | .gand d a b | .gor d a b | .gxor d a b | .gshLeft d a b
  | .gshRight d a b => uG d a b
  | .gmov d a => { gdst := [d], gsrc := [a] }
  | .gmovCtl _ a => { gsrc := [a] }
  | .gcmp _ _ gp a b => { gpdst := [gp], gsrc := [a, b] }
  | .gread d _ => { gdst := [d] }
  | .plog grp d a b _ => if grp then { gpdst := [d], gpsrc := [a, b] } else { pdst := [d], psrc := [a, b] }
  | .pmask p a => { pdst := [p], gsrc := [a] }
  | .brc _ q _ | .brcSplit _ q _ => { psrc := [q] }
  | .call d _ => { gdst := [d] }
  | .ret a => { gsrc := [a] }
  | .ld m d a => { dst := [(d, sizeCount m.sz)], src := [(a, 2)] }
  | .st m a b => { src := [(a, 2), (b, sizeCount m.sz)] }
  | .lds m d a => { dst := [(d, sizeCount m.sz)], src := [(a, 1)] }
  | .sts m a b => { src := [(a, 1), (b, sizeCount m.sz)] }
  | .ldp m d _ b => { dst := [(d, sizeCount m.sz)], src := [(b, 1)] }
  | .atom _ ty _ _ loc d a b => { dst := [(d, lw ty.wide)], src := [(a, lw (!loc)), (b, lw ty.wide)] }
  | .cas ty _ _ loc d a n c =>
    { dst := [(d, lw ty.wide)], src := [(a, lw (!loc)), (n, lw ty.wide), (c, lw ty.wide)] }
  | .sdef _ (.regs n) c _ => { gsrc := c :: gRun n 9 }
  | .sdef _ (.record h) c _ => { gsrc := [c, h] }
  | .sxi d _ _ cnt gpa gpb _ => { dst := [(d, 1)], gdst := [cnt], gpdst := [gpa, gpb] }
  | .sadvSkip gp _ b | .sadvGe gp _ b => { gpdst := [gp], gsrc := [b] }
  | .barr d _ | .sbar d _ => { gdst := [d] }
  | .bwait d _ n | .bexp d _ n => { gdst := [d], gsrc := [n] }
  | .copy _ _ _ _ _ l h gx => { gsrc := l :: h :: gRun gx 3 }
  | .lflush _ h => { gsrc := [h] }
  | .qpost _ d q a => { gdst := [d], gsrc := [q, a] }
  | .sread d _ b => { dst := [(d, 1)], src := [(b, 1)] }
  | .swrite v _ b => { src := [(v, 1), (b, 1)] }
  | .mloop areg g _ _ _ _ _ _ _ =>
    { src := (match areg with
        | none => []
        | some a => [(.v a, 16)])
      gsrc := gRun g 4 }
  | .maccGet mom d c nreg _ => { dst := [(.v d, if mom then 2 * nreg else nreg)], gsrc := [c] }
  | .maccPut mom d c nreg _ => { src := [(.v d, if mom then 2 * nreg else nreg)], gsrc := [c] }
  | .msoft pout g _ _ _ _ => { gsrc := pout :: gRun g 2 }
  | .fbset _ _ a b => { gsrc := [a, b] }
  | .madd d a b | .mmul d a b => { dst := [(.v (2 * d), 2)], src := [(.v (2 * a), 2), (.v (2 * b), 2)] }
  | .maddLong _ _ d a b | .mmulLong _ d a b =>
    { dst := [(.v (2 * d), 2)], src := [(.v (2 * a), 2), (.v (2 * b), 2)] }
  | .mnl _ d a => { dst := [(.v (2 * d), 2)], src := [(.v (2 * a), 2)] }
  | .mcoll mode d a =>
    { dst := [(d, 1)]
      src := (.v (2 * a), 2) :: (match mode with
        | .sample z => [(z, 1)]
        | _ => [])
      gsrc := (match mode with
        | .upper k => [k]
        | .lower k => [k]
        | _ => []) }
  | .mmq _ _ _ g => { gsrc := gRun g 2 }
  | .ldq _ d a => { dst := [(VReg.dst d, 4)], src := [(a, 2)] }
  | .sample _ pse d a h => { dst := [(.v d, 4)], src := [(.v a, 4)], gsrc := [h], pdst := optP pse }
  | .gath ne pse d a h => { dst := [(VReg.dst d, ne)], gsrc := [h], pdst := optP pse, first := [a] }
  | .texqSize d h b | .texqRes d h b => { dst := [(d, 2)], src := [(b, 1)], gsrc := [h] }
  | .emit _ _ va kn => { src := [(VReg.src va, emitRegs kn)], gsrc := [kn] }
  | .pull _ d _ nreg => { dst := [(VReg.dst d, 1 + nreg)] }
  | .trace _ _ _ _ d a root => { dst := [(.v d, 8)], src := [(.v a, 8)], gsrc := [root] }
  | .traceResume _ d a t => { dst := [(.v d, 8)], src := [(.v a, 32), (t, 1)] }
  | .disc _ p => { psrc := [p] }
  | .mest g _ _ _ _ => { gsrc := gRun g 3 }
  | .ctxFwd d | .ctxFqpop d => { gdst := [d] }
  | .ctxEnd a b => { gsrc := [a, b] }
  | .ctxReply d a b => { gdst := [d], gsrc := [a, b] }
  | .tlbi _ a b => { gsrc := [a, b] }
  | .genInc d a | .genRd d a => { gdst := [d], gsrc := [a] }
  | _ => {}

/-- A run of registers of the main file or the operand file. -/
structure Run where
  o : Bool
  first : Nat
  n : Nat
  deriving DecidableEq, Repr

def srcRun : Src × Nat → Option Run
  | (.v k, n) => some { o := false, first := k, n := n }
  | (.o k, n) => some { o := true, first := k, n := n }
  | _ => none

def dstRun : Dst × Nat → Option Run
  | (.v k, n) => some { o := false, first := k, n := n }
  | (.o k, n) => some { o := true, first := k, n := n }
  | _ => none

/-- Inside the wave's registers (R47): v below the register count, o below 16. -/
def Run.fits (r : Run) (regs : Nat) : Bool := decide (r.first + r.n ≤ (if r.o then 16 else regs))

/-- A single operand, a pair or a 128-bit group (R157): the runs of `trace`, `pull`, `mloop` and the accumulators are none. -/
def Run.group (r : Run) : Bool := r.n == 1 || r.n == 2 || r.n == 4

/-- Sharing of registers that is not exact (R157). -/
def Run.clash (a b : Run) : Bool :=
  a.group && b.group && a.o == b.o && decide (a.first < b.first + b.n) && decide (b.first < a.first + a.n) && (a.first != b.first || a.n != b.n)

def Uses.srcRuns (u : Uses) : List Run := u.src.filterMap srcRun
def Uses.dstRuns (u : Uses) : List Run := u.dst.filterMap dstRun
def Uses.fits (u : Uses) (regs : Nat) : Bool :=
  (u.srcRuns ++ u.dstRuns).all (fun r => r.fits regs) && u.first.all fun k => decide (k < regs)
def Uses.overlap (u : Uses) : Bool := u.dstRuns.any fun d => u.srcRuns.any fun a => d.clash a

def srcStream : Src × Nat → Option Nat
  | (.s k, _) => some k
  | _ => none

def dstStream : Dst × Nat → Option Nat
  | (.s k, _) => some k
  | _ => none

/-- The stream registers an instruction names as operands (R31, R54), each once. -/
def Uses.srcStreams (u : Uses) : List Nat := (u.src.filterMap srcStream).eraseDups
def Uses.dstStreams (u : Uses) : List Nat := u.dst.filterMap dstStream

/-- The class of each form (R154): 0 ALU, 1 memory, 2 matrix, 3 async, 4 graphics, 5 moment, 6 control. -/
def classOf : Instr → Nat
  | .bra .. | .brc .. | .brcSplit .. | .call .. | .ret .. | .retTret | .exit | .seam .. | .yield | .trapf | .trap ..
  | .bkpt .. | .ctxSkip | .ctxFwd .. | .ctxEnd .. | .ctxFqpop .. | .ctxReply .. | .tlbi .. | .genInc .. | .genRd .. => 6
  | .ld .. | .st .. | .lds .. | .sts .. | .ldp .. | .atom .. | .cas .. | .fence .. | .sread .. | .swrite .. | .ldq .. => 1
  | .sdef .. | .sxi .. | .sadvSkip .. | .sadvGe .. | .barr .. | .bwait .. | .bexp .. | .copy .. | .lflush .. | .qpost ..
  | .sbar .. => 3
  | .mloop .. | .maccGet .. | .maccPut .. | .msoft .. | .fbset .. | .mmq .. => 2
  | .madd .. | .maddLong .. | .mmul .. | .mmulLong .. | .mnl .. | .mcoll .. => 5
  | .sample .. | .gath .. | .texqSize .. | .texqRes .. | .emit .. | .emitClose .. | .pull .. | .trace ..
  | .traceResume .. | .disc .. | .discAll | .mest .. => 4
  | _ => 0

/-- The forms that must be the last of their clause (R145). -/
def endsClause : Instr → Bool
  | .bra .. | .brc .. | .brcSplit .. | .call .. | .ret .. | .retTret | .exit | .seam .. | .yield => true
  | _ => false

/-- Admitted in every class at every position (R145). -/
def anyClass : Instr → Bool
  | .trapf | .trap .. | .bkpt .. => true
  | .mov .zero .zero => true
  | _ => false

/-- Class and position (R145, R158 step 2). -/
def positionOk (cl : Clause) (i : Instr) : Bool :=
  if endsClause i then cl.pos + 1 == hdrN cl.word
  else anyClass i || hdrCls cl.word == 7 || hdrCls cl.word == classOf i

/-- Privileged forms (R355, R356-R358). -/
def needsPrivilege : Instr → Bool
  | .ctxFqpop .. | .ctxReply .. | .tlbi .. | .genInc .. | .genRd .. => true
  | _ => false

/-- The minimum width (R31). -/
def minWidth (i : Instr) (width : Nat) : Nat :=
  match i with
  | .mloop .. | .maccGet .. | .maccPut .. | .msoft .. | .mmq .. => 16
  | .shfl .. | .shflLong .. | .vote .. | .ballot .. | .wred .. | .wscan .. | .barr .. | .bwait .. | .bexp ..
  | .sdef .. | .sxi .. | .sadvSkip .. | .sadvGe .. => width
  | i => if (usesOf i).srcStreams.isEmpty && (usesOf i).dstStreams.isEmpty then 4 else width

/-- The trap of decode that the panel's context raises, in the order of R158: reserved opcode, class and position,
register limits, overlap, width, privilege. -/
def decodeTrap (regs width : Nat) (privileged : Bool) (cl : Clause) (i : Instr) : Option Nat :=
  match i with
  | .reservedOpcode _ => some 0x02
  | i =>
    if positionOk cl i = false then some 0x01
    else if (usesOf i).fits regs = false then some 0x01
    else if (usesOf i).overlap then some 0x03
    else if width < minWidth i width then some 0x04
    else if needsPrivilege i && !privileged then some 0x05
    else none

/-- The latch of the pipe an instruction writes (R49, R168). -/
def latchOf : Instr → Option Latch
  | .ld .. | .lds .. | .ldp .. | .atom .. | .cas .. | .sample .. | .gath .. | .texqSize .. | .texqRes .. | .pull ..
  | .maccGet .. | .ldq .. => some .lm
  | .fadd .. | .faddLong .. | .fsub .. | .fsubLong .. | .fmul .. | .fmulLong .. | .ffma .. | .ffma3 .. | .fmin ..
  | .fminLong .. | .fclass .. | .fclassLong .. | .fsgn .. | .fsgnLong .. | .dadd .. | .daddLong .. | .dmul ..
  | .dmulLong .. | .dfma .. | .ddiv .. | .ddivLong .. | .dsqrt .. | .dsqrtLong .. | .dmin .. | .dminLong .. => some .lf
  | .fdiv .. | .fdivLong .. | .frcp .. | .frcpLong .. | .frsq .. | .frsqLong .. | .fsqrt .. | .fsqrtLong .. | .fexp2 ..
  | .fexp2Long .. | .flog2 .. | .flog2Long .. | .fsin .. | .fsinLong .. | .madd .. | .maddLong .. | .mmul ..
  | .mmulLong .. | .mnl .. | .mcoll .. => some .lx
  | .wred _ _ (.g _) _ => none
  | .icmp .. | .fcmp .. | .dcmp .. | .vote .. | .ballot .. => none
  | i => if classOf i = 0 then (match i with
      | .gadd .. | .gsub .. | .gmul .. | .gand .. | .gor .. | .gxor .. | .gshLeft .. | .gshRight .. | .gmov ..
      | .gmovCtl .. | .gcmp .. | .gread .. | .plog .. | .pmask .. => none
      | _ => some .la) else none

/-- The instructions whose results count in the clause's slot (R143): writers of lm, `sxi`, stream sources. -/
def variableLatency (i : Instr) : Bool :=
  (match i with
    | .sxi .. => true
    | _ => false) || latchOf i == some .lm || !(usesOf i).srcStreams.isEmpty

/-! ## Sources -/

/-- What a lane's sources deliver beyond registers: the elements that stream operands popped, by stream. -/
abbrev Pops := List (Nat × List DWord)

/-- The 32 bits that a source delivers to lane j (R46). -/
def src32 (w : Wave) (p : Panel) (pops : Pops) (a : Src) (j : Nat) : Word :=
  match a with
  | .v n => (w.vreg n).getD j 0
  | .o n => (w.oreg n).getD j 0
  | .latch l => ((w.latchVec (latchNo l)).getD j 0).setWidth 32
  | .s k => ((((Sparse.find pops k).getD []).getD j 0)).setWidth 32
  | .zero => 0
  | .lane => BitVec.ofNat 32 j
  | .quad => BitVec.ofNat 32 (j / 4)
  | .lit x => x
  | .g n => (p.greg n).setWidth 32

/-- The 64 bits that a source delivers to lane j (R46); `signed` extends a literal. -/
def src64 (signed : Bool) (w : Wave) (p : Panel) (pops : Pops) (a : Src) (j : Nat) : DWord :=
  match a with
  | .v n => (w.vreg (n + 1)).getD j 0 ++ (w.vreg n).getD j 0
  | .o n => (w.oreg (n + 1)).getD j 0 ++ (w.oreg n).getD j 0
  | .latch l => (w.latchVec (latchNo l)).getD j 0
  | .s k => ((Sparse.find pops k).getD []).getD j 0
  | .zero => 0
  | .lane => BitVec.ofNat 64 j
  | .quad => BitVec.ofNat 64 (j / 4)
  | .lit x => if signed then x.signExtend 64 else x.setWidth 64
  | .g n => p.greg n

/-- A source of an operand type, as a number (R65, R167). -/
def srcNat (wide signed : Bool) (w : Wave) (p : Panel) (pops : Pops) (a : Src) (j : Nat) : Nat :=
  if wide then (src64 signed w p pops a j).toNat else (src32 w p pops a j).toNat

/-- Word k of a source group, for stores of several words (R210): a pair or group in register order, a 64-bit value; `signed`
extends a literal (R46). -/
def srcGroup (n : Nat) (w : Wave) (p : Panel) (pops : Pops) (a : Src) (j k : Nat) (signed : Bool := true) : Word :=
  match a with
  | .v r => (w.vreg (r + k)).getD j 0
  | .o r => (w.oreg (r + k)).getD j 0
  | a => if n = 1 then src32 w p pops a j
    else if k = 0 then (src64 signed w p pops a j).setWidth 32
    else if k = 1 then ((src64 signed w p pops a j) >>> 32).setWidth 32
    else 0

/-! ## Destinations -/

/-- Writes n 32-bit words of a lane destination in the lanes of a mask: word k of lane j is `f j k` (R47, R149). -/
def Wave.writeRun (w : Wave) (o : Bool) (first : Nat) (m : Mask) (f : Nat → Nat → Word) : Nat → Wave
  | 0 => w
  | n + 1 =>
    let w := w.writeRun o first m f n
    if o then w.setO (first + n) m (fun j => f j n) else w.setV (first + n) m (fun j => f j n)

def Wave.writeDst (w : Wave) (d : Dst) (n : Nat) (m : Mask) (f : Nat → Nat → Word) : Wave :=
  match d with
  | .v r => w.writeRun false r m f n
  | .o r => w.writeRun true r m f n
  | .s _ => w
  | .zero => w

/-- Word k of a 64-bit value. -/
def dwordWord (x : DWord) (k : Nat) : Word := (x >>> (32 * k)).setWidth 32

/-! ## The scoreboard (R143) -/

-- The scoreboard's names of registers: v, o, latches, predicates, g, gp.
def keyV (n : Nat) : Nat := n
def keyO (n : Nat) : Nat := 192 + n
def keyLatch (n : Nat) : Nat := 208 + n
def keyP (n : Nat) : Nat := 212 + n
def keyG (n : Nat) : Nat := 220 + n
def keyGp (n : Nat) : Nat := 252 + n
def keyS (n : Nat) : Nat := 256 + n

def Run.keys (r : Run) : List Nat := (List.range r.n).map fun i => (if r.o then keyO else keyV) (r.first + i)
def GDst.keys : GDst → List Nat
  | .g n => [keyG n]
  | .zero => []
def GSrc.keys : GSrc → List Nat
  | .g n => [keyG n]
  | _ => []
def srcKeys : Src × Nat → List Nat
  | (.latch l, _) => [keyLatch (latchNo l)]
  | (.g n, _) => [keyG n]
  | (.s k, _) => [keyS k]
  | x => ((srcRun x).map Run.keys).getD []

/-- The control instructions that ignore the guard (R199). -/
def ignoresGuard : Instr → Bool
  | .call .. | .ret .. | .retTret | .seam .. | .yield | .trapf => true
  | _ => false

/-- The bytes of an element of a format (R64), for the formats a stream may have (R218). -/
def fmtBytes (fmt : Nat) : Nat :=
  if fmt ≤ 1 then 2 else if fmt ≤ 5 then 1 else if fmt = 8 then 4 else if fmt = 9 then 8
  else if fmt ≤ 0x0B then 2 else if fmt ≤ 0x0D then 4 else 8

/-- The registers of a run that an element of a stream fills (R217). -/
def Panel.elemWords (p : Panel) (k : Nat) : Nat := if fmtBytes (p.stream k).fmt = 8 then 2 else 1

/-- What a layout record says of the groups of a `gath`: the coordinates' number and the registers of an element (R290). -/
abbrev GathShape := Nat × Nat

/-- The operands of an instruction of a panel: those of its form, and the lengths that registers and records give (R223, R286,
R290). -/
def Panel.uses (p : Panel) (sh : GathShape) : Instr → Uses
  | .sread d k b => { dst := [(d, p.elemWords k)], src := [(b, 1)] }
  | .swrite v k b => { src := [(v, p.elemWords k), (b, 1)] }
  | .emit _ _ va (.g n) => { src := [(VReg.src va, bits 13 8 (p.greg n).toNat + 1)], gsrc := [.g n] }
  | .gath ne pse d a h => { dst := [(VReg.dst d, ne * sh.2)], src := [(.v a, sh.1)], gsrc := [h], pdst := optP pse }
  | i => usesOf i

/-- The stream registers that an instruction names otherwise than as operands (R222, R223). -/
def streamKeys : Instr → List Nat
  | .sdef k .. => [keyS k]
  | .sxi _ a b .. => [keyS a, keyS b]
  | .sadvSkip _ k _ => [keyS k]
  | .sadvGe _ k _ => [keyS k]
  | .sread _ k _ => [keyS k]
  | .swrite _ k _ => [keyS k]
  | _ => []

/-- Registers, predicates and latches that an instruction of a panel writes. -/
def Panel.writesKeys (p : Panel) (sh : GathShape) (i : Instr) : List Nat :=
  let u := p.uses sh i
  u.dstRuns.flatMap Run.keys ++ u.gdst.flatMap GDst.keys ++ u.pdst.map keyP ++ u.gpdst.map keyGp ++ u.dstStreams.map keyS ++
  ((latchOf i).map fun l => keyLatch (latchNo l)).toList

/-- Those that it reads; the guard's predicate with them. -/
def Panel.readsKeys (p : Panel) (sh : GathShape) (cl : Clause) (i : Instr) : List Nat :=
  let u := p.uses sh i
  u.src.flatMap srcKeys ++ u.gsrc.flatMap GSrc.keys ++ u.psrc.map keyP ++ u.gpsrc.map keyGp ++
  (if hdrGe cl.word && !ignoresGuard i then [keyP (hdrGp cl.word)] else []) ++ streamKeys i

/-- An earlier result is outstanding for a register that the instruction reads or overwrites (R143) (assumption 17, DEDUCED). -/
def Outstanding.blocks (x : Outstanding) (p : Panel) (sh : GathShape) (cl : Clause) (i : Instr) : Bool :=
  x.keys.any fun k => (p.writesKeys sh i ++ p.readsKeys sh cl i).contains k

/-! ## Banks of the main file (R45) -/

/-- The different main-file registers that an instruction reads as operands of its lanes (R45). -/
def Uses.mainRead (u : Uses) : List Nat :=
  (u.srcRuns.flatMap fun r => if r.o then [] else (List.range r.n).map fun k => r.first + k).eraseDups

/-- The extra cycles of an instruction for its registers beyond the first in each of the four banks (R45). -/
def Uses.conflicts (u : Uses) : Nat :=
  (List.range 4).foldl (fun n b => n + ((u.mainRead.countP fun v => v % 4 == b) - 1)) 0

end Sys2Proof.Machine
end

