-- ==== Sys2Proof/Machine/Panels.lean ====
section
/-! DEFINITION. Panels: splitting (02 R24-R26), fusing (R27, R35), seams (R28-R30), forced fuse (R33, R34), lanes that
leave (R17, R23), the end of waves and workgroups (R38, R41), and the issue of an instruction (08 R158). -/

namespace Sys2Proof.Machine

/-! ## Splitting -/

def StackEntry.only (m : Mask) (x : StackEntry) : StackEntry := { x with mask := x.mask &&& m }

/-- A stack with every mask cut to some lanes, and no empty entry (R17, R26). -/
def cutStack (m : Mask) (l : List StackEntry) : List StackEntry := (l.map (StackEntry.only m)).filter fun x => x.mask != 0

def Outstanding.only (q : BitVec 16) (x : Outstanding) : Outstanding :=
  { x with quads := x.quads &&& q, active := x.active &&& quadLanes q
           asked := x.asked.filter fun h => q.getLsbD (h.lane / 4)
           held := x.held.filter fun h => q.getLsbD (h.lane / 4) }

/-- The results of a traversal, which come ray by ray (R292). -/
def Outstanding.ofRays (x : Outstanding) : Bool :=
  match x.instr with
  | .trace .. => true
  | .traceResume .. => true
  | _ => false

/-- The results of an engine thread of R130 that its panel awaits. -/
def Outstanding.ofEngine (x : Outstanding) : Bool :=
  x.ofRays || match x.instr with
    | .sample .. => true
    | .gath .. => true
    | .texqSize .. => true
    | .texqRes .. => true
    | _ => false

def cutOutst (q : BitVec 16) (l : List Outstanding) : List Outstanding :=
  (l.map (Outstanding.only q)).filter fun x => x.quads != 0

/-- The part of a panel that keeps some of its quads (R26). -/
def Panel.part (p : Panel) (q : BitVec 16) : Panel :=
  { p with qmask := p.qmask &&& q, mask := p.mask &&& quadLanes q, discarded := p.discarded &&& quadLanes q
           stack := cutStack (quadLanes q) p.stack, outst := cutOutst q p.outst, px := 0 }

/-- The lowest-numbered invalid entry (R24, R25). -/
def Wave.freeEntry (w : Wave) : Option Nat := (List.range 8).find? fun e => !(w.panel e).valid

/-- Splits quads off a panel into a new entry (R24-R26), at a PC and clause. R26 names neither the trap frame, %xcause, %xpc
and %xaddr, nor whose the stores are that are not drained: both panels keep the frame and the whole count (assumption 94,
DESIGN CHOICE). -/
def Wave.split (w : Wave) (e n : Nat) (q : BitVec 16) (origin : BitVec 2) (pc : Nat) (cl : Option Clause) (now : Nat) : Wave :=
  let p := w.panel e
  ({ w with splitAt := some now }.setPanel e (p.part (~~~ q))).setPanel n
    { p.part q with origin := origin, pc := pc, clause := cl, status := .run, since := 0, waitct := 0, undrained := p.undrained,
                    stepping := false, stopAsked := none, wait := none }

/-! ## Fusing -/

/-- Neither in a handler, stacks equal entry by entry in address and kind (R27). -/
def stackCompatible (p q : Panel) : Bool :=
  p.frame.isNone && q.frame.isNone && p.stack.length == q.stack.length &&
  (p.stack.zip q.stack).all fun x => x.1.pc == x.2.pc && x.1.waiting == x.2.waiting

/-- The lowest-numbered quad of a panel (R35). -/
def lowestQuad (q : BitVec 16) : Nat := ((List.range 16).find? fun i => q.getLsbD i).getD 16

/-- The entry whose panel holds the lowest of some quads that has not exited: where a panel that held them is found later
(R73). -/
def Wave.heir (w : Wave) (q : BitVec 16) : Option Nat :=
  w.entries.find? fun e => (w.panel e).qmask.getLsbD (lowestQuad (q &&& ~~~ w.exitedQuads))

/-- The control fields of %fpc, and of %mcr (R26, R59, R60). -/
def fpcControl (x : Word) : Word := x &&& 0x0007FF00
def mcrControl (x : Word) : Word := x &&& 0x0000000F

/-- Group-wide state differs between two copies (R35). -/
def groupDiffers (p q : Panel) : Bool :=
  p.g != q.g || p.gp != q.gp || p.s != q.s || p.fb != q.fb || fpcControl p.fpc != fpcControl q.fpc ||
  mcrControl p.mcr != mcrControl q.mcr

def mergeStacks (a b : List StackEntry) : List StackEntry := (a.zip b).map fun x => { x.1 with mask := x.1.mask ||| x.2.mask }

/-- Two stack-compatible panels as one (R27, R35). It waits since the earlier of their waits, and shows the seam of the one with
the lowest quad (assumption 95, DESIGN CHOICE: R27 and R33 name neither WAITCT nor SEAMID). -/
def Panel.fuse (p q : Panel) : Panel :=
  let lead := if lowestQuad p.qmask ≤ lowestQuad q.qmask then p else q
  let flags := (p.fpc ||| q.fpc) &&& 0xFF
  let gdiv : Word := if groupDiffers p q then 0x80 else 0
  { lead with
    qmask := p.qmask ||| q.qmask, mask := p.mask ||| q.mask, discarded := p.discarded ||| q.discarded
    stack := mergeStacks p.stack q.stack, outst := p.outst ++ q.outst, undrained := p.undrained + q.undrained
    origin := 3, fpc := fpcControl lead.fpc ||| flags ||| gdiv, mcr := mcrControl lead.mcr ||| ((p.mcr ||| q.mcr) &&& 0x100)
    since := Nat.min p.since q.since, pause := p.pause ++ q.pause, stepping := p.stepping, stopAsked := p.stopAsked
    doneAt := Nat.max p.doneAt q.doneAt }

/-- Fuses the panel of one entry into another's (R27). -/
def Wave.fuseInto (w : Wave) (lo e : Nat) : Wave :=
  (w.setPanel lo ((w.panel lo).fuse (w.panel e))).setPanel e Panel.empty

/-- Fuses the panels of some entries into the entry `lo`, the lowest of them (R27). -/
def Wave.fuseAll (w : Wave) (lo : Nat) (es : List Nat) : Wave := es.foldl (fun w e => w.fuseInto lo e) w

def leastOf (e : Nat) (es : List Nat) : Nat := es.foldl Nat.min e

/-- The quads of the panels of some entries. -/
def Wave.quadsOf (w : Wave) (es : List Nat) : BitVec 16 := es.foldl (fun q e => q ||| (w.panel e).qmask) 0

/-- The quads by which an issuing panel is found that is one of the panels about to fuse: those of the fused panel too (R73). -/
def Wave.widen (w : Wave) (es : List Nat) (q : BitVec 16) : BitVec 16 :=
  match w.heir q with
  | none => q
  | some e => if es.contains e then q ||| w.quadsOf es else q

/-- The panel of entry `e` and those of some others fuse in the lowest of their entries (R27). What its engine threads still owe an
issuing panel among them goes to the fused panel (R73). -/
def State.fuseAt (s : State) (wid e : Nat) (es : List Nat) : State :=
  if es.isEmpty then s else
  let w := s.wave wid
  let lo := leastOf e es
  let all := e :: es
  let w' := w.fuseAll lo (all.filter fun x => x != lo)
  let s := { s with threads := s.threads.map fun (x : Nat × Thread) =>
    if x.2.wid = wid then (x.1, { x.2 with quads := w.widen all x.2.quads }) else x }
  s.setWave wid { w' with owed := w'.owed.map fun (o : Owed) => { o with quads := w.widen all o.quads } }

/-- A split, fuse or trap-entry record of a panel (R316): only while SPLEV = 1. -/
def State.eventRecord (s : State) (wid e type rsn : Nat) : State :=
  let w := s.wave wid
  match s.wg? w.wg with
  | none => s
  | some wg =>
    let part := s.wgPart wg
    if (s.part part).dbgctl.getLsbD 8 = false then s
    else
      let q := w.panel e
      s.traceRecord part type rsn (dieByte (wid / 64)) (panelBlock wid e q.stateCode q.qmask.toNat q.pc) 1

/-! ## Seams -/

/-- The entries of a wave's other panels. -/
def Wave.siblings (w : Wave) (e : Nat) : List Nat := w.entries.filter fun x => x != e

/-- Siblings waiting in SEAMW at an address (R29). -/
def Wave.seamWaiters (w : Wave) (e pc : Nat) : List Nat :=
  (w.siblings e).filter fun x => (w.panel x).status == .seamw && (w.panel x).pc == pc

/-- Those of them that can leave fused with entry `e` (R29). -/
def Wave.seamMates (w : Wave) (e : Nat) : List Nat :=
  (w.seamWaiters e (w.panel e).pc).filter fun x => stackCompatible (w.panel e) (w.panel x)

/-- 64 × 4^k core cycles (R28). -/
def seamLimit (k : Nat) : Nat := 64 * 4 ^ k

/-- Some panels, waiting or arriving at one seam, pass it together, fused (R29, R30). -/
def State.passSeam (s : State) (wid e : Nat) (es : List Nat) : State :=
  let lo := leastOf e es
  let s := s.fuseAt wid e es
  let w := s.wave wid
  let p := w.panel lo
  let p := { p with status := .run, waitct := 0 }
  let w := w.setPanel lo (p.advance 1 s.cycle)
  let s := s.setWave wid w
  if es.isEmpty then s else s.eventRecord wid lo 0x05 3

/-- A sibling in FFW at another address (R30, third condition). -/
def Wave.ffwElsewhere (w : Wave) (e pc : Nat) : Bool :=
  (w.siblings e).any fun x => (w.panel x).status == .ffw && (w.panel x).pc != pc

/-- Whether the panels waiting with entry `e` at its seam leave now (R30). -/
def Wave.seamLeaves (w : Wave) (e now : Nat) : Bool :=
  let p := w.panel e
  let mates := w.seamMates e
  (w.siblings e).all (fun x => mates.contains x) || w.ffwElsewhere e p.pc ||
  (p.seamk != 0 && p.seamk != 7 && decide (seamLimit p.seamk.toNat ≤ now - (e :: mates).foldl (fun m x => Nat.min m (w.panel x).since) now))

/-- Lets a wave's seam waiters leave where R30 says so. -/
def State.settleSeams (s : State) (wid : Nat) : State :=
  (List.range 8).foldl (fun s e =>
    let w := s.wave wid
    if (w.panel e).valid && (w.panel e).status == .seamw && w.seamLeaves e s.cycle then
      s.passSeam wid e (w.seamMates e)
    else s) s

/-! ## Forced fuse -/

/-- Fuses the panels in FFW at one address that are stack-compatible with entry `e` (R33). -/
def State.fuseForced (s : State) (wid e : Nat) : State :=
  let w := s.wave wid
  let p := w.panel e
  let es := (w.siblings e).filter fun x =>
    (w.panel x).status == .ffw && (w.panel x).pc == p.pc && stackCompatible p (w.panel x)
  if es.isEmpty then s
  else (s.fuseAt wid e es).eventRecord wid (leastOf e es) 0x05 3

/-- A panel too narrow for its next instruction (R33, R34): it waits in FFW, or traps with a fuse conflict. -/
def State.enterFfw (s : State) (c : Cur) (i : Instr) : State :=
  let w := s.wave c.wid
  let p := w.panel c.entry
  let conflict := (w.siblings c.entry).any fun x =>
    (w.panel x).status == .ffw && ((w.panel x).pc != p.pc || !stackCompatible p (w.panel x))
  if conflict then s.takeTrap c { cause := 0x06 }
  else
    let s := s.setPanel c
      { p with status := .ffw, since := s.cycle, waitct := 0, wait := some { instr := i, len := c.len, since := s.cycle, aux := 0 } }
    (s.fuseForced c.wid c.entry).settleSeams c.wid

/-! ## Leaving -/

/-- Takes lanes out of a panel: its masks and its stack (R17). -/
def Panel.removeLanes (p : Panel) (m : Mask) : Panel :=
  { p with mask := p.mask &&& ~~~ m, stack := cutStack (~~~ m) p.stack }

/-- Takes quads out of a panel: none of its entries names them (R17). -/
def Panel.removeQuads (p : Panel) (q : BitVec 16) : Panel :=
  { p with qmask := p.qmask &&& ~~~ q, discarded := p.discarded &&& ~~~ quadLanes q }

def Wave.mapPanels (w : Wave) (f : Panel → Panel) : Wave :=
  w.entries.foldl (fun w e => w.setPanel e (f (w.panel e))) w

/-- Lanes exit: they leave every mask of the wave, and quads all of whose lanes have exited leave their panels (R17). -/
def Wave.exitLanes (w : Wave) (m : Mask) : Wave :=
  let w := (w.mapPanels fun p => p.removeLanes m)
  let w := { w with exited := w.exited ||| m }
  w.mapPanels fun p => p.removeQuads w.exitedQuads

/-- The lanes of a wave that are discarded (R288). -/
def Wave.discardedLanes (w : Wave) : Mask := w.entries.foldl (fun m e => m ||| (w.panel e).discarded) 0

/-- The empty record that a ticket leaves when its quad has no lane left (R272). -/
def emptyColour (t : Ticket) : Record :=
  { seq := 0, kind := 0x11, lmask := 0, fault := false, eos := false, words := [], ticket := some t }

/-- The pattern of a launch: a node belongs to one. -/
def State.patternOf (s : State) (lid : Nat) : Nat :=
  match s.launch? lid with
  | some { kind := .node pat _, .. } => pat
  | _ => lid

/-- Gives a record to the blender of a core (R272). -/
def State.toBlender (s : State) (pat core : Nat) (r : Record) : State :=
  match s.nodes.find? fun e => e.2.kind == .blend && e.2.place == core && e.2.lid == pat with
  | none => s
  | some e => s.putNode e.1 { e.2 with heldRecords := e.2.heldRecords ++ [r] }

/-- Settles the tickets of the quads whose lanes have all been discarded or have exited (R272). -/
def State.settleTickets (s : State) (wid : Nat) : State :=
  let w := s.wave wid
  let gone := w.exited ||| w.discardedLanes
  let lost := w.tickets.filter fun t => quadLanes (BitVec.twoPow 16 t.1) &&& ~~~ gone == 0
  let s := s.setWave wid { w with tickets := w.tickets.filter fun t => quadLanes (BitVec.twoPow 16 t.1) &&& ~~~ gone != 0 }
  match s.wg? w.wg with
  | none => s
  | some wg => lost.foldl (fun s t => s.toBlender (s.patternOf wg.lid) wg.core (emptyColour t.2)) s

/-- A workgroup whose waves have ended retires, whatever its engine threads still do (R38, R204); a gang does when its last
workgroup has (R39, R335). -/
def State.retireCheck (s : State) (k : Nat) : State :=
  match s.wg? k with
  | none => s
  | some wg =>
    match s.gang? wg.gid, s.launch? wg.lid with
    | some g, some l =>
      if wg.retired || g.done || !(s.liveWaves k wg).isEmpty then s
      else
        let s := (s.releaseL1 wg.core).closePorts k false
        let s := s.putWg k { (s.wg? k).getD wg with retired := true }
        let s := if l.spec.repl then s else s.addWrites wg.lid (bitWrites l [wg])
        if g.wgs.all fun x => ((s.wg? x).getD emptyWg).retired then
          (s.putGang wg.gid { g with done := true, saved := none }).gangDone wg.lid none
            (if l.spec.repl then bitWrites l (g.wgs.filterMap s.wg?) else [])
        else s
    | _, _ => s

/-- The chain registers that a wave leaves for its successor (R41). -/
def chainOf (w : Wave) (p : Panel) (lid : Nat) (g : GridSpec) : Chain :=
  { lid := lid, base := w.base, v := w.v.filter fun e => decide (g.cvlo ≤ e.1) && decide (e.1 < g.cvlo + g.cvn)
    g := p.g.filter fun e => decide (g.cglo ≤ e.1) && decide (e.1 < g.cglo + g.cgn) }

/-- A wave all of whose quads have exited ends (R17, R38); `last` is the panel that executed its last `exit`. -/
def State.endWave (s : State) (wid e : Nat) (last : Panel) : State :=
  let w := s.wave wid
  match s.wg? w.wg with
  | none => s
  | some wg =>
    match s.launch? wg.lid with
    | none => s
    | some l =>
      let s := { s with chains := Sparse.put s.chains wid (chainOf w last wg.lid l.spec) }
      let s := s.setWave wid (w.setPanel e last)
      (s.dropWave l.part wid e).retireCheck w.wg

/-- Every quad of the wave has exited (R17). -/
def Wave.allExited (w : Wave) : Bool := waveLanes w.width &&& ~~~ w.exited == 0

/-- What becomes of a panel some of whose lanes have exited (R23, R204): it goes on, or takes the top of its stack, or
holds no lane and becomes invalid. -/
def Wave.afterExit (w : Wave) (e len now : Nat) : Wave :=
  let p := w.panel e
  if p.mask != 0 then w.setPanel e (p.advance len now)
  else match p.stack with
    | t :: rest => w.setPanel e { p.jump t.pc now with mask := t.mask, stack := rest, clause := t.clause.map Clause.resumed }
    | [] =>
      let lanes := quadLanes p.qmask
      let w := { w.setPanel e Panel.empty with exited := w.exited ||| lanes }
      w.mapPanels fun q => q.removeQuads w.exitedQuads

/-! ## Issue -/

/-- The effective width that an instruction needs to issue (R33): its MINW, but for `sbar` the wave's width before the arrival, since
an unbound handle traps before it (R256). -/
def State.needWidth (s : State) (c : Cur) (i : Instr) : Nat :=
  match i with
  | .sbar _ h =>
    if handleBound ((s.curWg c).handles.getD h 0) && !((s.panel c).progress.getLsbD 31) then (s.curWave c).width else 4
  | i => minWidth i (s.curWave c).width

/-- A code form issues (R158): with no panel it has no meaning; the checks of decode that need the panel's context come
first, then forced fuse (R33), then its own effect. -/
def issue (i : Instr) (s : State) (body : Cur → State → Out) : Out :=
  match s.cur with
  | none => .fault .noPanel
  | some c =>
    let w := s.wave c.wid
    let p := w.panel c.entry
    match w.alive && p.valid, p.clause with
    | true, some cl =>
      match decodeTrap w.regs w.width (s.privileged c) cl i with
      | some cause => trapTo c { cause := cause } s
      | none => if p.effWidth w < s.needWidth c i then .next (s.enterFfw c i) else body c s
    | _, _ => .fault .noPanel

end Sys2Proof.Machine
end

