-- ==== Sys2Proof/Machine/Lanes.lean ====
section
/-! DEFINITION. The frame of every lane instruction (09 R166): stream operands are checked and read (03 R54, 10 R217),
the lanes compute, and results go to the destination, the latch, the flags and the scoreboard. -/

namespace Sys2Proof.Machine

/-! ## Accesses of lanes (10 R208) -/

/-- One lane's access of n bytes at a virtual address. -/
structure Access where
  lane : Nat
  va : Nat
  n : Nat
  write : Bool
  deriving DecidableEq, Repr

/-- The failure of one access, or where its bytes lie. -/
def State.accessPlaces (s : State) (a : Acc) (x : Access) : Except XFail (List Place) :=
  s.translateAll a (if x.write then .write else .read) (spanOf x.va x.n)

/-- What the checks of all the accesses of an instruction find, in their order (R208): none fails, the first failure,
or an error that ends the gang (R364: a poisoned line read; R400: a peer whose link is down). -/
inductive Verdict where
  | clear
  | trap (write : Bool) (e : XFail)
  | ends (code : Nat)
  deriving DecidableEq, Repr

/-- A load takes a byte from a poisoned line of memory: not one that a valid word of the L1 holds, and not where the home L2 rejects
the access (R111, R138, R364). -/
def State.poisonRead (s : State) (a : Acc) (x : Place) : Bool :=
  s.poisonPlace x && a.gen == s.genOf a.part a.asn && match a.line x with
    | none => true
    | some (_, ix, i) => !(s.l1At ix).hit a.gen i

def State.judgeFrom (s : State) (a : Acc) : List Access → Option Nat → Verdict
  | [], none => .clear
  | [], some code => .ends code
  | x :: xs, e =>
    match s.accessPlaces a x with
    | .error (.poison _) => s.judgeFrom a xs (e.or (some 0x10))
    | .error f => .trap x.write f
    | .ok ps =>
      s.judgeFrom a xs (e.or (if ps.any s.deadPlace then some 0x11
        else if !x.write && ps.any (s.poisonRead a) then some 0x10 else none))

/-- See assumption 62, DEDUCED. -/
def State.judge (s : State) (a : Acc) (xs : List Access) : Verdict := s.judgeFrom a xs none

/-- Ends the gang of the panel with an error. -/
def endCur (c : Cur) (code : Nat) (s : State) : Out := .next (s.endGang (s.curWg c).gid code)

/-- An access of an old generation reaches the home L2, which rejects it (R138): not where a sparse page or a peer takes it, nor
where a load is served from valid words of the L1. -/
def State.reachesHome (s : State) (a : Acc) (write : Bool) (x : Place) : Bool :=
  match x with
  | .sparse => false
  | .leaf e _ => !ptePeer e && (write || match a.line x with
    | none => true
    | some (_, ix, i) => !(s.l1At ix).hit a.gen i)

/-- Some byte of an access is asked of the home L2. -/
def State.asks (s : State) (a : Acc) (x : Access) : Bool :=
  match s.accessPlaces a x with
  | .error _ => false
  | .ok ps => ps.any (s.reachesHome a x.write)

/-- The home L2 rejects an access: its generation is old (R138). -/
def State.rejects (s : State) (a : Acc) (x : Access) : Bool := a.gen != s.genOf a.part a.asn && s.asks a x

/-- An access with what it does once it is performed. -/
def Access.doing (x : Access) (act : HeldAct) (evp : Option Nat) : HeldAccess :=
  { lane := x.lane, va := x.va, n := x.n, write := x.write, fid := 0, act := act, evp := evp }

def HeldAccess.access (h : HeldAccess) : Access := { lane := h.lane, va := h.va, n := h.n, write := h.write }

/-- Holds accesses of a panel's lanes, each with its record (R349, R350). -/
def State.holdAccesses (s : State) (c : Cur) (a : Acc) (pc cause sub : Nat) : List HeldAccess → State × List HeldAccess
  | [] => (s, [])
  | x :: l =>
    let r := s.recordFault a.part
      (s.gangRecord (s.curWg c).gid a.asn a.gen (.fail cause sub x.va) (12 + x.write.toNat + (if x.act = .code then 2 else 0)) 0
        c.wid c.entry pc)
    let t := r.1.holdAccesses c a pc cause sub l
    (t.1, { x with fid := r.2 } :: t.2)

/-- Reads the bytes of an access that has been checked, unless the instruction has read them already. -/
def State.fetchBytes (s : State) (a : Acc) (va n : Nat) : State × List Byte :=
  match a.got.find? fun g => g.1 == va && g.2.length == n with
  | some g => (s, g.2)
  | none =>
    match s.readVa a va n with
    | (s', .ok bs) => (s', bs)
    | (s', .error _) => (s', List.replicate n 0)

/-- The mark of an access among those that an instruction has made. -/
def Access.mark (x : Access) : Nat := if x.write then x.va + 2 ^ 64 else x.va

/-- The instruction has made an access already. -/
def Acc.has (a : Acc) (x : Access) : Bool := a.got.any fun g => g.1 == x.mark && (x.write || g.2.length == x.n)

/-- The fills of some accesses, before they are read (R111, R124). -/
def State.touchLanes (s : State) (a : Acc) (xs : List Access) : State := xs.foldl (fun s x => s.touchVa a x.va x.n) s

/-- Reads the bytes of some accesses, at one time (R124). -/
def State.readAll (s : State) (a : Acc) (xs : List Access) : State × List (Nat × List Byte) :=
  xs.foldl (fun r x =>
    let y := r.1.fetchBytes { a with ctr := some s.freeCtr } x.va x.n
    (y.1, r.2 ++ [(x.va, y.2)])) (s.touchLanes a xs, [])

/-- An instruction that cannot go on without its rejected accesses waits at its place for their replies (R217, R349): it has read what
was not rejected, and does not read it again (assumption 90, DESIGN CHOICE). -/
def holdIssue (i : Instr) (c : Cur) (s : State) (xs ys : List Access) : Out :=
  let a := s.laneAcc c
  let r := s.readAll a (xs.filter fun x => !x.write && !ys.contains x)
  let h := r.1.holdAccesses c a (s.panel c).pc 0x12 0 (ys.map fun y => y.doing .pass none)
  let p := h.1.panel c
  .next (h.1.setPanel c
    { p with wait := some { instr := i, len := c.len, since := s.cycle, aux := 0, held := h.2 }, got := p.got ++ r.2 })

/-- The accesses of a panel that the home L2 has rejected and that have had no reply. -/
def Panel.heldAll (p : Panel) : List HeldAccess := p.outst.flatMap (·.held)

/-- The device memory or peer memory that a place names. -/
def Place.frame : Place → Option (Bool × Nat)
  | .sparse => none
  | .leaf e pa => some (ptePeer e, pa)

/-- Two accesses of a lane meet in a byte, by address or by frame. -/
def State.meets (s : State) (a : Acc) (x : Access) (h : HeldAccess) : Bool :=
  x.lane == h.lane &&
  ((decide (x.va < h.va + h.n) && decide (h.va < x.va + x.n)) || match s.accessPlaces a x, s.accessPlaces a h.access with
    | .ok ps, .ok qs => ps.any fun y => y.frame.isSome && (qs.map Place.frame).contains y.frame
    | _, _ => false)

/-- A lane's access waits for a held access of the lane to the same bytes, which comes first in program order (R124; assumption 90,
DEDUCED). -/
def State.mustWait (s : State) (c : Cur) (xs : List Access) : Bool :=
  (s.panel c).heldAll.any fun h => xs.any fun x => s.meets (s.laneAcc c) x h

/-- Goes on where the checks of some accesses find nothing (R208: all or nothing), with those that the home L2 rejects. -/
def whenCheckedOr (trap : Bool → XFail → Out) (c : Cur) (s : State) (xs : List Access) (k : List Access → Out) : Out :=
  match s.judge (s.laneAcc c) xs with
  | .clear => if s.mustWait c xs then .next s else k (xs.filter (s.rejects (s.laneAcc c)))
  | .trap write e => trap write e
  | .ends code => endCur c code s

def whenChecked (c : Cur) (s : State) (xs : List Access) (k : List Access → Out) : Out :=
  whenCheckedOr (fun write e => accessTrap c write false e s) c s xs k

/-- Goes on where the checks find nothing and the home L2 rejects nothing that the instruction has not made yet. -/
def whenClear (i : Instr) (c : Cur) (s : State) (xs : List Access) (k : Out) : Out :=
  let ys := xs.filter fun x => !(s.laneAcc c).has x
  whenChecked c s ys fun zs => if zs.isEmpty then k else holdIssue i c s ys zs

/-- Writes the bytes of an access that has been checked. -/
def State.putBytes (s : State) (a : Acc) (va : Nat) (bs : List Byte) : State :=
  match s.writeVa a va bs with
  | .ok s' => s'
  | .error _ => s

/-! ## Streams (R53, R54, R217) -/

/-- The product of the extents below RANK (R53). -/
def Stream.count (x : Stream) : Nat := (x.ext.take x.rank).foldl (fun m e => m * e.toNat) 1

/-- Σ xk × STRDk for the indices of element e, over the extents in order (R53). -/
def strideSum : Nat → List Word → List DWord → Int
  | e, x :: xs, d :: ds => (e % x.toNat : Nat) * d.toInt + strideSum (e / x.toNat) xs ds
  | _, _, _ => 0

/-- The address of element e (R53). -/
def Stream.addr (x : Stream) (e : Nat) : Nat :=
  ((x.base + strideSum e (x.ext.take x.rank) (x.strd.take x.rank)) % (2 ^ 64 : Int)).toNat

/-- An element as a register holds it (R217): narrow integers extended to 32 bits, floats with zeros above. -/
def holdElem (fmt : Nat) (bs : List Byte) : DWord :=
  let n := ofBytes bs
  if fmt = 4 then BitVec.ofNat 64 (wrap 32 (signedOf 8 n))
  else if fmt = 0x0A then BitVec.ofNat 64 (wrap 32 (signedOf 16 n))
  else BitVec.ofNat 64 n

/-- A stream register as an operand of one or two words (R54, R217). -/
def Stream.operandOk (x : Stream) (words : Nat) : Bool := x.defined && (fmtBytes x.fmt == 8) == (words == 2)

/-- CURSOR moves, saturating (R222; as an operand's advance does: assumption 61, DEDUCED), and EXH follows (R54). -/
def Stream.moveTo (x : Stream) (k : Nat) : Stream :=
  { x with cursor := Nat.min k (2 ^ 64 - 1), exh := decide (x.count ≤ Nat.min k (2 ^ 64 - 1)) }

/-- CURSOR advances by the wave width (R54). -/
def Stream.advance (x : Stream) (width : Nat) : Stream := x.moveTo (x.cursor + width)

/-- The accesses of one lane to the streams that an instruction names. -/
def laneAccesses (p : Panel) (srcs dsts : List Nat) (j : Nat) : List Access :=
  (srcs.map fun k => (k, false)).append (dsts.map fun k => (k, true)) |>.filterMap fun e =>
    let x := p.stream e.1
    if x.cursor + j < x.count then
      some { lane := j, va := x.addr (x.cursor + j), n := fmtBytes x.fmt, write := e.2 }
    else none

def streamAccesses (p : Panel) (act : Mask) (srcs dsts : List Nat) : List Access :=
  (List.range 64).flatMap fun j => if act.getLsbD j then laneAccesses p srcs dsts j else []

/-- Reads one vector of a stream: lanes from j on. An inactive lane makes no access (R54), so what a lane-to-lane form
reads there (R166) is 0, as past the end (assumption 20, DEDUCED). Elements are read when they are delivered: R133 lets a
prefetch read them earlier (assumption 91, DESIGN CHOICE). -/
def State.popLanes (s : State) (a : Acc) (x : Stream) (act : Mask) : Nat → Nat → State × List DWord
  | 0, _ => (s, [])
  | n + 1, j =>
    if act.getLsbD j && decide (x.cursor + j < x.count) then
      let r := s.fetchBytes a (x.addr (x.cursor + j)) (fmtBytes x.fmt)
      let t := r.1.popLanes a x act n (j + 1)
      (t.1, holdElem x.fmt r.2 :: t.2)
    else
      let t := s.popLanes a x act n (j + 1)
      (t.1, 0 :: t.2)

/-- Reads one vector of each stream that is a source, once each (R54). -/
def State.popStreams (s : State) (a : Acc) (p : Panel) (act : Mask) : List Nat → State × Pops
  | [] => (s, [])
  | k :: ks =>
    let r := s.popLanes a (p.stream k) act 64 0
    let t := r.1.popStreams a p act ks
    (t.1, (k, r.2) :: t.2)

/-- The bytes of some lanes' accesses go to memory in their order (R124). Lines that they cover whole, past the L1s, lose their poison
(R364). -/
def State.storeEach (s : State) (a : Acc) (xs : List (Access × List Byte)) : State :=
  let t := xs.foldl (fun s x => s.putBytes a x.1.va x.2) s
  if s.poison.isEmpty then t
  else t.clearCovered (xs.flatMap fun x => match s.accessPlaces a x.1 with
    | .ok ps => ps.filterMap a.pastL1
    | .error _ => [])

def Panel.advanceStreams (p : Panel) (width : Nat) : List Nat → Panel
  | [] => p
  | k :: ks => (p.setStream k ((p.stream k).advance width)).advanceStreams width ks

/-! ## A lane instruction -/

/-- What the lanes of an issuing instruction compute with. -/
structure Lanes where
  w : Wave
  p : Panel
  pops : Pops
  act : Mask
  /-- its loads that the home L2 serves, and its accesses that are held: the results of their lanes come later (R208) -/
  asked : List HeldAccess := []
  held : List HeldAccess := []

/-- The lanes of some held accesses. -/
def lanesOf (l : List HeldAccess) : Mask := l.foldl (fun m h => m ||| BitVec.twoPow 64 h.lane) 0

/-- The lanes whose accesses are performed now. -/
def Lanes.now (l : Lanes) : Mask := l.act &&& ~~~ lanesOf l.held

def Lanes.a32 (l : Lanes) (a : Src) (j : Nat) : Word := src32 l.w l.p l.pops a j
def Lanes.a64 (l : Lanes) (a : Src) (j : Nat) : DWord := src64 false l.w l.p l.pops a j

/-- A source read as an integer type (R65, R167). -/
def Lanes.int (l : Lanes) (ty : IntTy) (a : Src) (j : Nat) : Int :=
  let n := srcNat ty.wide ty.signed l.w l.p l.pops a j
  if ty.signed then signedOf ty.width n else (n : Int)

/-- The bits of a source of a width. -/
def Lanes.bits (l : Lanes) (wide signed : Bool) (a : Src) (j : Nat) : Nat := srcNat wide signed l.w l.p l.pops a j

/-- Checks and reads the stream operands of an instruction, then goes on with its lanes (R54, R217). Sources of which an element is
rejected hold it at its place; a destination's rejected elements are held when they are stored. A failure of any lane's element comes
before one of the instruction's own accesses (R208 orders the lanes; assumption 116, DESIGN CHOICE). -/
def withLanes (i : Instr) (c : Cur) (s : State) (k : Lanes → State → Out) : Out :=
  let w := s.wave c.wid
  let p := w.panel c.entry
  let u := p.uses (0, 1) i
  let act := p.active w
  if u.srcStreams.isEmpty && u.dstStreams.isEmpty then k { w := w, p := p, pops := [], act := act } s
  else
    let bad := u.src.any (fun x => match x.1 with
        | .s n => !(p.stream n).operandOk x.2
        | _ => false) || u.dst.any (fun x => match x.1 with
        | .s n => !(p.stream n).operandOk x.2
        | _ => false)
    if bad then illegal c s
    else
      let a := s.laneAcc c
      let xs := (streamAccesses p act u.srcStreams u.dstStreams).filter fun x => x.write || !a.has x
      whenChecked c s xs fun zs =>
        if zs.all (·.write) then
          let r := (s.touchLanes a (streamAccesses p act u.srcStreams [])).popStreams { a with ctr := some s.freeCtr } p act u.srcStreams
          k { w := w, p := p, pops := r.2, act := act } r.1
        else holdIssue i c s (xs.filter fun x => !x.write) (zs.filter fun x => !x.write)

/-- The outstanding result of a variable-latency instruction (R143), and in no slot that of any other with held accesses (R208). -/
def Panel.track (p : Panel) (i : Instr) (act : Mask) (gen now : Nat) (sh : GathShape := (0, 1)) (asked held : List HeldAccess := []) :
    Panel :=
  let late := lanesOf held
  if (variableLatency i && act != 0) || !held.isEmpty then
    let slot := match p.clause with
      | none => none
      | some cl => if variableLatency i && decide (hdrSlot cl.word < 6) then some (hdrSlot cl.word) else none
    let lanes := if variableLatency i then act else late
    { p with outst := p.outst ++ [{ slot := slot, quads := lanesQuads lanes, keys := p.writesKeys sh i, issued := now, instr := i
                                    pc := p.pc, gen := gen, active := lanes, asked := asked, held := held, got := [] }] }
  else p

/-- Rejected stores of the instruction just issued: outstanding in no slot, and not drained, until they have been made (R208). -/
def noteStores (i : Instr) (c : Cur) (pc gen : Nat) (held : List HeldAccess) : Out → Out
  | .next s =>
    if held.isEmpty then .next s
    else
      let p := s.panel c
      .next (s.setPanel c { p with
        outst := p.outst ++ [{ slot := none, quads := lanesQuads (lanesOf held), keys := [], issued := s.cycle, instr := i, pc := pc
                               gen := gen, active := lanesOf held, asked := [], held := held, got := [] }] })
  | o => o

/-- The 64 bits that a latch takes of a result of n words (R49). -/
def latchValue (n : Nat) (f : Nat → Word) : DWord := if n = 1 then (f 0).setWidth 64 else f 1 ++ f 0

/-- After a write of some lanes: one that a `fence.rel` has made a release is sent to L2 (R112, R126). -/
def State.wrote (s : State) (c : Cur) (act : Mask) : State :=
  let w := s.wave c.wid
  if w.releasing &&& act = 0 then s
  else (s.releaseL1 (c.wid / 64)).setWave c.wid { w with releasing := w.releasing &&& ~~~ act }

/-- The stores of some lanes, each with its bytes: those that the home L2 rejects are held (R208). -/
def State.storeLanes (s : State) (c : Cur) (a : Acc) (xs : List (Access × List Byte)) : State × List HeldAccess :=
  let late := fun (x : Access × List Byte) => s.rejects a x.1
  let t := s.storeEach a (xs.filter fun x => !late x)
  t.holdAccesses c a (s.panel c).pc 0x12 0 ((xs.filter late).map fun x => x.1.doing (.store x.2) a.evp)

/-- The elements that the lanes of a mask store to a stream (R54), each with its bytes. -/
def Stream.pushes (x : Stream) (act : Mask) (f : Nat → DWord) : List (Access × List Byte) :=
  (List.range 64).filterMap fun j =>
    if act.getLsbD j && decide (x.cursor + j < x.count) then
      some ({ lane := j, va := x.addr (x.cursor + j), n := fmtBytes x.fmt, write := true }, toBytes (fmtBytes x.fmt) (f j).toNat)
    else none

/-- Writes a lane result of n words: destination, latch, streams and flags (R47, R49, R54, R166). -/
def writeLanes (i : Instr) (c : Cur) (l : Lanes) (d : Dst) (n : Nat) (f : Nat → Nat → Word) (fl : Word) (s : State) : Out :=
  let a := s.laneAcc c
  let u := l.p.uses (0, 1) i
  let act := l.now
  let r := match d with
    | .s k =>
      let r := s.storeLanes c a ((l.p.stream k).pushes act fun j => latchValue n (f j))
      (r.1.wrote c act, r.2)
    | _ => (s, [])
  let s := r.1
  let w := (s.wave c.wid).writeDst d n act f
  let w := match latchOf i with
    | none => w
    | some x => w.setLatch (latchNo x) act (fun j => latchValue n (f j))
  let p := (w.panel c.entry).advanceStreams w.width (u.srcStreams ++ u.dstStreams).eraseDups
  let p := (p.raise fl).track i l.act a.gen s.cycle (0, 1) l.asked l.held
  noteStores i c l.p.pc a.gen r.2 (finish c (s.setWave c.wid (w.setPanel c.entry p)))

/-- The values of the active lanes, zero elsewhere. -/
def laneValues {α : Type} (act : Mask) (z : α) (f : Nat → α) : List α :=
  (List.range 64).map fun j => if act.getLsbD j then f j else z

/-- A lane instruction with a lane destination of n words: each active lane's value and flags. -/
def laneOp (i : Instr) (d : Dst) (n : Nat) (s : State) (f : Lanes → Nat → Nat × Word) : Out :=
  issue i s fun c s => withLanes i c s fun l s =>
    let r := laneValues l.act (0, 0) (f l)
    writeLanes i c l d n (fun j k => dwordWord (BitVec.ofNat 64 (r.getD j (0, 0)).1) k) (orFlags (r.map (·.2))) s

/-- A lane instruction with a predicate destination (R174, R179): it sets no flag and writes no latch. -/
def lanePred (i : Instr) (p : Nat) (s : State) (f : Lanes → Nat → Bool) : Out :=
  issue i s fun c s => withLanes i c s fun l s =>
    let r := laneValues l.act false (f l)
    let w := (s.wave c.wid).setPred p l.act (fun j => r.getD j false)
    let q := ((w.panel c.entry).advanceStreams w.width (usesOf i).srcStreams).track i l.act (s.laneAcc c).gen s.cycle
    finish c (s.setWave c.wid (w.setPanel c.entry q))

end Sys2Proof.Machine
end

