-- ==== Sys2Proof/Machine/RecordLog.lean ====
section
/-! DEFINITION. The record log and replay from it (16 R321, R322), and race-detection shadow words (R319, R320). -/

namespace Sys2Proof.Machine

/-! ## The log -/

/-- Bytes of the log ring free before LOGTAIL, one entry left free (R322, as R315). -/
def logFree (x : Partition) : Nat :=
  let size := x.logsize.toNat * 4096
  if size = 0 then 0 else (x.logtail.toNat + size - x.loghead.toNat % size - 16 + size) % size

/-- A 16-byte entry (R321). -/
def logEntry (seq wid lane kind : Nat) (value : DWord) : List Byte :=
  toBytes 4 seq ++ toBytes 2 wid ++ toBytes 1 lane ++ toBytes 1 kind ++ toBytes 8 value.toNat

/-- Writes one entry at LOGHEAD; a slot that does not translate is left. -/
def State.logWrite (s : State) (p : Nat) (bs : List Byte) : State :=
  let x := s.part p
  let size := x.logsize.toNat * 4096
  let s := match s.writeVa (s.ringAcc p) (x.logbase.toNat + x.loghead.toNat % size) bs with
    | .ok s' => s'
    | .error _ => s
  s.setPart p { s.part p with loghead := BitVec.ofNat 64 ((x.loghead.toNat + 16) % size) }

/-- Writes the gap entry that is due, where space exists (R322): its WID and lane are open (assumption 21, DESIGN CHOICE). -/
def State.logGapWrite (s : State) (p : Nat) : State :=
  match (s.part p).logGap with
  | none => s
  | some first =>
    if logFree (s.part p) < 16 then s
    else
      let x := s.part p
      let s := s.logWrite p (logEntry (x.logseq % 2 ^ 32) (Config.free s.freeCtr 0).toNat (Config.free s.freeCtr 1).toNat 4
        (BitVec.ofNat 64 first))
      (s.setPart p { s.part p with logGap := none, logseq := x.logseq + 1 }).bumpFree

/-- Appends an entry while LOGEN = 1, or drops it (R321, R322). -/
def State.logAppend (s : State) (p wid lane kind : Nat) (value : DWord) : State :=
  if (s.part p).dbgctl.getLsbD 9 = false then s
  else
    let s := s.logGapWrite p
    let x := s.part p
    if logFree x < 16 then s.setPart p { x with logseq := x.logseq + 1, logGap := x.logGap.or (some x.logseq) }
    else
      let s := s.logWrite p (logEntry (x.logseq % 2 ^ 32) wid lane kind value)
      s.setPart p { s.part p with logseq := x.logseq + 1 }

/-- The launch of a panel's wave runs in replay mode (R322, R329 RPLY). -/
def State.replaying (s : State) (c : Cur) : Bool :=
  match s.launch? (s.curWg c).lid with
  | none => false
  | some l => l.spec.flags / 16 % 2 == 1

/-- The bytes of entry k of the log ring. -/
def State.logRead (s : State) (p k : Nat) : List Byte :=
  let x := s.part p
  match s.readVa (s.ringAcc p) (x.logbase.toNat + 16 * k) 16 with
  | (_, .ok bs) => bs
  | (_, .error _) => []

/-- An entry that records an outcome of a wave: an atomic of that lane, or its panel's own, whose lane is open. -/
def logMatches (bs : List Byte) (wid lane kind : Nat) : Bool :=
  fieldAt bs 4 2 == wid && fieldAt bs 7 1 == kind && (kind != 1 || fieldAt bs 6 1 == lane)

/-- The first entry of the log, from entry k on, that records the next outcome of a wave and has not been taken, before any
gap (R322): its number and value (assumption 22, DESIGN CHOICE). -/
def State.replayFind (s : State) (p wid lane kind : Nat) : Nat → Nat → Option (Nat × DWord)
  | 0, _ => none
  | n + 1, k =>
    let bs := s.logRead p k
    if bs = [] ∨ fieldAt bs 7 1 = 4 then none
    else if logMatches bs wid lane kind && !(s.part p).replay.contains k then some (k, BitVec.ofNat 64 (fieldAt bs 8 8))
    else s.replayFind p wid lane kind n (k + 1)

def State.replayNext (s : State) (p wid lane kind : Nat) : Option (Nat × DWord) :=
  s.replayFind p wid lane kind ((s.part p).logsize.toNat * 256) 0

/-- An entry that a panel in replay mode appends is none of the log that it replays. -/
def State.notReplayed (s t : State) (p : Nat) : State :=
  let x := t.part p
  if x.loghead = (s.part p).loghead then t
  else
    let n := x.logsize.toNat * 256
    t.setPart p { x with replay := (x.loghead.toNat / 16 + n - 1) % n :: x.replay }

/-- An outcome that the log records, and that a gang in replay mode takes from it, as far as the log has it (R321, R322). -/
def State.outcome (s : State) (c : Cur) (lane kind : Nat) (value : DWord) : State × DWord :=
  let p := (s.laneAcc c).part
  if s.replaying c then
    let r := match s.replayNext p c.wid lane kind with
      | none => (s, value)
      | some (k, v) => (s.setPart p { s.part p with replay := k :: (s.part p).replay }, v)
    (r.1.notReplayed (r.1.logAppend p c.wid lane kind r.2) p, r.2)
  else (s.logAppend p c.wid lane kind value, value)

/-- A panel's own outcome: the entry's lane is open (assumption 21, DESIGN CHOICE). -/
def State.panelOutcome (s : State) (c : Cur) (kind : Nat) (value : DWord) : State × DWord :=
  s.bumpFree.outcome c ((Config.free s.freeCtr 2).toNat % 256) kind value

/-- The panel must wait for room in the log (R322: LOGSTL), a gap entry that is due before its own. -/
def State.logStalls (s : State) (c : Cur) (entries : Nat) : Bool :=
  let x := s.part (s.laneAcc c).part
  x.dbgctl.getLsbD 9 && x.dbgctl.getLsbD 10 && decide (logFree x < 16 * (entries + x.logGap.isSome.toNat)) && entries != 0

/-! ## Race detection -/

/-- A launch in race-detection mode (R329 RACE). -/
def State.raceMode (s : State) (c : Cur) : Bool :=
  match s.launch? (s.curWg c).lid with
  | none => false
  | some l => l.spec.flags / 8 % 2 == 1

def shadowVal (x : Word) : Bool := x.getLsbD 15

/-- A write to a local store by an agent whose writes are not checked (R320). -/
def State.writeLocalPlain (s : State) (x : LocalPlace) (bs : List Byte) : State :=
  let s := s.writeLocal x bs
  if x.store = .a ∧ bs ≠ [] then s.clearShadow x.core x.ofs bs.length else s

/-- The local address of the record that a handle names (R55, R103). -/
def handleAddr (h : Word) : Nat := 3 * 2 ^ 29 + bits 26 4 h.toNat * 16

/-- The barrier record that a handle of a workgroup names (R55, R224): its place in an A store. -/
def State.handlePlace (s : State) (wg : Workgroup) (k : Nat) : Option LocalPlace :=
  let h := wg.handles.getD k 0
  if handleBound h then (s.findLocal wg admitA 16 (handleAddr h) 16).toOption else none

/-- Bits [15:0] of GEN of a workgroup's b0 record (R320). -/
def State.raceGen (s : State) (wg : Workgroup) : Nat :=
  match s.handlePlace wg 0 with
  | none => 0
  | some x => ofBytes (s.readStore x.store x.core (x.ofs + 12) 2)

/-- The cluster WID of a wave (R307). -/
def clusterWid (wid : Nat) : Nat := (wid / 64 - clusterBase (wid / 64)) * 64 + wid % 64

/-- The words that an access touches. -/
def touchedWords (ofs n : Nat) : List Nat := (List.range ((ofs + n - 1) / 4 + 1 - ofs / 4)).map fun i => ofs / 4 + i

/-- The first conflicting shadow word of an access to an A store (R320). -/
def State.raceConflict (s : State) (wid gen : Nat) (x : LocalPlace) (n : Nat) : Option Word :=
  if x.store = .a then
    (touchedWords x.ofs n).findSome? fun k =>
      let w := Sparse.get 0 s.shadow (shadowIndex x.core (4 * k))
      if shadowVal w && bits 11 0 w.toNat != clusterWid wid && bits 31 16 w.toNat == gen then some w else none
  else none

/-- A checked write marks its words (R320). -/
def State.markShadow (s : State) (wid gen : Nat) (x : LocalPlace) (n : Nat) : State :=
  if x.store = .a then
    { s with shadow := (touchedWords x.ofs n).foldl (fun l k =>
        Sparse.set 0 l (shadowIndex x.core (4 * k)) (BitVec.ofNat 32 (gen * 2 ^ 16 + 2 ^ 15 + clusterWid wid))) s.shadow }
  else s

end Sys2Proof.Machine
end

