-- ==== Sys2Proof/Machine/LoadStore.lean ====
section
/-! DEFINITION. Loads, stores, atomics and fences (10 R208-R216; 06 R102-R106, 07 R126). -/

namespace Sys2Proof.Machine

/-! ## Operands -/

/-- What a load delivers of its bytes (R65, R209): word k. -/
def loadWord (sz : Size) (bs : List Byte) (k : Nat) : Word :=
  match sz with
  | .i8 => BitVec.ofNat 32 (wrap 32 (signedOf 8 (ofBytes bs)))
  | .i16 => BitVec.ofNat 32 (wrap 32 (signedOf 16 (ofBytes bs)))
  | _ => BitVec.ofNat 32 (fieldAt bs (4 * k) 4)

/-- Word k of a lane's result, of the bytes that its access has read, with zeros past them (R57, R209, R217). -/
def Conv.word (x : Conv) (bs : List Byte) (k : Nat) : Word :=
  match x with
  | .mem sz => loadWord sz (bs ++ List.replicate (sz.bytes - bs.length) 0) k
  | .elem fmt => dwordWord (holdElem fmt bs) k

/-- The bytes that a store takes from its data operand (R210). -/
def storeBytes (sz : Size) (l : Lanes) (b : Src) (j : Nat) : List Byte :=
  ((List.range (sizeCount sz)).flatMap fun k =>
    toBytes 4 (srcGroup (sizeCount sz) l.w l.p l.pops b j k).toNat).take sz.bytes

/-- The effective global address of a lane (R151). -/
def globalAddr (l : Lanes) (m : MemWord) (a : Src) (j : Nat) : Nat :=
  (((l.a64 a j).toNat : Int) + m.ofs.toInt) % (2 ^ 64 : Int) |>.toNat

/-- The effective local address of a lane (R151). -/
def localAddr (l : Lanes) (m : MemWord) (a : Src) (j : Nat) : Nat :=
  (((l.a32 a j).toNat : Int) + m.ofs.toInt) % (2 ^ 32 : Int) |>.toNat

def activeLanes (m : Mask) : List Nat := (List.range 64).filter fun j => m.getLsbD j

/-- A store that the panel has issued and that no L1 or bank has accepted yet (R142). -/
def Panel.storeIssued (p : Panel) (act : Mask) : Panel := if act = 0 then p else { p with undrained := p.undrained + 1 }

/-- Ends a form that writes no register: its stream sources advance (R54) (assumption 5, DESIGN CHOICE). -/
def endStore (i : Instr) (c : Cur) (l : Lanes) (drain : Bool) (s : State) : Out :=
  let s := s.wrote c l.now
  let p := (s.panel c).advanceStreams l.w.width (l.p.uses (0, 1) i).srcStreams
  let p := p.track i l.act (s.laneAcc c).gen s.cycle (0, 1) l.asked l.held
  finish c (s.setPanel c (if drain then p.storeIssued l.act else p))

/-! ## Global loads and stores -/

/-- The accesses of a memory form, with its override of the eviction priority (R113, R151). -/
def State.memAcc (s : State) (c : Cur) (m : MemWord) : Acc :=
  { s.laneAcc c with evp := if m.evo then some m.evp.toNat else none, got := [] }

/-- Reads the bytes of some lanes, each at its address: pairs of lane and bytes. -/
def State.readEachLane (s : State) (a : Acc) (addr : Nat → Nat) (n : Nat → Nat) : List Nat → State × List (Nat × List Byte)
  | [] => (s, [])
  | j :: js =>
    let r := s.fetchBytes a (addr j) (n j)
    let t := r.1.readEachLane a addr n js
    (t.1, (j, r.2) :: t.2)

/-- The same for one load instruction: every fill comes before any lane reads, so that lanes that read one atomic unit read the
same write (R124). -/
def State.readLanes (s : State) (a : Acc) (addr : Nat → Nat) (n : Nat → Nat) (js : List Nat) : State × List (Nat × List Byte) :=
  (js.foldl (fun s j => s.touchVa a (addr j) (n j)) s).readEachLane { a with ctr := some s.freeCtr } addr n js

def laneBytes (r : List (Nat × List Byte)) (j : Nat) : List Byte := (Sparse.find r j).getD []

/-- Where a lane's result of n words goes that comes later. -/
def heldDst (l : Lanes) (d : Dst) (n j : Nat) : HeldDst :=
  { dst := d, words := n
    elem := (match d with
      | .s k =>
        let x := l.p.stream k
        if x.cursor + j < x.count then some (x.addr (x.cursor + j), fmtBytes x.fmt) else none
      | _ => none) }

/-- The load of some lanes, each of so many bytes at its address, the others' results being zeros: the lanes that the home L2 does not
reject are performed, and the others' results come after their replies (R208). -/
def loadLanes (i : Instr) (c : Cur) (l : Lanes) (d : Dst) (n : Nat) (a : Acc) (conv : Conv) (fl : Word) (addr len : Nat → Nat)
    (js : List Nat) (s : State) : Out :=
  let acc := fun (j : Nat) => ({ lane := j, va := addr j, n := len j, write := false } : Access)
  whenChecked c s (js.map acc) fun zs =>
    let doing := fun (x : Access) => x.doing (.load conv (heldDst l d n x.lane)) a.evp
    let now := js.filter fun j => !zs.contains (acc j)
    let r := s.readLanes a addr len now
    let h := r.1.holdAccesses c a l.p.pc 0x12 0 (zs.map doing)
    let l := { l with asked := ((now.map acc).filter (s.asks a)).map doing, held := h.2 }
    writeLanes i c l d n (fun j k => conv.word (laneBytes r.2 j) k) fl h.1

/-- A load from global memory (R208, R209). -/
def loadGlobal (i : Instr) (m : MemWord) (d : Dst) (a : Src) (s : State) : Out :=
  issue i s fun c s => withLanes i c s fun l s =>
    loadLanes i c l d (sizeCount m.sz) (s.memAcc c m) (.mem m.sz) 0 (globalAddr l m a) (fun _ => m.sz.bytes) (activeLanes l.act) s

/-- `ld` (R209). -/
def execLd (m : MemWord) (d : Dst) (a : Src) (s : State) : Out := loadGlobal (.ld m d a) m d a s

/-- The stores of some lanes, each of its bytes at its address (R208, R210). -/
def storeAt (i : Instr) (c : Cur) (l : Lanes) (a : Acc) (xs : List (Access × List Byte)) (s : State) : Out :=
  whenChecked c s (xs.map (·.1)) fun _ =>
    let r := s.storeLanes c a xs
    endStore i c { l with held := r.2 } true r.1

/-- `st` (R210). -/
def execSt (m : MemWord) (a b : Src) (s : State) : Out :=
  issue (.st m a b) s fun c s => withLanes (.st m a b) c s fun l s =>
    storeAt (.st m a b) c l (s.memAcc c m) ((activeLanes l.act).map fun j =>
      ({ lane := j, va := globalAddr l m a j, n := m.sz.bytes, write := true }, storeBytes m.sz l b j)) s

/-! ## Local loads and stores -/

/-- What the check of one lane's local access finds (R106, R320). -/
inductive LocalCheck where
  | ok (x : LocalPlace)
  | fail (e : LFail)
  | race (shadow : Word)
  deriving DecidableEq, Repr

def State.checkLocal (s : State) (c : Cur) (race : Bool) (addr n : Nat) : LocalCheck :=
  let wg := s.curWg c
  match s.findLocal wg admitLane n addr n with
  | .error e => .fail e
  | .ok x =>
    match (if race then s.raceConflict c.wid (s.raceGen wg) x n else none) with
    | some w => .race w
    | none => .ok x

/-- The places of all the lanes' local accesses, or the first lane's failure (R208). -/
def State.checkLocals (s : State) (c : Cur) (race : Bool) (addr : Nat → Nat) (n : Nat) :
    List Nat → Except (Nat × LocalCheck) (List (Nat × LocalPlace))
  | [] => .ok []
  | j :: js =>
    match s.checkLocal c race (addr j) n with
    | .ok x =>
      (match s.checkLocals c race addr n js with
       | .ok xs => .ok ((j, x) :: xs)
       | .error e => .error e)
    | e => .error (addr j, e)

/-- A failed local access of a lane: a precise trap, with a record for a race (R106, R316, R320). -/
def localFail (c : Cur) (write : Bool) (addr : Nat) (e : LocalCheck) (s : State) : Out :=
  match e with
  | .ok _ => .next s
  | .fail x => localTrap c write x addr s
  | .race w =>
    let p := s.panel c
    let part := (s.laneAcc c).part
    let s := s.traceRecord part 0x09 0 (dieByte (c.wid / 64))
      (panelBlock c.wid c.entry p.stateCode p.qmask.toNat p.pc ++ toBytes 4 addr ++ toBytes 4 w.toNat ++
        toBytes 1 write.toNat ++ toBytes 23 0) 2
    trapTo c { cause := 0x18, write := write, loc := true, addr := addr } s

/-- `lds` (R211). -/
def execLds (m : MemWord) (d : Dst) (a : Src) (s : State) : Out :=
  issue (.lds m d a) s fun c s => withLanes (.lds m d a) c s fun l s =>
    match s.checkLocals c (s.raceMode c) (localAddr l m a) m.sz.bytes (activeLanes l.act) with
    | .error e => localFail c false e.1 e.2 s
    | .ok xs =>
      let r := xs.map fun x => (x.1, s.readLocal x.2 m.sz.bytes)
      writeLanes (.lds m d a) c l d (sizeCount m.sz) (fun j k => loadWord m.sz (laneBytes r j) k) 0 s

/-- Writes the lanes of an `sts`, ascending, each checked word marked with the GEN that the checks took, if any (R124, R320). -/
def State.storeLocals (s : State) (c : Cur) (gen : Option Nat) (f : Nat → List Byte) : List (Nat × LocalPlace) → State
  | [] => s
  | x :: xs =>
    let s' := s.writeLocal x.2 (f x.1)
    let s' := match gen with
      | none => s'
      | some g => s'.markShadow c.wid g x.2 (f x.1).length
    s'.storeLocals c gen f xs

/-- `sts` (R211). -/
def execSts (m : MemWord) (a b : Src) (s : State) : Out :=
  issue (.sts m a b) s fun c s => withLanes (.sts m a b) c s fun l s =>
    match s.checkLocals c (s.raceMode c) (localAddr l m a) m.sz.bytes (activeLanes l.act) with
    | .error e => localFail c true e.1 e.2 s
    | .ok xs =>
      let gen := if s.raceMode c then some (s.raceGen (s.curWg c)) else none
      endStore (.sts m a b) c l true (s.storeLocals c gen (storeBytes m.sz l b) xs)

/-! ## Parameter windows -/

/-- The bytes of a read at an offset that lie below the window's size (R57). -/
def windowBytes (size ofs n : Nat) : Nat := Nat.min n (size - ofs)

/-- `ldp` (R212, R57). With no active lane it raises nothing, as every memory form (R208), also on a window that nothing is bound
to (assumption 92, DESIGN CHOICE); that trap gives the first lane's address in %xaddr (R352; assumption 63, DEDUCED). A window
of size 0 counts as one that nothing is bound to, also pw0 of a band whose descriptor gives it a base (R372; assumption 109, DESIGN
CHOICE). -/
def execLdp (m : MemWord) (d : Dst) (win : Nat) (b : Src) (s : State) : Out :=
  issue (.ldp m d win b) s fun c s => withLanes (.ldp m d win b) c s fun l s =>
    let js := activeLanes l.act
    let pw := (s.curWg c).pw.getD win (0, 0)
    let base := pw.1
    let size := pw.2
    if js.isEmpty then writeLanes (.ldp m d win b) c l d (sizeCount m.sz) (fun _ _ => 0) 0 s
    else if size = 0 then
      trapTo c { cause := 0x16, addr := (base + localAddr l m b (js.headD 0)) % 2 ^ 64 } s
    else
      let n := m.sz.bytes
      let ofs := localAddr l m b
      let below := fun (j : Nat) => windowBytes size (ofs j) n
      let addr := fun (j : Nat) => (base + ofs j) % 2 ^ 64
      let past := js.any fun j => decide (below j < n)
      match js.find? fun j => ofs j % n != 0 with
      | some bad =>
        -- the lanes before it are checked first (R208)
        whenChecked c s (((js.takeWhile fun j => j != bad).filter fun j => below j != 0).map fun j =>
            { lane := j, va := addr j, n := below j, write := false })
          fun _ => trapTo c { cause := 0x13, addr := addr bad } s
      | none =>
        loadLanes (.ldp m d win b) c l d (sizeCount m.sz) (s.memAcc c m) (.mem m.sz) (if past then fPWB else 0) addr below
          (js.filter fun j => below j != 0) s

/-! ## Atomics -/

/-- The type of an atomic as an integer type; f32 is 32 bits (R213). -/
def atomInt : AtomTy → IntTy
  | .int t => t
  | .f32 => .n32

/-- The new value of a location (R213). `.fadd` adds the low words as f32, which on a 64-bit type leaves the high word of the
location 0 (assumption 23, DEDUCED). -/
def atomNew (op : AtomOp) (ty : IntTy) (m b : Nat) : Nat :=
  let val := fun (n : Nat) => if ty.signed then signedOf ty.width n else (n : Int)
  match op with
  | .add => (m + b) % 2 ^ ty.width
  | .min => if val b < val m then b else m
  | .max => if val m < val b then b else m
  | .and => m &&& b
  | .or => m ||| b
  | .xor => m ^^^ b
  | .exch => b
  | .fadd => (f32.fused .rne false [] [f32.decode (m % 2 ^ 32), f32.decode (b % 2 ^ 32)]).1

/-- The new value of a location, or none where nothing is written (R213, R215). -/
def Rmw.new : Rmw → Nat → Option Nat
  | .atom op ty b, m => some (atomNew op ty m b)
  | .cas _ new old, m => if m = old then some new else none

/-- The type of its operands. -/
def Rmw.ty : Rmw → IntTy
  | .atom _ ty _ => ty
  | .cas ty _ _ => ty

/-- Scopes at which releases and acquires touch the L1 (R112). -/
def scopeWide : Scope → Bool
  | .core => false
  | _ => true

def ordReleases : Order → Bool
  | .rel => true
  | .ar => true
  | _ => false

def ordAcquires : Order → Bool
  | .acq => true
  | .ar => true
  | _ => false

/-- A release by a panel at a scope (R112, R126). -/
def State.releaseAt (s : State) (c : Cur) (scope : Scope) : State := if scopeWide scope then s.releaseL1 (c.wid / 64) else s

/-- An acquire by a panel at a scope (R112, R126). -/
def State.acquireAt (s : State) (c : Cur) (scope : Scope) : State := if scopeWide scope then s.acquireL1 (c.wid / 64) else s

/-- The bytes of a location at its home L2, the panel's own written bytes with them; free at a peer. The core's copy of the line is
given up, so that no later load reads an older write than this read (R124, R128). -/
def State.homeRead (s : State) (a : Acc) (n : Nat) (x : Place) : State × Nat :=
  match x with
  | .sparse => (s, 0)
  | .leaf e pa =>
    if ptePeer e then (s.bumpFree, ofBytes ((List.range n).map fun i => Config.peerByte s.freeCtr (pa + i)))
    else
      let s := s.bypass a (pteKey e) (pa / 128)
      (s, ofBytes (s.readKeyedBytes (pteKey e) pa n))

/-- Writes a location at its home L2 (R126). -/
def State.homeWrite (s : State) (n x : Nat) : Place → State
  | .sparse => s
  | .leaf e pa => if ptePeer e then s else s.writeKeyedBytes (pteKey e) pa (toBytes n x)

/-- One lane's read-modify-write at a place in global memory; `f` answers none where nothing is written (R213-R215). -/
def State.rmwHome (s : State) (c : Cur) (n : Nat) (rel : Option Scope) (f : Nat → Option Nat) (x : Place) : State × Nat :=
  let r := s.homeRead (s.laneAcc c) n x
  match f r.2 with
  | none => r
  | some v =>
    let s := match rel with
      | none => r.1
      | some scope => r.1.releaseAt c scope
    (s.homeWrite n v x, r.2)

/-- The same in an A store (R213, R108). -/
def State.rmwLocal (s : State) (c : Cur) (n : Nat) (rel : Option Scope) (f : Nat → Option Nat) (x : LocalPlace) :
    State × Nat :=
  let m := ofBytes (s.readLocal x n)
  match f m with
  | none => (s, m)
  | some v =>
    let s := match rel with
      | none => s
      | some scope => s.releaseAt c scope
    (s.writeLocalPlain x (toBytes n v), m)

/-- The lanes' read-modify-writes one after another, ascending, and their outcomes (R214, R321). -/
def State.rmwLanes {α : Type} (s : State) (c : Cur) (rmw : State → (Nat → Option Nat) → α → State × Nat)
    (f : Nat → Nat → Option Nat) : List (Nat × α) → State × List (Nat × Nat)
  | [] => (s, [])
  | (j, x) :: xs =>
    let r := rmw s (f j) x
    let o := r.1.outcome c j 1 (BitVec.ofNat 64 r.2)
    let t := o.1.rmwLanes c rmw f xs
    (t.1, (j, o.2.toNat) :: t.2)

/-- Ends an atomic: the lanes that wrote have made the write that a fence orders (a `cas` that fails is a read, R215), the acquire
part of its order, and the old values to D (R126, R213). -/
def endAtomic (i : Instr) (c : Cur) (l : Lanes) (d : Dst) (ty : IntTy) (ord : Order) (scope : Scope)
    (f : Nat → Rmw) (r : State × List (Nat × Nat)) : Out :=
  let old := fun (j : Nat) => (Sparse.find r.2 j).getD 0
  let act := l.now
  let s := r.1.wrote c (act &&& maskOf fun j => ((f j).new (old j)).isSome)
  let s := if ordAcquires ord && act != 0 then s.acquireAt c scope else s
  let s := s.setPanel c ((s.panel c).storeIssued l.act)
  writeLanes i c l d (lw ty.wide) (fun j k => dwordWord (BitVec.ofNat 64 (old j)) k) 0 s

/-- The scope of the release that an atomic's write is. -/
def relScope (ord : Order) (scope : Scope) : Option Scope := if ordReleases ord then some scope else none

/-- An atomic on global or local memory (R213-R215): `f` gives each lane's read-modify-write. -/
def atomic (i : Instr) (ty : IntTy) (ord : Order) (scope : Scope) (loc : Bool) (d : Dst) (a : Src) (f : Lanes → Nat → Rmw)
    (s : State) : Out :=
  issue i s fun c s => withLanes i c s fun l s =>
    let js := activeLanes l.act
    let n := ty.width / 8
    let rel := relScope ord scope
    if loc then
      let addr := fun (j : Nat) => (l.a32 a j).toNat
      let check := fun (j : Nat) => s.findLocal (s.curWg c) admitAtomic n (addr j) n
      match js.find? fun j => (check j).toOption.isNone with
      | some j =>
        (match check j with
         | .error e => localTrap c true e (addr j) s
         | .ok _ => .next s)
      | none =>
        let xs := js.filterMap fun j => (check j).toOption.map fun x => (j, x)
        endAtomic i c l d ty ord scope (f l) (s.rmwLanes c (fun s g x => s.rmwLocal c n rel g x) (fun j => (f l j).new) xs)
    else
      let addr := fun (j : Nat) => (l.a64 a j).toNat
      let acc := fun (j : Nat) => ({ lane := j, va := addr j, n := n, write := true } : Access)
      whenChecked c s ((js.takeWhile fun j => addr j % n == 0).map acc) fun zs =>
        match js.find? fun j => addr j % n != 0 with
        | some j => trapTo c { cause := 0x13, write := true, addr := addr j } s
        | none =>
          let la := s.laneAcc c
          let now := js.filter fun j => !zs.contains (acc j)
          let xs := now.filterMap fun j =>
            match s.translate la (addr j) .write with
            | .ok x => some (j, x)
            | .error _ => none
          let t := s.cacheLeaves la (js.map addr)
          if xs.any fun x => t.poisonPlace x.2 then endCur c 0x10 t
          else
            let r := t.rmwLanes c (fun s g x => s.rmwHome c n rel g x) (fun j => (f l j).new) xs
            let h := r.1.holdAccesses c la l.p.pc 0x12 0
              (zs.map fun x => x.doing (.rmw (f l x.lane) ord scope (heldDst l d (lw ty.wide) x.lane)) none)
            endAtomic i c { l with held := h.2 } d ty ord scope (f l) (h.1, r.2)

/-- `atom` (R213). -/
def execAtom (op : AtomOp) (ty : AtomTy) (ord : Order) (scope : Scope) (loc : Bool) (d : Dst) (a b : Src) (s : State) : Out :=
  atomic (.atom op ty ord scope loc d a b) (atomInt ty) ord scope loc d a
    (fun l j => .atom op (atomInt ty) (l.bits (atomInt ty).wide (atomInt ty).signed b j)) s

/-- `cas` (R215): a failed one writes nothing and releases nothing. -/
def execCas (ty : IntTy) (ord : Order) (scope : Scope) (loc : Bool) (d : Dst) (a n x : Src) (s : State) : Out :=
  atomic (.cas ty ord scope loc d a n x) ty ord scope loc d a
    (fun l j => .cas ty (l.bits ty.wide ty.signed n j) (l.bits ty.wide ty.signed x j)) s

/-- The release part of a fence: the L1's written bytes are sent, and each lane's next write is a release (R112, R126) (assumption 59, DEDUCED). -/
def State.fenceRelease (s : State) (c : Cur) (scope : Scope) : State :=
  if scopeWide scope then
    let w := s.curWave c
    (s.setWave c.wid { w with releasing := w.releasing ||| quadLanes (w.panel c.entry).qmask }).releaseAt c scope
  else s

/-- `fence` (R216, R126, R129): for every lane of the panel, whatever the guard and the mask. -/
def execFence (kind : FenceKind) (scope : Scope) (s : State) : Out :=
  issue (.fence kind scope) s fun c s =>
    finish c (match kind with
      | .acq => s.acquireAt c scope
      | .rel => s.fenceRelease c scope
      | _ => (s.fenceRelease c scope).acquireAt c scope)

end Sys2Proof.Machine
end

