-- ==== Sys2Proof/Machine/Barriers.lean ====
section
/-! DEFINITION. Barrier records and the barrier instructions (06 R116, R117; 10 R224-R227; 11 R256). -/

namespace Sys2Proof.Machine

/-! ## Records (R116) -/

def recExp (r : Nat) : Nat := bits 23 0 r
def recArr (r : Nat) : Nat := bits 47 24 r
def recPend (r : Nat) : Int := signedOf 48 (bits 95 48 r)
def recGen (r : Nat) : Nat := bits 127 96 r

def recPack (exp arr : Nat) (pend : Int) (gen : Nat) : Nat :=
  exp + arr * 2 ^ 24 + wrap 48 pend * 2 ^ 48 + gen * 2 ^ 96

/-- Update(rec, da, db) (R117): none is a barrier overrun, which leaves the record. -/
def recUpdate (r da : Nat) (db : Int) : Option Nat :=
  if recExp r < recArr r + da then none
  else
    let arr := recArr r + da
    let pend := signedOf 48 (wrap 48 (recPend r + db))
    if arr = recExp r ∧ pend = 0 then some (recPack (recExp r) 0 0 ((recGen r + 1) % 2 ^ 32))
    else some (recPack (recExp r) arr pend (recGen r))

def State.readRec (s : State) (x : LocalPlace) : Nat := ofBytes (s.readLocal x 16)
def State.writeRec (s : State) (x : LocalPlace) (r : Nat) : State := s.writeLocalPlain x (toBytes 16 r)

/-- Counts landed bytes on a record: never an overrun (R117, R233). A record that a store has left with ARR above EXP stays as it
is (assumption 96, DESIGN CHOICE). -/
def State.landBytes (s : State) (x : LocalPlace) (n : Nat) : State :=
  match recUpdate (s.readRec x) 0 (-(n : Int)) with
  | none => s
  | some r => s.writeRec x r

/-- The phase `ph` is complete at generation `gen` (R227), modulo 2^w. -/
def phaseDone (w gen ph : Nat) : Bool :=
  let d := (gen + 2 ^ w - ph % 2 ^ w) % 2 ^ w
  decide (1 ≤ d) && decide (d < 2 ^ (w - 1))

/-! ## The join edge (R73, R131, R195) -/

/-- A record by its workgroup's place in the gang and its offset in that one's A window. -/
def State.recordIndex (s : State) (gid : Nat) (x : LocalPlace) : Nat × Nat :=
  match s.gang? gid with
  | none => (0, x.ofs)
  | some g =>
    let k := x.core - g.base
    (k, x.ofs - (((g.wgs[k]?).bind s.wg?).map (·.abase)).getD 0)

/-- The panel observes the completion of what a record counted: the flags that such operations of its raised are ORed into
its registers (assumption 58, DEDUCED). -/
def State.joinFlags (s : State) (c : Cur) (x : LocalPlace) : State :=
  let at' := s.recordIndex (s.curWg c).gid x
  let w := s.curWave c
  let mine := fun (o : Owed) => (o.gwg, o.ofs) == at' && w.heir o.quads == some c.entry
  let q := (w.owed.filter mine).foldl (fun p o => (p.raise o.flags).raiseNegvar o.negvar) (s.panel c)
  s.setWave c.wid ({ w with owed := w.owed.filter fun o => !mine o }.setPanel c.entry q)

/-! ## Instructions -/

/-- Goes on with the record that a handle names (R224): an unbound handle is illegal (R55), and a record that R106 does
not admit takes its local fault. -/
def withHandle (c : Cur) (h : Nat) (write : Bool) (s : State) (k : LocalPlace → Out) : Out :=
  let x := (s.curWg c).handles.getD h 0
  if handleBound x = false then illegal c s
  else match s.findLocal (s.curWg c) admitA 16 (handleAddr x) 16 with
    | .error e => localTrap c write e (handleAddr x) s
    | .ok place => k place

/-- A generation that a panel has read: to its destination, and to the record log (R224, R321). -/
def State.generation (s : State) (c : Cur) (d : GDst) (gen : Nat) : State :=
  let r := s.panelOutcome c 3 (BitVec.ofNat 64 gen)
  r.1.setPanel c ((r.1.panel c).writeG d r.2)

/-- An arrival (R225): a release at `.clus`, then the update; an overrun is a precise trap. -/
def arrive (c : Cur) (h : Nat) (s : State) (k : Nat → State → Out) : Out :=
  withHandle c h true s fun place =>
    let rec0 := s.readRec place
    match recUpdate rec0 1 0 with
    | none => trapTo c { cause := 0x17, write := true, loc := true, addr := handleAddr ((s.curWg c).handles.getD h 0) } s
    | some r => k (recGen rec0) ((s.releaseAt c .clus).writeRec place r)

/-- `barr` (R225). -/
def execBarr (d : GDst) (h : Nat) (s : State) : Out :=
  issue (.barr d h) s fun c s => arrive c h s fun gen s => finish c (s.generation c d gen)

/-- `bexp` (R226). -/
def execBexp (d : GDst) (h : Nat) (n : GSrc) (s : State) : Out :=
  issue (.bexp d h n) s fun c s =>
    withHandle c h true s fun place =>
      let rec0 := s.readRec place
      match recUpdate rec0 0 (signedOf 48 ((s.panel c).gsrc n).toNat) with
      | none =>
        trapTo c { cause := 0x17, write := true, loc := true, addr := handleAddr ((s.curWg c).handles.getD h 0) } s
      | some r => finish c ((s.writeRec place r).generation c d (recGen rec0))

/-- The panel waits in BARW (R227, R256). -/
def enterBarw (i : Instr) (c : Cur) (ph : Nat) (s : State) : Out :=
  let p := s.panel c
  .next (s.setPanel c { p with status := .barw, wait := some { instr := i, len := c.len, since := s.cycle, aux := ph } })

/-- A phase observed complete: the panel runs again, past the instruction, after an acquire at `.clus` (R227, R131). -/
def passBarrier (c : Cur) (x : LocalPlace) (s : State) : Out :=
  let s := (s.joinFlags c x).acquireAt c .clus
  finish c (s.setPanel c { s.panel c with status := .run, wait := none })

/-- `bwait` (R227). -/
def execBwait (d : GDst) (h : Nat) (ph : GSrc) (s : State) : Out :=
  issue (.bwait d h ph) s fun c s =>
    withHandle c h false s fun place =>
      let gen := recGen (s.readRec place)
      let want := bits 31 0 ((s.panel c).gsrc ph).toNat
      if phaseDone 32 gen want then passBarrier c place (s.generation c d gen)
      else enterBarw (.bwait d h ph) c want s

/-- `sbar` (R256): the arrival, unless %px says it has been made, then the wait (assumption 80, DEDUCED). -/
def execSbar (d : GDst) (h : Nat) (s : State) : Out :=
  issue (.sbar d h) s fun c s =>
    let p := s.panel c
    if p.progress.getLsbD 31 then enterBarw (.sbar d h) c (bits 29 0 p.progress.toNat) s
    else
      let x := (s.curWg c).handles.getD h 0
      if handleBound x = false then illegal c s
      else
        match s.findLocal (s.curWg c) admitA 16 (handleAddr x) 16 with
        | .error e =>
          trapTo c { cause := (match e with
              | .range => 0x14
              | .access => 0x15
              | .align => 0x13), write := true, loc := true, mcode := true, addr := handleAddr x } s
        | .ok place =>
          let rec0 := s.readRec place
          match recUpdate rec0 1 0 with
          | none => trapTo c { cause := 0x17, write := true, loc := true, mcode := true, addr := handleAddr x } s
          | some r =>
            let s := ((s.releaseAt c .clus).writeRec place r).generation c d (recGen rec0)
            let ph := recGen rec0 % 2 ^ 30
            enterBarw (.sbar d h) c ph (s.setProgress c (2 ^ 31 + ph))

/-- What a panel in BARW waits for, once its phase is complete (R227, R256): the record's place and generation. -/
def State.phaseOver (s : State) (c : Cur) (x : Waiting) : Option (LocalPlace × Nat) :=
  let gen := fun (h : Nat) => (s.handlePlace (s.curWg c) h).map fun place => (place, recGen (s.readRec place))
  match x.instr with
  | .bwait _ h _ => (gen h).filter fun r => phaseDone 32 r.2 x.aux
  | .sbar _ h => (gen h).filter fun r => phaseDone 30 (r.2 % 2 ^ 30) x.aux
  | _ => none

/-- The log must have room for what the end of a wait records (R321, R322). -/
def State.waitStalls (s : State) (c : Cur) (x : Waiting) : Bool :=
  match x.instr with
  | .bwait .. => s.logStalls c 1
  | _ => false

/-- The phase that a panel in BARW waits for is complete (R227, R256), and the log has room (R322). -/
def execBarrierWaitDone (wid e : Nat) (s : State) : Out :=
  let p := (s.wave wid).panel e
  match p.valid && p.status == .barw && s.waveRuns wid, p.wait with
  | true, some x =>
    let c : Cur := { wid := wid, entry := e, len := x.len }
    if s.waitStalls c x then .next s
    else match s.phaseOver c x, x.instr with
      | some (place, g), .bwait d _ _ => passBarrier c place (s.generation c d g)
      | some (place, _), .sbar .. =>
        passBarrier c place (s.setProgress c 0)
      | _, _ => .next s
  | _, _ => .next s

end Sys2Proof.Machine
end

