-- ==== Sys2Proof/Machine/Control.lean ====
section
/-! DEFINITION. Control flow (09 R199-R207): branches and splits (02 R21, R24), seams (R22, R29, R30), calls, traps and
the return from one, and the exit of lanes (R17, R23). -/

namespace Sys2Proof.Machine

/-! ## Branches -/

/-- The target of a branch (R153): a word displacement from the branch's own address. -/
def branchTarget (pc : Nat) (disp : BitVec 30) : Nat := (((pc : Int) + 4 * disp.toInt) % (2 ^ 57 : Int)).toNat

/-- The quads of a panel with an active lane that takes the branch, where each such quad is of one mind (R24). -/
def takenQuads (mask taken : Mask) : Option (BitVec 16) :=
  let quadsOf := fun (m : Mask) => lanesQuads m
  let t := quadsOf (mask &&& taken)
  let n := quadsOf (mask &&& ~~~ taken)
  if t &&& n = 0 ∧ t ≠ 0 ∧ n ≠ 0 then some t else none

/-- A branch of the panel's active lanes (R200). `taken` are those whose guard and predicate take it; `uncond` is
`bra`, which goes to its target with no active lane too; `split` is `brc.split`, which is not executed in a cycle in which the
wave has split already (R26) (assumption 55, DEDUCED). -/
def branch (c : Cur) (s : State) (disp : BitVec 30) (taken : Mask) (uncond split : Bool) : Out :=
  let w := s.wave c.wid
  let p := w.panel c.entry
  let target := branchTarget p.pc disp
  let taken := taken &&& p.mask
  if p.mask = 0 then
    (if uncond then .next (s.setPanel c (p.jump target s.cycle)) else finish c s)
  else if taken = p.mask then .next (s.setPanel c (p.jump target s.cycle))
  else if taken = 0 then finish c s
  else
    match (if split then takenQuads p.mask taken else none), w.splitAt == some s.cycle, w.freeEntry with
    | some _, true, _ => .next s
    | some q, false, some n =>
      let w := (w.setPanel c.entry (p.advance c.len s.cycle)).split c.entry n q 1 target none s.cycle
      .next ((s.setWave c.wid w).eventRecord c.wid n 0x04 1)
    | _, _, _ =>
      if 16 ≤ p.stack.length then trapTo c { cause := 0x07 } s
      else
        let q := p.jump target s.cycle
        let entry : StackEntry := { mask := p.mask &&& ~~~ taken, pc := (p.pc + 4 * c.len) % 2 ^ 57, waiting := false, clause := none }
        .next (s.setPanel c { q with mask := taken, stack := entry :: q.stack })

/-- `bra` (R200): the lanes whose guard is true take it. -/
def execBra (disp : BitVec 30) (s : State) : Out :=
  issue (.bra disp) s fun c s => branch c s disp ((s.panel c).guard (s.wave c.wid)) true false

/-- The predicate of a `brc`, negated or not (R200). -/
def branchPred (w : Wave) (neg : Bool) (q : Nat) : Mask := if neg then ~~~ (w.pred q) else w.pred q

/-- `brc` (R200, R21). -/
def execBrc (neg : Bool) (q : Nat) (disp : BitVec 30) (s : State) : Out :=
  issue (.brc neg q disp) s fun c s =>
    branch c s disp ((s.panel c).guard (s.wave c.wid) &&& branchPred (s.wave c.wid) neg q) false false

/-- `brc.split` (R200, R24). -/
def execBrcSplit (neg : Bool) (q : Nat) (disp : BitVec 30) (s : State) : Out :=
  issue (.brcSplit neg q disp) s fun c s =>
    branch c s disp ((s.panel c).guard (s.wave c.wid) &&& branchPred (s.wave c.wid) neg q) false true

/-- `call` (R201): the address of the clause header after its extension word, and on at the target. -/
def execCall (d : GDst) (disp : BitVec 30) (s : State) : Out :=
  issue (.call d disp) s fun c s =>
    let p := s.panel c
    let q := p.writeG d (BitVec.ofNat 64 ((p.pc + 4 * c.len) % 2 ^ 57))
    .next (s.setPanel c (q.jump (branchTarget p.pc disp) s.cycle))

/-- `ret` (R202). -/
def execRet (a : GSrc) (s : State) : Out :=
  issue (.ret a) s fun c s =>
    let p := s.panel c
    let x := (p.gsrc a).toNat
    if x % 4 ≠ 0 ∨ 2 ^ 57 ≤ x then illegal c s else .next (s.setPanel c (p.jump x s.cycle))

/-- `ret.tret`: the return from a trap handler (R202, R354). -/
def execRetTret (s : State) : Out :=
  issue .retTret s fun c s =>
    let p := s.panel c
    match p.frame with
    | none => illegal c s
    | some f => .next (s.setPanel c ((p.advance c.len s.cycle).leaveTrap f))

/-! ## Exit -/

/-- `exit`: the panel's active lanes with a true guard leave (R204, R17, R23). -/
def execExit (s : State) : Out :=
  issue .exit s fun c s =>
    let w := s.wave c.wid
    let p := w.panel c.entry
    let m := p.active w
    if m = 0 then finish c s
    else
      let w := (w.exitLanes m).afterExit c.entry c.len s.cycle
      let s := (s.setWave c.wid w).settleTickets c.wid
      .next (if w.allExited then s.endWave c.wid c.entry p else s.settleSeams c.wid)

/-! ## Seams -/

/-- What ResolveStack leaves (R22): the mask and stack at the fuse step, or at a deferred path's address. -/
inductive Resolved where
  | fuseStep (mask : Mask) (stack : List StackEntry)
  | resumed (mask : Mask) (pc : Nat) (stack : List StackEntry)
  deriving DecidableEq, Repr

def resolveStack (pc : Nat) (clause : Option Clause) (mask : Mask) : List StackEntry → Resolved
  | [] => .fuseStep mask []
  | t :: rest =>
    if t.waiting then
      if t.pc = pc then resolveStack pc clause (mask ||| t.mask) rest else .fuseStep mask (t :: rest)
    else .resumed t.mask t.pc ({ mask := mask, pc := pc, waiting := true, clause := clause } :: rest)

/-- The fuse step of a seam (R29). -/
def State.fuseStep (s : State) (c : Cur) (k : BitVec 3) : State :=
  let w := s.wave c.wid
  let p := w.panel c.entry
  let v := w.seamWaiters c.entry p.pc
  let mates := v.filter fun e => stackCompatible p (w.panel e)
  if (w.siblings c.entry).all (fun e => mates.contains e) || k == 0 then s.passSeam c.wid c.entry mates
  else if !v.isEmpty && mates.isEmpty then s.passSeam c.wid c.entry []
  else (s.setPanel c { p with status := .seamw, since := s.cycle, waitct := 0 }).settleSeams c.wid

/-- `seam` (R203, R22, R29, R30). -/
def execSeam (ident : BitVec 12) (k : BitVec 3) (s : State) : Out :=
  issue (.seam ident k) s fun c s =>
    let p := s.panel c
    match resolveStack p.pc p.clause p.mask p.stack with
    | .resumed mask pc stack =>
      .next (s.setPanel c { p.jump pc s.cycle with mask := mask, stack := stack })
    | .fuseStep mask stack =>
      .next ((s.setPanel c { p with mask := mask, stack := stack, seamk := k, seamid := ident }).fuseStep c k)

/-- The panels waiting at a seam reach its class limit (R28, R30). -/
def execSeamTimeout (wid e : Nat) (s : State) : Out :=
  let w := s.wave wid
  let p := w.panel e
  let mates := w.seamMates e
  let first := (e :: mates).foldl (fun m x => Nat.min m (w.panel x).since) s.cycle
  if p.valid && p.status == .seamw && s.waveRuns wid && p.seamk != 0 && p.seamk != 7 &&
      decide (first + seamLimit p.seamk.toNat ≤ s.cycle) then
    .next (s.passSeam wid e mates)
  else .next s

/-! ## Yield, traps and breakpoints -/

/-- `yield` (R205): not eligible for eight core cycles. -/
def execYield (s : State) : Out :=
  issue .yield s fun c s =>
    let p := (s.panel c).advance c.len s.cycle
    .next (s.setPanel c { p with hold := Nat.max p.hold (s.cycle + 9), yielded := true })

/-- The cycles of a `yield` are over: the panel competes as the youngest ready one (R205). -/
def execYieldExpiry (wid e : Nat) (s : State) : Out :=
  let w := s.wave wid
  let p := w.panel e
  if p.valid && p.yielded && decide (p.hold ≤ s.cycle) then
    .next (s.setWave wid (w.setPanel e { p with yielded := false, hold := 0, ready := s.cycle }))
  else .next s

/-- `trapf` (R206): the trap resumes after it (R202). -/
def execTrapf (s : State) : Out :=
  issue .trapf s fun c s =>
    let x := (s.panel c).arithmetic
    if x = 0 then finish c s else .next (s.takeTrap c { cause := 0x20, addr := x } true)

/-- `trap` (R207): with an active lane after the guard (R199). -/
def execTrap (code : Byte) (s : State) : Out :=
  issue (.trap code) s fun c s =>
    if (s.panel c).active (s.wave c.wid) = 0 then finish c s
    else .next (s.takeTrap c { cause := 0x21, info := code.toNat } true)

/-- `bkpt` (R207): a stop where capture is enabled (R309), else a trap. -/
def execBkpt (code : Byte) (s : State) : Out :=
  issue (.bkpt code) s fun c s =>
    let p := s.panel c
    if p.active (s.wave c.wid) = 0 then finish c s
    else if (s.part (s.laneAcc c).part).dbgctl.getLsbD 1 then
      .next (s.setPanel c { p with stopAsked := some (some code) })
    else .next (s.takeTrap c { cause := 0x22, info := code.toNat } true)

end Sys2Proof.Machine
end

