-- ==== Sys2Proof/Machine/Layout.lean ====
section
/-! DEFINITION. Layout records (06 R118-R120) and their AUX area (12 R277), read through the record cache of a
cluster. -/

namespace Sys2Proof.Machine

/-- A layout record (R118). -/
structure Layout where
  handle : Nat
  base : Nat
  fmt : Nat
  rank : Nat
  kind : Nat
  cmp : Bool
  sparse : Bool
  mom : Bool
  ext : List Nat
  strd : List Int
  origin : List Nat
  size : List Nat
  cmeta : Nat
  rmap : Nat
  clear : List Byte
  aux : Nat
  deriving DecidableEq, Repr

def word32s (bs : List Byte) (k n : Nat) : List Nat := (List.range n).map fun i => fieldAt bs (k + 4 * i) 4

/-- The fields of a record's 192 bytes (R118). -/
def Layout.ofBytes (handle : Nat) (bs : List Byte) : Layout :=
  let w0 := fieldAt bs 0 8
  let w1 := fieldAt bs 8 8
  { handle := handle, base := bits 56 0 w0, fmt := bits 7 0 w1, rank := bits 10 8 w1, kind := bits 17 16 w1
    cmp := w1.testBit 24, sparse := w1.testBit 25, mom := w1.testBit 26, ext := word32s bs 16 5
    strd := (List.range 5).map fun i => signedOf 64 (fieldAt bs (40 + 8 * i) 8)
    origin := word32s bs 80 5, size := word32s bs 100 5, cmeta := fieldAt bs 120 8, rmap := fieldAt bs 128 8
    clear := (bs.drop 136).take 16, aux := fieldAt bs 152 32 }

def Layout.owner (bs : List Byte) : Nat := fieldAt bs 184 2

/-- Bytes of a surface or texel format (12 R275). -/
def texelBytes (fmt : Nat) : Nat := [1, 2, 4, 4, 4, 2, 4, 8, 4, 16, 4, 4].getD (fmt - 0x40) 0

/-- Bytes of an element of a record (R64, R118, R275); 0 for q4, whose codes are half a byte. -/
def Layout.elem (r : Layout) : Nat :=
  if r.fmt = 6 then 0
  else if 0x40 ≤ r.fmt then texelBytes r.fmt
  else if r.mom then 2 * fmtBytes r.fmt else fmtBytes r.fmt

/-- The codes that R64 and R275 list. -/
def fmtListed (fmt : Nat) : Bool :=
  decide (fmt ≤ 6) || (decide (8 ≤ fmt) && decide (fmt ≤ 0x10)) || (decide (0x40 ≤ fmt) && decide (fmt ≤ 0x4B))

-- Fields of AUX (R277).
def Layout.filt (r : Layout) : Nat := bits 1 0 r.aux
def Layout.wrapU (r : Layout) : Nat := bits 3 2 r.aux
def Layout.wrapV (r : Layout) : Nat := bits 5 4 r.aux
def Layout.levels (r : Layout) : Nat := bits 11 8 r.aux
def Layout.bias (r : Layout) : Nat := bits 63 32 r.aux
def Layout.srcFactor (r : Layout) : Nat := bits 67 64 r.aux
def Layout.dstFactor (r : Layout) : Nat := bits 71 68 r.aux
def Layout.blendOp (r : Layout) : Nat := bits 73 72 r.aux
def Layout.wmask (r : Layout) : Nat := bits 77 74 r.aux
def Layout.dfunc (r : Layout) : Nat := bits 82 80 r.aux
def Layout.dwrite (r : Layout) : Bool := r.aux.testBit 83

/-- A bit that R277 does not list, or a reserved value. -/
def Layout.auxBad (r : Layout) : Bool :=
  bits 7 6 r.aux != 0 || bits 31 12 r.aux != 0 || bits 79 78 r.aux != 0 || bits 255 84 r.aux != 0 || r.filt == 3 ||
  decide (5 < r.srcFactor) || decide (5 < r.dstFactor) || r.blendOp == 3 || (r.kind == 2 && r.levels != 0)

/-- The reserved fields of a record (R118). -/
def layoutReserved (bs : List Byte) : Bool :=
  let w0 := fieldAt bs 0 8
  let w1 := fieldAt bs 8 8
  bits 63 57 w0 != 0 || bits 15 11 w1 != 0 || bits 23 18 w1 != 0 || bits 63 27 w1 != 0 || fieldAt bs 36 4 != 0 ||
  fieldAt bs 186 6 != 0

/-- The other conditions of R119, with those of R64, R277 and R279. -/
def Layout.bad (r : Layout) (bs : List Byte) : Bool :=
  layoutReserved bs || r.rank == 0 || decide (5 < r.rank) || r.kind == 3 || !fmtListed r.fmt ||
  (r.kind == 2 && decide (r.fmt < 0x40)) || (r.mom && r.fmt != 0 && r.fmt != 8) || (r.ext.take r.rank).contains 0 ||
  (r.cmp && (r.kind != 2 || (r.fmt != 0x42 && r.fmt != 0x43))) || ((r.kind == 1 || r.kind == 2) && r.auxBad)

/-- Why a record cannot be used (R119, R347). -/
inductive RecFail where
  | illegal
  | owner
  | access (e : XFail)
  deriving DecidableEq, Repr

/-- The key of a record in the cache of a cluster (R120). -/
def recKey (cluster part asn handle : Nat) : Nat := ((cluster * 8 + part) * 2 ^ 16 + asn) * 2 ^ 64 + handle % 2 ^ 64

/-- Some byte of a range lies in a poisoned line (R364). -/
def State.poisonIn (s : State) (a : Acc) (va n : Nat) : Bool :=
  match s.translateAll a .read (spanOf va n) with
  | .ok ps => ps.any s.poisonPlace
  | .error _ => false

/-- The 192 bytes of a record: those that the instruction has read already, the cluster's record cache's, or those in memory, past the
L1 (R120, assumption 24, DESIGN CHOICE). The home L2 rejects a fill of an old generation (R138); a poisoned line of it is an
uncorrectable error (R364). -/
def State.recordBytes (s : State) (cluster : Nat) (a : Acc) (h : Nat) : State × Except XFail (List Byte) :=
  let k := recKey cluster a.part a.asn h
  match ((a.got.find? fun g => g.1 == h && g.2.length == recordSize).map (·.2)).or (Sparse.find s.recCache k) with
  | some bs => (s, .ok bs)
  | none =>
    let b := { a with core := none, clus := some cluster }
    if s.rejects b { lane := 0, va := h, n := recordSize, write := false } then (s, .error (.fail 0x12 0 h))
    else if s.poisonIn b h recordSize then (s, .error (.poison h))
    else match s.readVa b h recordSize with
      | (s', .ok bs) => ({ s' with recCache := Sparse.put s'.recCache k bs }, .ok bs)
      | r => r

/-- A record for use by a context (R119): alignment, then OWNER, then the other conditions. -/
def State.layoutFor (s : State) (cluster : Nat) (a : Acc) (h : Nat) : State × Except RecFail Layout :=
  if h % 64 ≠ 0 then (s, .error .illegal)
  else
    match s.recordBytes cluster a h with
    | (s', .error e) => (s', .error (.access e))
    | (s', .ok bs) =>
      if Layout.owner bs ≠ a.asn then (s', .error .owner)
      else if (Layout.ofBytes h bs).bad bs then (s', .error .illegal)
      else (s', .ok (Layout.ofBytes h bs))

/-- The precise trap of a record that cannot be used (R119, R352). -/
def recordTrap (c : Cur) (h : Nat) (e : RecFail) (s : State) : Out :=
  match e with
  | .illegal => illegal c s
  | .owner => trapTo c { cause := 0x11, addr := h } s
  | .access e => accessTrap c false false e s

/-- The fill of a record is rejected: the instruction waits at its place for the reply (R138, R349). -/
def holdRecord (i : Instr) (c : Cur) (h : Nat) (s : State) : Out :=
  let r := s.holdAccesses c (s.laneAcc c) (s.panel c).pc 0x12 0
    [{ lane := 0, va := h, n := recordSize, write := false, fid := 0, act := .record, evp := none }]
  .next (r.1.setPanel c
    { r.1.panel c with wait := some { instr := i, len := c.len, since := s.cycle, aux := 0, held := r.2 } })

/-- Goes on with the record that a panel's instruction names. -/
def withLayout (i : Instr) (c : Cur) (h : Nat) (s : State) (k : Layout → State → Out) : Out :=
  match s.layoutFor (clusterOf (c.wid / 64)) (s.laneAcc c) h with
  | (s', .error (.access (.fail 0x12 ..))) => holdRecord i c h s'
  | (s', .error e) => recordTrap c h e s'
  | (s', .ok r) => k r s'

/-- An instruction of several turns keeps the record that it read first (R120). -/
def State.keepRecord (s : State) (c : Cur) (h : Nat) : State :=
  match s.recordBytes (clusterOf (c.wid / 64)) (s.laneAcc c) h with
  | (s', .ok bs) =>
    let p := s'.panel c
    if p.got.any fun g => g.1 == h && g.2.length == recordSize then s' else s'.setPanel c { p with got := (h, bs) :: p.got }
  | (s', .error _) => s'

/-! ## Where elements lie (12 R276) -/

/-- The tile of a texture's element size, in texels (R276). -/
def tileShape (e : Nat) : Nat × Nat :=
  if e ≤ 1 then (256, 256) else if e = 2 then (256, 128) else if e = 4 then (128, 128)
  else if e = 8 then (128, 64) else (64, 64)

/-- Interleaves the low bits of two coordinates, x first; what x has above them goes on top (R276). -/
def morton (x y : Nat) : Nat → Nat
  | 0 => x
  | n + 1 => x % 2 + 2 * (y % 2) + 4 * morton (x / 2) (y / 2) n

/-- The extents of a mip level (R276). -/
def Layout.levelExt (r : Layout) (level k : Nat) : Nat :=
  if k < r.rank then (if k < 2 then Nat.max 1 (r.ext.getD k 1 / 2 ^ level) else r.ext.getD k 1) else 1

/-- The tiles of one slice of a level, by rows. -/
def Layout.tilesAcross (r : Layout) (level : Nat) : Nat :=
  (r.levelExt level 0 + (tileShape r.elem).1 - 1) / (tileShape r.elem).1
def Layout.tilesDown (r : Layout) (level : Nat) : Nat :=
  (r.levelExt level 1 + (tileShape r.elem).2 - 1) / (tileShape r.elem).2

/-- The slices of a level: dimension 2, with those above it after it. -/
def Layout.slices (r : Layout) : Nat := r.levelExt 0 2 * r.levelExt 0 3 * r.levelExt 0 4

/-- The tiles of the levels below one. -/
def Layout.tilesBefore (r : Layout) (level : Nat) : Nat :=
  (List.range level).foldl (fun n l => n + r.tilesAcross l * r.tilesDown l * r.slices) 0

/-- The place of a texel's tile among those of its level (R276). -/
def Layout.tileOf (r : Layout) (level x y z : Nat) : Nat :=
  z * (r.tilesAcross level * r.tilesDown level) + y / (tileShape r.elem).2 * r.tilesAcross level + x / (tileShape r.elem).1

/-- The address of a texel of a texture (R276). -/
def Layout.texelAddr (r : Layout) (level x y z : Nat) : Nat :=
  let t := tileShape r.elem
  let n := Nat.log2 t.2
  (r.base + 65536 * (r.tilesBefore level + r.tileOf level x y z) + r.elem * morton (x % t.1) (y % t.2) n) % 2 ^ 64

/-- The plane or slice of the coordinates of dimensions 2 and above (R276). -/
def Layout.planeOf (r : Layout) (xs : List Nat) : Nat :=
  xs.getD 2 0 + r.levelExt 0 2 * (xs.getD 3 0 + r.levelExt 0 3 * xs.getD 4 0)

/-- The 8 × 8 block of a pixel of a colour surface (R276). -/
def Layout.blockOf (r : Layout) (x y p : Nat) : Nat :=
  let across := (r.levelExt 0 0 + 7) / 8
  let down := (r.levelExt 0 1 + 7) / 8
  p * (across * down) + y / 8 * across + x / 8

/-- The address of a block, and the offset of a pixel in it. -/
def Layout.blockAddr (r : Layout) (b : Nat) : Nat := (r.base + 64 * r.elem * b) % 2 ^ 64
def Layout.inBlock (r : Layout) (x y : Nat) : Nat := r.elem * (8 * (y % 8) + x % 8)

/-- Σ xk × STRDk. -/
def strides : List Nat → List Int → Int
  | x :: xs, d :: ds => (x : Int) * d + strides xs ds
  | _, _ => 0

/-- The address of an element by its coordinates (R229, R231, R276) (assumption 81, DEDUCED). For half-byte codes in a texture, of
which R276 gives no tile, it is that of bytes with an element size of 0 (assumption 108, DESIGN CHOICE). -/
def Layout.elemAddr (r : Layout) (xs : List Nat) : Nat :=
  if r.kind = 1 then r.texelAddr 0 (xs.getD 0 0) (xs.getD 1 0) (r.planeOf xs)
  else if r.kind = 2 then
    (r.blockAddr (r.blockOf (xs.getD 0 0) (xs.getD 1 0) (r.planeOf xs)) + r.inBlock (xs.getD 0 0) (xs.getD 1 0)) % 2 ^ 64
  else
    let first : Int := if r.fmt = 6 then (xs.getD 0 0 / 2 : Nat) else (xs.getD 0 0 : Int) * r.strd.getD 0 0
    (((r.base : Int) + first + strides (xs.drop 1) (r.strd.drop 1)) % (2 ^ 64 : Int)).toNat

/-- The tile of an element in the residency map (R230, R278): by coordinates for a texture, by address for the others;
none below BASE. -/
def Layout.mapTile (r : Layout) (xs : List Nat) (va : Nat) : Option Nat :=
  if r.kind = 1 then some (r.tileOf 0 (xs.getD 0 0) (xs.getD 1 0) (r.planeOf xs))
  else if va < r.base then none
  else some ((va - r.base) / 65536)

/-- The bytes of the residency map (R278; for KIND 0 and 2 assumption 25, DEDUCED). -/
def Layout.mapSize (r : Layout) : Nat :=
  if r.kind = 1 then r.tilesAcross 0 * r.tilesDown 0 * r.slices
  else if r.kind = 2 then (((r.levelExt 0 0 + 7) / 8 * ((r.levelExt 0 1 + 7) / 8) * r.slices) * 64 * r.elem + 65535) / 65536
  else
    let far := (List.range r.rank).foldl (fun m k => m + max 0 (((r.ext.getD k 1 : Nat) - 1 : Int) * r.strd.getD k 0)) (0 : Int)
    (far.toNat + r.elem + 65535) / 65536

/-! ## Compressed blocks (12 R279) -/

/-- The 256 raw bytes of a block of 4-byte pixels (R279). -/
def decodeBlock (mode : Nat) (data clear : List Byte) : List Byte :=
  if mode = 1 then (List.range 64).flatMap fun _ => clear.take 4
  else if mode = 2 then (List.range 64).flatMap fun _ => data.take 4
  else if 0x11 ≤ mode ∧ mode ≤ 0x17 then
    let b := mode - 0x10
    let v := ofBytes (data.drop 4)
    data.take 4 ++ (List.range 252).map fun i =>
      BitVec.ofInt 8 ((data.getD (i % 4) 0).toNat + signedOf b (v / 2 ^ (b * i)))
  else data

/-- The difference of byte i + 4 of a block from the first pixel's byte. -/
def blockDiff (raw : List Byte) (i : Nat) : Int := ((raw.getD (i + 4) 0).toNat : Int) - (raw.getD (i % 4) 0).toNat

/-- The least width from 1 to 7 at which every difference fits (R279). -/
def blockWidth (raw : List Byte) : Option Nat :=
  [1, 2, 3, 4, 5, 6, 7].find? fun b => (List.range 252).all fun i =>
    decide (-(2 ^ (b - 1) : Int) ≤ blockDiff raw i) && decide (blockDiff raw i < 2 ^ (b - 1))

/-- What the blender writes of a block (R279): the mode and the bytes that it needs. -/
def encodeBlock (raw : List Byte) : Nat × List Byte :=
  if (List.range 252).all fun i => blockDiff raw i == 0 then (2, raw.take 4)
  else match blockWidth raw with
    | some b =>
      let v := (List.range 252).foldl (fun v i => v + wrap b (blockDiff raw i) * 2 ^ (b * i)) 0
      (0x10 + b, raw.take 4 ++ toBytes ((252 * b + 7) / 8) v)
    | none => (0, raw)

/-! ## Reads and writes of an engine or unit -/

/-- A read by an agent, or what stops it. -/
def State.agentRead (s : State) (a : Acc) (va n : Nat) : Except Verdict (State × List Byte) :=
  match s.judge a [{ lane := 0, va := va % 2 ^ 64, n := n, write := false }] with
  | .clear => .ok (s.fetchBytes a (va % 2 ^ 64) n)
  | v => .error v

/-- A write by an agent, or what stops it. -/
def State.agentWrite (s : State) (a : Acc) (va : Nat) (bs : List Byte) : Except Verdict State :=
  match s.judge a [{ lane := 0, va := va % 2 ^ 64, n := bs.length, write := true }] with
  | .clear => .ok (s.putBytes a (va % 2 ^ 64) bs)
  | v => .error v

/-- Some byte of a range lies on a sparse page whose leaf is not valid (R115). -/
def State.onHole (s : State) (a : Acc) (va n : Nat) : Bool :=
  match s.translateAll a .read (spanOf (va % 2 ^ 64) n) with
  | .ok ps => ps.contains .sparse
  | .error _ => false

/-- The raw bytes of a compressed block with its mode; the data bytes of a fast-clear block are not read (R279). The record's CMP
alone says whether a surface is compressed: the page's CMP attribute only has to allow it (R114, R346; assumption 98, DESIGN
CHOICE). -/
def State.blockRead (s : State) (a : Acc) (r : Layout) (b : Nat) : Except Verdict (State × Nat × List Byte) :=
  match s.agentRead a (r.cmeta + b) 1 with
  | .error v => .error v
  | .ok (s, m) =>
    if ofBytes m = 1 then .ok (s, 1, decodeBlock 1 [] r.clear)
    else match s.agentRead a (r.blockAddr b) (64 * r.elem) with
    | .error v => .error v
    | .ok (s, data) => .ok (s, ofBytes m, decodeBlock (ofBytes m) data r.clear)

end Sys2Proof.Machine
end

