-- ==== Sys2Proof/Machine/Threads.lean ====
section
/-! DEFINITION. Engine threads (07 R130, R132, R138): their fork, their accesses, their flags (04 R73) and their end. -/

namespace Sys2Proof.Machine

/-- The override of the eviction priority that an engine operation carries (R113, R228). -/
def Engine.evp : Engine → Option Nat
  | .copy x => x.evp
  | _ => none

/-- The accesses of an engine thread: through its core's L1, with the generation of its fork (R132, R138). -/
def Thread.acc (t : Thread) : Acc := { core := some t.core, part := t.part, asn := t.asn, gen := t.gen, evp := t.engine.evp }

/-- A thread that a panel's instruction starts (R130). -/
def State.fork (s : State) (c : Cur) (bar : Option Nat) (e : Engine) : State :=
  let p := s.panel c
  let a := s.laneAcc c
  { s with
    threads := Sparse.put s.threads s.serial
      { wid := c.wid, entry := c.entry, quads := p.qmask, gid := (s.curWg c).gid, core := c.wid / 64, part := a.part
        asn := a.asn, gen := a.gen, pc := p.pc, bar := bar, engine := e, held := none, ray := none }
    serial := s.serial + 1 }

/-- The number of the workgroup that a thread works for. -/
def State.threadWg (s : State) (t : Thread) : Option Nat :=
  match s.gang? t.gid with
  | none => none
  | some g => g.wgs.find? fun k =>
      match s.wg? k with
      | none => false
      | some w => w.core == t.core

/-- A thread is complete. -/
def State.endThread (s : State) (tid : Nat) : State := { s with threads := Sparse.erase s.threads tid }

def State.setEngine (s : State) (tid : Nat) (e : Engine) : State :=
  match s.thread? tid with
  | none => s
  | some t => s.putThread tid { t with engine := e }

/-- The panel of a thread's wave that its issuing panel has become part of (R73). -/
def State.threadPanel (s : State) (t : Thread) : Option Cur :=
  let w := s.wave t.wid
  match w.alive && ((s.wg? w.wg).map (·.gid)) == some t.gid, w.heir t.quads with
  | true, some e => some { wid := t.wid, entry := e, len := 1 }
  | _, _ => none

/-- The place of a local range of a thread, for an agent and an alignment. -/
def State.threadLocal (s : State) (t : Thread) (admits : Store → Bool → Bool) (align addr n : Nat) : Option LocalPlace :=
  match s.threadWg t with
  | none => none
  | some k => (s.findLocal ((s.wg? k).getD emptyWg) admits align addr n).toOption

/-- Flags of an engine operation wait for the join with its issuing panel (R73, R195); one that no record counts has its
panel's registers at hand. -/
def State.threadFlags (s : State) (t : Thread) (fl : Word) (negvar : Bool) : State :=
  match s.threadPanel t with
  | none => s
  | some c =>
    match t.bar.bind fun addr => s.threadLocal t admitA 16 addr 16 with
    | none => s.setPanel c (((s.panel c).raise fl).raiseNegvar negvar)
    | some x =>
      let k := s.recordIndex t.gid x
      let w := s.wave t.wid
      if fl = 0 ∧ negvar = false then s
      else s.setWave t.wid { w with owed := w.owed ++ [{ quads := t.quads, gwg := k.1, ofs := k.2, flags := fl, negvar := negvar }] }

/-- The local address of an A-window offset. -/
def aWindow (ofs : Nat) : Nat := 2 ^ 29 + ofs

/-- A landing update (R131, R233): a release at `.clus` of the thread's writes, then the update of its record. -/
def State.landThread (s : State) (t : Thread) (f : State → LocalPlace → State) : State :=
  match t.bar with
  | none => s
  | some addr =>
    match s.threadLocal t admitA 16 addr 16 with
    | none => s
    | some x => f (s.releaseL1 t.core) x

/-- Whether the gang of a thread lets it run: a traversal is abandoned while its gang is pre-empted, a matrix operation stops at
the boundary it has reached, the others come to their end first (R360). -/
def State.threadGoes (s : State) (t : Thread) : Bool :=
  match s.gang? t.gid with
  | none => false
  | some g =>
    match g.pre, t.engine with
    | .run, _ => true
    | .stopping, .trace .. => false
    | .stopping, .mloop _ => false
    | .stopping, .msoft _ => false
    | .stopping, _ => true
    | _, _ => false

/-- A thread that can go on: nothing holds it. -/
def State.threadRuns (s : State) (t : Thread) : Bool := t.held.isNone && s.threadGoes t

/-- The generation that a thread carries is in force (R138). -/
def State.fresh (s : State) (t : Thread) : Bool := t.gen == s.genOf t.part t.asn

/-- The thread in a space that no entry describes, where every global access fails: what it first touches shows. -/
def Thread.nowhere (t : Thread) : Thread := { t with asn := 65536 }

/-- The access that a verdict names. -/
def Verdict.access (v : Verdict) : Option (Bool × Nat) :=
  match v with
  | .trap w (.fail _ _ va) => some (w, va)
  | _ => none

/-- What follows from a thread's unit of work: a failed translation holds the thread (R349), which is another event. -/
def unitDone (t : Thread) (s : State) : Except Verdict State → Out
  | .ok s' => .next s'
  | .error (.ends code) => .next (s.endGang t.gid code)
  | .error _ => .next s

end Sys2Proof.Machine
end

