-- ==== Sys2Proof/Machine/Copy.lean ====
section
/-! DEFINITION. The copy engine (10 R228-R233), `lflush` (R234, 06 R120) and `qpost` (R235, 17 R327). -/

namespace Sys2Proof.Machine

/-! ## The box of a copy (R229, R231) -/

def CopyOp.lay (x : CopyOp) : Layout := Layout.ofBytes x.handle x.record
def CopyOp.q4 (x : CopyOp) : Bool := x.lay.fmt == 6

/-- The elements of a box row; bytes of two codes for q4. -/
def CopyOp.width (x : CopyOp) : Nat := if x.q4 then x.lay.size.getD 0 0 / 2 else x.lay.size.getD 0 0

/-- The bytes of an element on each side. -/
def CopyOp.globalElem (x : CopyOp) : Nat := if x.q4 then 1 else x.lay.elem
def CopyOp.localElem (x : CopyOp) : Nat := if x.kind = .mom then 4 else x.globalElem

/-- The sizes of dimensions 1 and above. -/
def CopyOp.outerSizes (x : CopyOp) : List Nat := (x.lay.size.take x.lay.rank).drop 1
def CopyOp.boxRows (x : CopyOp) : Nat := x.outerSizes.foldl (fun m n => m * n) 1

/-- The indices of a number in a box of these sizes, the first fastest. -/
def boxIndex : List Nat → Nat → List Nat
  | [], _ => []
  | n :: ns, k => k % n :: boxIndex ns (k / n)

/-- The coordinate at which the box starts in a dimension. -/
def CopyOp.start (x : CopyOp) (k : Nat) : Int := (x.lay.origin.getD k 0 : Int) + x.ofs.getD k 0

/-- The coordinates of dimensions 1 and above of box row `u`; a gather's list names that of dimension 1 (R230). -/
def CopyOp.rowCoords (x : CopyOp) (u : Nat) : List Int :=
  (boxIndex x.outerSizes u).zipIdx.map fun e =>
    if x.kind = .gather && e.2 == 0 then (x.rows.getD e.1 0 : Int) else x.start (e.2 + 1) + e.1

/-- The coordinates of element i of a row. -/
def CopyOp.coords (x : CopyOp) (u i : Nat) : List Int := (x.start 0 + (if x.q4 then 2 * i else i : Nat)) :: x.rowCoords u

/-- All of some coordinates lie inside the extents (R229). -/
def insideExt : List Int → List Nat → Bool
  | x :: xs, n :: ns => decide (0 ≤ x) && decide (x < n) && insideExt xs ns
  | _, _ => true

/-- The range of a clipped box in a dimension (R230): its first coordinate and its length (assumption 66, DEDUCED). -/
def CopyOp.clip (x : CopyOp) (k : Nat) : Nat × Nat :=
  if x.lay.rank ≤ k then (0, 1)
  else
    let lo := max 0 (x.start k)
    let hi := min ((x.lay.ext.getD k 0 : Nat) : Int) (x.start k + (x.lay.size.getD k 0 : Nat))
    (lo.toNat, (hi - lo).toNat)

/-- The blocks that a clipped range spans: the first and how many. -/
def blockSpan (r : Nat × Nat) : Nat × Nat := if r.2 = 0 then (0, 0) else (r.1 / 8, (r.1 + r.2 - 1) / 8 - r.1 / 8 + 1)

/-- The ranges of blocks and planes that `.decomp` takes. -/
def CopyOp.blockRanges (x : CopyOp) : List (Nat × Nat) :=
  [blockSpan (x.clip 0), blockSpan (x.clip 1), x.clip 2, x.clip 3, x.clip 4]

/-- Block `u` of those that `.decomp` takes (R230, R276). -/
def CopyOp.block (x : CopyOp) (u : Nat) : Nat :=
  let r := x.blockRanges
  let i := boxIndex (r.map (·.2)) u
  let at' := fun (k : Nat) => (r.getD k (0, 0)).1 + i.getD k 0
  x.lay.blockOf (8 * at' 0) (8 * at' 1) (x.lay.planeOf [0, 0, at' 2, at' 3, at' 4])

/-- How many units a copy moves and %px counts: box rows; for `.decomp`, which takes whole blocks, blocks (assumption 115, DESIGN
CHOICE). -/
def CopyOp.units (x : CopyOp) : Nat :=
  if x.kind = .decomp then x.blockRanges.foldl (fun m r => m * r.2) 1 else x.boxRows

/-- The bytes on the local side, and those that a unit counts (R229-R231). -/
def CopyOp.rowBytes (x : CopyOp) : Nat := x.width * x.localElem
def CopyOp.counted (x : CopyOp) : Nat :=
  if x.kind = .decomp then 64 * x.lay.elem else x.width * (if x.out then x.globalElem else x.localElem)

/-! ## Residency (R230, R278) -/

def CopyOp.touch (x : CopyOp) (tile : Option Nat) : CopyOp :=
  { x with touched := true, absent := (match tile with
      | none => x.absent
      | some k => if x.absent.contains k then x.absent else k :: x.absent) }

/-- Whether an element's tile or page is non-resident, with what the copy notes of it. On a record with SPARSE = 0 there is no
status to report in: an invalid leaf of a sparse page reads as zeros and discards writes (R115; assumption 97, DESIGN CHOICE). -/
def State.copyAbsent (s : State) (a : Acc) (x : CopyOp) (xs : List Nat) (va n : Nat) :
    Except Verdict (State × CopyOp × Bool) :=
  if x.lay.sparse = false then .ok (s, x, false)
  else match x.lay.mapTile xs va with
    | none => .ok (s, x.touch none, true)
    | some k =>
      match s.agentRead a (x.lay.rmap + k) 1 with
      | .error v => .error v
      | .ok (s, bs) =>
        if ofBytes bs ≠ 0 then .ok (s, x.touch (some k), true)
        else if s.onHole a va n then .ok (s, { x with touched := true }, true)
        else .ok (s, x, false)

/-! ## Elements -/

/-- Makes a block raw, unless it is (R230). -/
def State.blockRaw (s : State) (a : Acc) (r : Layout) (b : Nat) : Except Verdict State :=
  match s.blockRead a r b with
  | .error v => .error v
  | .ok (s, mode, raw) =>
    if mode = 0 then .ok s
    else match s.agentWrite a (r.blockAddr b) raw with
      | .error v => .error v
      | .ok s => s.agentWrite a (r.cmeta + b) [0]

/-- The address of the block or the element that a copy reaches, and its bytes. -/
def CopyOp.reach (x : CopyOp) (xs : List Nat) : Nat × Nat :=
  if x.lay.cmp then (x.lay.blockAddr (x.lay.blockOf (xs.getD 0 0) (xs.getD 1 0) (x.lay.planeOf xs)), 64 * x.lay.elem)
  else (x.lay.elemAddr xs, x.globalElem)

/-- Reads an element inside the extents; none where it reads as CLEAR (R229, R230). -/
def State.copyGet (s : State) (a : Acc) (x : CopyOp) (xs : List Nat) : Except Verdict (State × CopyOp × Option (List Byte)) :=
  match s.copyAbsent a x xs (x.reach xs).1 (x.reach xs).2 with
  | .error v => .error v
  | .ok (s, x, true) => .ok (s, x, none)
  | .ok (s, x, false) =>
    if x.lay.cmp then
      match s.blockRead a x.lay (x.lay.blockOf (xs.getD 0 0) (xs.getD 1 0) (x.lay.planeOf xs)) with
      | .error v => .error v
      | .ok (s, _, raw) => .ok (s, x, some ((raw.drop (x.lay.inBlock (xs.getD 0 0) (xs.getD 1 0))).take x.globalElem))
    else
      match s.agentRead a (x.lay.elemAddr xs) x.globalElem with
      | .error v => .error v
      | .ok (s, bs) => .ok (s, x, some bs)

/-- Writes an element inside the extents (R229, R230). -/
def State.copyPut (s : State) (a : Acc) (x : CopyOp) (xs : List Nat) (bs : List Byte) : Except Verdict (State × CopyOp) :=
  match s.copyAbsent a x xs (x.reach xs).1 (x.reach xs).2 with
  | .error v => .error v
  | .ok (s, x, true) => .ok (s, x)
  | .ok (s, x, false) =>
    let b := x.lay.blockOf (xs.getD 0 0) (xs.getD 1 0) (x.lay.planeOf xs)
    match (if x.lay.cmp then s.blockRaw a x.lay b else .ok s) with
    | .error v => .error v
    | .ok s =>
      match s.agentWrite a (x.lay.elemAddr xs) bs with
      | .error v => .error v
      | .ok s => .ok (s, x)

/-- A variance that is negative and not zero, or NaN (R84), of an f32 code. -/
def varianceBad (code : Nat) : Bool :=
  match f32.decode code with
  | .nan => true
  | .inf s => s
  | .fin s m _ => s && m != 0

/-- An element on its way in (R230): for `.mom` rounded to a bf16 pair, with its flags. A variance of -0 keeps its sign (assumption
113, DESIGN CHOICE). -/
def CopyOp.convertIn (x : CopyOp) (bs : List Byte) : CopyOp × List Byte :=
  if x.kind ≠ .mom then (x, bs)
  else
    let m := bf16.convert .rne (f32.decode (fieldAt bs 0 4))
    let bad := varianceBad (fieldAt bs 4 4)
    let v := if bad then (0x7FC0, 0) else bf16.convert .rne (f32.decode (fieldAt bs 4 4))
    ({ x with flags := x.flags ||| m.2 ||| v.2, negvar := x.negvar || bad }, toBytes 2 m.1 ++ toBytes 2 v.1)

/-- An element on its way out: for `.mom` widened to an f32 pair. -/
def CopyOp.convertOut (x : CopyOp) (bs : List Byte) : List Byte :=
  if x.kind ≠ .mom then bs
  else toBytes 4 (f32.convert .rne (bf16.decode (fieldAt bs 0 2))).1 ++
    toBytes 4 (f32.convert .rne (bf16.decode (fieldAt bs 2 2))).1

/-- A fill (R229, R231). -/
def CopyOp.fill (x : CopyOp) : List Byte := x.lay.clear.take x.localElem

/-- The elements of row `u` on their way in: `n` of them from `i` on. One that reads as CLEAR takes CLEAR's bytes as the local side
holds an element, unconverted (assumption 114, DESIGN CHOICE). -/
def State.copyRowIn (s : State) (a : Acc) (x : CopyOp) (u : Nat) : Nat → Nat → Except Verdict (State × CopyOp × List Byte)
  | 0, _ => .ok (s, x, [])
  | n + 1, i =>
    let xs := x.coords u i
    if insideExt xs (x.lay.ext.take x.lay.rank) = false then
      match s.copyRowIn a x u n (i + 1) with
      | .error v => .error v
      | .ok (s, y, bs) => .ok (s, y, x.fill ++ bs)
    else
      match s.copyGet a x (xs.map Int.toNat) with
      | .error v => .error v
      | .ok (s, y, got) =>
        let r := match got with
          | none => (y, y.fill)
          | some bs => y.convertIn bs
        match s.copyRowIn a r.1 u n (i + 1) with
        | .error v => .error v
        | .ok (s, y, bs) => .ok (s, y, r.2 ++ bs)

/-- The elements of row `u` on their way out. -/
def State.copyRowOut (s : State) (a : Acc) (x : CopyOp) (u : Nat) : Nat → List Byte → Nat → Except Verdict (State × CopyOp)
  | 0, _, _ => .ok (s, x)
  | n + 1, bs, i =>
    let xs := x.coords u i
    if insideExt xs (x.lay.ext.take x.lay.rank) = false then s.copyRowOut a x u n (bs.drop x.localElem) (i + 1)
    else
      match s.copyPut a x (xs.map Int.toNat) (x.convertOut (bs.take x.localElem)) with
      | .error v => .error v
      | .ok (s, y) => s.copyRowOut a y u n (bs.drop x.localElem) (i + 1)

/-- The device addresses of a row's elements that are written past the L1s. -/
def State.rowPlaces (s : State) (a : Acc) (x : CopyOp) (u : Nat) : List Nat :=
  (List.range x.width).flatMap fun i =>
    let xs := x.coords u i
    if insideExt xs (x.lay.ext.take x.lay.rank) = false then []
    else
      let ys := xs.map Int.toNat
      match s.copyAbsent a x ys (x.reach ys).1 (x.reach ys).2, s.translateAll a .write (spanOf (x.lay.elemAddr ys) x.globalElem) with
      | .ok (_, _, false), .ok ps => ps.filterMap a.pastL1
      | _, _ => []

/-- A row on its way out, in one: a line that it covers whole loses its poison (R364). -/
def State.copyRowsOut (s : State) (a : Acc) (x : CopyOp) (u : Nat) (bs : List Byte) : Except Verdict (State × CopyOp) :=
  match s.copyRowOut a x u x.width bs 0 with
  | .error v => .error v
  | .ok (t, y) => .ok (if t.poison.isEmpty then t else t.clearCovered (s.rowPlaces a x u), y)

/-! ## The thread -/

/-- The next unit of a copy moves (R229-R231, R233): all of it or nothing. -/
def State.copyMove (s : State) (t : Thread) (x : CopyOp) : Except Verdict (State × CopyOp) :=
  let u := x.landed
  if x.kind = .decomp then
    let b := x.block u
    match s.copyAbsent t.acc x [] (x.lay.blockAddr b) (64 * x.lay.elem) with
    | .error v => .error v
    | .ok (s, x, true) => .ok (s, x)
    | .ok (s, x, false) =>
      match s.blockRaw t.acc x.lay b with
      | .error v => .error v
      | .ok s => .ok (s, x)
  else
    match s.threadLocal t admitAny 1 (x.loc + u * x.rowBytes) x.rowBytes with
    | none => .ok (s, x)
    | some place =>
      if x.out then s.copyRowsOut t.acc x u (s.readLocal place x.rowBytes)
      else
        match s.copyRowIn t.acc x u x.width 0 with
        | .error v => .error v
        | .ok (s, x, bs) => .ok (s.writeLocalPlain place bs, x)

/-- The SPARSE status word (R230). -/
def CopyOp.statusWord (x : CopyOp) : Nat := Nat.min x.absent.length (2 ^ 31 - 1) * 2 + x.touched.toNat

/-- Before the last landing update: the status word and the flags (R230, R73). -/
def State.copyLast (s : State) (t : Thread) (x : CopyOp) : State :=
  let s := if x.lay.sparse then
      (match s.threadLocal t admitA 1 (aWindow x.auxo) 4 with
       | none => s
       | some place => s.writeLocalPlain place (toBytes 4 x.statusWord))
    else s
  s.threadFlags t x.flags x.negvar

/-- A unit of a copy lands and is counted; the last one completes the thread (R233). -/
def State.copyUnit (s : State) (tid : Nat) (t : Thread) (x : CopyOp) : Except Verdict State :=
  match s.copyMove t x with
  | .error v => .error v
  | .ok (s, y) =>
    let z := { y with landed := x.landed + 1 }
    let last := decide (x.units ≤ z.landed)
    let s := if last then s.copyLast t z else s
    let s := s.landThread t fun s place => s.landBytes place x.counted
    .ok (if last then s.endThread tid else s.putThread tid { t with engine := .copy z })

/-- The first global access of a copy's next unit. -/
def State.copyTouches (s : State) (tid : Nat) (t : Thread) (x : CopyOp) : Option (Bool × Nat) :=
  match s.copyUnit tid t.nowhere x with
  | .error v => v.access
  | .ok _ => none

/-- A unit that has been issued lands (R233), unless an access of it would be rejected (R138). -/
def execCopyLanding (tid : Nat) (s : State) : Out :=
  match s.thread? tid with
  | some t =>
    (match t.engine with
     | .copy x =>
       if s.threadRuns t && decide (x.landed < x.issued) && (s.fresh t || (s.copyTouches tid t x).isNone) then
         unitDone t s (s.copyUnit tid t x)
       else .next s
     | _ => .next s)
  | none => .next s

/-! ## Issue (R232) -/

/-- The box offsets and AUXO that g(n)-g(n + 2) hold (R228). -/
def boxOffsets (p : Panel) (n : Nat) : List Int :=
  (List.range 5).map fun k => signedOf 32 ((p.greg (n + k / 2)).toNat / 2 ^ (32 * (k % 2)))

def auxOffset (p : Panel) (n : Nat) : Nat := bits 63 32 (p.greg (n + 2)).toNat

/-- The rules of kind and direction (R230, R231). -/
def CopyOp.ruleBroken (x : CopyOp) (l : GSrc) : Bool :=
  let r := x.lay
  (match x.kind with
   | .plain => r.fmt == 6 && (r.ext.getD 0 0 % 2 != 0 || r.origin.getD 0 0 % 2 != 0 || x.ofs.getD 0 0 % 2 != 0 ||
       r.size.getD 0 0 % 2 != 0)
   | .gather => decide (r.rank < 2) || r.sparse || (r.fmt == 6 && (r.ext.getD 0 0 % 2 != 0 || r.origin.getD 0 0 % 2 != 0 ||
       x.ofs.getD 0 0 % 2 != 0 || r.size.getD 0 0 % 2 != 0))
   | .decomp => x.out || l != .zero || !r.cmp || r.kind != 2 || r.fmt == 6
   | .mom => !r.mom || r.fmt != 8)

/-- The producer wave of a workgroup's launch. -/
def State.producer (s : State) (wg : Workgroup) : Nat :=
  match s.launch? wg.lid with
  | none => 0
  | some l => l.spec.prod

/-- The local ranges of a copy with the agent's failures, in order: its box, a gather's list, the status word. -/
def State.copyLocals (s : State) (wg : Workgroup) (x : CopyOp) : Except (LFail × Nat) Unit :=
  let box : Except (LFail × Nat) Unit := if x.kind = .decomp then .ok () else
    match s.findLocal wg admitAny 16 x.loc (x.units * x.rowBytes) with
    | .error e => .error (e, x.loc)
    | .ok _ => .ok ()
  match box with
  | .error e => .error e
  | .ok () =>
    if x.kind = .gather && wg.asize < x.auxo + 4 * x.lay.size.getD 1 0 then .error (.range, aWindow x.auxo % 2 ^ 32)
    else if x.lay.sparse && wg.asize < x.auxo + 4 then .error (.range, aWindow x.auxo % 2 ^ 32)
    else .ok ()

/-- The list of a gather, read at issue (R230). -/
def State.gatherRows (s : State) (wg : Workgroup) (x : CopyOp) : List Nat :=
  (List.range (x.lay.size.getD 1 0)).map fun i => ofBytes (s.readStore .a wg.core (wg.abase + x.auxo + 4 * i) 4)

/-- The copy that a panel is issuing: `k` of its units are issued (R233). -/
def State.copyAt (s : State) (c : Cur) (k : Nat) : Option (Nat × Thread × CopyOp) :=
  s.threads.findSome? fun e =>
    match e.2.engine with
    | .copy x =>
      if e.2.wid == c.wid && e.2.pc == (s.panel c).pc && (s.curWave c).heir e.2.quads == some c.entry && x.issued == k &&
          decide (k < x.units) then some (e.1, e.2, x) else none
    | _ => none

/-- A panel that has issued `k` units of a copy of `n` units (R233): it goes on with the next, or is past the copy. -/
def copyIssued (c : Cur) (k n : Nat) (s : State) : Out :=
  if n ≤ k then finish c (s.setProgress c 0) else .next (s.setProgress c k)

/-- The next unit of a copy under way is issued (R233). A copy that an unrecoverable fault has stopped issues nothing more. -/
def copyGoesOn (c : Cur) (k : Nat) (s : State) : Out :=
  match s.copyAt c k with
  | none => finish c (s.setProgress c 0)
  | some (tid, t, x) => copyIssued c (k + 1) x.units (s.putThread tid { t with engine := .copy { x with issued := k + 1 } })

/-- The thread of a copy starts (R228, R233): a box row is issued each cycle, the first now (assumption 99, DESIGN CHOICE). -/
def copyStarts (c : Cur) (bar : Nat) (x : CopyOp) (s : State) : Out :=
  let s' := s.fork c (some bar) (.copy { x with issued := 1 })
  if x.units = 0 then
    match s'.thread? s.serial with
    | none => finish c s'
    | some t => finish c { s'.copyLast t x with threads := Sparse.erase s'.threads s.serial }
  else copyIssued c 1 x.units s'

/-- `copy` (R228-R233): the checks are made before its first row. -/
def execCopy (kind : CopyKind) (out : Bool) (evp : BitVec 2) (evo : Bool) (bh : Nat) (l h : GSrc) (gx : Nat) (s : State) : Out :=
  issue (.copy kind out evp evo bh l h gx) s fun c s =>
    let p := s.panel c
    let wg := s.curWg c
    if p.progress ≠ 0 then copyGoesOn c p.progress.toNat s
    else if (s.curWave c).idx ≠ s.producer wg then trapTo c { cause := 0x08 } s
    else withLayout (.copy kind out evp evo bh l h gx) c (p.gsrc h).toNat s fun r s =>
      let x : CopyOp :=
        { kind := kind, out := out, loc := bits 31 0 (p.gsrc l).toNat, handle := r.handle
          record := (s.recordBytes (clusterOf (c.wid / 64)) (s.laneAcc c) r.handle).2.toOption.getD []
          ofs := boxOffsets p gx, auxo := auxOffset p gx, rows := [], issued := 0, landed := 0, absent := [], touched := false
          flags := 0, negvar := false, evp := if evo then some evp.toNat else none }
      if x.ruleBroken l then illegal c s
      else match s.copyLocals wg x with
        | .error e => localTrap c (!out) e.1 e.2 s
        | .ok () =>
          withHandle c bh true s fun _ =>
            if p.active (s.curWave c) = 0 then finish c s
            else
              copyStarts c (handleAddr (wg.handles.getD bh 0))
                (if kind = .gather then { x with rows := s.gatherRows wg x } else x) s

/-! ## `lflush` -/

/-- Drops a handle from the record caches of some clusters (R120). -/
def State.dropRecord (s : State) (clusters : List Nat) (part asn h : Nat) : State :=
  clusters.foldl (fun s k => { s with recCache := Sparse.erase s.recCache (recKey k part asn h) }) s

/-- `lflush` (R234): the release, then the wait for the invalidation. -/
def execLflush (dev : Bool) (h : GSrc) (s : State) : Out :=
  issue (.lflush dev h) s fun c s =>
    let x := ((s.panel c).gsrc h).toNat
    if x % 64 ≠ 0 ∨ 2 ^ 57 ≤ x then illegal c s
    else
      let s := s.releaseAt c (if dev then .dev else .clus)
      .next (s.setPanel c { s.panel c with wait := some { instr := .lflush dev h, len := c.len, since := s.cycle, aux := x } })

/-- The clusters of a partition; the display cores form one more (R14). -/
def allClusters : List Nat := List.range 9

/-- The invalidation of an `lflush` is complete. -/
def execLflushComplete (wid e : Nat) (s : State) : Out :=
  let p := (s.wave wid).panel e
  let c : Cur := { wid := wid, entry := e, len := 1 }
  match p.valid && p.status == .run, p.wait with
  | true, some { instr := .lflush dev _, len := len, aux := x, .. } =>
    let a := s.laneAcc c
    let s := s.dropRecord (if dev then allClusters else [clusterOf (wid / 64)]) a.part a.asn x
    finish { c with len := len } (s.setPanel c { s.panel c with wait := none })
  | _, _ => .next s

/-! ## `qpost` -/

/-- The slots of a queue's ring (R325). -/
def Queue.slots (q : Queue) : Nat := 2 ^ (bits 3 0 q.qcfg.toNat + 4)
def Queue.en (q : Queue) : Bool := q.qcfg.getLsbD 7
def Queue.cls (q : Queue) : Nat := bits 6 4 q.qcfg.toNat
def Queue.part (q : Queue) : Nat := bits 10 8 q.qcfg.toNat
def Queue.dpost (q : Queue) : Bool := q.qcfg.getLsbD 12
def Queue.asn (q : Queue) : Nat := bits 31 16 q.qcfg.toNat

/-- The address of ring slot i (R326). -/
def Queue.slotAddr (q : Queue) (i : Nat) : Nat := q.qbase.toNat + 128 * (i % q.slots)

/-- `qpost` (R235, R327) (assumption 63, DEDUCED). -/
def execQpost (db : Bool) (d : GDst) (q a : GSrc) (s : State) : Out :=
  issue (.qpost db d q a) s fun c s =>
    let p := s.panel c
    let qn := (p.gsrc q).toNat
    let addr := (p.gsrc a).toNat
    let acc := s.laneAcc c
    let x := s.queue qn
    if 8192 ≤ qn ∨ x.asn ≠ acc.asn ∨ x.part ≠ acc.part ∨ x.dpost = false then trapTo c { cause := 0x11, addr := addr } s
    else if addr % 128 ≠ 0 then trapTo c { cause := 0x13, addr := addr } s
    else if p.active (s.curWave c) = 0 then finish c s
    else
      let slot := x.slotAddr x.qput.toNat
      let full := (x.qput - x.qrd).toNat = x.slots
      whenClear (.qpost db d q a) c s ([{ lane := 0, va := addr, n := 128, write := false }] ++
          (if full then [] else [{ lane := 0, va := slot % 2 ^ 64, n := 128, write := true }]))
        (let s := s.releaseAt c .dev
         if full then finish c (s.setPanel c ((s.panel c).writeG d (BitVec.ofNat 64 (2 ^ 63 + x.qrd.toNat))))
         else
           let r := s.fetchBytes acc addr 128
           let s := r.1.putBytes { acc with core := none } (slot % 2 ^ 64) r.2
           let s := s.setQueue qn { x with qput := x.qput + 1, qann := if db then x.qput + 1 else x.qann }
           finish c (s.setPanel c ((s.panel c).writeG d (BitVec.ofNat 64 x.qput.toNat))))

end Sys2Proof.Machine
end

