-- ==== Sys2Proof/Machine/Transc.lean ====
section
/-! DEFINITION. Transcendental functions, correctly rounded (04 R77, R78): fixed-point enclosures that grow finer until
one multiple of a fine quantum lies below the value and the next above it. At the finest enclosure the lower end is
taken: no f32 operand is known to need so many bits (assumption 19, UNVERIFIED). -/

namespace Sys2Proof.Machine

/-- A real number between lo × 2^-P and hi × 2^-P. -/
structure Ival where
  lo : Int
  hi : Int
  deriving DecidableEq, Repr

def floorShift (p : Nat) (x : Int) : Int := x / (2 ^ p : Int)
def ceilShift (p : Nat) (x : Int) : Int := -(-x / (2 ^ p : Int))
def ceilDiv (x : Int) (k : Nat) : Int := -(-x / (k : Int))

def Ival.add (a b : Ival) : Ival := { lo := a.lo + b.lo, hi := a.hi + b.hi }
def Ival.neg (a : Ival) : Ival := { lo := -a.hi, hi := -a.lo }
def Ival.sub (a b : Ival) : Ival := a.add b.neg
def Ival.scale (a : Ival) (k : Nat) : Ival := { lo := a.lo * k, hi := a.hi * k }
def Ival.divNat (a : Ival) (k : Nat) : Ival := { lo := a.lo / (k : Int), hi := ceilDiv a.hi k }
def min4 (a b c d : Int) : Int := min (min a b) (min c d)
def max4 (a b c d : Int) : Int := max (max a b) (max c d)

/-- The product at P fraction bits. -/
def Ival.mul (p : Nat) (a b : Ival) : Ival :=
  { lo := floorShift p (min4 (a.lo * b.lo) (a.lo * b.hi) (a.hi * b.lo) (a.hi * b.hi))
    hi := ceilShift p (max4 (a.lo * b.lo) (a.lo * b.hi) (a.hi * b.lo) (a.hi * b.hi)) }

/-- A quotient of positive numbers. -/
def Ival.div (p : Nat) (a b : Ival) : Ival :=
  { lo := a.lo * 2 ^ p / b.hi, hi := -(-(a.hi * 2 ^ p) / b.lo) }

/-- The dyadic number m × 2^e at P fraction bits. -/
def Ival.dyadic (p m : Nat) (e : Int) : Ival :=
  if 0 ≤ (p : Int) + e then { lo := m * 2 ^ ((p : Int) + e).toNat, hi := m * 2 ^ ((p : Int) + e).toNat }
  else { lo := (m : Int) / 2 ^ (-((p : Int) + e)).toNat, hi := ceilDiv m (2 ^ (-((p : Int) + e)).toNat) }

/-- Adds an error of at most a bound on either side. -/
def Ival.widen (a : Ival) (k : Int) : Ival := { lo := a.lo - k, hi := a.hi + k }

/-- The sum of `fuel` terms from index k on, each from the last by `next`, and the term after them. -/
def seriesFrom (next : Nat → Ival → Ival) : Nat → Nat → Ival → Ival → Ival × Ival
  | 0, _, t, s => (s, t)
  | fuel + 1, k, t, s => seriesFrom next fuel (k + 1) (next k t) (s.add t)

/-- A series whose remainder is at most twice its next term. -/
def series (next : Nat → Ival → Ival) (terms : Nat) (first : Ival) : Ival :=
  let r := seriesFrom next terms 0 first { lo := 0, hi := 0 }
  r.1.widen (2 * max r.2.hi (-r.2.lo) + 2)

def oneAt (p : Nat) : Ival := { lo := 2 ^ p, hi := 2 ^ p }

/-- e^y for 0 ≤ y ≤ 1. -/
def expI (p : Nat) (y : Ival) : Ival := series (fun k t => (t.mul p y).divNat (k + 1)) (p / 2) (oneAt p)

/-- cos y and sin y for |y| ≤ 1. -/
def cosI (p : Nat) (y : Ival) : Ival :=
  let yy := (y.mul p y).neg
  series (fun k t => (t.mul p yy).divNat ((2 * k + 1) * (2 * k + 2))) (p / 4) (oneAt p)

/-- sin y as y times a series, so that small results keep their leading bits. -/
def sinI (p : Nat) (y : Ival) : Ival :=
  let yy := (y.mul p y).neg
  y.mul p (series (fun k t => (t.mul p yy).divNat ((2 * k + 2) * (2 * k + 3))) (p / 4) (oneAt p))

/-- The terms z^(2k+1)/(2k+1) of a series, its powers carried apart; `sgn` alternates their signs. -/
def oddPowers (p : Nat) (sgn : Bool) (zz : Ival) : Nat → Nat → Ival → Ival → Ival × Ival
  | 0, _, z, s => (s, z)
  | fuel + 1, k, z, s =>
    let t := z.divNat (2 * k + 1)
    oddPowers p sgn zz fuel (k + 1) (z.mul p zz) (if sgn && k % 2 == 1 then s.sub t else s.add t)

def oddSeries (p : Nat) (sgn : Bool) (terms : Nat) (z : Ival) : Ival :=
  let r := oddPowers p sgn (z.mul p z) terms 0 z { lo := 0, hi := 0 }
  r.1.widen (2 * max r.2.hi (-r.2.lo) + 2)

/-- π = 16 atan(1/5) − 4 atan(1/239). -/
def piI (p : Nat) : Ival :=
  ((oddSeries p true (p / 4 + 8) ((oneAt p).divNat 5)).scale 16).sub
    ((oddSeries p true (p / 14 + 8) ((oneAt p).divNat 239)).scale 4)

/-- ln m for 1 ≤ m < 2: 2 atanh((m − 1)/(m + 1)). -/
def lnI (p : Nat) (m : Ival) : Ival :=
  (oddSeries p false (p / 3 + 8) ((m.sub (oneAt p)).div p (m.add (oneAt p)))).scale 2

def ln2I (p : Nat) : Ival := (oddSeries p false (p / 3 + 8) ((oneAt p).divNat 3)).scale 2

/-- The magnitude that an enclosure of an irrational number decides, 64 bits coarser than it. -/
def Ival.mag (p : Nat) (a : Ival) : Option Mag :=
  let lo := floorShift 64 a.lo
  if 0 < lo ∧ lo = floorShift 64 a.hi then some { n := lo.toNat, e := 64 - (p : Int), sticky := true } else none

/-- Refines an enclosure until it decides. -/
def refine (f : Nat → Ival) : List Nat → Nat → Mag
  | [], p => { n := (floorShift 64 (f p).lo).toNat, e := 64 - (p : Int), sticky := true }
  | q :: qs, _ =>
    match (f q).mag q with
    | some m => m
    | none => refine f qs q

/-- The magnitude of an irrational number that a function encloses at P fraction bits. -/
def decided (f : Nat → Ival) : Mag := refine f [416, 832, 1664] 1664

/-- A number so near zero, or so large, that every format rounds all such numbers alike. -/
def minute : Mag := { n := 1, e := -2000, sticky := true }
def huge : Mag := { n := 1, e := 2000, sticky := true }

/-- A dyadic number is an integer; its floor; the floor of its double. -/
def isInteger (m : Nat) (e : Int) : Bool := decide (0 ≤ e) || m % 2 ^ (-e).toNat == 0
def wholePart (m : Nat) (e : Int) : Nat := if 0 ≤ e then m * 2 ^ e.toNat else m / 2 ^ (-e).toNat

/-- 2^x (R77, R78). -/
def FloatFmt.exp2 (f : FloatFmt) (mode : Mode) (ftz : Bool) : FVal → Nat × Word
  | .nan => (f.nan, 0)
  | .inf true => (f.signed false 0, 0)
  | .inf false => (f.infinity false, 0)
  | .fin s m e =>
    if m = 0 then f.round mode ftz false { n := 1, e := 0, sticky := false }
    else if (200 : Int) ≤ (Nat.log2 m : Int) + e ∨ 2000 ≤ wholePart m e then
      f.round mode ftz false (if s then minute else huge)
    else if isInteger m e then
      f.round mode ftz false { n := 1, e := if s then -(wholePart m e : Int) else (wholePart m e : Int), sticky := false }
    else
      let k := wholePart m e
      let fr := m - k * 2 ^ (-e).toNat
      let whole : Int := if s then -(k : Int) - 1 else (k : Int)
      let fr := if s then 2 ^ (-e).toNat - fr else fr
      let x := decided fun p => expI p ((Ival.dyadic p fr e).mul p (ln2I p))
      f.round mode ftz false { x with e := x.e + whole }

/-- log2 x (R77, R78). -/
def FloatFmt.log2 (f : FloatFmt) (mode : Mode) (ftz : Bool) : FVal → Nat × Word
  | .nan => (f.nan, 0)
  | .inf true => (f.nan, fINV)
  | .inf false => (f.infinity false, 0)
  | .fin s m e =>
    if m = 0 then (f.infinity true, fDZ)
    else if s then (f.nan, fINV)
    else
      let k := Nat.log2 m
      let whole : Int := (k : Int) + e
      if m = 2 ^ k then f.round mode ftz (decide (whole < 0)) { n := whole.natAbs, e := 0, sticky := false }
      else
        let x := fun p => ({ lo := whole * 2 ^ p, hi := whole * 2 ^ p } : Ival).add
          ((lnI p (Ival.dyadic p m (-(k : Int)))).div p (ln2I p))
        if whole < 0 then f.round mode ftz true (decided fun p => (x p).neg)
        else f.round mode ftz false (decided x)

/-- sin or cos of π r for a dyadic r = m × 2^e of 0 to 1/2, neither end included. -/
def sinPiI (cos : Bool) (m : Nat) (e : Int) (p : Nat) : Ival :=
  let y := (Ival.dyadic p m e).mul p (piI p)
  if cos then cosI p y else sinI p y

/-- The magnitude of sin(π r) for a dyadic r between 0 and 1/2: below 1/4 by the sine, above by the cosine of the
complement. -/
def sinPiMag (m : Nat) (e : Int) : Mag :=
  if 4 * m ≤ 2 ^ (-e).toNat then decided (sinPiI false m e)
  else decided (sinPiI true (2 ^ (-e).toNat - 2 * m) (e - 1))

/-- sin(π x), or cos(π x) (R77, R78). -/
def FloatFmt.sinPi (f : FloatFmt) (mode : Mode) (ftz cos : Bool) : FVal → Nat × Word
  | .nan => (f.nan, 0)
  | .inf _ => (f.nan, fINV)
  | .fin s m e =>
    let one : Mag := { n := 1, e := 0, sticky := false }
    if isInteger m e then
      if cos then f.round mode ftz (wholePart m e % 2 == 1) one else (f.signed s 0, 0)
    else if isInteger m (e + 1) then
      if cos then (f.signed false 0, 0) else f.round mode ftz (s != (wholePart m e % 2 == 1)) one
    else
      -- x = whole + fr × 2^e, and r is the distance of fr from the nearer integer
      let k := wholePart m e
      let unit := 2 ^ (-e).toNat
      let fr := m - k * unit
      let high := decide (unit < 2 * fr)
      let near := if high then unit - fr else fr
      if cos then f.round mode ftz ((k % 2 == 1) != high) (sinPiMag (unit - 2 * near) (e - 1))
      else f.round mode ftz (s != (k % 2 == 1)) (sinPiMag near e)

/-- 1/√(2π) × e^(−x²/2) for |x| < 16, and the same times a series. -/
def gaussI (p m : Nat) (e : Int) : Ival :=
  let y := Ival.dyadic p (m * m) (2 * e - 1)
  -- e^(−y) = (e^(−y/128))^128, so that the exponent lies between 0 and 1
  let r := (oneAt p).div p (expI p (y.divNat 128))
  let sq := fun (z : Ival) => z.mul p z
  let g := sq (sq (sq (sq (sq (sq (sq r))))))
  let twoPi := (piI p).scale 2
  let root : Ival := { lo := (natRoot (twoPi.lo.toNat * 2 ^ p) : Int), hi := (natRoot (twoPi.hi.toNat * 2 ^ p) : Int) + 1 }
  g.div p root

/-- φ(x) (R77, R78): even. -/
def FloatFmt.density (f : FloatFmt) (mode : Mode) : FVal → Nat × Word
  | .nan => (f.nan, 0)
  | .inf _ => (f.signed false 0, 0)
  | .fin _ m e =>
    if 16 ≤ wholePart m e then f.round mode false false minute
    else f.round mode false false (decided fun p => gaussI p m e)

/-- x + x³/3 + x⁵/15 + …, term k from the last by x²/(2k + 1): Φ(x) − 1/2 over φ(x). -/
def normalSeries (p m : Nat) (e : Int) : Ival :=
  let x := Ival.dyadic p m e
  let xx := x.mul p x
  series (fun k t => (t.mul p xx).divNat (2 * k + 3)) (p + 400) x

/-- Φ(x) (R77, R78). -/
def FloatFmt.normal (f : FloatFmt) (mode : Mode) : FVal → Nat × Word
  | .nan => (f.nan, 0)
  | .inf true => (f.signed false 0, 0)
  | .inf false => f.round mode false false { n := 1, e := 0, sticky := false }
  | .fin s m e =>
    if m = 0 then f.round mode false false { n := 1, e := -1, sticky := false }
    else if 16 ≤ wholePart m e then
      f.round mode false false (if s then minute else { n := 2 ^ 128 - 1, e := -128, sticky := true })
    else
      let half := fun (p : Nat) => ({ lo := 2 ^ (p - 1), hi := 2 ^ (p - 1) } : Ival)
      let part := fun (p : Nat) => (gaussI p m e).mul p (normalSeries p m e)
      f.round mode false false (decided fun p => if s then (half p).sub (part p) else (half p).add (part p))

end Sys2Proof.Machine
end

