-- ==== Sys2Proof/Machine/Matrix.lean ====
section
/-! DEFINITION. The matrix unit (04 R74-R76, R79-R82, 05 R98-R100, 11 R236-R251): `mloop`, `msoft`, `macc`, `fbset` and
`mmq`. -/

namespace Sys2Proof.Machine

/-! ## Format blocks (R56, R79, R98) -/

structure Fmts where
  a : Nat
  b : Nat
  c : Nat
  blen16 : Bool
  amom : Bool
  bmom : Bool
  asadr : Nat
  bsadr : Nat
  asstr : Nat
  bsstr : Nat
  deriving DecidableEq, Repr

def fmtsOf (x : BitVec 128) : Fmts :=
  let n := x.toNat
  { a := bits 7 4 n, b := bits 11 8 n, c := bits 15 12 n, blen16 := n.testBit 3, amom := n.testBit 2, bmom := n.testBit 1
    asadr := bits 95 75 n, bsadr := bits 74 55 n, asstr := bits 111 96 n, bsstr := bits 127 112 n }

/-- Pairing classes: 0 half floats, 1 byte floats, 2 byte integers, 3 q4, 4 reserved. -/
def fmtClass (f : Nat) : Nat := if f ≤ 1 then 0 else if f ≤ 3 then 1 else if f ≤ 5 then 2 else if f = 6 then 3 else 4

def Fmts.mom (f : Fmts) : Bool := f.amom || f.bmom
def Fmts.i32 (f : Fmts) : Bool := f.c == 1

/-- A block that R56, R79 or R98 refuses. -/
def Fmts.bad (f : Fmts) : Bool :=
  decide (6 < f.a) || decide (6 < f.b) || decide (1 < f.c) ||
  (if f.mom then !f.amom || f.a != 0 || f.b != 0 || f.c != 0
   else fmtClass f.a != fmtClass f.b || (f.i32 && fmtClass f.a != 2))

/-- The K-step and the K-group of a pairing (R79). -/
def Fmts.kstep (f : Fmts) : Nat := if fmtClass f.a = 0 then 32 else 64
def Fmts.kgroup (f : Fmts) : Nat := if fmtClass f.a = 0 then 16 else 32

/-- Bytes of an operand row of one K-step (R240). -/
def rowBytesOf (mom : Bool) (f : Nat) : Nat := if mom then 128 else if f = 6 then 32 else 64
def Fmts.rowA (f : Fmts) : Nat := rowBytesOf f.amom f.a
def Fmts.rowB (f : Fmts) : Nat := rowBytesOf f.bmom f.b

/-- q4 blocks of a row in one K-step (R241), and elements of a block (R74). -/
def Fmts.bps (f : Fmts) : Nat := if f.blen16 then 4 else 2
def Fmts.blockLen (f : Fmts) : Nat := if f.blen16 then 16 else 32

/-! ## Elements -/

/-- A q4 code of a type (R76): its sign and its magnitude, doubled. Code 0 of type 0, which the table gives as 0 without a sign,
is taken as +0, so that its product with a negative element is −0 (assumption 100, DESIGN CHOICE). -/
def q4Magnitude (type code : Nat) : Bool × Nat :=
  if type = 0 then (if code < 8 then (false, 2 * code) else (true, 2 * (16 - code)))
  else
    let mags := if type = 1 then [0, 1, 2, 3, 4, 6, 8, 12] else if type = 2 then [0, 2, 4, 8, 16, 32, 64, 128]
      else [0, 2, 4, 6, 8, 12, 16, 24]
    (decide (8 ≤ code) && !(type == 2 && code == 8), mags.getD (code % 8) 0)

/-- A q4 element with its scale byte (R75, R76). -/
def q4Value (scale : Byte) (code : Nat) : FVal :=
  let e := scale.toNat % 64
  let r := q4Magnitude (scale.toNat / 64) code
  if e = 63 then .nan else .fin r.1 r.2 ((e : Int) - 33)

/-- The elements of an operand row (R66, R67, R65, R74, R240); `scale j` is the scale byte of block j of the row. -/
def rowElems (f : Fmts) (fmt : Nat) (scale : Nat → Byte) (bs : List Byte) : List FVal :=
  (List.range f.kstep).map fun k =>
    match fmt with
    | 0 => bf16.decode (fieldAt bs (2 * k) 2)
    | 1 => f16.decode (fieldAt bs (2 * k) 2)
    | 2 => e4m3.decode (fieldAt bs k 1)
    | 3 => e5m2.decode (fieldAt bs k 1)
    | 4 => .fin ((bs.getD k 0).msb) (signedOf 8 (bs.getD k 0).toNat).natAbs 0
    | 5 => .fin false (bs.getD k 0).toNat 0
    | _ => q4Value (scale (k / f.blockLen)) ((bs.getD (k / 2) 0).toNat / 16 ^ (k % 2) % 16)

/-- The means and variances of a moment row (R98). -/
def rowMeans (bs : List Byte) : List FVal := (List.range 32).map fun k => bf16.decode (fieldAt bs (4 * k) 2)
def rowVars (bs : List Byte) : List FVal := (List.range 32).map fun k => bf16.decode (fieldAt bs (4 * k + 2) 2)

/-- A variance element as the matrix unit reads it, and whether it is invalid (R100). -/
def readVariance : FVal → FVal × Bool
  | .nan => (.nan, true)
  | .inf s => if s then (.nan, true) else (.inf false, false)
  | .fin s m e => if s && m != 0 then (.nan, true) else (.fin false m e, false)

/-! ## The group rule (R80, R81, R99) -/

/-- GroupSpecial with the group's exact terms: `nan` when some operand of the group is NaN. -/
def groupSum (nan : Bool) (c : FVal) (terms : List FVal) : Nat × Word :=
  if nan || c.isNan then (f32.nan, 0)
  else if terms.any (·.isNan) then (f32.nan, fINV)
  else f32.fused .rne false [] (c :: terms)

/-- A product of integers is an integer: its zero has no sign (R65). -/
def plainZero : FVal → FVal
  | .fin _ 0 _ => .fin false 0 0
  | x => x

/-- The integer that an element of an integer format stands for. -/
def FVal.toInteger : FVal → Int
  | .fin s m _ => if s then -(m : Int) else m
  | _ => 0

/-- A row of operand elements: values, and for moment operands variances. -/
structure OperandRow where
  main : List FVal
  var : List FVal
  deriving DecidableEq, Repr

/-- The group of a list of elements. -/
def groupOf (g k : Nat) (l : List FVal) : List FVal := (l.drop (g * k)).take g

/-- One K-group update of an accumulator with integers (R80). -/
def groupInt (sat : Bool) (c : Nat) (a b : List FVal) : Nat × Word :=
  let x := signedOf 32 c + ((a.zip b).map fun p => p.1.toInteger * p.2.toInteger).sum
  deliverInt 32 true sat x

/-- One K-group update of a float accumulator (R80, R81). -/
def groupFloat (ints : Bool) (c : Nat) (a b : List FVal) : Nat × Word :=
  groupSum (a.any (·.isNan) || b.any (·.isNan)) (f32.decode c)
    ((a.zip b).map fun p => if ints then plainZero (mulVal p.1 p.2) else mulVal p.1 p.2)

/-- The terms of one element of the variance plane (R99). -/
def varTerms (bmom : Bool) (ma va mb vb : FVal) : List FVal :=
  if bmom then [mulVal va vb, mulVal (mulVal va mb) mb, mulVal (mulVal vb ma) ma] else [mulVal (mulVal va mb) mb]

/-- An accumulator element: its word, the variance plane's word, its flags, and NEGVAR. -/
structure Accum where
  c : Nat
  v : Nat
  flags : Word
  negvar : Bool
  deriving DecidableEq, Repr

/-- One K-group update in moment mode (R99, R100). -/
def groupMoment (bmom : Bool) (x : Accum) (a b : OperandRow) : Accum :=
  let va := a.var.map readVariance
  let vb := if bmom then b.var.map readVariance else []
  let cv := readVariance (f32.decode x.v)
  let mean := groupFloat false x.c a.main b.main
  let nan := va.any (·.1.isNan) || vb.any (·.1.isNan) || b.main.any (·.isNan) || (bmom && a.main.any (·.isNan))
  let terms := (List.range a.main.length).flatMap fun i =>
    varTerms bmom (a.main.getD i .nan) (va.getD i (.nan, true)).1 (b.main.getD i .nan) (vb.getD i (.nan, true)).1
  let v := groupSum nan cv.1 terms
  { c := mean.1, v := v.1, flags := x.flags ||| mean.2 ||| v.2
    negvar := x.negvar || cv.2 || va.any (·.2) || vb.any (·.2) }

/-- The K-groups of one K-step, ascending (R80, R242). -/
def stepGroups (f : Fmts) (sat : Bool) (a b : OperandRow) : List Nat → Accum → Accum
  | [], x => x
  | k :: ks, x =>
    let g := f.kgroup
    let ga : OperandRow := { main := groupOf g k a.main, var := groupOf g k a.var }
    let gb : OperandRow := { main := groupOf g k b.main, var := groupOf g k b.var }
    let y := if f.mom then groupMoment f.bmom x ga gb
      else
        let r := if f.i32 then groupInt sat x.c ga.main gb.main else groupFloat (fmtClass f.a == 2) x.c ga.main gb.main
        { x with c := r.1, flags := x.flags ||| r.2 }
    stepGroups f sat a b ks y

/-! ## The matrix loop -/

/-- The K-steps done, or the rows, as the progress word shows them (R246). -/
def Engine.progress : Engine → Nat
  | .mloop x => x.kdone
  | .msoft x => x.rows * 2 ^ 12
  | _ => 0

def MatOp.fmts (x : MatOp) : Fmts := fmtsOf x.fb
def MatOp.word (x : MatOp) (i hi : Nat) : Nat := (x.g.getD i 0).toNat / 2 ^ (32 * hi) % 2 ^ 32
def MatOp.aAddr (x : MatOp) (s : Nat) : Nat := (x.word 0 0 + s * x.word 2 0) % 2 ^ 32
def MatOp.bAddr (x : MatOp) (s : Nat) : Nat := (x.word 0 1 + s * x.word 2 1) % 2 ^ 32
def MatOp.cAddr (x : MatOp) : Nat := x.word 1 0
def MatOp.doff (x : MatOp) : Int := signedOf 32 (x.word 3 0)
def MatOp.rowCount (x : MatOp) : Nat := if x.areg.isSome then 16 else 64

/-- The bytes of the accumulator tile, and those that completion counts (R240, R242, R244). -/
def MatOp.tileBytes (x : MatOp) : Nat := if x.areg.isSome then 4096 else if x.fmts.mom then 32768 else 16384

/-- The fill of masked elements (R243). -/
def MatOp.fill (x : MatOp) : Nat :=
  match x.tfill with
  | .zero => 0
  | .ninf => 0xFF800000
  | .gf => x.word 3 1

/-- A masked element (R243). -/
def maskedElem (tri : Bool) (doff : Int) (m n : Nat) : Bool := tri && decide (doff < (n : Int) - m)

/-- An element of a skipped sub-tile (R243). -/
def skippedElem (tri : Bool) (doff : Int) (m n : Nat) : Bool :=
  tri && decide (doff < 16 * ((n / 16 : Nat) : Int) - 16 * ((m / 16 : Nat) : Int) - 15)

/-- The scale bytes' local addresses (R241). -/
def Fmts.scaleA (f : Fmts) : Nat := aWindow f.asadr
def Fmts.scaleB (f : Fmts) : Nat := f.bsadr

/-- Bytes at a local address for the matrix unit; the ranges have been checked at issue. -/
def State.unitRead (s : State) (wg : Workgroup) (addr n : Nat) : List Byte :=
  match s.findLocal wg admitAny 1 addr n with
  | .ok x => s.readLocal x n
  | .error _ => List.replicate n 0

def State.unitWrite (s : State) (wg : Workgroup) (addr : Nat) (bs : List Byte) : State :=
  match s.findLocal wg admitAny 1 addr bs.length with
  | .ok x => s.writeLocalPlain x bs
  | .error _ => s

/-- Row `i` of an operand tile at an address. -/
def State.operandRow (s : State) (wg : Workgroup) (f : Fmts) (mom : Bool) (fmt stride scale : Nat) (bs : List Byte) : OperandRow :=
  if mom then { main := rowMeans bs, var := rowVars bs }
  else { main := rowElems f fmt (fun j => (s.unitRead wg (scale + j * stride) 1).headD 0) bs, var := [] }

/-- Row m of A in K-step s (R240, R241, R244). -/
def State.rowA (s : State) (wg : Workgroup) (x : MatOp) (k m : Nat) : OperandRow :=
  let f := x.fmts
  let bs := match x.areg with
    | some rows => rows.getD m []
    | none => s.unitRead wg (x.aAddr k + m * f.rowA) f.rowA
  s.operandRow wg f f.amom f.a f.asstr (f.scaleA + (m * x.ksteps + k) * f.bps * f.asstr) bs

/-- Column n of B in K-step s. -/
def State.rowB (s : State) (wg : Workgroup) (x : MatOp) (k n : Nat) : OperandRow :=
  let f := x.fmts
  s.operandRow wg f f.bmom f.b f.bsstr (f.scaleB + (n * x.ksteps + k) * f.bps * f.bsstr)
    (s.unitRead wg (x.bAddr k + n * f.rowB) f.rowB)

/-- One accumulator element through K-step k (R242). -/
def MatOp.element (x : MatOp) (k m n : Nat) (a b : OperandRow) (old : Accum) : Accum :=
  if skippedElem x.tri x.doff m n || !x.written.getD m false then old
  else if maskedElem x.tri x.doff m n then { old with c := x.fill, v := 0 }
  else
    let start := if x.init && k == 0 then { old with c := 0, v := 0 } else old
    stepGroups x.fmts x.sat a b (List.range (x.fmts.kstep / x.fmts.kgroup)) start

/-- The element (m, n) of a tile held in bytes (R240). -/
def tileWord (bs : List Byte) (m n : Nat) : Nat := fieldAt bs (256 * m + 4 * n) 4

/-- One K-step: the tile's new bytes with the flags (R242). -/
def State.kStep (s : State) (wg : Workgroup) (x : MatOp) (k : Nat) : State × Word × Bool :=
  let plane := 256 * x.rowCount
  let cs := s.unitRead wg x.cAddr plane
  let vs := if x.fmts.mom then s.unitRead wg (x.cAddr + 16384) plane else []
  let bs := (List.range 64).map fun n => s.rowB wg x k n
  let rows := (List.range x.rowCount).map fun m =>
    let a := s.rowA wg x k m
    (bs.zipIdx).map fun e =>
      x.element k m e.2 a e.1 { c := tileWord cs m e.2, v := tileWord vs m e.2, flags := 0, negvar := false }
  let all := rows.flatten
  let s := s.unitWrite wg x.cAddr (all.flatMap fun y => toBytes 4 y.c)
  let s := if x.fmts.mom then s.unitWrite wg (x.cAddr + 16384) (all.flatMap fun y => toBytes 4 y.v) else s
  (s, orFlags (all.map (·.flags)), all.any (·.negvar))

/-! ## Issue checks (R239, R248) -/

/-- The first failure of the local ranges of an operation: addresses with their admitted spaces, values with their
alignments, and ranges with their lengths (R106, R239, R248, R384). The last components mark what is written (assumption 68, DEDUCED). -/
def State.localCauses (s : State) (wg : Workgroup) (spaces : List (Nat × List Nat × Bool)) (aligned : List (Nat × Nat × Bool))
    (ranges : List (Nat × Nat × Bool)) : Option Cause :=
  let at' := fun (k a : Nat) (w : Bool) => ({ cause := k, loc := true, write := w, addr := a } : Cause)
  ((spaces.find? fun x => decide (4 ≤ laSpace x.1) || laReserved x.1 != 0).map fun x => at' 0x14 x.1 x.2.2).or
  (((spaces.find? fun x => !x.2.1.contains (laSpace x.1)).map fun x => at' 0x15 x.1 x.2.2).or
  (((aligned.find? fun x => x.1 % x.2.1 != 0).map fun x => at' 0x13 x.1 x.2.2).or
  ((ranges.find? fun x => (s.findLocal wg admitAny 1 x.1 x.2.1).toOption.isNone).map fun x => at' 0x14 x.1 x.2.2)))

/-- A range at an address that K-step increments have carried into another SPACE, or in SPACE 3 to another CORE, lies outside the
window of the loop's operand (R239; assumption 68, DEDUCED): no range covers it. -/
def MatOp.tileRange (first addr n : Nat) : Nat × Nat × Bool :=
  (addr, if laSpace addr = laSpace first ∧ (laSpace first = 3 → laCore addr = laCore first) then n else 2 ^ 21 + 1, false)

/-- The ranges of a loop (R239 check 6). -/
def MatOp.ranges (x : MatOp) : List (Nat × Nat × Bool) :=
  let f := x.fmts
  let n := 64 * x.ksteps * f.bps
  (if x.areg.isSome then [] else (List.range x.ksteps).map fun k => MatOp.tileRange (x.aAddr 0) (x.aAddr k) (64 * f.rowA)) ++
  ((List.range x.ksteps).map fun k => MatOp.tileRange (x.bAddr 0) (x.bAddr k) (64 * f.rowB)) ++ [(x.cAddr, x.tileBytes, true)] ++
  (if f.a = 6 then [(f.scaleA, (n - 1) * f.asstr + 1, false), (f.scaleB, (n - 1) * f.bsstr + 1, false)] else [])

/-- The illegal traps of a loop (R239 checks 1 to 3). -/
def MatOp.illegal (x : MatOp) : Bool :=
  let f := x.fmts
  x.word 1 1 != 0 || f.bad || (x.sat && !f.i32) || (x.tfill == .ninf && f.i32) ||
  (x.areg.isSome && (f.a == 6 || f.amom || x.ksteps != 1 || x.word 0 0 != 0 || x.word 2 0 != 0))

/-- All the checks of R239 but the last. -/
def State.loopCauses (s : State) (wg : Workgroup) (x : MatOp) : Option Cause :=
  if x.illegal then some { cause := 0x01 }
  else s.localCauses wg
    ((if x.areg.isSome then [] else [(x.aAddr 0, [1, 3], false)]) ++ [(x.bAddr 0, [0], false), (x.cAddr, [2], true)])
    [(x.aAddr 0, 64, false), (x.bAddr 0, 64, false), (x.cAddr, 64, true), (x.word 2 0, 64, false), (x.word 2 1, 64, false)]
    x.ranges

/-- The counted lanes of a panel (R244). -/
def countedLanes (w : Wave) (p : Panel) : List Nat :=
  (List.range 64).filter fun j => (p.qmask ||| w.exitedQuads).getLsbD (j / 4)

/-- The 64 bytes of a counted lane (R244). -/
def laneRow (w : Wave) (a j : Nat) : List Byte := (List.range 16).flatMap fun i => toBytes 4 ((w.vreg (a + i)).getD j 0).toNat

/-- Starts a matrix operation: it is in flight for its wave (R236). -/
def State.startMatrix (s : State) (c : Cur) (bh : Nat) (e : Engine) : State :=
  let s' := s.fork c (some (handleAddr ((s.curWg c).handles.getD bh 0))) e
  s'.setWave c.wid { s'.curWave c with matrix := some s.serial }

/-- A matrix operation waits at issue while another of its wave is in flight (R236). -/
def matrixIssue (c : Cur) (s : State) (k : Out) : Out := if (s.curWave c).matrix.isSome then .next s else k

/-- The gang of a thread is on its cores, not saved away from them (R236, R359). -/
def State.onCore (s : State) (t : Thread) : Bool :=
  match s.gang? t.gid with
  | none => false
  | some g => g.pre == .run || g.pre == .stopping

/-- The matrix operations in flight on a core, by their numbers: those of its waves, and those whose waves have ended (R204). -/
def State.matrixOn (s : State) (core : Nat) : List Nat :=
  (s.waves.filterMap fun e => if e.1 / 64 == core then e.2.matrix else none) ++
  s.threads.filterMap fun e =>
    let on := e.2.core == core && s.onCore e.2
    match e.2.engine with
    | .mloop _ => if on then some e.1 else none
    | .msoft _ => if on then some e.1 else none
    | _ => none

/-- Operations of different waves on one core are sequenced in order of issue (R236): none issued before number n is in flight. -/
def State.matrixTurn (s : State) (core n : Nat) : Bool := (s.matrixOn core).all fun m => decide (n ≤ m)

/-- `mloop` (R237-R245). -/
def execMloop (areg : Option Nat) (g bh fb ksteps : Nat) (sat init tri : Bool) (tfill : TFill) (s : State) : Out :=
  issue (.mloop areg g bh fb ksteps sat init tri tfill) s fun c s => matrixIssue c s
    (let p := s.panel c
     let w := s.curWave c
     let lanes := (countedLanes w p).take 16
     let x : MatOp :=
       { g := (List.range 4).map fun i => p.greg (g + i)
         fb := p.format fb, ksteps := ksteps, sat := sat, init := init, tri := tri, tfill := tfill
         areg := areg.map fun a => lanes.map fun j => laneRow w a j
         lanes := if areg.isSome then lanes else []
         written := if areg.isSome then lanes.map fun j => (p.active w).getLsbD j else List.replicate 64 true
         kdone := 0, flags := 0, negvar := false }
     match s.loopCauses (s.curWg c) x with
     | some cause => trapTo c cause s
     | none => withHandle c bh true s fun _ => finish c (s.startMatrix c bh (.mloop x)))

/-- The wave's matrix operation has performed its last write (R236). -/
def State.freeMatrix (s : State) (tid : Nat) (t : Thread) : State :=
  if (s.wave t.wid).matrix = some tid then s.setWave t.wid { s.wave t.wid with matrix := none } else s

/-- The sequencer completes: the rest of its work, its flags and its update (R242, R245). -/
def State.endMatrix (s : State) (tid : Nat) (t : Thread) (fl : Word) (negvar : Bool) (n : Nat) : State :=
  let s := s.threadFlags t fl negvar
  let s := s.landThread t fun s place => s.landBytes place n
  (s.freeMatrix tid t).endThread tid

def threadWindow (s : State) (t : Thread) : Workgroup :=
  match s.threadWg t with
  | none => emptyWg
  | some k => (s.wg? k).getD emptyWg

/-- A matrix thread may go on: its gang lets it, and it is first among its core's operations (R236, R246). -/
def State.matrixRuns (s : State) (tid : Nat) (t : Thread) : Bool := s.threadGoes t && s.matrixTurn t.core tid

/-- The next K-step of a loop; the last one completes it (R242, R245). -/
def execMloopComplete (tid : Nat) (s : State) : Out :=
  match s.thread? tid with
  | some t =>
    (match t.engine with
     | .mloop x =>
       if s.matrixRuns tid t = false then .next s
       else
         let r := s.kStep (threadWindow s t) x x.kdone
         let y := { x with kdone := x.kdone + 1, flags := x.flags ||| r.2.1, negvar := x.negvar || r.2.2 }
         if x.ksteps ≤ y.kdone then .next (r.1.endMatrix tid t y.flags y.negvar x.tileBytes)
         else .next (r.1.putThread tid { t with engine := .mloop y })
     | _ => .next s)
  | none => .next s

/-! ## Online softmax (R248-R250) -/

def SoftOp.sAddr (x : SoftOp) : Nat := bits 31 0 (x.g.getD 0 0).toNat
def SoftOp.oAddr (x : SoftOp) : Nat := bits 63 32 (x.g.getD 0 0).toNat
def SoftOp.side (x : SoftOp) : Nat := bits 31 0 (x.g.getD 1 0).toNat
def SoftOp.doff (x : SoftOp) : Int := signedOf 32 (bits 63 32 (x.g.getD 1 0).toNat)
def SoftOp.fmt (x : SoftOp) : FloatFmt := if x.e4m3 then Machine.e4m3 else bf16
def SoftOp.pBytes (x : SoftOp) : Nat := if x.e4m3 then 4096 else 8192
def SoftOp.pElem (x : SoftOp) : Nat := if x.e4m3 then 1 else 2
def SoftOp.kstep (x : SoftOp) : Nat := if x.e4m3 then 64 else 32

/-- An exact difference of f32 values (R249): +∞ − +∞ is NaN with INV. -/
def exactDiff (a b : FVal) : FVal × Word :=
  match a, b with
  | .inf false, .inf false => (.nan, fINV)
  | .inf true, .inf true => (.nan, fINV)
  | .inf s, _ => (.inf s, 0)
  | _, .inf s => (.inf (!s), 0)
  | .nan, _ => (.nan, 0)
  | _, .nan => (.nan, 0)
  | a, b =>
    let r := sumTerms .rne [a, b.negate]
    (.fin r.1 r.2.n r.2.e, 0)

/-- 2^(a − b) in a format, rounded once. -/
def FloatFmt.expDiff (f : FloatFmt) (a b : FVal) : Nat × Word :=
  let d := exactDiff a b
  let r := f.exp2 .rne false d.1
  (r.1, d.2 ||| r.2)

/-- What `msoft` computes of one row: m, l, the row of O, the row of P. -/
structure SoftRow where
  m : Nat
  l : Nat
  o : List Nat
  p : List Nat
  flags : Word
  deriving DecidableEq, Repr

/-- SoftRow(r) (R249). -/
def SoftOp.row (x : SoftOp) (r m0 l0 : Nat) (ss os : List Nat) : SoftRow :=
  let unmasked := fun (n : Nat) => !maskedElem x.tri x.doff r n
  let u := (List.range 64).filter unmasked
  let m := if x.first then 0xFF800000 else m0
  let l := if x.first then 0 else l0
  let val := fun (n : Nat) => f32.decode (ss.getD n 0)
  if (f32.decode m).isNan || u.any fun n => (val n).isNan then
    { m := f32.nan, l := f32.nan, o := List.replicate 64 f32.nan, p := List.replicate 64 x.fmt.nan, flags := 0 }
  else
    let mp := u.foldl (fun m n => f32.minMax true m (ss.getD n 0) (f32.decode m) (val n)) m
    let low := mp == 0xFF800000
    let al := if low then (0x3F800000, (0 : Word)) else f32.expDiff (f32.decode m) (f32.decode mp)
    let p := (List.range 64).map fun n =>
      if unmasked n && !low then x.fmt.expDiff (val n) (f32.decode mp) else (0, (0 : Word))
    let l' := f32.fused .rne false [(f32.decode al.1, f32.decode l)]
      (.fin false 0 0 :: (u.map fun n => x.fmt.decode (p.getD n (0, 0)).1))
    let o := (List.range 64).map fun n =>
      if x.first then (0, (0 : Word)) else f32.fused .rne false [(f32.decode al.1, f32.decode (os.getD n 0))] []
    { m := mp, l := l'.1, o := o.map (·.1), p := p.map (·.1)
      flags := al.2 ||| orFlags (p.map (·.2)) ||| l'.2 ||| orFlags (o.map (·.2)) }

/-- Writes row r of P (R248). -/
def State.writeP (s : State) (wg : Workgroup) (x : SoftOp) (r : Nat) (p : List Nat) : State :=
  (List.range (64 / x.kstep)).foldl (fun s k =>
    s.unitWrite wg (x.pout + 4096 * k + 64 * r) (((p.drop (k * x.kstep)).take x.kstep).flatMap (toBytes x.pElem))) s

/-- One row of `msoft` (R249). -/
def State.softRow (s : State) (wg : Workgroup) (x : SoftOp) (r : Nat) : State × Word :=
  let side := s.unitRead wg (x.side + 8 * r) 8
  let words := fun (addr : Nat) =>
    let bs := s.unitRead wg (addr + 256 * r) 256
    (List.range 64).map fun n => fieldAt bs (4 * n) 4
  let y := x.row r (fieldAt side 0 4) (fieldAt side 4 4) (words x.sAddr) (words x.oAddr)
  let s := s.unitWrite wg (x.oAddr + 256 * r) (y.o.flatMap (toBytes 4))
  let s := s.unitWrite wg (x.side + 8 * r) (toBytes 4 y.m ++ toBytes 4 y.l)
  (s.writeP wg x r y.p, y.flags)

/-- Two ranges of one store overlap: CORE is not read (R103). -/
def rangesMeet (a n b m : Nat) : Bool := decide (laOfs a < laOfs b + m) && decide (laOfs b < laOfs a + n)

/-- The checks of R248 but the last. -/
def State.softCauses (s : State) (wg : Workgroup) (x : SoftOp) : Option Cause :=
  (s.localCauses wg [(x.sAddr, [2], false), (x.oAddr, [2], true), (x.side, [2], true), (x.pout, [1, 3], true)]
    [(x.sAddr, 64, false), (x.oAddr, 64, true), (x.side, 64, true), (x.pout, 64, true)]
    [(x.sAddr, 16384, false), (x.oAddr, 16384, true), (x.side, 512, true), (x.pout, x.pBytes, true)]).or
  (if rangesMeet x.sAddr 16384 x.oAddr 16384 || rangesMeet x.sAddr 16384 x.side 512 || rangesMeet x.oAddr 16384 x.side 512
   then some { cause := 0x03 } else none)

/-- `msoft` (R248-R250). -/
def execMsoft (pout : GSrc) (g bh : Nat) (e4m3 tri first : Bool) (s : State) : Out :=
  issue (.msoft pout g bh e4m3 tri first) s fun c s => matrixIssue c s
    (let p := s.panel c
     let x : SoftOp :=
       { g := [p.greg g, p.greg (g + 1)], pout := bits 31 0 (p.gsrc pout).toNat, e4m3 := e4m3, tri := tri, first := first, rows := 0
         flags := 0 }
     match s.softCauses (s.curWg c) x with
     | some cause => trapTo c cause s
     | none => withHandle c bh true s fun _ => finish c (s.startMatrix c bh (.msoft x)))

/-- The next row of an `msoft`; the last one completes it (R250). -/
def execMsoftComplete (tid : Nat) (s : State) : Out :=
  match s.thread? tid with
  | some t =>
    (match t.engine with
     | .msoft x =>
       if s.matrixRuns tid t = false then .next s
       else
         let r := s.softRow (threadWindow s t) x x.rows
         let y := { x with rows := x.rows + 1, flags := x.flags ||| r.2 }
         if 64 ≤ y.rows then .next (r.1.endMatrix tid t y.flags false x.pBytes)
         else .next (r.1.putThread tid { t with engine := .msoft y })
     | _ => .next s)
  | none => .next s

/-! ## `macc` (R247) -/

/-- The local address of register i of lane j. -/
def maccAddr (c i str j : Nat) : Nat := (c + i * str + 4 * j) % 2 ^ 32

/-- The accesses of a lane: for a moment, mean and variance. -/
def maccAddrs (mom : Bool) (c nreg str j : Nat) : List Nat :=
  (List.range nreg).flatMap fun i =>
    maccAddr c i str j :: (if mom then [(maccAddr c i str j + 16384) % 2 ^ 32] else [])

/-- The checks of `macc`, then its lanes. -/
def maccIssue (i : Instr) (mom write : Bool) (c0 : GSrc) (nreg : Nat) (str : Half) (s : State)
    (k : Cur → Lanes → Nat → State → Out) : Out :=
  issue i s fun c s => withLanes i c s fun l s =>
    let a := bits 31 0 ((s.panel c).gsrc c0).toNat
    if a % 4 ≠ 0 then illegal c s
    else
      let addrs := (activeLanes l.act).flatMap fun j => maccAddrs mom a nreg str.toNat j
      if addrs.isEmpty then k c l a s
      else if 4 ≤ laSpace a ∨ laReserved a ≠ 0 then localTrap c write .range a s
      else if laSpace a ≠ 2 then localTrap c write .access a s
      else match addrs.find? fun x => laSpace x != 2 || (s.findLocal (s.curWg c) admitC 4 x 4).toOption.isNone with
        | some x => localTrap c write .range x s
        | none => k c l a s

/-- The words that `macc.get` reads for a lane, in register order. -/
def State.maccWords (s : State) (wg : Workgroup) (mom : Bool) (a nreg str j : Nat) : List Nat :=
  (maccAddrs mom a nreg str j).map fun x => ofBytes (s.unitRead wg x 4)

/-- `macc.get` (R247): lm takes the first 64 bits (R49). -/
def execMaccGet (mom : Bool) (d : Nat) (c0 : GSrc) (nreg : Nat) (str : Half) (s : State) : Out :=
  maccIssue (.maccGet mom d c0 nreg str) mom false c0 nreg str s fun c l a s =>
    let r := laneValues l.act [] fun j => s.maccWords (s.curWg c) mom a nreg str.toNat j
    writeLanes (.maccGet mom d c0 nreg str) c l (.v d) (if mom then 2 * nreg else nreg)
      (fun j k => BitVec.ofNat 32 ((r.getD j []).getD k 0)) 0 s

/-- Writes the registers of some lanes into the tile. -/
def State.maccStore (s : State) (wg : Workgroup) (l : Lanes) (mom : Bool) (d a nreg str : Nat) : List Nat → State
  | [] => s
  | j :: js =>
    ((maccAddrs mom a nreg str j).zipIdx.foldl (fun s x =>
      s.unitWrite wg x.1 (toBytes 4 ((l.w.vreg (d + x.2)).getD j 0).toNat)) s).maccStore wg l mom d a nreg str js

/-- `macc.put` (R247). -/
def execMaccPut (mom : Bool) (d : Nat) (c0 : GSrc) (nreg : Nat) (str : Half) (s : State) : Out :=
  maccIssue (.maccPut mom d c0 nreg str) mom true c0 nreg str s fun c l a s =>
    endStore (.maccPut mom d c0 nreg str) c l true (s.maccStore (s.curWg c) l mom d a nreg str.toNat (activeLanes l.act))

/-! ## `fbset` (R251) -/

/-- The fields that a format block holds: RSV fields take zero (R56). -/
def formatMask : BitVec 128 := 0xFFFFFFFFFFFFFFFFFF8000000000FFFE#128

/-- `fbset` (R251). -/
def execFbset (k : Nat) (part : FbPart) (a b : GSrc) (s : State) : Out :=
  issue (.fbset k part a b) s fun c s =>
    let p := s.panel c
    let old := p.format k
    let lo := if part = .hi then old.setWidth 64 else p.gsrc a
    let hi := if part = .lo then (old >>> 64).setWidth 64 else p.gsrc b
    finish c (s.setPanel c (p.setFormat k ((hi ++ lo) &&& formatMask)))

/-! ## `mmq` (R253, R254) -/

/-- The loop of micro-step s. -/
def mmqOp (p : Panel) (fmt : Nat) (init : Bool) (g step : Nat) : MatOp :=
  let a := (bits 31 0 (p.greg g).toNat + 4096 * step) % 2 ^ 32
  let b := (bits 63 32 (p.greg g).toNat + 4096 * step) % 2 ^ 32
  { g := [BitVec.ofNat 64 (b * 2 ^ 32 + a), p.greg (g + 1), 0, 0]
    fb := BitVec.ofNat 128 (fmt * 16 + fmt * 256), ksteps := 1, sat := false, init := init && step == 0, tri := false, tfill := .zero
    areg := none, lanes := [], written := List.replicate 64 true, kdone := 0, flags := 0, negvar := false }

/-- The `mmq` of a panel has ended, or stops at a trap: it is no more in flight (R236). -/
def State.leaveMmq (s : State) (c : Cur) : State :=
  let w := s.curWave c
  s.setWave c.wid { w.setPanel c.entry { w.panel c.entry with mmq := none } with matrix := none }

/-- Micro-step `step` of an `mmq` (R254): its own checks, one K-step, and the join at the last. -/
def mmqStep (c : Cur) (fmt : Nat) (init : Bool) (ksteps g step : Nat) (s : State) : Out :=
  let x := mmqOp (s.panel c) fmt init g step
  match s.loopCauses (s.curWg c) x with
  | some cause => trapTo c { cause with mcode := true } ((s.leaveMmq c).setProgress c step)
  | none =>
    let r := s.kStep (s.curWg c) x 0
    let s := r.1.setPanel c ((r.1.panel c).raise r.2.1)
    if ksteps ≤ step + 1 then finish c ((s.leaveMmq c).setProgress c 0) else .next (s.setProgress c (step + 1))

/-- The panel's `mmq` is in flight for its wave (R236). -/
def State.inMmq (s : State) (c : Cur) : Bool := (s.panel c).mmq.isSome && (s.panel c).mmq == (s.curWave c).matrix

/-- `mmq` (R253, R254): one micro-step a turn, from that in %px on. It first waits for every operation issued before it on its
core (R236). -/
def execMmq (fmt : Nat) (init : Bool) (ksteps g : Nat) (s : State) : Out :=
  issue (.mmq fmt init ksteps g) s fun c s =>
    let step := bits 11 0 (s.panel c).progress.toNat
    if s.inMmq c then mmqStep c fmt init ksteps g step s
    else if s.matrixOn (c.wid / 64) != [] then .next s
    else
      let w := s.curWave c
      let s' := { s.setWave c.wid { w.setPanel c.entry { w.panel c.entry with mmq := some s.serial } with matrix := some s.serial } with
                  serial := s.serial + 1 }
      mmqStep c fmt init ksteps g step s'

end Sys2Proof.Machine
end

