-- ==== Sys2Proof/Decode.lean ====
section
/-! DEFINITION. The decoder (08 R147-R158: everything an instruction's own bits decide) and the encoder. -/

namespace Sys2Proof

/-- Why the bits are no instruction: all of them are the precise illegal trap of R156. -/
inductive DecodeError where
  /-- an operand code its kind does not admit (R149) -/
  | operand
  /-- an unused field that is not 0x00, or an M bit or reserved bit that must be zero (R149, R154) -/
  | reservedBits
  /-- a selector, type or rounding code, or count, not assigned (R156) -/
  | unassigned
  deriving DecidableEq, Repr

/-- Goes on when a condition holds. -/
def need (c : Bool) (e : DecodeError) : Except DecodeError Unit := if c then .ok () else .error e

/-- The parts of an instruction word (R147) and the word after it. -/
structure Fields where
  opc : Nat
  d : Nat
  a : Nat
  b : Nat
  m : Nat
  x : Nat
  deriving DecidableEq, Repr

/-- The five fields of the instruction word `w` (R147), with the following word `x`. -/
def Fields.of (w x : Nat) : Fields :=
  { opc := w / 2 ^ 25 % 128, d := w / 2 ^ 17 % 256, a := w / 2 ^ 9 % 256, b := w / 2 % 256, m := w % 2, x := x }

-- The arithmetic extension word (R150).
def Fields.c (f : Fields) : Nat := f.x / 2 ^ 24 % 256
def Fields.ty (f : Fields) : Nat := f.x / 2 ^ 20 % 16
def Fields.rnd (f : Fields) : Nat := f.x / 2 ^ 17 % 8
def Fields.sat (f : Fields) : Nat := f.x / 2 ^ 16 % 2
def Fields.sela (f : Fields) : Nat := f.x / 2 ^ 8 % 256
def Fields.selb (f : Fields) : Nat := f.x % 256

/-- The literal of a short form (R147). -/
def Fields.lit (f : Fields) : Option Word := some (BitVec.ofNat 32 f.x)

/-- A lane source code (R148, R149); `lit` is the literal where the form has room for one. -/
def srcOf (lit : Option Word) (c : Nat) : Except DecodeError Src :=
  if c < 0xC0 then .ok (.v c)
  else if c < 0xD0 then .ok (.o (c - 0xC0))
  else if c = 0xD0 then .ok (.latch .la)
  else if c = 0xD1 then .ok (.latch .lf)
  else if c = 0xD2 then .ok (.latch .lx)
  else if c = 0xD3 then .ok (.latch .lm)
  else if c < 0xDC then .ok (.s (c - 0xD4))
  else if c = 0xDC then .ok .zero
  else if c = 0xDD then .ok .lane
  else if c = 0xDE then .ok .quad
  else if c = 0xDF then (match lit with
    | some w => .ok (.lit w)
    | none => .error .operand)
  else .ok (.g (c - 0xE0))

/-- A 64-bit lane source code (R149). -/
def srcOf64 (lit : Option Word) (c : Nat) : Except DecodeError Src :=
  if c < 0xD0 && c % 2 != 0 then .error .operand
  else if c = 0xDD then .error .operand
  else if c = 0xDE then .error .operand
  else srcOf lit c

def srcOfTy (wide : Bool) (lit : Option Word) (c : Nat) : Except DecodeError Src :=
  if wide then srcOf64 lit c else srcOf lit c

/-- A lane destination code (R149). -/
def dstOf (c : Nat) : Except DecodeError Dst :=
  if c < 0xC0 then .ok (.v c)
  else if c < 0xD0 then .ok (.o (c - 0xC0))
  else if c < 0xD4 then .error .operand
  else if c < 0xDC then .ok (.s (c - 0xD4))
  else if c = 0xDC then .ok .zero
  else .error .operand

def dstOf64 (c : Nat) : Except DecodeError Dst :=
  if c < 0xC0 then (if c % 2 = 0 then .ok (.v c) else .error .operand)
  else if c < 0xD0 then (if c % 2 = 0 then .ok (.o (c - 0xC0)) else .error .operand)
  else if c = 0xDC then .ok .zero
  else .error .operand

def dstOfTy (wide : Bool) (c : Nat) : Except DecodeError Dst := if wide then dstOf64 c else dstOf c

/-- A lane destination that may not be a stream (R209, R220, R223). -/
def regDstOf (c : Nat) : Except DecodeError Dst :=
  if c < 0xC0 then .ok (.v c)
  else if c < 0xD0 then .ok (.o (c - 0xC0))
  else if c = 0xDC then .ok .zero
  else .error .operand

/-- A group source code (R149). -/
def gsrcOf (lit : Option Word) (c : Nat) : Except DecodeError GSrc :=
  if c = 0xDC then .ok .zero
  else if c = 0xDF then (match lit with
    | some w => .ok (.lit w)
    | none => .error .operand)
  else if 0xE0 ≤ c then .ok (.g (c - 0xE0))
  else .error .operand

def gdstOf (c : Nat) : Except DecodeError GDst :=
  if c = 0xDC then .ok .zero
  else if 0xE0 ≤ c then .ok (.g (c - 0xE0))
  else .error .operand

def vregOf (c : Nat) : Except DecodeError VReg :=
  if c < 0xC0 then .ok (.v c)
  else if c < 0xD0 then .ok (.o (c - 0xC0))
  else .error .operand

/-- A number below a bound in a field whose upper bits are zero: predicates, streams, ports, control numbers. -/
def below (n c : Nat) : Except DecodeError Nat := if c < n then .ok c else .error .operand

/-- An even register of the main file, as a moment register number (R48). -/
def momOf (c : Nat) : Except DecodeError Nat := if c < 0xC0 && c % 2 == 0 then .ok (c / 2) else .error .operand

/-- A register of the main file whose number is a multiple of `k`. -/
def mainOf (k c : Nat) : Except DecodeError Nat := if c < 0xC0 && c % k == 0 then .ok c else .error .operand

/-- The code of the first of a run of g registers, at most `g(n)`. -/
def grunOf (n c : Nat) : Except DecodeError Nat :=
  if 0xE0 ≤ c && c ≤ 0xE0 + n then .ok (c - 0xE0) else .error .operand

/-- A negatable predicate (R149). -/
def npredOf (c : Nat) : Except DecodeError (Bool × Nat) :=
  if c < 16 then .ok (decide (8 ≤ c), c % 8) else .error .operand

def intTyOf : Nat → Except DecodeError IntTy
  | 0xC => .ok .i32
  | 0xD => .ok .n32
  | 0xE => .ok .i64
  | 0xF => .ok .n64
  | _ => .error .unassigned

def redTyOf : Nat → Except DecodeError RedTy
  | 8 => .ok .f32
  | 0xC => .ok (.int .i32)
  | 0xD => .ok (.int .n32)
  | 0xE => .ok (.int .i64)
  | 0xF => .ok (.int .n64)
  | _ => .error .unassigned

def atomTyOf : Nat → Except DecodeError AtomTy
  | 8 => .ok .f32
  | 0xC => .ok (.int .i32)
  | 0xD => .ok (.int .n32)
  | 0xE => .ok (.int .i64)
  | 0xF => .ok (.int .n64)
  | _ => .error .unassigned

def floatTyOf : Nat → Except DecodeError FloatTy
  | 0 => .ok .bf16
  | 1 => .ok .f16
  | 8 => .ok .f32
  | 9 => .ok .f64
  | _ => .error .unassigned

def fmtOf : Nat → Except DecodeError Fmt
  | 0 => .ok .bf16
  | 1 => .ok .f16
  | 2 => .ok .e4m3
  | 3 => .ok .e5m2
  | 4 => .ok .i8
  | 5 => .ok .n8
  | 8 => .ok .f32
  | 9 => .ok .f64
  | 10 => .ok .i16
  | 11 => .ok .n16
  | 12 => .ok .i32
  | 13 => .ok .n32
  | 14 => .ok .i64
  | 15 => .ok .n64
  | _ => .error .unassigned

def rndOf : Nat → Except DecodeError Rnd
  | 0 => .ok .dflt
  | 1 => .ok .rne
  | 2 => .ok .rtz
  | 3 => .ok .rup
  | 4 => .ok .rdn
  | _ => .error .unassigned

def condOf : Nat → Except DecodeError Cond
  | 0 => .ok .eq
  | 1 => .ok .ne
  | 2 => .ok .lt
  | 3 => .ok .le
  | 4 => .ok .gt
  | 5 => .ok .ge
  | 6 => .ok .un
  | 7 => .ok .ord
  | _ => .error .unassigned

/-- The conditions of `icmp` and `gcmp` (R155). -/
def icondOf (c : Nat) : Except DecodeError Cond := if c < 6 then condOf c else .error .unassigned

def sgnOf : Nat → Except DecodeError SgnSel
  | 0 => .ok .copy
  | 1 => .ok .neg
  | 2 => .ok .abs
  | 3 => .ok .xsgn
  | _ => .error .unassigned

def pkOf : Nat → Except DecodeError PkSel
  | 0 => .ok .f16
  | 1 => .ok .bf16
  | 2 => .ok .e4m3
  | 3 => .ok .e5m2
  | _ => .error .unassigned

def shflOf : Nat → Except DecodeError ShflMode
  | 0 => .ok .idx
  | 1 => .ok .up
  | 2 => .ok .down
  | 3 => .ok .xor
  | _ => .error .unassigned

def voteOf : Nat → Except DecodeError VoteMode
  | 0 => .ok .all
  | 1 => .ok .any
  | 2 => .ok .uni
  | _ => .error .unassigned

def redOf : Nat → Except DecodeError RedOp
  | 0 => .ok .add
  | 1 => .ok .min
  | 2 => .ok .max
  | 3 => .ok .and
  | 4 => .ok .or
  | 5 => .ok .xor
  | _ => .error .unassigned

def sizeOf : Nat → Except DecodeError Size
  | 0 => .ok .n8
  | 1 => .ok .i8
  | 2 => .ok .n16
  | 3 => .ok .i16
  | 4 => .ok .b32
  | 5 => .ok .b64
  | 6 => .ok .b128
  | _ => .error .unassigned

def atomOf : Nat → Except DecodeError AtomOp
  | 0 => .ok .add
  | 1 => .ok .min
  | 2 => .ok .max
  | 3 => .ok .and
  | 4 => .ok .or
  | 5 => .ok .xor
  | 6 => .ok .exch
  | 7 => .ok .fadd
  | _ => .error .unassigned

def orderOf : Nat → Except DecodeError Order
  | 0 => .ok .rlx
  | 1 => .ok .acq
  | 2 => .ok .rel
  | 3 => .ok .ar
  | _ => .error .unassigned

def fenceOf : Nat → Except DecodeError FenceKind
  | 0 => .ok .sc
  | 1 => .ok .acq
  | 2 => .ok .rel
  | 3 => .ok .ar
  | _ => .error .unassigned

def scopeOf : Nat → Except DecodeError Scope
  | 0 => .ok .core
  | 1 => .ok .clus
  | 2 => .ok .die
  | 3 => .ok .dev
  | 4 => .ok .sys
  | _ => .error .unassigned

def copyKindOf : Nat → Except DecodeError CopyKind
  | 0 => .ok .plain
  | 1 => .ok .gather
  | 2 => .ok .decomp
  | 3 => .ok .mom
  | _ => .error .unassigned

def tfillOf : Nat → Except DecodeError TFill
  | 0 => .ok .zero
  | 1 => .ok .ninf
  | 2 => .ok .gf
  | _ => .error .unassigned

def covOf : Nat → Except DecodeError CovSel
  | 0 => .ok .mcr
  | 1 => .ok .ind
  | 2 => .ok .pos
  | 3 => .ok .neg
  | _ => .error .unassigned

def nlOf : Nat → Except DecodeError NlForm
  | 0 => .ok .relu
  | 1 => .ok .exp
  | 2 => .ok .sig
  | 3 => .ok .tanh
  | 4 => .ok .rcp
  | _ => .error .unassigned

def lodOf : Nat → Except DecodeError LodMode
  | 0 => .ok .implicit
  | 1 => .ok .lod
  | 2 => .ok .bias
  | _ => .error .unassigned

def tlbiOf : Nat → Except DecodeError TlbiKind
  | 0 => .ok .page
  | 1 => .ok .range
  | 2 => .ok .asn
  | 3 => .ok .all
  | _ => .error .unassigned

def flagOf (n : Nat) : Bool := n == 1

/-- The extension word's C, TY, RND, SAT, SELA and SELB hold nothing where an opcode lists nothing (R150, R167). -/
def Fields.noC (f : Fields) : Except DecodeError Unit := need (f.c == 0xDC) .reservedBits
def Fields.noTy (f : Fields) : Except DecodeError Unit := need (f.ty == 0) .unassigned
def Fields.noRnd (f : Fields) : Except DecodeError Unit := need (f.rnd == 0) .unassigned
def Fields.noSat (f : Fields) : Except DecodeError Unit := need (f.sat == 0) .unassigned
def Fields.noSela (f : Fields) : Except DecodeError Unit := need (f.sela == 0) .unassigned
def Fields.noSelb (f : Fields) : Except DecodeError Unit := need (f.selb == 0) .unassigned
def Fields.tyIs (f : Fields) (t : Nat) : Except DecodeError Unit := need (f.ty == t) .unassigned
def Fields.noD (f : Fields) : Except DecodeError Unit := need (f.d == 0) .reservedBits
def Fields.noA (f : Fields) : Except DecodeError Unit := need (f.a == 0) .reservedBits
def Fields.noB (f : Fields) : Except DecodeError Unit := need (f.b == 0) .reservedBits
def Fields.noM (f : Fields) : Except DecodeError Unit := need (f.m == 0) .reservedBits

/-- An X form of two sources with an integer type (R169, R171). -/
def xInt2 (f : Fields) (short : Dst → Src → Src → Instr) (long : IntTy → Dst → Src → Src → Instr) :
    Except DecodeError Instr :=
  if f.m = 0 then do
    return short (← dstOf f.d) (← srcOf f.lit f.a) (← srcOf f.lit f.b)
  else do
    f.noC; f.noRnd; f.noSat; f.noSela; f.noSelb
    let ty ← intTyOf f.ty
    return long ty (← dstOfTy ty.wide f.d) (← srcOfTy ty.wide none f.a) (← srcOfTy ty.wide none f.b)

/-- The same with `.sat` admitted (R169). -/
def xIntSat (f : Fields) (short : Dst → Src → Src → Instr) (long : IntTy → Bool → Dst → Src → Src → Instr) :
    Except DecodeError Instr :=
  if f.m = 0 then do
    return short (← dstOf f.d) (← srcOf f.lit f.a) (← srcOf f.lit f.b)
  else do
    f.noC; f.noRnd; f.noSela; f.noSelb
    let ty ← intTyOf f.ty
    return long ty (flagOf f.sat) (← dstOfTy ty.wide f.d) (← srcOfTy ty.wide none f.a) (← srcOfTy ty.wide none f.b)

/-- An X form of one source with an integer type (R172, R174). -/
def xInt1 (f : Fields) (short : Dst → Src → Instr) (long : IntTy → Dst → Src → Instr) : Except DecodeError Instr :=
  if f.m = 0 then do
    f.noB
    return short (← dstOf f.d) (← srcOf f.lit f.a)
  else do
    f.noB; f.noC; f.noRnd; f.noSat; f.noSela; f.noSelb
    let ty ← intTyOf f.ty
    return long ty (← dstOfTy ty.wide f.d) (← srcOfTy ty.wide none f.a)

/-- An X form of two float sources of type `t` that rounds (R176, R182). -/
def xFlt2 (t : Nat) (wide : Bool) (f : Fields) (short : Dst → Src → Src → Instr)
    (long : Rnd → Dst → Src → Src → Instr) : Except DecodeError Instr :=
  if f.m = 0 then do
    return short (← dstOfTy wide f.d) (← srcOfTy wide f.lit f.a) (← srcOfTy wide f.lit f.b)
  else do
    f.noC; f.tyIs t; f.noSat; f.noSela; f.noSelb
    return long (← rndOf f.rnd) (← dstOfTy wide f.d) (← srcOfTy wide none f.a) (← srcOfTy wide none f.b)

/-- An X form of one float source of type `t` that rounds. -/
def xFlt1 (t : Nat) (wide : Bool) (f : Fields) (short : Dst → Src → Instr) (long : Rnd → Dst → Src → Instr) :
    Except DecodeError Instr :=
  if f.m = 0 then do
    f.noB
    return short (← dstOfTy wide f.d) (← srcOfTy wide f.lit f.a)
  else do
    f.noB; f.noC; f.tyIs t; f.noSat; f.noSela; f.noSelb
    return long (← rndOf f.rnd) (← dstOfTy wide f.d) (← srcOfTy wide none f.a)

/-- A minimum or maximum of type `t` (R178). -/
def xMin (t : Nat) (wide : Bool) (f : Fields) (short : Dst → Src → Src → Instr)
    (long : Bool → Dst → Src → Src → Instr) : Except DecodeError Instr :=
  if f.m = 0 then do
    return short (← dstOfTy wide f.d) (← srcOfTy wide f.lit f.a) (← srcOfTy wide f.lit f.b)
  else do
    f.noC; f.tyIs t; f.noRnd; f.noSat; f.noSelb
    need (f.sela < 2) .unassigned
    return long (flagOf f.sela) (← dstOfTy wide f.d) (← srcOfTy wide none f.a) (← srcOfTy wide none f.b)

/-- A compare of type `t` (R179). -/
def lCmp (t : Nat) (wide : Bool) (f : Fields) (k : Cond → Nat → Src → Src → Instr) : Except DecodeError Instr := do
  f.noM; f.noC; f.tyIs t; f.noRnd; f.noSat; f.noSelb
  return k (← condOf f.sela) (← below 8 f.d) (← srcOfTy wide none f.a) (← srcOfTy wide none f.b)

/-- A fused multiply-add of type `t` (R176, R182). -/
def lFma (t : Nat) (wide : Bool) (f : Fields) (k : Rnd → Dst → Src → Src → Src → Instr) :
    Except DecodeError Instr := do
  f.noM; f.tyIs t; f.noSat; f.noSela; f.noSelb
  return k (← rndOf f.rnd) (← dstOfTy wide f.d) (← srcOfTy wide none f.a) (← srcOfTy wide none f.b)
    (← srcOfTy wide none f.c)

/-- The width of a field in SELB: 0 stands for 64 (R173). -/
def widthOf (c : Nat) : Nat := if c = 0 then 64 else c

/-- The types of packed arithmetic: true for bf16 (R183). -/
def packedOf : Nat → Except DecodeError Bool
  | 1 => .ok false
  | 0 => .ok true
  | _ => .error .unassigned

def xPacked2 (f : Fields) (short : Dst → Src → Src → Instr) (long : Bool → Rnd → Dst → Src → Src → Instr) :
    Except DecodeError Instr :=
  if f.m = 0 then do
    return short (← dstOf f.d) (← srcOf f.lit f.a) (← srcOf f.lit f.b)
  else do
    f.noC; f.noSat; f.noSela; f.noSelb
    return long (← packedOf f.ty) (← rndOf f.rnd) (← dstOf f.d) (← srcOf none f.a) (← srcOf none f.b)

/-- Opcodes 0x00-0x17 (R169-R174). -/
def decodeInt (f : Fields) : Except DecodeError Instr :=
  match f.opc with
  | 0x00 => xIntSat f .add .addLong
  | 0x01 => xIntSat f .sub .subLong
  | 0x02 => xInt2 f .adds .addsLong
  | 0x03 => xInt2 f .subs .subsLong
  | 0x04 => xIntSat f .mul .mulLong
  | 0x05 => xInt2 f .mulh .mulhLong
  | 0x06 => do
    f.noM; f.noRnd; f.noSela; f.noSelb
    let ty ← intTyOf f.ty
    return .mad ty (flagOf f.sat) (← dstOfTy ty.wide f.d) (← srcOfTy ty.wide none f.a) (← srcOfTy ty.wide none f.b)
      (← srcOfTy ty.wide none f.c)
  | 0x07 => xInt2 f .and .andLong
  | 0x08 => xInt2 f .or .orLong
  | 0x09 => xInt2 f .xor .xorLong
  | 0x0A => xInt2 f .andn .andnLong
  | 0x0B => xInt2 f .shl .shlLong
  | 0x0C => xInt2 f .shr .shrLong
  | 0x0D => xInt2 f .min .minLong
  | 0x0E => xInt2 f .max .maxLong
  | 0x0F => xInt2 f .absd .absdLong
  | 0x10 => xInt1 f .popc .popcLong
  | 0x11 => xInt1 f .clz .clzLong
  | 0x12 => xInt1 f .brev .brevLong
  | 0x13 => do
    f.noM; f.noB; f.noC; f.noRnd; f.noSat
    let ty ← intTyOf f.ty
    need (f.selb < 64 && fieldWf ty f.sela (widthOf f.selb)) .unassigned
    return .bfx ty (← dstOfTy ty.wide f.d) (← srcOfTy ty.wide none f.a) f.sela (widthOf f.selb)
  | 0x14 => do
    f.noM; f.noC; f.noRnd; f.noSat
    let ty ← intTyOf f.ty
    need (f.selb < 64 && fieldWf ty f.sela (widthOf f.selb)) .unassigned
    return .bfi ty (← dstOfTy ty.wide f.d) (← srcOfTy ty.wide none f.a) (← srcOfTy ty.wide none f.b) f.sela
      (widthOf f.selb)
  | 0x15 => do
    f.noM; f.noC; f.noRnd; f.noSat; f.noSelb
    let ty ← intTyOf f.ty
    return .icmp (← icondOf f.sela) ty (← below 8 f.d) (← srcOfTy ty.wide none f.a) (← srcOfTy ty.wide none f.b)
  | 0x16 => do
    f.noM; f.noC; f.noRnd; f.noSat; f.noSelb
    let ty ← intTyOf f.ty
    need (f.sela < 8) .unassigned
    return .sel ty (← dstOfTy ty.wide f.d) (← srcOfTy ty.wide none f.a) (← srcOfTy ty.wide none f.b) f.sela
  | _ => xInt1 f .mov .movLong

/-- Opcodes 0x18-0x27 (R176-R181). -/
def decodeFloat (f : Fields) : Except DecodeError Instr :=
  match f.opc with
  | 0x18 => xFlt2 8 false f .fadd .faddLong
  | 0x19 => xFlt2 8 false f .fsub .fsubLong
  | 0x1A => xFlt2 8 false f .fmul .fmulLong
  | 0x1B => lFma 8 false f .ffma
  | 0x1C => do
    f.noM; f.tyIs 8; f.noSat; f.noSela
    return .ffma3 (← rndOf f.rnd) (← dstOf f.d) (← srcOf none f.a) (← srcOf none f.b) (← srcOf none f.c)
      (← srcOf none f.selb)
  | 0x1D => xMin 8 false f .fmin .fminLong
  | 0x1E => lCmp 8 false f .fcmp
  | 0x1F => xFlt2 8 false f .fdiv .fdivLong
  | 0x20 => xFlt1 8 false f .frcp .frcpLong
  | 0x21 => xFlt1 8 false f .frsq .frsqLong
  | 0x22 => xFlt1 8 false f .fsqrt .fsqrtLong
  | 0x23 => xFlt1 8 false f .fexp2 .fexp2Long
  | 0x24 => xFlt1 8 false f .flog2 .flog2Long
  | 0x25 =>
    if f.m = 0 then do
      f.noB
      return .fsin (← dstOf f.d) (← srcOf f.lit f.a)
    else do
      f.noB; f.noC; f.tyIs 8; f.noSat; f.noSelb
      need (f.sela < 2) .unassigned
      return .fsinLong (← rndOf f.rnd) (flagOf f.sela) (← dstOf f.d) (← srcOf none f.a)
  | 0x26 =>
    if f.m = 0 then do
      f.noB
      return .fclass (← dstOf f.d) (← srcOf f.lit f.a)
    else do
      f.noB; f.noC; f.noRnd; f.noSat; f.noSela; f.noSelb
      let ty ← floatTyOf f.ty
      return .fclassLong ty (← dstOf f.d) (← srcOfTy ty.wide none f.a)
  | _ =>
    if f.m = 0 then do
      return .fsgn (← dstOf f.d) (← srcOf f.lit f.a) (← srcOf f.lit f.b)
    else do
      f.noC; f.noRnd; f.noSat; f.noSelb
      need (f.ty == 8 || f.ty == 9) .unassigned
      let which ← sgnOf f.sela
      let d ← dstOfTy (f.ty == 9) f.d
      let a ← srcOfTy (f.ty == 9) none f.a
      match which with
      | .copy => return .fsgnLong (f.ty == 9) .copy d a (← srcOfTy (f.ty == 9) none f.b)
      | .neg => do
        f.noB
        return .fsgnLong (f.ty == 9) .neg d a .zero
      | .abs => do
        f.noB
        return .fsgnLong (f.ty == 9) .abs d a .zero
      | .xsgn => return .fsgnLong (f.ty == 9) .xsgn d a (← srcOfTy (f.ty == 9) none f.b)

/-- Opcodes 0x28-0x33 (R182-R185). -/
def decodeWide (f : Fields) : Except DecodeError Instr :=
  match f.opc with
  | 0x28 => xFlt2 9 true f .dadd .daddLong
  | 0x29 => xFlt2 9 true f .dmul .dmulLong
  | 0x2A => lFma 9 true f .dfma
  | 0x2B => xFlt2 9 true f .ddiv .ddivLong
  | 0x2C => xFlt1 9 true f .dsqrt .dsqrtLong
  | 0x2D => lCmp 9 true f .dcmp
  | 0x2E => xMin 9 true f .dmin .dminLong
  | 0x2F => xPacked2 f .hadd2 .hadd2Long
  | 0x30 => xPacked2 f .hmul2 .hmul2Long
  | 0x31 => do
    f.noM; f.noSat; f.noSela; f.noSelb
    return .hfma2 (← packedOf f.ty) (← rndOf f.rnd) (← dstOf f.d) (← srcOf none f.a) (← srcOf none f.b)
      (← srcOf none f.c)
  | 0x32 => do
    f.noM; f.noB; f.noC; f.noSat; f.noSela
    let out ← fmtOf f.ty
    need (f.selb < 16) .unassigned
    let src ← fmtOf f.selb
    return .cvt out src (← rndOf f.rnd) (← dstOfTy out.wide f.d) (← srcOfTy src.wide none f.a)
  | _ => do
    f.noM; f.noTy; f.noSat; f.noSelb
    let which ← pkOf f.sela
    let r ← rndOf f.rnd
    let d ← dstOf f.d
    let a ← srcOf none f.a
    let b ← srcOf none f.b
    match which with
    | .f16 => do
      f.noC
      return .pk .f16 r d a b .zero
    | .bf16 => do
      f.noC
      return .pk .bf16 r d a b .zero
    | .e4m3 => return .pk .e4m3 r d a b (← srcOf none f.c)
    | .e5m2 => return .pk .e5m2 r d a b (← srcOf none f.c)

/-- A two-source group instruction (R192, R193). -/
def sGroup2 (f : Fields) (k : GDst → GSrc → GSrc → Instr) : Except DecodeError Instr := do
  return k (← gdstOf f.d) (← gsrcOf f.lit f.a) (← gsrcOf f.lit f.b)

def redDstOf (wide : Bool) (c : Nat) : Except DecodeError RedDst :=
  if 0xE0 ≤ c then .ok (.g (c - 0xE0)) else do return .lane (← dstOfTy wide c)

/-- Opcodes 0x34-0x45 (R186-R198). -/
def decodeLane (f : Fields) : Except DecodeError Instr :=
  match f.opc with
  | 0x34 => do
    f.noM; f.noB; f.noC; f.noTy; f.noRnd; f.noSat; f.noSelb
    return .qswz (← dstOf f.d) (← srcOf none f.a) (BitVec.ofNat 8 f.sela)
  | 0x35 =>
    if f.m = 0 then do
      return .shfl (← dstOf f.d) (← srcOf f.lit f.a) (← srcOf f.lit f.b)
    else do
      f.noC; f.tyIs 0xD; f.noRnd; f.noSat; f.noSelb
      return .shflLong (← shflOf f.sela) (← dstOf f.d) (← srcOf none f.a) (← srcOf none f.b)
  | 0x36 => do
    f.noM; f.noB; f.noC; f.noTy; f.noRnd; f.noSat; f.noSelb
    return .vote (← voteOf f.sela) (← below 8 f.d) (← below 8 f.a)
  | 0x37 => do
    f.noM; f.noB
    return .ballot (← gdstOf f.d) (← below 8 f.a)
  | 0x38 => do
    f.noM; f.noB; f.noC; f.noRnd; f.noSat; f.noSelb
    let op ← redOf f.sela
    let ty ← redTyOf f.ty
    need (ty.admits op) .unassigned
    return .wred op ty (← redDstOf ty.wide f.d) (← srcOfTy ty.wide none f.a)
  | 0x39 => do
    f.noM; f.noB; f.noC; f.noRnd; f.noSat
    let op ← redOf f.sela
    let ty ← redTyOf f.ty
    need (ty.admits op) .unassigned
    need (f.selb < 2) .unassigned
    return .wscan op (flagOf f.selb) ty (← dstOfTy ty.wide f.d) (← srcOfTy ty.wide none f.a)
  | 0x3A => do f.noM; sGroup2 f .gadd
  | 0x3B => do f.noM; sGroup2 f .gsub
  | 0x3C => do f.noM; sGroup2 f .gmul
  | 0x3D => do f.noM; sGroup2 f .gand
  | 0x3E => do f.noM; sGroup2 f .gor
  | 0x3F => do f.noM; sGroup2 f .gxor
  | 0x40 => if f.m = 0 then sGroup2 f .gshLeft else sGroup2 f .gshRight
  | 0x41 =>
    if f.m = 0 then do
      f.noB
      return .gmov (← gdstOf f.d) (← gsrcOf f.lit f.a)
    else do
      f.noB
      return .gmovCtl (← below 7 f.d) (← gsrcOf f.lit f.a)
  | 0x42 => do
    f.noM; f.noC; f.noRnd; f.noSat; f.noSelb
    need (f.ty == 0xE || f.ty == 0xF) .unassigned
    return .gcmp (← icondOf f.sela) (f.ty == 0xF) (← below 4 f.d) (← gsrcOf none f.a) (← gsrcOf none f.b)
  | 0x43 => do
    f.noM; f.noB
    return .gread (← gdstOf f.d) (← below 7 f.a)
  | 0x44 => do
    f.noC; f.noTy; f.noRnd; f.noSat; f.noSelb
    need (f.sela < 16) .unassigned
    let n := if f.m = 1 then 4 else 8
    return .plog (flagOf f.m) (← below n f.d) (← below n f.a) (← below n f.b) (BitVec.ofNat 4 f.sela)
  | _ => do
    f.noM; f.noB
    return .pmask (← below 8 f.d) (← gsrcOf f.lit f.a)

/-- The displacement of a branch word (R153). -/
def dispOf (f : Fields) : Except DecodeError (BitVec 30) :=
  if f.x % 4 = 0 then .ok (BitVec.ofNat 30 (f.x / 4)) else .error .reservedBits

/-- Opcodes 0x46-0x4F (R199-R207). -/
def decodeControl (f : Fields) : Except DecodeError Instr :=
  match f.opc with
  | 0x46 => do
    f.noM; f.noD; f.noA; f.noB
    return .bra (← dispOf f)
  | 0x47 => do
    f.noD; f.noB
    let q ← npredOf f.a
    let disp ← dispOf f
    if f.m = 0 then return .brc q.1 q.2 disp else return .brcSplit q.1 q.2 disp
  | 0x48 => do
    f.noM; f.noA; f.noB
    return .call (← gdstOf f.d) (← dispOf f)
  | 0x49 =>
    if f.m = 0 then do
      f.noD; f.noB
      return .ret (← gsrcOf f.lit f.a)
    else do
      f.noD; f.noA; f.noB
      return .retTret
  | 0x4A => do
    f.noM; f.noD; f.noA; f.noB
    return .exit
  | 0x4B => do
    f.noM; f.noD
    need (f.b % 2 == 0) .reservedBits
    return .seam (BitVec.ofNat 12 (f.a * 16 + f.b / 16)) (BitVec.ofNat 3 (f.b / 2))
  | 0x4C => do
    f.noM; f.noD; f.noA; f.noB
    return .yield
  | 0x4D => do
    f.noM; f.noD; f.noA; f.noB
    return .trapf
  | 0x4E => do
    f.noM; f.noD; f.noB
    return .trap (BitVec.ofNat 8 f.a)
  | _ => do
    f.noM; f.noD; f.noB
    return .bkpt (BitVec.ofNat 8 f.a)

/-- The memory extension word (R151). -/
def memWordOf (f : Fields) : Except DecodeError MemWord := do
  need (f.x / 8 % 4 == 0) .reservedBits
  return { ofs := BitVec.ofNat 24 (f.x / 256), evp := BitVec.ofNat 2 (f.x / 64), evo := flagOf (f.x / 32 % 2),
           sz := ← sizeOf (f.x % 8) }

/-- The destination of a load (R209). -/
def loadDstOf (sz : Size) (c : Nat) : Except DecodeError Dst :=
  match sz with
  | .b64 => dstOf64 c
  | .b128 => if c < 0xC0 && c % 4 == 0 then .ok (.v c) else if c = 0xDC then .ok .zero else .error .operand
  | _ => regDstOf c

/-- The data of a store (R210). -/
def storeSrcOf (sz : Size) (c : Nat) : Except DecodeError Src :=
  match sz with
  | .b64 => srcOf64 none c
  | .b128 => if c < 0xC0 && c % 4 == 0 then .ok (.v c) else if c = 0xDC then .ok .zero else .error .operand
  | .i8 => .error .unassigned
  | .i16 => .error .unassigned
  | _ => srcOf none c

/-- Opcodes 0x50-0x57 (R208-R216). -/
def decodeMemory (f : Fields) : Except DecodeError Instr :=
  match f.opc with
  | 0x50 => do
    f.noM; f.noB
    let m ← memWordOf f
    return .ld m (← loadDstOf m.sz f.d) (← srcOf64 none f.a)
  | 0x51 => do
    f.noM; f.noD
    let m ← memWordOf f
    return .st m (← srcOf64 none f.a) (← storeSrcOf m.sz f.b)
  | 0x52 => do
    f.noM; f.noB
    let m ← memWordOf f
    need m.plain .reservedBits
    return .lds m (← loadDstOf m.sz f.d) (← srcOf none f.a)
  | 0x53 => do
    f.noM; f.noD
    let m ← memWordOf f
    need m.plain .reservedBits
    return .sts m (← srcOf none f.a) (← storeSrcOf m.sz f.b)
  | 0x54 => do
    f.noM
    let m ← memWordOf f
    need m.plain .reservedBits
    need (m.sz != .b128) .unassigned
    return .ldp m (← loadDstOf m.sz f.d) (← below 8 f.a) (← srcOf none f.b)
  | 0x55 => do
    f.noM
    need (f.x % 1024 == 0) .reservedBits
    need (f.c == 0) .reservedBits
    let op ← atomOf f.ty
    let ty ← atomTyOf (f.x / 2 ^ 16 % 16)
    need (ty.admits op) .unassigned
    let ord ← orderOf (f.x / 2 ^ 14 % 4)
    let scope ← scopeOf (f.x / 2 ^ 11 % 8)
    let loc := flagOf (f.x / 2 ^ 10 % 2)
    return .atom op ty ord scope loc (← dstOfTy ty.wide f.d) (← srcOfTy (!loc) none f.a) (← srcOfTy ty.wide none f.b)
  | 0x56 => do
    f.noM
    need (f.x % 1024 == 0) .reservedBits
    f.noTy
    let ty ← intTyOf (f.x / 2 ^ 16 % 16)
    let ord ← orderOf (f.x / 2 ^ 14 % 4)
    let scope ← scopeOf (f.x / 2 ^ 11 % 8)
    let loc := flagOf (f.x / 2 ^ 10 % 2)
    return .cas ty ord scope loc (← dstOfTy ty.wide f.d) (← srcOfTy (!loc) none f.a) (← srcOfTy ty.wide none f.b)
      (← srcOfTy ty.wide none f.c)
  | _ => do
    f.noM; f.noD; f.noA; f.noB
    need (f.x % 2048 == 0 && f.x / 2 ^ 16 == 0) .reservedBits
    return .fence (← fenceOf (f.x / 2 ^ 14 % 4)) (← scopeOf (f.x / 2 ^ 11 % 8))

/-- Opcodes 0x58-0x5F and 0x73, 0x76 (R217-R235, R256). -/
def decodeAsync (f : Fields) : Except DecodeError Instr :=
  match f.opc with
  | 0x58 => do
    need (f.x < 4) .reservedBits
    let k ← below 8 f.d
    let c ← gsrcOf none f.b
    if f.m = 0 then return .sdef k (.regs (← grunOf 23 f.a)) c (BitVec.ofNat 2 f.x)
    else return .sdef k (.record (← gsrcOf none f.a)) c (BitVec.ofNat 2 f.x)
  | 0x59 => do
    f.noM
    need (f.x % 2 ^ 13 == 0) .reservedBits
    let steps := f.x / 2 ^ 13 % 128
    need (steps ≤ 64) .unassigned
    need (f.a != f.b) .operand
    return .sxi (← regDstOf f.d) (← below 8 f.a) (← below 8 f.b) (← gdstOf f.c) (f.x / 2 ^ 22 % 4) (f.x / 2 ^ 20 % 4)
      (if steps = 0 then 64 else steps)
  | 0x5A => do
    let gp ← below 4 f.d
    let k ← below 8 f.a
    let b ← gsrcOf f.lit f.b
    if f.m = 0 then return .sadvSkip gp k b else return .sadvGe gp k b
  | 0x5B => do
    f.noM; f.noB
    return .barr (← gdstOf f.d) (← below 16 f.a)
  | 0x5C => do
    f.noM
    return .bwait (← gdstOf f.d) (← below 16 f.a) (← gsrcOf f.lit f.b)
  | 0x5D => do
    f.noM
    return .bexp (← gdstOf f.d) (← below 16 f.a) (← gsrcOf f.lit f.b)
  | 0x5E => do
    f.noM
    need (f.x % 2 ^ 22 == 0) .reservedBits
    return .copy (← copyKindOf (f.x / 2 ^ 26 % 4)) (flagOf (f.x / 2 ^ 25 % 2)) (BitVec.ofNat 2 (f.x / 2 ^ 23))
      (flagOf (f.x / 2 ^ 22 % 2)) (f.x / 2 ^ 28 % 16) (← gsrcOf none f.d) (← gsrcOf none f.a) (← grunOf 29 f.b)
  | 0x5F => do
    f.noD; f.noB
    return .lflush (flagOf f.m) (← gsrcOf f.lit f.a)
  | 0x73 => do
    f.noM
    need (f.x < 2) .reservedBits
    return .qpost (flagOf f.x) (← gdstOf f.d) (← gsrcOf none f.a) (← gsrcOf none f.b)
  | _ => do
    f.noM; f.noB
    return .sbar (← gdstOf f.d) (← below 16 f.a)

/-- Opcodes 0x60-0x63 and 0x74 (R237-R254). -/
def decodeMatrix (f : Fields) : Except DecodeError Instr :=
  match f.opc with
  | 0x60 => do
    f.noB
    need (f.x % 256 == 0) .reservedBits
    let g ← grunOf 28 f.d
    let ksteps := f.x / 2 ^ 13 % 4096
    need (ksteps != 0) .unassigned
    let tfill ← tfillOf (f.x / 2 ^ 8 % 4)
    let bh := f.x / 2 ^ 28 % 16
    let fb := f.x / 2 ^ 25 % 8
    let sat := flagOf (f.x / 2 ^ 12 % 2)
    let init := flagOf (f.x / 2 ^ 11 % 2)
    let tri := flagOf (f.x / 2 ^ 10 % 2)
    if f.m = 0 then do
      f.noA
      return .mloop none g bh fb ksteps sat init tri tfill
    else return .mloop (some (← mainOf 4 f.a)) g bh fb ksteps sat init tri tfill
  | 0x61 => do
    f.noB
    need (f.x / 2 ^ 16 % 2 ^ 11 == 0) .reservedBits
    need (f.x % 4 == 0) .unassigned
    let mom := flagOf (f.x / 2 ^ 27 % 2)
    let d ← mainOf (if mom then 2 else 1) f.d
    let c ← gsrcOf none f.a
    let nreg := f.x / 2 ^ 28 % 16 + 1
    let str := BitVec.ofNat 16 f.x
    if f.m = 0 then return .maccGet mom d c nreg str else return .maccPut mom d c nreg str
  | 0x62 => do
    f.noM; f.noB
    need (f.x % 2 ^ 25 == 0) .reservedBits
    return .msoft (← gsrcOf none f.d) (← grunOf 30 f.a) (f.x / 2 ^ 28 % 16) (flagOf (f.x / 2 ^ 27 % 2))
      (flagOf (f.x / 2 ^ 26 % 2)) (flagOf (f.x / 2 ^ 25 % 2))
  | 0x63 => do
    f.noM
    let k ← below 8 f.d
    if f.x = 0 then return .fbset k .both (← gsrcOf none f.a) (← gsrcOf none f.b)
    else if f.x = 1 then do
      f.noB
      return .fbset k .lo (← gsrcOf none f.a) .zero
    else if f.x = 2 then do
      f.noA
      return .fbset k .hi .zero (← gsrcOf none f.b)
    else .error .reservedBits
  | _ => do
    f.noM; f.noA; f.noB
    need (f.x % 2 ^ 15 == 0) .reservedBits
    let fmt := f.x / 2 ^ 28 % 16
    let ksteps := f.x / 2 ^ 15 % 4096
    need (fmt ≤ 5 && ksteps != 0) .unassigned
    return .mmq fmt (flagOf (f.x / 2 ^ 27 % 2)) ksteps (← grunOf 30 f.d)

/-- Opcodes 0x64-0x67 (R252). -/
def decodeMoment (f : Fields) : Except DecodeError Instr :=
  match f.opc with
  | 0x64 =>
    if f.m = 0 then do
      return .madd (← momOf f.d) (← momOf f.a) (← momOf f.b)
    else do
      f.noC; f.noTy; f.noRnd; f.noSat
      need (f.sela < 2) .unassigned
      return .maddLong (flagOf f.sela) (← covOf f.selb) (← momOf f.d) (← momOf f.a) (← momOf f.b)
  | 0x65 =>
    if f.m = 0 then do
      return .mmul (← momOf f.d) (← momOf f.a) (← momOf f.b)
    else do
      f.noC; f.noTy; f.noRnd; f.noSat; f.noSela
      return .mmulLong (← covOf f.selb) (← momOf f.d) (← momOf f.a) (← momOf f.b)
  | 0x66 => do
    f.noM
    return .mnl (← nlOf f.b) (← momOf f.d) (← momOf f.a)
  | _ => do
    f.noM; f.noC; f.noTy; f.noRnd; f.noSat; f.noSelb
    let d ← dstOf f.d
    let a ← momOf f.a
    match f.sela with
    | 0 => do
      f.noB
      return .mcoll .mean d a
    | 1 => do
      f.noB
      return .mcoll .std d a
    | 2 => return .mcoll (.upper (← gsrcOf none f.b)) d a
    | 3 => return .mcoll (.lower (← gsrcOf none f.b)) d a
    | 4 => return .mcoll (.sample (← srcOf none f.b)) d a
    | _ => .error .unassigned

/-- An optional number: present when its bit is set (R285). -/
def optOf (present n : Nat) : Option Nat := if present = 1 then some n else none

/-- Opcodes 0x68-0x6F and 0x75, 0x77 (R223, R255, R285-R292, R382). -/
def decodeGraphics (f : Fields) : Except DecodeError Instr :=
  match f.opc with
  | 0x68 => do
    f.noM
    need (f.x % 2 ^ 26 == 0) .reservedBits
    return .sample (← lodOf (f.x / 2 ^ 26 % 4)) (optOf (f.x / 2 ^ 31 % 2) (f.x / 2 ^ 28 % 8)) (← mainOf 4 f.d)
      (← mainOf 4 f.a) (← gsrcOf none f.b)
  | 0x69 => do
    f.noM
    need (f.x % 2 ^ 26 == 0) .reservedBits
    return .gath (f.x / 2 ^ 30 % 4 + 1) (optOf (f.x / 2 ^ 29 % 2) (f.x / 2 ^ 26 % 8)) (← vregOf f.d) (← mainOf 1 f.a)
      (← gsrcOf none f.b)
  | 0x6A => do
    let d ← dstOf64 f.d
    let h ← gsrcOf f.lit f.a
    let b ← srcOf f.lit f.b
    if f.m = 0 then return .texqSize d h b else return .texqRes d h b
  | 0x6B => do
    let port ← npredOf f.d
    if f.m = 0 then return .emit port.1 port.2 (← vregOf f.a) (← gsrcOf f.lit f.b)
    else do
      f.noA; f.noB
      return .emitClose port.1 port.2
  | 0x6C => do
    f.noM
    let port ← npredOf f.a
    return .pull port.1 (← vregOf f.d) port.2 (← below 64 f.b)
  | 0x6D => do
    need (f.x % 2 ^ 18 == 0) .reservedBits
    let d ← mainOf 4 f.d
    let a ← mainOf 4 f.a
    let port := optOf (f.x / 2 ^ 31 % 2) (f.x / 2 ^ 28 % 8)
    if f.m = 0 then
      return .trace port (BitVec.ofNat 8 (f.x / 2 ^ 20)) (flagOf (f.x / 2 ^ 19 % 2)) (flagOf (f.x / 2 ^ 18 % 2)) d a
        (← gsrcOf none f.b)
    else do
      need (f.x % 2 ^ 28 == 0) .reservedBits
      return .traceResume port d a (← srcOf none f.b)
  | 0x6E =>
    if f.m = 0 then do
      f.noD; f.noB
      let p ← npredOf f.a
      return .disc p.1 p.2
    else do
      f.noD; f.noA; f.noB
      return .discAll
  | 0x6F => do
    let k ← below 8 f.a
    let b ← srcOf f.lit f.b
    if f.m = 0 then return .sread (← regDstOf f.d) k b
    else do
      let v ← srcOf f.lit f.d
      need (!v.isStream) .operand
      return .swrite v k b
  | 0x75 => do
    f.noM; f.noB
    let m ← memWordOf f
    need (m.sz == .b32) .unassigned
    let d ← vregOf f.d
    need d.wf4 .operand
    return .ldq m d (← srcOf64 none f.a)
  | _ => do
    f.noM; f.noD; f.noB
    need (f.x % 2 ^ 14 == 0) .reservedBits
    let range := f.x / 2 ^ 14 % 128
    need (1 ≤ range && range ≤ 64) .unassigned
    return .mest (← grunOf 29 f.a) (f.x / 2 ^ 28 % 16) (f.x / 2 ^ 22 % 64 + 1) (flagOf (f.x / 2 ^ 21 % 2)) range

/-- Opcodes 0x70-0x72 (R356-R358). -/
def decodeSystem (f : Fields) : Except DecodeError Instr :=
  match f.opc with
  | 0x70 => do
    f.noM
    need (f.x % 2 ^ 28 == 0) .reservedBits
    match f.x / 2 ^ 28 with
    | 0 => do
      f.noD; f.noA; f.noB
      return .ctxSkip
    | 1 => do
      f.noA; f.noB
      return .ctxFwd (← gdstOf f.d)
    | 2 => do
      f.noD
      return .ctxEnd (← gsrcOf none f.a) (← gsrcOf none f.b)
    | 3 => do
      f.noA; f.noB
      return .ctxFqpop (← gdstOf f.d)
    | 4 => return .ctxReply (← gdstOf f.d) (← gsrcOf none f.a) (← gsrcOf none f.b)
    | _ => .error .unassigned
  | 0x71 => do
    f.noM; f.noD
    need (f.x % 2 ^ 29 == 0) .reservedBits
    return .tlbi (← tlbiOf (f.x / 2 ^ 29)) (← gsrcOf none f.a) (← gsrcOf none f.b)
  | _ => do
    f.noB
    let d ← gdstOf f.d
    let a ← gsrcOf f.lit f.a
    if f.m = 0 then return .genInc d a else return .genRd d a

/-- The instruction of a word and the word after it (R158 steps 1 and 3). -/
def decode (w x : Nat) : Except DecodeError Instr :=
  let f := Fields.of w x
  if f.opc < 0x18 then decodeInt f
  else if f.opc < 0x28 then decodeFloat f
  else if f.opc < 0x34 then decodeWide f
  else if f.opc < 0x46 then decodeLane f
  else if f.opc < 0x50 then decodeControl f
  else if f.opc < 0x58 then decodeMemory f
  else if f.opc < 0x60 then decodeAsync f
  else if f.opc < 0x64 then decodeMatrix f
  else if f.opc < 0x68 then decodeMoment f
  else if f.opc < 0x70 then decodeGraphics f
  else if f.opc < 0x73 then decodeSystem f
  else if f.opc = 0x73 then decodeAsync f
  else if f.opc = 0x74 then decodeMatrix f
  else if f.opc = 0x75 then decodeGraphics f
  else if f.opc = 0x76 then decodeAsync f
  else if f.opc = 0x77 then decodeGraphics f
  else .ok (.reservedOpcode (BitVec.ofNat 32 w))

/-- The lengths of R154: `s` one word, `x` long when M = 1, `l` always long. -/
inductive Form where
  | s | x | l
  deriving DecidableEq, Repr

def formOf (opc : Nat) : Form :=
  if opc < 0x06 then .x
  else if opc = 0x06 then .l
  else if opc < 0x13 then .x
  else if opc < 0x17 then .l
  else if opc < 0x1B then .x
  else if opc < 0x1D then .l
  else if opc = 0x1D then .x
  else if opc = 0x1E then .l
  else if opc < 0x2A then .x
  else if opc = 0x2A then .l
  else if opc < 0x2D then .x
  else if opc = 0x2D then .l
  else if opc < 0x31 then .x
  else if opc < 0x35 then .l
  else if opc = 0x35 then .x
  else if opc = 0x36 then .l
  else if opc = 0x37 then .s
  else if opc < 0x3A then .l
  else if opc < 0x42 then .s
  else if opc = 0x42 then .l
  else if opc = 0x43 then .s
  else if opc = 0x44 then .l
  else if opc = 0x45 then .s
  else if opc < 0x49 then .l
  else if opc < 0x50 then .s
  else if opc < 0x5A then .l
  else if opc < 0x5E then .s
  else if opc = 0x5E then .l
  else if opc = 0x5F then .s
  else if opc < 0x64 then .l
  else if opc < 0x66 then .x
  else if opc = 0x66 then .s
  else if opc < 0x6A then .l
  else if opc < 0x6D then .s
  else if opc = 0x6D then .l
  else if opc < 0x70 then .s
  else if opc < 0x72 then .l
  else if opc = 0x72 then .s
  else if opc < 0x76 then .l
  else if opc = 0x76 then .s
  else if opc = 0x77 then .l
  else .s

/-- Which of the fields D, A and B of a one-word form are of a kind that admits the literal (R147, R149, R154). -/
def litFields (opc m : Nat) : Bool × Bool × Bool :=
  if opc < 0x10 then (false, true, true)
  else if opc < 0x13 then (false, true, false)
  else if opc = 0x17 then (false, true, false)
  else if opc < 0x1B then (false, true, true)
  else if opc = 0x1D then (false, true, true)
  else if opc = 0x1F then (false, true, true)
  else if opc < 0x27 then (false, true, false)
  else if opc = 0x2C then (false, true, false)
  else if opc < 0x36 then (false, true, true)
  else if opc = 0x37 then (false, false, false)
  else if opc < 0x41 then (false, true, true)
  else if opc = 0x41 then (false, true, false)
  else if opc = 0x45 then (false, true, false)
  else if opc = 0x49 then (false, m == 0, false)
  else if opc = 0x5A then (false, false, true)
  else if opc = 0x5C then (false, false, true)
  else if opc = 0x5D then (false, false, true)
  else if opc = 0x5F then (false, true, false)
  else if opc = 0x6A then (false, true, true)
  else if opc = 0x6B then (false, false, m == 0)
  else if opc = 0x6F then (m == 1, false, true)
  else if opc = 0x72 then (false, true, false)
  else (false, false, false)

/-- Whether a word carries an extension word (R147). -/
def needsExt (w : Nat) : Bool :=
  let f := Fields.of w 0
  match formOf f.opc with
  | .l => true
  | .x => f.m == 1 || ((litFields f.opc f.m).2.1 && f.a == 0xDF) || ((litFields f.opc f.m).2.2 && f.b == 0xDF)
  | .s => ((litFields f.opc f.m).1 && f.d == 0xDF) || ((litFields f.opc f.m).2.1 && f.a == 0xDF) ||
      ((litFields f.opc f.m).2.2 && f.b == 0xDF)

/-- The words of an instruction: one, or two with an extension word (R147). A reserved opcode counts as having an
extension word exactly when M = 1 (R356). -/
def lengthOf (w : Nat) : Nat :=
  if 0x78 ≤ w / 2 ^ 25 % 128 then (if w % 2 = 1 then 2 else 1) else if needsExt w then 2 else 1

/-- An instruction whose bits are `w`, numbered as spec/opcode_table.json numbers them: the first word is bits
[31:0], an extension word bits [63:32], zero where the table gives none. -/
def decodeTableWord (nbits w : Nat) : Option Instr :=
  match decode (w % 2 ^ nbits % 2 ^ 32) (w % 2 ^ nbits / 2 ^ 32 % 2 ^ 32) with
  | .ok i => some i
  | .error _ => none

/-! ## The encoder -/

def Src.code : Src → Nat
  | .v n => n
  | .o n => 0xC0 + n
  | .latch .la => 0xD0
  | .latch .lf => 0xD1
  | .latch .lx => 0xD2
  | .latch .lm => 0xD3
  | .s k => 0xD4 + k
  | .zero => 0xDC
  | .lane => 0xDD
  | .quad => 0xDE
  | .lit _ => 0xDF
  | .g n => 0xE0 + n

def Dst.code : Dst → Nat
  | .v n => n
  | .o n => 0xC0 + n
  | .s k => 0xD4 + k
  | .zero => 0xDC

def GSrc.code : GSrc → Nat
  | .g n => 0xE0 + n
  | .zero => 0xDC
  | .lit _ => 0xDF

def GDst.code : GDst → Nat
  | .g n => 0xE0 + n
  | .zero => 0xDC

def RedDst.code : RedDst → Nat
  | .lane d => d.code
  | .g n => 0xE0 + n

def VReg.code : VReg → Nat
  | .v n => n
  | .o n => 0xC0 + n

def IntTy.code : IntTy → Nat
  | .i32 => 0xC | .n32 => 0xD | .i64 => 0xE | .n64 => 0xF

def FloatTy.code : FloatTy → Nat
  | .f32 => 8 | .f64 => 9 | .f16 => 1 | .bf16 => 0

def RedTy.code : RedTy → Nat
  | .int t => t.code
  | .f32 => 8

def AtomTy.code : AtomTy → Nat
  | .int t => t.code
  | .f32 => 8

def Fmt.code : Fmt → Nat
  | .bf16 => 0 | .f16 => 1 | .e4m3 => 2 | .e5m2 => 3 | .i8 => 4 | .n8 => 5 | .f32 => 8 | .f64 => 9
  | .i16 => 10 | .n16 => 11 | .i32 => 12 | .n32 => 13 | .i64 => 14 | .n64 => 15

def Rnd.code : Rnd → Nat
  | .dflt => 0 | .rne => 1 | .rtz => 2 | .rup => 3 | .rdn => 4

def Cond.code : Cond → Nat
  | .eq => 0 | .ne => 1 | .lt => 2 | .le => 3 | .gt => 4 | .ge => 5 | .un => 6 | .ord => 7

def SgnSel.code : SgnSel → Nat
  | .copy => 0 | .neg => 1 | .abs => 2 | .xsgn => 3

def PkSel.code : PkSel → Nat
  | .f16 => 0 | .bf16 => 1 | .e4m3 => 2 | .e5m2 => 3

def ShflMode.code : ShflMode → Nat
  | .idx => 0 | .up => 1 | .down => 2 | .xor => 3

def VoteMode.code : VoteMode → Nat
  | .all => 0 | .any => 1 | .uni => 2

def RedOp.code : RedOp → Nat
  | .add => 0 | .min => 1 | .max => 2 | .and => 3 | .or => 4 | .xor => 5

def Size.code : Size → Nat
  | .n8 => 0 | .i8 => 1 | .n16 => 2 | .i16 => 3 | .b32 => 4 | .b64 => 5 | .b128 => 6

def AtomOp.code : AtomOp → Nat
  | .add => 0 | .min => 1 | .max => 2 | .and => 3 | .or => 4 | .xor => 5 | .exch => 6 | .fadd => 7

def Order.code : Order → Nat
  | .rlx => 0 | .acq => 1 | .rel => 2 | .ar => 3

def FenceKind.code : FenceKind → Nat
  | .sc => 0 | .acq => 1 | .rel => 2 | .ar => 3

def Scope.code : Scope → Nat
  | .core => 0 | .clus => 1 | .die => 2 | .dev => 3 | .sys => 4

def CopyKind.code : CopyKind → Nat
  | .plain => 0 | .gather => 1 | .decomp => 2 | .mom => 3

def TFill.code : TFill → Nat
  | .zero => 0 | .ninf => 1 | .gf => 2

def CovSel.code : CovSel → Nat
  | .mcr => 0 | .ind => 1 | .pos => 2 | .neg => 3

def NlForm.code : NlForm → Nat
  | .relu => 0 | .exp => 1 | .sig => 2 | .tanh => 3 | .rcp => 4

def LodMode.code : LodMode → Nat
  | .implicit => 0 | .lod => 1 | .bias => 2

def TlbiKind.code : TlbiKind → Nat
  | .page => 0 | .range => 1 | .asn => 2 | .all => 3

/-- An instruction word (R147). -/
def insWord (opc d a b m : Nat) : Nat := opc * 2 ^ 25 + d * 2 ^ 17 + a * 2 ^ 9 + b * 2 + m

/-- An arithmetic extension word (R150). -/
def arithWord (c ty rnd sat sela selb : Nat) : Nat :=
  c * 2 ^ 24 + ty * 2 ^ 20 + rnd * 2 ^ 17 + sat * 2 ^ 16 + sela * 2 ^ 8 + selb

/-- The memory extension word (R151). -/
def MemWord.code (m : MemWord) : Nat :=
  m.ofs.toNat * 2 ^ 8 + m.evp.toNat * 2 ^ 6 + m.evo.toNat * 2 ^ 5 + m.sz.code

/-- The order extension word (R152). -/
def orderWord (c op ty ord scope sp : Nat) : Nat :=
  c * 2 ^ 24 + op * 2 ^ 20 + ty * 2 ^ 16 + ord * 2 ^ 14 + scope * 2 ^ 11 + sp * 2 ^ 10

/-- The literal word that the operands bring, if any (R147). -/
def litWords : List Src → List Nat
  | [] => []
  | .lit w :: _ => [w.toNat]
  | _ :: r => litWords r

def glitWords : List GSrc → List Nat
  | [] => []
  | .lit w :: _ => [w.toNat]
  | _ :: r => glitWords r

def short2 (opc : Nat) (d : Dst) (a b : Src) : List Nat := insWord opc d.code a.code b.code 0 :: litWords [a, b]
def short1 (opc : Nat) (d : Dst) (a : Src) : List Nat := insWord opc d.code a.code 0 0 :: litWords [a]
def group2 (opc m : Nat) (d : GDst) (a b : GSrc) : List Nat := insWord opc d.code a.code b.code m :: glitWords [a, b]

/-- A long form with a type, a rounding and selectors (R150). -/
def long2 (opc m : Nat) (d a b : Nat) (c ty rnd sat sela selb : Nat) : List Nat :=
  [insWord opc d a b m, arithWord c ty rnd sat sela selb]

def int2 (opc : Nat) (ty : IntTy) (sat : Bool) (d : Dst) (a b : Src) : List Nat :=
  long2 opc 1 d.code a.code b.code 0xDC ty.code 0 sat.toNat 0 0
def int1 (opc : Nat) (ty : IntTy) (d : Dst) (a : Src) : List Nat :=
  long2 opc 1 d.code a.code 0 0xDC ty.code 0 0 0 0
def flt2 (opc ty : Nat) (r : Rnd) (d : Dst) (a b : Src) : List Nat :=
  long2 opc 1 d.code a.code b.code 0xDC ty r.code 0 0 0
def flt1 (opc ty : Nat) (r : Rnd) (d : Dst) (a : Src) : List Nat :=
  long2 opc 1 d.code a.code 0 0xDC ty r.code 0 0 0

def optBit : Option Nat → Nat
  | none => 0
  | some _ => 1

def packedCode (bf : Bool) : Nat := if bf then 0 else 1

def Shape.code : Shape → Nat
  | .regs n => 0xE0 + n
  | .record h => h.code

def Shape.bit : Shape → Nat
  | .regs _ => 0
  | .record _ => 1

def Coll.bcode : Coll → Nat
  | .mean => 0
  | .std => 0
  | .upper k => k.code
  | .lower k => k.code
  | .sample z => z.code

def Coll.code : Coll → Nat
  | .mean => 0 | .std => 1 | .upper _ => 2 | .lower _ => 3 | .sample _ => 4

/-- The words of a code form (R147-R154); an event of the machine has none. -/
def encode : Instr → List Nat
  | .add d a b => short2 0x00 d a b
  | .addLong ty sat d a b => int2 0x00 ty sat d a b
  | .sub d a b => short2 0x01 d a b
  | .subLong ty sat d a b => int2 0x01 ty sat d a b
  | .adds d a b => short2 0x02 d a b
  | .addsLong ty d a b => int2 0x02 ty false d a b
  | .subs d a b => short2 0x03 d a b
  | .subsLong ty d a b => int2 0x03 ty false d a b
  | .mul d a b => short2 0x04 d a b
  | .mulLong ty sat d a b => int2 0x04 ty sat d a b
  | .mulh d a b => short2 0x05 d a b
  | .mulhLong ty d a b => int2 0x05 ty false d a b
  | .mad ty sat d a b c => long2 0x06 0 d.code a.code b.code c.code ty.code 0 sat.toNat 0 0
  | .and d a b => short2 0x07 d a b
  | .andLong ty d a b => int2 0x07 ty false d a b
  | .or d a b => short2 0x08 d a b
  | .orLong ty d a b => int2 0x08 ty false d a b
  | .xor d a b => short2 0x09 d a b
  | .xorLong ty d a b => int2 0x09 ty false d a b
  | .andn d a b => short2 0x0A d a b
  | .andnLong ty d a b => int2 0x0A ty false d a b
  | .shl d a b => short2 0x0B d a b
  | .shlLong ty d a b => int2 0x0B ty false d a b
  | .shr d a b => short2 0x0C d a b
  | .shrLong ty d a b => int2 0x0C ty false d a b
  | .min d a b => short2 0x0D d a b
  | .minLong ty d a b => int2 0x0D ty false d a b
  | .max d a b => short2 0x0E d a b
  | .maxLong ty d a b => int2 0x0E ty false d a b
  | .absd d a b => short2 0x0F d a b
  | .absdLong ty d a b => int2 0x0F ty false d a b
  | .popc d a => short1 0x10 d a
  | .popcLong ty d a => int1 0x10 ty d a
  | .clz d a => short1 0x11 d a
  | .clzLong ty d a => int1 0x11 ty d a
  | .brev d a => short1 0x12 d a
  | .brevLong ty d a => int1 0x12 ty d a
  | .bfx ty d a pos width => long2 0x13 0 d.code a.code 0 0xDC ty.code 0 0 pos (width % 64)
  | .bfi ty d a b pos width => long2 0x14 0 d.code a.code b.code 0xDC ty.code 0 0 pos (width % 64)
  | .icmp cond ty p a b => long2 0x15 0 p a.code b.code 0xDC ty.code 0 0 cond.code 0
  | .sel ty d a b p => long2 0x16 0 d.code a.code b.code 0xDC ty.code 0 0 p 0
  | .mov d a => short1 0x17 d a
  | .movLong ty d a => int1 0x17 ty d a
  | .fadd d a b => short2 0x18 d a b
  | .faddLong r d a b => flt2 0x18 8 r d a b
  | .fsub d a b => short2 0x19 d a b
  | .fsubLong r d a b => flt2 0x19 8 r d a b
  | .fmul d a b => short2 0x1A d a b
  | .fmulLong r d a b => flt2 0x1A 8 r d a b
  | .ffma r d a b c => long2 0x1B 0 d.code a.code b.code c.code 8 r.code 0 0 0
  | .ffma3 r d a b c e => long2 0x1C 0 d.code a.code b.code c.code 8 r.code 0 0 e.code
  | .fmin d a b => short2 0x1D d a b
  | .fminLong mx d a b => long2 0x1D 1 d.code a.code b.code 0xDC 8 0 0 mx.toNat 0
  | .fcmp cond p a b => long2 0x1E 0 p a.code b.code 0xDC 8 0 0 cond.code 0
  | .fdiv d a b => short2 0x1F d a b
  | .fdivLong r d a b => flt2 0x1F 8 r d a b
  | .frcp d a => short1 0x20 d a
  | .frcpLong r d a => flt1 0x20 8 r d a
  | .frsq d a => short1 0x21 d a
  | .frsqLong r d a => flt1 0x21 8 r d a
  | .fsqrt d a => short1 0x22 d a
  | .fsqrtLong r d a => flt1 0x22 8 r d a
  | .fexp2 d a => short1 0x23 d a
  | .fexp2Long r d a => flt1 0x23 8 r d a
  | .flog2 d a => short1 0x24 d a
  | .flog2Long r d a => flt1 0x24 8 r d a
  | .fsin d a => short1 0x25 d a
  | .fsinLong r cos d a => long2 0x25 1 d.code a.code 0 0xDC 8 r.code 0 cos.toNat 0
  | .fclass d a => short1 0x26 d a
  | .fclassLong ty d a => long2 0x26 1 d.code a.code 0 0xDC ty.code 0 0 0 0
  | .fsgn d a b => short2 0x27 d a b
  | .fsgnLong wide which d a b =>
    long2 0x27 1 d.code a.code (match which with
      | .neg => 0
      | .abs => 0
      | _ => b.code) 0xDC (if wide then 9 else 8) 0 0 which.code 0
  | .dadd d a b => short2 0x28 d a b
  | .daddLong r d a b => flt2 0x28 9 r d a b
  | .dmul d a b => short2 0x29 d a b
  | .dmulLong r d a b => flt2 0x29 9 r d a b
  | .dfma r d a b c => long2 0x2A 0 d.code a.code b.code c.code 9 r.code 0 0 0
  | .ddiv d a b => short2 0x2B d a b
  | .ddivLong r d a b => flt2 0x2B 9 r d a b
  | .dsqrt d a => short1 0x2C d a
  | .dsqrtLong r d a => flt1 0x2C 9 r d a
  | .dcmp cond p a b => long2 0x2D 0 p a.code b.code 0xDC 9 0 0 cond.code 0
  | .dmin d a b => short2 0x2E d a b
  | .dminLong mx d a b => long2 0x2E 1 d.code a.code b.code 0xDC 9 0 0 mx.toNat 0
  | .hadd2 d a b => short2 0x2F d a b
  | .hadd2Long bf r d a b => flt2 0x2F (packedCode bf) r d a b
  | .hmul2 d a b => short2 0x30 d a b
  | .hmul2Long bf r d a b => flt2 0x30 (packedCode bf) r d a b
  | .hfma2 bf r d a b c => long2 0x31 0 d.code a.code b.code c.code (packedCode bf) r.code 0 0 0
  | .cvt out src r d a => long2 0x32 0 d.code a.code 0 0xDC out.code r.code 0 0 src.code
  | .pk which r d a b c =>
    long2 0x33 0 d.code a.code b.code (match which with
      | .f16 => 0xDC
      | .bf16 => 0xDC
      | _ => c.code) 0 r.code 0 which.code 0
  | .qswz d a which => long2 0x34 0 d.code a.code 0 0xDC 0 0 0 which.toNat 0
  | .shfl d a b => short2 0x35 d a b
  | .shflLong mode d a b => long2 0x35 1 d.code a.code b.code 0xDC 0xD 0 0 mode.code 0
  | .vote mode p q => long2 0x36 0 p q 0 0xDC 0 0 0 mode.code 0
  | .ballot d q => [insWord 0x37 d.code q 0 0]
  | .wred op ty d a => long2 0x38 0 d.code a.code 0 0xDC ty.code 0 0 op.code 0
  | .wscan op excl ty d a => long2 0x39 0 d.code a.code 0 0xDC ty.code 0 0 op.code excl.toNat
  | .gadd d a b => group2 0x3A 0 d a b
  | .gsub d a b => group2 0x3B 0 d a b
  | .gmul d a b => group2 0x3C 0 d a b
  | .gand d a b => group2 0x3D 0 d a b
  | .gor d a b => group2 0x3E 0 d a b
  | .gxor d a b => group2 0x3F 0 d a b
  | .gshLeft d a n => group2 0x40 0 d a n
  | .gshRight d a n => group2 0x40 1 d a n
  | .gmov d a => insWord 0x41 d.code a.code 0 0 :: glitWords [a]
  | .gmovCtl c a => insWord 0x41 c a.code 0 1 :: glitWords [a]
  | .gcmp cond uns gp a b => long2 0x42 0 gp a.code b.code 0xDC (if uns then 0xF else 0xE) 0 0 cond.code 0
  | .gread d c => [insWord 0x43 d.code c 0 0]
  | .plog grp d a b table => long2 0x44 grp.toNat d a b 0xDC 0 0 0 table.toNat 0
  | .pmask p a => insWord 0x45 p a.code 0 0 :: glitWords [a]
  | .bra disp => [insWord 0x46 0 0 0 0, disp.toNat * 4]
  | .brc neg q disp => [insWord 0x47 0 (neg.toNat * 8 + q) 0 0, disp.toNat * 4]
  | .brcSplit neg q disp => [insWord 0x47 0 (neg.toNat * 8 + q) 0 1, disp.toNat * 4]
  | .call d disp => [insWord 0x48 d.code 0 0 0, disp.toNat * 4]
  | .ret a => insWord 0x49 0 a.code 0 0 :: glitWords [a]
  | .retTret => [insWord 0x49 0 0 0 1]
  | .exit => [insWord 0x4A 0 0 0 0]
  | .seam ident k => [insWord 0x4B 0 (ident.toNat / 16) (ident.toNat % 16 * 16 + k.toNat * 2) 0]
  | .yield => [insWord 0x4C 0 0 0 0]
  | .trapf => [insWord 0x4D 0 0 0 0]
  | .trap code => [insWord 0x4E 0 code.toNat 0 0]
  | .bkpt code => [insWord 0x4F 0 code.toNat 0 0]
  | .ld m d a => [insWord 0x50 d.code a.code 0 0, m.code]
  | .st m a b => [insWord 0x51 0 a.code b.code 0, m.code]
  | .lds m d a => [insWord 0x52 d.code a.code 0 0, m.code]
  | .sts m a b => [insWord 0x53 0 a.code b.code 0, m.code]
  | .ldp m d win b => [insWord 0x54 d.code win b.code 0, m.code]
  | .atom op ty ord scope loc d a b =>
    [insWord 0x55 d.code a.code b.code 0, orderWord 0 op.code ty.code ord.code scope.code loc.toNat]
  | .cas ty ord scope loc d a n c =>
    [insWord 0x56 d.code a.code n.code 0, orderWord c.code 0 ty.code ord.code scope.code loc.toNat]
  | .fence kind scope => [insWord 0x57 0 0 0 0, orderWord 0 0 0 kind.code scope.code 0]
  | .sdef k shape c pfd => [insWord 0x58 k shape.code c.code shape.bit, pfd.toNat]
  | .sxi d sa sb cnt gpa gpb steps =>
    [insWord 0x59 d.code sa sb 0,
     cnt.code * 2 ^ 24 + gpa * 2 ^ 22 + gpb * 2 ^ 20 + (if steps = 64 then 0 else steps) * 2 ^ 13]
  | .sadvSkip gp k b => insWord 0x5A gp k b.code 0 :: glitWords [b]
  | .sadvGe gp k b => insWord 0x5A gp k b.code 1 :: glitWords [b]
  | .barr d h => [insWord 0x5B d.code h 0 0]
  | .bwait d h ph => insWord 0x5C d.code h ph.code 0 :: glitWords [ph]
  | .bexp d h n => insWord 0x5D d.code h n.code 0 :: glitWords [n]
  | .copy kind out evp evo bh l h gx =>
    [insWord 0x5E l.code h.code (0xE0 + gx) 0,
     bh * 2 ^ 28 + kind.code * 2 ^ 26 + out.toNat * 2 ^ 25 + evp.toNat * 2 ^ 23 + evo.toNat * 2 ^ 22]
  | .lflush dev h => insWord 0x5F 0 h.code 0 dev.toNat :: glitWords [h]
  | .qpost db d q a => [insWord 0x73 d.code q.code a.code 0, db.toNat]
  | .sread d k b => insWord 0x6F d.code k b.code 0 :: litWords [b]
  | .swrite v k b => insWord 0x6F v.code k b.code 1 :: litWords [v, b]
  | .mloop areg g bh fb ksteps sat init tri tfill =>
    [insWord 0x60 (0xE0 + g) (areg.getD 0) 0 (optBit areg),
     bh * 2 ^ 28 + fb * 2 ^ 25 + ksteps * 2 ^ 13 + sat.toNat * 2 ^ 12 + init.toNat * 2 ^ 11 + tri.toNat * 2 ^ 10 +
       tfill.code * 2 ^ 8]
  | .maccGet mom d c nreg str =>
    [insWord 0x61 d c.code 0 0, (nreg - 1) * 2 ^ 28 + mom.toNat * 2 ^ 27 + str.toNat]
  | .maccPut mom d c nreg str =>
    [insWord 0x61 d c.code 0 1, (nreg - 1) * 2 ^ 28 + mom.toNat * 2 ^ 27 + str.toNat]
  | .msoft pout g bh e4m3 tri first =>
    [insWord 0x62 pout.code (0xE0 + g) 0 0,
     bh * 2 ^ 28 + e4m3.toNat * 2 ^ 27 + tri.toNat * 2 ^ 26 + first.toNat * 2 ^ 25]
  | .fbset k .both a b => [insWord 0x63 k a.code b.code 0, 0]
  | .fbset k .lo a _ => [insWord 0x63 k a.code 0 0, 1]
  | .fbset k .hi _ b => [insWord 0x63 k 0 b.code 0, 2]
  | .madd d a b => [insWord 0x64 (2 * d) (2 * a) (2 * b) 0]
  | .maddLong neg cov d a b => long2 0x64 1 (2 * d) (2 * a) (2 * b) 0xDC 0 0 0 neg.toNat cov.code
  | .mmul d a b => [insWord 0x65 (2 * d) (2 * a) (2 * b) 0]
  | .mmulLong cov d a b => long2 0x65 1 (2 * d) (2 * a) (2 * b) 0xDC 0 0 0 0 cov.code
  | .mnl f d a => [insWord 0x66 (2 * d) (2 * a) f.code 0]
  | .mcoll mode d a => long2 0x67 0 d.code (2 * a) mode.bcode 0xDC 0 0 0 mode.code 0
  | .mmq fmt init ksteps g =>
    [insWord 0x74 (0xE0 + g) 0 0 0, fmt * 2 ^ 28 + init.toNat * 2 ^ 27 + ksteps * 2 ^ 15]
  | .ldq m d a => [insWord 0x75 d.code a.code 0 0, m.code]
  | .sbar d h => [insWord 0x76 d.code h 0 0]
  | .sample lodm pse d a h =>
    [insWord 0x68 d a h.code 0, optBit pse * 2 ^ 31 + pse.getD 0 * 2 ^ 28 + lodm.code * 2 ^ 26]
  | .gath ne pse d a h =>
    [insWord 0x69 d.code a h.code 0, (ne - 1) * 2 ^ 30 + optBit pse * 2 ^ 29 + pse.getD 0 * 2 ^ 26]
  | .texqSize d h b => insWord 0x6A d.code h.code b.code 0 :: (glitWords [h] ++ litWords [b]).take 1
  | .texqRes d h b => insWord 0x6A d.code h.code b.code 1 :: (glitWords [h] ++ litWords [b]).take 1
  | .emit fault port va kn => insWord 0x6B (fault.toNat * 8 + port) va.code kn.code 0 :: glitWords [kn]
  | .emitClose fault port => [insWord 0x6B (fault.toNat * 8 + port) 0 0 1]
  | .pull any d port nreg => [insWord 0x6C d.code (any.toNat * 8 + port) nreg 0]
  | .trace port rmask cullb first d a root =>
    [insWord 0x6D d a root.code 0,
     optBit port * 2 ^ 31 + port.getD 0 * 2 ^ 28 + rmask.toNat * 2 ^ 20 + cullb.toNat * 2 ^ 19 + first.toNat * 2 ^ 18]
  | .traceResume port d a t => [insWord 0x6D d a t.code 1, optBit port * 2 ^ 31 + port.getD 0 * 2 ^ 28]
  | .disc neg p => [insWord 0x6E 0 (neg.toNat * 8 + p) 0 0]
  | .discAll => [insWord 0x6E 0 0 0 1]
  | .mest g bh nbx cand range =>
    [insWord 0x77 0 (0xE0 + g) 0 0, bh * 2 ^ 28 + (nbx - 1) * 2 ^ 22 + cand.toNat * 2 ^ 21 + range * 2 ^ 14]
  | .ctxSkip => [insWord 0x70 0 0 0 0, 0]
  | .ctxFwd d => [insWord 0x70 d.code 0 0 0, 1 * 2 ^ 28]
  | .ctxEnd a b => [insWord 0x70 0 a.code b.code 0, 2 * 2 ^ 28]
  | .ctxFqpop d => [insWord 0x70 d.code 0 0 0, 3 * 2 ^ 28]
  | .ctxReply d a b => [insWord 0x70 d.code a.code b.code 0, 4 * 2 ^ 28]
  | .tlbi kind a b => [insWord 0x71 0 a.code b.code 0, kind.code * 2 ^ 29]
  | .genInc d a => insWord 0x72 d.code a.code 0 0 :: glitWords [a]
  | .genRd d a => insWord 0x72 d.code a.code 0 1 :: glitWords [a]
  | .reservedOpcode w => [w.toNat]
  | _ => []

end Sys2Proof
end

