-- ==== Sys2Proof/Machine/Fetch.lean ====
section
/-! DEFINITION. Fetching a panel's next word and instruction (08 R140, R147; 18 R346, R348), through the core's instruction
cache (01 R10). -/

namespace Sys2Proof.Machine

/-! ## The instruction cache (R10, R358) -/

/-- A byte of code where a translation leads: at its home L2, not through an L1. On a sparse page without a leaf a fetch finds zeros,
as a load does (R115; assumption 6, DESIGN CHOICE). -/
def State.codeByte (s : State) : Place → Byte
  | .sparse => 0
  | .leaf e pa => if ptePeer e then Config.peerByte s.freeCtr pa else s.readKeyed (pteKey e) pa

/-- The byte i of the line of code at a place. -/
def Place.byteOf : Place → Nat → Place
  | .sparse, _ => .sparse
  | .leaf e pa, i => .leaf e (pa + i)

/-- The lines that an instruction cache of 64 KiB holds (R10). -/
def icacheLines : Nat := 512

/-- Makes room for one more line: the one held longest goes (assumption 6, DESIGN CHOICE). -/
def State.codeRoom (s : State) (core : Nat) : State :=
  let l := s.icache.filter fun e => codeCore e.1 == core
  match l with
  | [] => s
  | x :: xs =>
    if l.length < icacheLines then s
    else
      let v := xs.foldl (fun (b : Nat × ILine) y => if y.2.since < b.2.since then y else b) x
      { s with icache := Sparse.erase s.icache v.1 }

/-- The home L2 rejects the fill of a line of code: its generation is old (R138). -/
def State.codeRejected (s : State) (a : Acc) (core line : Nat) : Bool :=
  a.gen != s.genOf a.part a.asn && (Sparse.find s.icache (codeIndex core a.asn line)).isNone &&
  match s.translate a (128 * line) .fetch with
  | .ok (.leaf e _) => !ptePeer e
  | _ => false

/-- Brings a line of code into a core's instruction cache and its leaf into the TLBs, unless that fails. -/
def State.fillCode (s : State) (a : Acc) (core line : Nat) : State :=
  match s.translate a (128 * line) .fetch with
  | .error _ => s
  | .ok x =>
    let s := s.cacheLeaf a (128 * line)
    let ix := codeIndex core a.asn line
    if (Sparse.find s.icache ix).isSome || s.deadPlace x || s.poisonPlace x || s.codeRejected a core line then s
    else
      let s := s.codeRoom core
      { s with
        icache := Sparse.put s.icache ix { since := s.cycle, data := (List.range 128).map fun i => s.codeByte (x.byteOf i) }
        freeCtr := s.freeCtr + 1 }

/-! ## Words -/

/-- What keeps a word from a panel: a line or translation that is not there yet, with the stall reason (R313), a fault, or a
peer whose link is down (R400). -/
inductive FetchStop where
  | miss (why : Nat)
  | fail (e : XFail)
  | dead
  deriving DecidableEq, Repr

/-- The L1 TLB lacks a leaf that it could hold (R313). -/
def State.missesTlb (s : State) (a : Acc) (va : Nat) : Place → Bool
  | .sparse => false
  | .leaf .. => (s.tlbIn a.tlb1 a.part a.asn va).isNone

/-- A word of code (R140): four bytes through the page tables, fetch permitted, from the instruction cache. -/
def State.fetchWord (s : State) (c : Cur) (va : Nat) : Except FetchStop Nat :=
  let a := s.laneAcc c
  match s.translate a va .fetch with
  | .error e => .error (.fail e)
  | .ok x =>
    if s.missesTlb a va x then .error (.miss 13)
    else match Sparse.find s.icache (codeIndex (c.wid / 64) a.asn (va / 128)) with
      | some l => .ok (fieldAt l.data (va % 128) 4)
      | none => if s.deadPlace x then .error .dead else if s.poisonPlace x then .error (.fail (.poison va)) else .error (.miss 10)

/-- What a panel meets at its PC: a clause header, an instruction with its length in words, bits that are no instruction
(R156), or nothing yet. -/
inductive Fetched where
  | header (w : Word)
  | instr (i : Instr) (len : Nat)
  | bad (len : Nat)
  | stop (e : FetchStop)
  deriving DecidableEq, Repr

/-- The word after an instruction word, where it has one (R147). -/
def State.fetchExt (s : State) (c : Cur) (pc w : Nat) : Except FetchStop Nat :=
  if lengthOf w = 2 ∧ w / 2 ^ 25 % 128 < 0x78 then s.fetchWord c ((pc + 4) % 2 ^ 57) else .ok 0

def State.fetch (s : State) (c : Cur) : Fetched :=
  let p := s.panel c
  match s.fetchWord c p.pc with
  | .error e => .stop e
  | .ok w =>
    match p.clause with
    | none => .header (BitVec.ofNat 32 w)
    | some _ =>
      match s.fetchExt c p.pc w with
      | .error e => .stop e
      | .ok x =>
        match decode w x with
        | .ok i => .instr i (lengthOf w)
        | .error _ => .bad (lengthOf w)

/-- Fills what a panel's fetch misses: the lines of its next two words. -/
def State.fetchFill (s : State) (c : Cur) : State :=
  let pc := (s.panel c).pc
  let a := s.laneAcc c
  let t := s.fillCode a (c.wid / 64) (pc / 128)
  let line := (pc + 4) % 2 ^ 57 / 128
  if line = pc / 128 then t else t.fillCode a (c.wid / 64) line

/-- The line that a panel's fetch misses: that of its next word, or of the word after it. -/
def State.missedLine (s : State) (c : Cur) : Nat :=
  let pc := (s.panel c).pc
  if (Sparse.find s.icache (codeIndex (c.wid / 64) (s.laneAcc c).asn (pc / 128))).isNone then pc / 128 else (pc + 4) % 2 ^ 57 / 128

end Sys2Proof.Machine
end

