-- ==== Sys2Proof/Machine/Spools.lean ====
section
/-! DEFINITION. Spools and their instructions (12 R260-R264, R267, R286, R287; 07 R136). -/

namespace Sys2Proof.Machine

/-! ## The controller (R263, R264) -/

/-- A spool's controller takes closes that waited for its storage into the header, or appends the end-of-stream record of a closed
spool (R264). -/
def execEndOfStreamAppend (sid : Nat) (s : State) : Out :=
  let s := s.settleSpool sid
  match s.spool? sid with
  | none => .next s
  | some x => .next (if s.endReady x && s.reachable sid then s.placeIn sid [endOfStream x.flt] else s)

/-! ## Lanes and quads -/

/-- The quads with an active lane. -/
def activeQuads (m : Mask) : List Nat := (List.range 16).filter fun q => (lanesQuads m).getLsbD q

/-- The active lanes of a quad. -/
def quadMask (m : Mask) (q : Nat) : BitVec 4 := (m >>> (4 * q)).setWidth 4

/-- The receivers or senders of an instruction on a spool: quads or lanes (R286, R287). -/
def spoolUnits (quad : Bool) (m : Mask) : List Nat := if quad then activeQuads m else activeLanes m

/-! ## `emit` (R286) -/

/-- The spool of an out-port that its workgroup has not closed. -/
def State.openPort (s : State) (c : Cur) (port : Nat) : Option Nat :=
  let wg := s.curWg c
  if wg.closed.contains port then none else (wg.outPorts.getD port none)

/-- The record that a lane or a quad emits (R286 3, 4). -/
def emitRecord (l : Lanes) (x : Spool) (va : VReg) (kind nreg : Nat) (fault : Bool) (u : Nat) : Record :=
  let reg := fun (i j : Nat) => match va with
    | .v n => (l.w.vreg (n + i)).getD j 0
    | .o n => (l.w.oreg (n + i)).getD j 0
  if x.quad then
    let t := if x.toBlend then Sparse.find l.w.tickets u else none
    let m := quadMask l.act u
    { seq := 0, kind := kind, fault := fault, eos := false, ticket := t.map fun t => { t with four := nreg == 4 }
      lmask := (match t with
        | none => m
        | some t => m &&& t.coverage)
      words := (List.range nreg).flatMap fun i => (List.range 4).map fun j =>
        if m.getLsbD j then reg i (4 * u + j) else 0 }
  else
    { seq := 0, kind := kind, fault := fault, eos := false, ticket := none, lmask := 0
      words := (List.range nreg).map fun i => reg i u }

/-- The issue checks of `emit` that need the spool (R286 1). -/
def emitBad (l : Lanes) (x : Spool) (va : VReg) (b : Nat) (units : List Nat) : Bool :=
  let nreg := bits 13 8 b + 1
  let kind := bits 7 0 b
  let run := (srcRun (VReg.src va, nreg)).getD { o := false, first := 0, n := 0 }
  decide (2 ^ 14 ≤ b) || decide (x.ssz < nreg * (if x.quad then 16 else 4)) || decide (x.nslot < units.length) ||
  !run.fits l.w.regs ||
  (x.toBlend && (kind != 0x11 || (nreg != 1 && nreg != 4) || units.any fun u => (Sparse.find l.w.tickets u).isNone))

/-- The lanes of a panel, for an instruction that names no stream. -/
def State.plainLanes (s : State) (c : Cur) : Lanes :=
  let w := s.curWave c
  { w := w, p := w.panel c.entry, pops := [], act := (w.panel c.entry).active w }

/-- `emit` once it goes on: traps, waits or places (R286). -/
def emitGo (fault : Bool) (port : Nat) (va : VReg) (kn : GSrc) (c : Cur) (s : State) : Out :=
  let l := s.plainLanes c
  let b := (l.p.gsrc kn).toNat
  match s.openPort c port with
  | none => illegal c s
  | some k =>
    match s.spool? k with
    | none => illegal c s
    | some x =>
      let units := spoolUnits x.quad l.act
      if emitBad l x va b units then illegal c s
      else if units.isEmpty then finish c (s.setPanel c { l.p with wait := none })
      else if s.fits k units.length = false then
        .next (s.setPanel c { l.p with
          wait := some { instr := .emit fault port va kn, len := c.len, since := s.cycle, aux := 0 } })
      else
        let s := s.releaseAt c (if x.mem then .dev else .clus)
        let s := s.placeRecords k (units.map (emitRecord l x va (bits 7 0 b) (bits 13 8 b + 1) fault))
        let w := s.curWave c
        let w := if x.toBlend then { w with tickets := w.tickets.filter fun t => !units.contains t.1 } else w
        let s := s.setWave c.wid w
        finish c (s.setPanel c { s.panel c with wait := none })

/-- `emit` (R286). -/
def execEmit (fault : Bool) (port : Nat) (va : VReg) (kn : GSrc) (s : State) : Out :=
  issue (.emit fault port va kn) s fun c s => emitGo fault port va kn c s

/-- A blocked `emit` finds room, in storage that can be written (R286 2). -/
def execEmitWake (wid e : Nat) (s : State) : Out :=
  let p := (s.wave wid).panel e
  match p.valid && s.waveRuns wid, p.wait with
  | true, some { instr := .emit fault port va kn, len := len, .. } =>
    let c : Cur := { wid := wid, entry := e, len := len }
    let l := s.plainLanes c
    (match (s.openPort c port).bind fun k => (s.spool? k).map fun x => s.fits k (spoolUnits x.quad l.act).length with
     | some true => emitGo fault port va kn c s
     | _ => .next s)
  | _, _ => .next s

/-- `emit.close` (R286, R264). -/
def execEmitClose (fault : Bool) (port : Nat) (s : State) : Out :=
  issue (.emitClose fault port) s fun c s =>
    match s.openPort c port with
    | none => illegal c s
    | some k =>
      let wg := s.curWg c
      finish c ((s.closeSpool k fault).putWg (s.curWave c).wg { wg with closed := port :: wg.closed })

/-! ## `pull` (R287) -/

/-- A pull can go on: enough records, or end-of-stream, lie ahead (R287 4). -/
def pullReady (any : Bool) (n : Nat) (ahead : List Record) : Bool :=
  let k := (ahead.filter fun r => !r.eos).length
  decide ((if any then 1 else n) ≤ k) || ahead.any (·.eos)

/-- What a pull in replay mode is to take: the index of its first record, mod 2^32, and how many (R322). -/
def State.loggedPull (s : State) (c : Cur) : Option (Nat × Nat) :=
  if s.replaying c then
    (s.replayNext (s.laneAcc c).part c.wid 0 2).map fun e => (e.2.toNat % 2 ^ 32, e.2.toNat / 2 ^ 32)
  else none

/-- A pull in replay mode waits until the records of its outcome lie ahead and no other pull is before it (R322; assumption 22,
DESIGN CHOICE). -/
def loggedReady (seq n : Nat) (ahead : List Record) : Bool :=
  let full := ahead.filter fun r => !r.eos
  if n = 0 then ahead.any (·.eos)
  else decide (n ≤ full.length) && (match full.head? with
    | none => false
    | some r => decide (seqFrom seq r.seq < 2 ^ 31))

/-- A pull for n lanes or quads goes on (R287 4): its storage can be used, and its records are there. -/
def State.canPull (s : State) (c : Cur) (any : Bool) (n k : Nat) (ahead : List Record) : Bool :=
  s.reachable k && (match s.loggedPull c with
    | some (seq, m) => loggedReady seq m ahead
    | none => pullReady any n ahead)

/-- What lane j receives as its tag and payload (R287 5-7). -/
def pullWord (quad : Bool) (units : List Nat) (taken : List Record) (eos : Option Record) (j k : Nat) : Word :=
  match taken[units.idxOf (if quad then j / 4 else j)]? with
  | some r => if k = 0 then r.tag true else r.words.getD (if quad then 4 * (k - 1) + j % 4 else k - 1) 0
  | none =>
    match eos with
    | some r => if k = 0 then r.tag false else 0
    | none => 0

/-- What a pull logs: the index of the first record and the count; with none taken the index is open (R321; assumption 21, DESIGN
CHOICE). -/
def State.pullOutcome (s : State) (full : List Record) (n : Nat) : DWord :=
  let seq := match full.head? with
    | none => (Config.free s.freeCtr 3).toNat
    | some r => r.seq
  BitVec.ofNat 64 (seq % 2 ^ 32 + n * 2 ^ 32)

/-- `pull` from a bound port, once it goes on. -/
def pullGo (any : Bool) (d : VReg) (port nreg k : Nat) (x : Spool) (c : Cur) (s : State) : Out :=
  let i : Instr := .pull any d port nreg
  let l := s.plainLanes c
  let inst := l.w.wg
  let units := spoolUnits x.quad l.act
  let ahead := x.ahead inst
  if units.isEmpty then finish c (s.setPanel c { l.p with wait := none })
  else if s.canPull c any units.length k ahead = false then
    .next (s.setPanel c { l.p with wait := some { instr := i, len := c.len, since := s.cycle, aux := 0 } })
  else
    let full := ahead.filter fun r => !r.eos
    let n := Nat.min units.length full.length
    let o := s.panelOutcome c 2 (s.pullOutcome full n)
    let n := if s.replaying c then Nat.min n (o.2.toNat / 2 ^ 32) else n
    let taken := full.take n
    let s := o.1.takeRecords k inst n
    let s := s.acquireAt c (if x.mem then .dev else .clus)
    let w := s.curWave c
    let tickets := (units.zip taken).foldl (fun ts e =>
      match e.2.ticket with
      | some t => if x.fromRaster then Sparse.put ts e.1 t else ts
      | none => ts) w.tickets
    let s := s.setWave c.wid { w with tickets := tickets }
    let s := s.setPanel c { s.panel c with wait := none }
    writeLanes i c l (VReg.dst d) (1 + nreg) (pullWord x.quad units taken (ahead.find? (·.eos))) 0 s

/-- The discarded lanes of a panel with an empty mask stack rejoin it (R287 1). -/
def Panel.rejoin (p : Panel) : Panel :=
  if p.stack.isEmpty then { p with mask := p.mask ||| p.discarded, discarded := 0 } else p

/-- The panel as `pull` begins on it (R287 1). -/
def State.beginPull (s : State) (c : Cur) (x : Spool) : State :=
  if x.quad && x.fromRaster then s.setPanel c (s.panel c).rejoin else s

/-- A quad that would take a record still holds an unsettled ticket (R287 3). -/
def State.heldTicket (s : State) (c : Cur) (x : Spool) : Bool :=
  let l := s.plainLanes c
  x.quad && (spoolUnits x.quad l.act).any fun u => (Sparse.find l.w.tickets u).isSome

/-- The spool of an in-port. -/
def State.inPort (s : State) (c : Cur) (port : Nat) : Option (Nat × Spool) :=
  ((s.curWg c).inPorts.getD port none).bind fun k => (s.spool? k).map fun x => (k, x)

/-- `pull` (R287): a precise trap leaves the discarded lanes where they were. -/
def execPull (any : Bool) (d : VReg) (port nreg : Nat) (s : State) : Out :=
  issue (.pull any d port nreg) s fun c s =>
    match s.inPort c port with
    | none => if (s.panel c).active (s.curWave c) = 0 then finish c s else illegal c s
    | some (k, x) =>
      let t := s.beginPull c x
      if t.heldTicket c x then illegal c s else pullGo any d port nreg k x c t

/-- A blocked `pull` finds its records, though the log may have no room for it (R287, R322). -/
def State.pullReady (s : State) (c : Cur) (x : Waiting) : Bool :=
  match x.instr with
  | .pull any _ port _ =>
    let l := s.plainLanes c
    (match s.inPort c port with
     | some (k, x) => s.canPull c any (spoolUnits x.quad l.act).length k (x.ahead l.w.wg)
     | none => false)
  | _ => false

/-- A blocked `pull` finds its records (R287 4), and the log has room (R322). -/
def execPullWake (wid e : Nat) (s : State) : Out :=
  let p := (s.wave wid).panel e
  match p.valid && s.waveRuns wid, p.wait with
  | true, some { instr := .pull any d port nreg, len := len, .. } =>
    let c : Cur := { wid := wid, entry := e, len := len }
    let l := s.plainLanes c
    (match s.inPort c port with
     | some (k, x) =>
       if s.canPull c any (spoolUnits x.quad l.act).length k (x.ahead l.w.wg) && !s.logStalls c 1 then pullGo any d port nreg k x c s
       else .next s
     | none => .next s)
  | _, _ => .next s

end Sys2Proof.Machine
end

