-- ==== Sys2Proof/Machine/Texel.lean ====
section
/-! DEFINITION. Exact channel values and the surface and texel formats (12 R268, R272, R275). A value is a rational
number plus rational multiples of the sRGB transfer function, so that sums and differences are exact. -/

namespace Sys2Proof.Machine

/-- rat + Σ c × sRGB(k / 510) over the pairs (k, c): each k at most once, no c zero. -/
structure XVal where
  rat : Rat
  irr : List (Nat × Rat)
  deriving DecidableEq, Repr

def XVal.ofRat (q : Rat) : XVal := { rat := q, irr := [] }

def addTerm (l : List (Nat × Rat)) (k : Nat) (c : Rat) : List (Nat × Rat) :=
  let c' := Sparse.get 0 l k + c
  Sparse.set 0 l k c'

def XVal.add (a b : XVal) : XVal := { rat := a.rat + b.rat, irr := b.irr.foldl (fun l e => addTerm l e.1 e.2) a.irr }
def XVal.scale (c : Rat) (a : XVal) : XVal :=
  if c = 0 then XVal.ofRat 0 else { rat := c * a.rat, irr := a.irr.map fun e => (e.1, c * e.2) }
def XVal.sub (a b : XVal) : XVal := a.add (b.scale (-1))

/-! ## The sRGB transfer function (assumption 15, PRESUMED) -/

/-- The fifth root of n, rounded down. -/
def fifthRoot (n : Nat) : Nat → Nat → Nat
  | 0, r => r
  | k + 1, r => fifthRoot n k (if (r + 2 ^ k) ^ 5 ≤ n then r + 2 ^ k else r)

/-- sRGB(k / 510) for 20 < k < 510: ((k/510 + 0.055) / 1.055)^2.4. -/
def srgbI (p k : Nat) : Ival :=
  let r := fifthRoot ((1000 * k + 28050) ^ 12 * 2 ^ (5 * p) / 538050 ^ 12) (p + 1) 0
  { lo := r, hi := r + 1 }

/-- The linear value at k/510 of an sRGB channel. -/
def srgb (k : Nat) : XVal :=
  if k ≤ 20 then XVal.ofRat ((k * 100 : Nat) / (510 * 1292 : Nat) : Rat)
  else if 510 ≤ k then XVal.ofRat 1
  else { rat := 0, irr := [(k, 1)] }

/-! ## Enclosures, signs and rounding -/

def Ival.scaleRat (c : Rat) (a : Ival) : Ival :=
  let x := c.num * a.lo
  let y := c.num * a.hi
  { lo := (if x ≤ y then x else y) / (c.den : Int), hi := ceilDiv (if x ≤ y then y else x) c.den }

def XVal.enclose (a : XVal) (p : Nat) : Ival :=
  a.irr.foldl (fun i e => i.add ((srgbI p e.1).scaleRat e.2)) ((oneAt p).scaleRat a.rat)

def Ival.sign (a : Ival) : Option Int := if 0 < a.lo then some 1 else if a.hi < 0 then some (-1) else none

/-- The sign of a value: 0 only when every term cancels, or below the finest enclosure. -/
def XVal.sign (a : XVal) : Int :=
  if a.irr.isEmpty then (if a.rat = 0 then 0 else if a.rat < 0 then -1 else 1)
  else ((((a.enclose 208).sign).or ((a.enclose 416).sign)).or ((a.enclose 1664).sign)).getD 0

/-- A positive rational as a magnitude. -/
def ratMag (q : Rat) : Mag :=
  let k := Nat.log2 q.den + 400
  let n := q.num.toNat * 2 ^ k
  { n := n / q.den, e := -(k : Int), sticky := n % q.den != 0 }

/-- Rounds an exact value to a format. -/
def FloatFmt.roundX (f : FloatFmt) (mode : Mode) (a : XVal) : Nat × Word :=
  let s := a.sign
  if s = 0 then (0, 0)
  else
    let b := if s < 0 then a.scale (-1) else a
    f.round mode false (decide (s < 0)) (if b.irr.isEmpty then ratMag b.rat else decided b.enclose)

/-- The greatest integer not above a value. -/
def XVal.floor (a : XVal) : Int :=
  if a.irr.isEmpty then a.rat.floor
  else
    let n := floorShift 416 (a.enclose 416).lo
    if 0 ≤ (a.sub (XVal.ofRat (n + 1))).sign then n + 1 else n

/-- Rounds to the nearest integer, ties to even. -/
def XVal.roundInt (a : XVal) : Int :=
  let n := a.floor
  let d := (a.sub (XVal.ofRat ((n : Rat) + 1 / 2))).sign
  if 0 < d ∨ (d = 0 ∧ n % 2 = 1) then n + 1 else n

/-- Clamps a value to [0, m]. -/
def XVal.clampTo (m : Rat) (a : XVal) : XVal :=
  if a.sign < 0 then XVal.ofRat 0 else if 0 < (a.sub (XVal.ofRat m)).sign then XVal.ofRat m else a

/-- 2^e as a rational. -/
def pow2Rat (e : Int) : Rat := if 0 ≤ e then ((2 ^ e.toNat : Nat) : Rat) else 1 / ((2 ^ (-e).toNat : Nat) : Rat)

/-- A finite float as a rational; NaN as 0, ±∞ as the largest finite f32 (R268, R275). -/
def FVal.toRat : FVal → Rat
  | .nan => 0
  | .inf s => (if s then -1 else 1) * ((2 ^ 24 - 1 : Nat) : Rat) * pow2Rat 104
  | .fin s m e => (if s then -1 else 1) * (m : Rat) * pow2Rat e

/-- An operand float: any non-finite value is 0 (R289). -/
def FVal.finiteRat : FVal → Rat
  | .fin s m e => FVal.toRat (.fin s m e)
  | _ => 0

/-! ## Formats (R275) -/

/-- How a channel is held. -/
inductive Channel where
  | unorm (lo n : Nat)
  | srgb (lo : Nat)
  | int (lo : Nat)
  | f16 (lo : Nat)
  | f32 (lo : Nat)
  | absent
  deriving DecidableEq, Repr

/-- The channels of a format: red, green, blue, alpha. -/
def channelsOf (fmt : Nat) : List Channel :=
  match fmt with
  | 0x40 => [.unorm 0 8, .absent, .absent, .absent]
  | 0x41 => [.unorm 0 8, .unorm 8 8, .absent, .absent]
  | 0x42 => [.unorm 0 8, .unorm 8 8, .unorm 16 8, .unorm 24 8]
  | 0x43 => [.srgb 0, .srgb 8, .srgb 16, .unorm 24 8]
  | 0x44 => [.unorm 0 10, .unorm 10 10, .unorm 20 10, .unorm 30 2]
  | 0x45 => [.f16 0, .absent, .absent, .absent]
  | 0x46 => [.f16 0, .f16 16, .absent, .absent]
  | 0x47 => [.f16 0, .f16 16, .f16 32, .f16 48]
  | 0x48 => [.f32 0, .absent, .absent, .absent]
  | 0x49 => [.f32 0, .f32 32, .f32 64, .f32 96]
  | 0x4A => [.f32 0, .absent, .absent, .absent]
  | 0x4B => [.unorm 0 24, .int 24, .absent, .absent]
  | _ => [.absent, .absent, .absent, .absent]

/-- Channel `i` of a texel held in n, as an exact value. -/
def Channel.decode (c : Channel) (i n : Nat) : XVal :=
  match c with
  | .unorm lo b => XVal.ofRat ((n / 2 ^ lo % 2 ^ b : Nat) / (2 ^ b - 1 : Nat) : Rat)
  | .srgb lo => Machine.srgb (2 * (n / 2 ^ lo % 256))
  | .int lo => XVal.ofRat ((n / 2 ^ lo % 256 : Nat) : Rat)
  | .f16 lo => XVal.ofRat (Machine.f16.decode (n / 2 ^ lo % 2 ^ 16)).toRat
  | .f32 lo => XVal.ofRat (Machine.f32.decode (n / 2 ^ lo % 2 ^ 32)).toRat
  | .absent => XVal.ofRat (if i = 3 then 1 else 0)

/-- The four channels of a texel (R275). -/
def decodeTexel (fmt n : Nat) : List XVal := (channelsOf fmt).zipIdx.map fun e => e.1.decode e.2 n

/-- The sRGB level whose encoding a linear value in [0, 1] rounds to: the greatest n whose lower boundary lies below
it; a tie goes to the even level. -/
def srgbLevel (a : XVal) : Nat :=
  let n := (List.range 8).foldl (fun n i =>
    let m := n + 2 ^ (7 - i)
    if 0 < (a.sub (Machine.srgb (2 * m - 1))).sign then m else n) 0
  if n % 2 = 1 && decide ((a.sub (Machine.srgb (2 * n + 1))).sign = 0) && decide (n < 255) then n + 1 else n

/-- Where a channel lies: its lowest bit and its width. -/
def Channel.place : Channel → Nat × Nat
  | .unorm lo b => (lo, b)
  | .srgb lo => (lo, 8)
  | .int lo => (lo, 8)
  | .f16 lo => (lo, 16)
  | .f32 lo => (lo, 32)
  | .absent => (0, 0)

/-- The bits of a channel that encode an exact value (R272). -/
def Channel.encode (c : Channel) (a : XVal) : Nat :=
  match c with
  | .unorm _ b => (((a.clampTo 1).scale ((2 ^ b - 1 : Nat) : Rat)).roundInt).toNat
  | .srgb _ => srgbLevel (a.clampTo 1)
  | .int _ => ((a.clampTo 255).roundInt).toNat
  | .f16 _ => (Machine.f16.roundX .rne a).1
  | .f32 _ => (Machine.f32.roundX .rne a).1
  | .absent => 0

/-- Puts b bits x at bit lo of n. -/
def setBits (n lo b x : Nat) : Nat := n - n / 2 ^ lo % 2 ^ b * 2 ^ lo + x % 2 ^ b * 2 ^ lo

/-- Encodes channel values into a stored texel; channels that the mask clears keep their bits (R272). -/
def encodeTexel (fmt old wmask : Nat) (xs : List XVal) : Nat :=
  ((channelsOf fmt).zip xs).zipIdx.foldl (fun n e =>
    let c := e.1.1
    if c = .absent || !wmask.testBit e.2 then n else setBits n c.place.1 c.place.2 (c.encode e.1.2)) old

end Sys2Proof.Machine
end

