-- ==== Sys2Proof/Machine/Rays.lean ====
section
/-! DEFINITION. Acceleration structures and traversal (12 R280-R284, R292, 13 R297, R298): `trace`, `trace.resume` and
the `trav` node (R257, R264, R265). -/

namespace Sys2Proof.Machine

/-! ## A ray (R282) -/

/-- A stack entry of a ray: OBJ, node address, children still to visit. -/
structure RayEntry where
  obj : Bool
  addr : Nat
  kids : Nat
  deriving DecidableEq, Repr

/-- A ray in traversal: the fields of the saved state, the ray in the current space, the instance id in force, NR. -/
structure Ray where
  world : List Word
  tmin : Word
  tmax : Word
  root : Nat
  inst : Nat
  prim : Word
  iid : Word
  u : Word
  v : Word
  leaf : Nat
  cullb : Bool
  first : Bool
  inInst : Bool
  held : Bool
  kind : Nat
  back : Bool
  rmask : Nat
  stack : List RayEntry
  tag : Word
  nr : Bool
  o : List Rat
  d : List Rat
  curId : Word
  deriving Repr

/-- No instance (R292). -/
def noInst : Word := 0xFFFFFFFF

def ratOfWord (w : Word) : Rat := (f32.decode w.toNat).finiteRat

/-- An interval's end: ±∞ lies beyond every f32 and every entry point. -/
def boundOf (w : Word) : Rat :=
  match f32.decode w.toNat with
  | .inf s => (if s then -1 else 1) * pow2Rat 1000
  | x => x.finiteRat

/-- The ray in world space. -/
def Ray.toWorld (r : Ray) : Ray :=
  { r with inInst := false, inst := 0, curId := noInst, o := (r.world.take 3).map ratOfWord, d := (r.world.drop 3).map ratOfWord }

/-- Words k and k + 1 as an address. -/
def pairAt (ws : List Word) (k : Nat) : Nat := (ws.getD k 0).toNat + (ws.getD (k + 1) 0).toNat * 2 ^ 32

def stateEntry (ws : List Word) (k : Nat) : RayEntry :=
  let x := pairAt ws (20 + 2 * k)
  { obj := x / 2 ^ 63 % 2 == 1, addr := bits 57 8 x * 128, kids := x % 256 }

/-- The ray of a saved state (R282), in world space. -/
def Ray.ofState (ws : List Word) : Ray :=
  let f := (ws.getD 18 0).toNat
  { world := ws.take 6, tmin := ws.getD 6 0, tmax := ws.getD 7 0, root := pairAt ws 8, inst := pairAt ws 10
    prim := ws.getD 12 0, iid := ws.getD 13 0, u := ws.getD 14 0, v := ws.getD 15 0, leaf := pairAt ws 16
    cullb := f.testBit 0, first := f.testBit 1, inInst := f.testBit 2, held := f.testBit 3, kind := bits 5 4 f
    back := f.testBit 6, rmask := bits 15 8 f
    stack := ((List.range (Nat.min (bits 23 16 f) 6)).map (stateEntry ws)).reverse
    tag := ws.getD 19 0, nr := false, o := (ws.take 3).map ratOfWord, d := ((ws.drop 3).take 3).map ratOfWord
    curId := noInst }

def wordPair (x : Nat) : List Word := [BitVec.ofNat 32 x, BitVec.ofNat 32 (x / 2 ^ 32)]

/-- The saved state of a ray (R282). -/
def Ray.toState (r : Ray) : List Word :=
  let f := r.cullb.toNat + r.first.toNat * 2 + r.inInst.toNat * 4 + r.held.toNat * 8 + r.kind % 4 * 16 + r.back.toNat * 64 +
    r.rmask % 256 * 2 ^ 8 + r.stack.length * 2 ^ 16
  let es := (r.stack.reverse.flatMap fun e => wordPair (e.obj.toNat * 2 ^ 63 + e.addr / 128 * 2 ^ 8 + e.kids))
  r.world ++ [r.tmin, r.tmax] ++ wordPair r.root ++ wordPair r.inst ++ [r.prim, r.iid, r.u, r.v] ++ wordPair r.leaf ++
    [BitVec.ofNat 32 f, r.tag] ++ es ++ List.replicate (12 - es.length) 0

/-- The check of a saved state (R292 1): depth, byte 75, bit 7 of byte 72, the reserved bits of the entries. -/
def stateBad (ws : List Word) : Bool :=
  let f := (ws.getD 18 0).toNat
  decide (6 < bits 23 16 f) || bits 31 24 f != 0 || f.testBit 7 ||
    (List.range (bits 23 16 f)).any fun k => bits 62 58 (pairAt ws (20 + 2 * k)) != 0

def finiteWord (w : Word) : Bool :=
  match f32.decode w.toNat with
  | .fin _ _ _ => true
  | _ => false

/-- A ray that is finite (R283 6). -/
def Ray.finite (r : Ray) : Bool :=
  r.world.all finiteWord && !(f32.decode r.tmin.toNat).isNan && !(f32.decode r.tmax.toNat).isNan

/-! ## Tests in exact arithmetic (R283) -/

def dot (a b : List Rat) : Rat := ((a.zip b).map fun e => e.1 * e.2).foldl (· + ·) 0

def cross (a b : List Rat) : List Rat :=
  let at' := fun (l : List Rat) k => l.getD k 0
  [at' a 1 * at' b 2 - at' a 2 * at' b 1, at' a 2 * at' b 0 - at' a 0 * at' b 2, at' a 0 * at' b 1 - at' a 1 * at' b 0]

def minus (a b : List Rat) : List Rat := (a.zip b).map fun e => e.1 - e.2

/-- One axis of a slab test narrows the interval; none misses. -/
def slabAxis (lo hi o d : Rat) (i : Option (Rat × Rat)) : Option (Rat × Rat) :=
  match i with
  | none => none
  | some (en, ex) =>
    if hi < lo then none
    else if d = 0 then (if lo ≤ o ∧ o ≤ hi then some (en, ex) else none)
    else
      let a := (lo - o) / d
      let b := (hi - o) / d
      some (max en (min a b), min ex (max a b))

/-- The entry key max(en, TMIN) of a box that the ray hits (R283 1). -/
def Ray.entry (r : Ray) (lo hi : List Rat) : Option Rat :=
  let i := (List.range 3).foldl (fun i k => slabAxis (lo.getD k 0) (hi.getD k 0) (r.o.getD k 0) (r.d.getD k 0) i)
    (some (-pow2Rat 1000, pow2Rat 1000))
  match i with
  | none => none
  | some (en, ex) => if max en (boundOf r.tmin) ≤ min ex (boundOf r.tmax) then some (max en (boundOf r.tmin)) else none

def byteAt (bs : List Byte) (k : Nat) : Nat := (bs.getD k 0).toNat
def wordAt (bs : List Byte) (k : Nat) : Word := BitVec.ofNat 32 (fieldAt bs k 4)

/-- A child of an internal node (R280): its entry key, index, kind and address. -/
structure Child where
  key : Rat
  idx : Nat
  kind : Nat
  addr : Nat
  deriving Repr

/-- The children of a node that the ray hits, among some (R280, R283 1), in index order (assumption 47, DEDUCED). -/
def Ray.hitChildren (r : Ray) (bs : List Byte) (kids : Nat) : List Child :=
  let axis := fun (base c k : Nat) => ratOfWord (wordAt bs (4 * k)) +
    (byteAt bs (base + 3 * c + k) : Rat) * pow2Rat (signedOf 8 (byteAt bs (12 + k)))
  if ((List.range 3).all fun k => finiteWord (wordAt bs (4 * k))) = false then []
  else (List.range 8).filterMap fun c =>
    let m := byteAt bs (24 + c)
    if m / 32 = 0 ∨ 4 < m / 32 ∨ kids.testBit c = false then none
    else match r.entry ((List.range 3).map (axis 32 c)) ((List.range 3).map (axis 56 c)) with
      | none => none
      | some key => some { key := key, idx := c, kind := m / 32, addr := (fieldAt bs 16 8 + 128 * (m % 32)) % 2 ^ 64 }

/-- The first child to visit: least key, then least index. -/
def nearest : List Child → Option Child
  | [] => none
  | c :: cs =>
    match nearest cs with
    | none => some c
    | some d => if d.key < c.key then some d else some c

def roundWord (x : Rat) : Word := BitVec.ofNat 32 (f32.roundX .rne (XVal.ofRat x)).1

/-- Triangle k of a leaf (R281, R283 2): whether it is hit, and the ray then. -/
def Ray.triangle (r : Ray) (bs : List Byte) (k : Nat) : Ray × Bool :=
  let ws := (List.range 9).map fun i => wordAt bs (16 + 36 * k + 4 * i)
  let vs := ws.map ratOfWord
  let v0 := vs.take 3
  let e1 := minus ((vs.drop 3).take 3) v0
  let e2 := minus (vs.drop 6) v0
  let p := cross r.d e2
  let det := dot e1 p
  let s := minus r.o v0
  let b1 := dot s p / det
  let q := cross s e1
  let b2 := dot r.d q / det
  let t := dot e2 q / det
  let back := decide (0 < dot r.d (cross e1 e2))
  if ws.all finiteWord && det != 0 && decide (0 ≤ b1) && decide (0 ≤ b2) && decide (b1 + b2 ≤ 1) &&
      decide (boundOf r.tmin ≤ t) && decide (t < boundOf r.tmax) && !(back && r.cullb) then
    ({ r with tmax := roundWord t, u := roundWord b1, v := roundWord b2, prim := wordAt bs (4 + 4 * k), iid := r.curId,
              held := true, kind := 1, back := back }, true)
  else (r, false)

/-- The triangles of a leaf in order: with FIRST, up to the first hit, which completes the ray. -/
def Ray.triangles (r : Ray) (bs : List Byte) : List Nat → Ray × Bool
  | [] => (r, false)
  | k :: ks =>
    let x := r.triangle bs k
    if x.2 && r.first then (x.1, true) else x.1.triangles bs ks

/-- A row of an instance's matrix applied to the ray (R283 4), rounded; none when a component is not finite. -/
def matrixRow (bs : List Byte) (row : Nat) (x : List Rat) : Option Rat :=
  let m := (List.range 4).map fun k => f64.decode (fieldAt bs (32 * row + 8 * k) 8)
  if (m.any fun e => e.isNan || e.isInf) = true then none
  else
    let y := roundWord (dot (m.map FVal.finiteRat) x)
    if finiteWord y then some (ratOfWord y) else none

/-- The ray in an instance's object space, or none (R283 4, 6). -/
def Ray.enter (r : Ray) (addr : Nat) (bs : List Byte) : Option Ray :=
  let o := (r.world.take 3).map ratOfWord
  let d := (r.world.drop 3).map ratOfWord
  match (List.range 3).mapM fun k => matrixRow bs k (o ++ [1]), (List.range 3).mapM fun k => matrixRow bs k (d ++ [0]) with
  | some o', some d' =>
    some { r with inInst := true, inst := addr, curId := wordAt bs 104, o := o', d := d' }
  | _, _ => none

/-! ## Traversal (R283, R284) -/

/-- How a traversal ends: complete, with a fault address or none; suspended, with the procedural leaf's primitive id;
stopped by a failed fetch; or never, on a structure with a cycle. -/
inductive RayEnd where
  | done (r : Ray) (fault : Option Nat)
  | suspended (r : Ray) (prim : Word)
  | failed (r : Ray) (v : Verdict) (addr : Nat)
  | lost
  deriving Repr

/-- What a ray does next. -/
inductive RayNext where
  | pop
  | visit (addr kind kids : Nat)
  | stop (e : RayEnd)
  deriving Repr

/-- A visit to a node or leaf with these bytes (R283 1-4). -/
def Ray.visit (r : Ray) (port : Bool) (addr kind kids : Nat) (bs : List Byte) : Ray × RayNext :=
  if kind = 1 then
    let l := r.hitChildren bs kids
    match nearest l with
    | none => (r, .pop)
    | some c =>
      let rest := (l.filter fun x => x.idx != c.idx).foldl (fun m x => m + 2 ^ x.idx) 0
      if rest = 0 then (r, .visit c.addr c.kind 255)
      else if 6 ≤ r.stack.length then (r, .stop (.done r (some addr)))
      else ({ r with stack := { obj := r.inInst, addr := addr, kids := rest } :: r.stack }, .visit c.addr c.kind 255)
  else if kind = 2 then
    if 3 < byteAt bs 0 then (r, .stop (.done r (some addr)))
    else
      let x := r.triangles bs (List.range (byteAt bs 0))
      (x.1, if x.2 then .stop (.done x.1 none) else .pop)
  else if kind = 3 then
    if port then
      let r := { r with leaf := addr }
      (r, .stop (.suspended r (wordAt bs 0)))
    else (r, .pop)
  else if r.inInst ∨ byteAt bs 108 &&& r.rmask = 0 then (r, .pop)
  else match r.enter addr bs with
    | none => (r, .pop)
    | some r' => (r', .visit (fieldAt bs 96 8) 1 255)

/-- One 128-byte fetch (R135, R284): its bytes and whether it met a sparse hole. -/
def State.nodeFetch (s : State) (a : Acc) (addr : Nat) : Except Verdict (State × List Byte × Bool) :=
  if s.onHole a addr 128 then .ok (s, List.replicate 128 0, true)
  else match s.agentRead a addr 128 with
    | .error v => .error v
    | .ok (s, bs) => .ok (s, bs, false)

/-- A ray's next steps, one visit each; without a port a procedural leaf is skipped unread (R283 3). -/
def State.traverse (s : State) (a : Acc) (port : Bool) : Nat → Ray → RayNext → State × RayEnd
  | 0, _, _ => (s, .lost)
  | _ + 1, _, .stop e => (s, e)
  | n + 1, r, .pop =>
    match r.stack with
    | [] => (s, .done r none)
    | e :: rest =>
      let r := { r with stack := rest }
      s.traverse a port n (if e.obj then r else r.toWorld) (.visit e.addr 1 e.kids)
  | n + 1, r, .visit addr kind kids =>
    if kind = 3 ∧ port = false then s.traverse a port n r .pop
    else if addr % 128 ≠ 0 then (s, .done r (some addr))
    else match s.nodeFetch a addr with
      | .error v => (s, .failed r v addr)
      | .ok (s, bs, hole) =>
        let x := { r with nr := r.nr || hole }.visit port addr kind kids bs
        s.traverse a port n x.1 x.2

/-- More visits than a ray has states: one that goes on for so many never ends (assumption 27, DEDUCED). -/
def maxVisits : Nat := 2 ^ 200 * 2 ^ 200 * 2 ^ 200 * 2 ^ 200 * 2 ^ 200 * 2 ^ 200 * 2 ^ 200

/-- The result of a ray that misses at once (R283 6, R298). -/
def Ray.miss (r : Ray) : Ray := { r with held := false, nr := false }

/-- A fetch before a ray goes on: its bytes, or how the ray ends. -/
def State.fetchFor (s : State) (a : Acc) (r : Ray) (addr : Nat) : Except (State × RayEnd) (State × List Byte × Ray) :=
  if addr % 128 ≠ 0 then .error (s, .done r (some addr))
  else match s.nodeFetch a addr with
    | .error v => .error (s, .failed r v addr)
    | .ok (s, bs, hole) => .ok (s, bs, { r with nr := r.nr || hole })

/-- The procedural hit of a resumption (R292 2). -/
def State.recordHit (s : State) (a : Acc) (r : Ray) (t : Word) : Except (State × RayEnd) (State × Ray) :=
  if (f32.decode t.toNat).isNan || !(decide (boundOf r.tmin ≤ boundOf t) && decide (boundOf t < boundOf r.tmax)) then .ok (s, r)
  else
    match s.fetchFor a r r.leaf with
    | .error e => .error e
    | .ok (s, bs, r) =>
      let id : Except (State × RayEnd) (State × Word × Ray) :=
        if r.inst = 0 then .ok (s, noInst, r)
        else match s.fetchFor a r r.inst with
          | .error e => .error e
          | .ok (s, is, r) => .ok (s, wordAt is 104, r)
      match id with
      | .error e => .error e
      | .ok (s, iid, r) =>
        let r := { r with tmax := t, u := 0, v := 0, kind := 2, held := true, back := false, prim := wordAt bs 0, iid := iid }
        if r.first then .error (s, .done r none) else .ok (s, r)

/-- The object space of a resumed ray whose next entry lies in an instance: its matrix is read again; an instance that
contributes no hit is left (R283 4, 6). -/
def State.reenter (s : State) (a : Acc) (r : Ray) : Except (State × RayEnd) (State × Ray) :=
  if r.inInst && (r.stack.head?.map (·.obj)).getD false then
    match s.fetchFor a r r.inst with
    | .error e => .error e
    | .ok (s, bs, r) =>
      match r.enter r.inst bs with
      | some r' => .ok (s, r')
      | none => .ok (s, { r with stack := r.stack.dropWhile (·.obj) })
  else .ok (s, r)

/-- A whole traversal (R283, R292): of a new ray from its root, or of a resumed one with its t. -/
def State.rayRun (s : State) (a : Acc) (port : Bool) (ws : List Word) (resume : Option Word) : State × RayEnd :=
  let r := Ray.ofState ws
  match resume with
  | none =>
    if r.finite = false then (s, .done r.miss none) else s.traverse a port maxVisits r (.visit r.root 1 255)
  | some t =>
    if stateBad ws then (s, .done r.miss (some 0))
    else if r.finite = false then (s, .done r.miss none)
    else match s.recordHit a r t with
      | .error e => e
      | .ok (s, r) =>
        match s.reenter a r with
        | .error e => e
        | .ok (s, r) => s.traverse a port maxVisits r .pop

/-! ## Results (R292, R298) -/

/-- The eight result registers. With FIRST, only hit or miss is defined (R283), with what R298 says of a procedural hit: the rest are
free values (assumption 12, DESIGN CHOICE). -/
def State.rayResult (s : State) (r : Ray) (fault : Option Nat) (prim : Option Word) : List Word :=
  let addr := fault.getD 0
  let kind := match prim with
    | some _ => 3
    | none => if r.held then r.kind else 0
  let flags := fault.isSome.toNat * 4 + (r.held && r.back).toNat * 8 + r.nr.toNat * 16
  let tail := [BitVec.ofNat 32 addr, BitVec.ofNat 32 (addr / 2 ^ 32 % 2 ^ 25)]
  let free := fun k => (Config.free s.freeCtr k).setWidth 32
  if r.first && prim.isNone && fault.isNone then
    if kind = 0 then [0x7F800000, 0, 0, 0, noInst, BitVec.ofNat 32 ((free 5).toNat / 16 % 2 * 16)] ++ tail
    else [free 0, free 1, free 2, if kind = 2 then r.prim else free 3, if kind = 2 && r.inst == 0 then noInst else free 4, BitVec.ofNat 32 (kind + (free 5).toNat / 8 % 4 * 8)] ++ tail
  else
    [if r.held then r.tmax else 0x7F800000, if r.held then r.u else 0, if r.held then r.v else 0,
     prim.getD (if r.held then r.prim else 0), if r.held then r.iid else noInst, BitVec.ofNat 32 (kind + flags)] ++ tail

/-! ## `trace` and `trace.resume` -/

/-- The issue checks of both (R292): true for an illegal one. -/
def State.traceBad (s : State) (c : Cur) (port : Option Nat) : Bool :=
  match port with
  | none => false
  | some k =>
    match (s.openPort c k).bind s.spool? with
    | none => true
    | some x => decide (x.ssz < 128)

/-- The thread of a trace and its outstanding results (R285: interlocked, counted in no slot). -/
def State.startTrace (s : State) (c : Cur) (i : Instr) (port : Option Nat) (d : Nat) (act : Mask) (rays : List RayState) : State :=
  let s := s.fork c none (.trace port d rays)
  let p := s.panel c
  s.setPanel c { p with
    outst := p.outst ++ [{ slot := none, quads := lanesQuads act, keys := p.writesKeys (0, 1) i, issued := s.cycle, instr := i, pc := p.pc
                           gen := (s.laneAcc c).gen, active := act, asked := [], held := [], got := [] }] }

/-- `trace` (R292) (assumption 46, DEDUCED). -/
def execTrace (port : Option Nat) (rmask : Byte) (cullb first : Bool) (d a : Nat) (root : GSrc) (s : State) : Out :=
  issue (.trace port rmask cullb first d a root) s fun c s =>
    let l := s.plainLanes c
    let x := (l.p.gsrc root).toNat
    let ray := fun j =>
      let reg := fun k => (l.w.vreg (a + k)).getD j 0
      { lane := j, resume := none, done := false
        words := [reg 0, reg 1, reg 2, reg 4, reg 5, reg 6, reg 3, reg 7] ++ wordPair x ++ List.replicate 8 0 ++
          [BitVec.ofNat 32 (cullb.toNat + first.toNat * 2 + rmask.toNat * 2 ^ 8), BitVec.ofNat 32 j] ++ List.replicate 12 0 }
    if s.traceBad c port ∨ x % 128 ≠ 0 then illegal c s
    else if l.act = 0 then finish c s
    else if 2 ^ 57 ≤ x then trapTo c { cause := 0x10, info := 3, addr := x } s
    else finish c (s.startTrace c (.trace port rmask cullb first d a root) port d l.act ((activeLanes l.act).map ray))

/-- `trace.resume` (R292). -/
def execTraceResume (port : Option Nat) (d a : Nat) (t : Src) (s : State) : Out :=
  issue (.traceResume port d a t) s fun c s => withLanes (.traceResume port d a t) c s fun l s =>
    let ray := fun j =>
      { lane := j, resume := some (l.a32 t j), done := false
        words := (List.range 32).map fun k => (l.w.vreg (a + k)).getD j 0 }
    if s.traceBad c port then illegal c s
    else
      let s := s.setPanel c ((s.panel c).advanceStreams l.w.width (usesOf (.traceResume port d a t)).srcStreams)
      if l.act = 0 then finish c s
      else finish c (s.startTrace c (.traceResume port d a t) port d l.act ((activeLanes l.act).map ray))

/-- The panel of a wave that holds a quad. -/
def Wave.panelOf (w : Wave) (q : Nat) : Option Nat := w.entries.find? fun e => (w.panel e).qmask.getLsbD q

/-- The result of an earlier trace is complete for a quad (R143). -/
def Panel.traceDone (p : Panel) (d q : Nat) : Panel :=
  { p with outst := (p.outst.map fun x =>
      match x.instr with
      | .trace _ _ _ _ d' _ _ => if d' = d then { x with quads := x.quads &&& ~~~ BitVec.twoPow 16 q } else x
      | .traceResume _ d' _ _ => if d' = d then { x with quads := x.quads &&& ~~~ BitVec.twoPow 16 q } else x
      | _ => x).filter fun x => x.quads != 0 }

/-- Writes a lane's results and marks its ray done; the last ray completes the thread. -/
def State.deliverRay (s : State) (tid : Nat) (t : Thread) (port : Option Nat) (d lane : Nat) (rays : List RayState)
    (words : List Word) : State :=
  let rays := rays.map fun x => if x.lane = lane then { x with done := true } else x
  let w := s.wave t.wid
  let w := (List.range 8).foldl (fun w k => w.setV (d + k) (BitVec.twoPow 64 lane) fun _ => words.getD k 0) w
  let quadDone := rays.all fun x => x.done || x.lane / 4 != lane / 4
  let w := match quadDone, w.panelOf (lane / 4) with
    | true, some e => w.setPanel e ((w.panel e).traceDone d (lane / 4))
    | _, _ => w
  let s := (s.setWave t.wid w).bumpFree
  if rays.all (·.done) then s.endThread tid else s.setEngine tid (.trace port d rays)

/-- The spool that a thread's requests go to. -/
def State.requestSpool (s : State) (t : Thread) (port : Option Nat) : Option Nat :=
  match port, s.threadWg t with
  | some k, some n => ((s.wg? n).getD emptyWg).outPorts.getD k none
  | _, _ => none

/-- The record of an intersection request (R265, R283 3). -/
def requestRecord (r : Ray) : Record :=
  { seq := 0, kind := 0x30, lmask := 0, fault := false, eos := false, words := r.toState, ticket := none }

/-- What comes of a traversal of a lane's ray; none while the ray is held or its request waits for room (R284, R292). -/
def State.rayOutcome (s : State) (tid : Nat) (t : Thread) (port : Option Nat) (d lane : Nat) (rays : List RayState) :
    RayEnd → Option State
  | .done r fault => some (s.deliverRay tid t port d lane rays (s.rayResult r fault none))
  | .suspended r prim =>
    (match s.requestSpool t port with
     | none => none
     | some k =>
       if s.fits k 1 = false then none
       else
         let s := (s.releaseL1 t.core).placeRecords k [requestRecord r]
         some (s.deliverRay tid t port d lane rays (s.rayResult r none (some prim))))
  | .failed _ (.ends code) _ => some (s.endGang t.gid code)
  | .failed _ _ _ => none
  | .lost => none

/-- The first fetch of a ray. -/
def State.rayTouches (s : State) (t : Thread) (port : Option Nat) (x : RayState) : Option (Bool × Nat) :=
  match (s.rayRun t.nowhere.acc port.isSome x.words x.resume).2 with
  | .failed _ v _ => v.access
  | _ => none

/-- A ray's traversal completes or suspends and its results are written (R283, R292). -/
def execTraversalComplete (tid lane : Nat) (s : State) : Out :=
  match s.thread? tid with
  | some t =>
    (match t.engine with
     | .trace port d rays =>
       (match rays.find? fun x => x.lane == lane && !x.done with
        | some x =>
          if (s.threadRuns t && (s.fresh t || (s.rayTouches t port x).isNone)) = false then .next s
          else
            let r := s.rayRun t.acc port.isSome x.words x.resume
            .next ((r.1.rayOutcome tid t port d lane rays r.2).getD s)
        | none => .next s)
     | _ => .next s)
  | none => .next s

/-! ## Fixed nodes (R257, R264) -/

/-- The cluster that a fixed node runs in (R257). -/
def Node.cluster (n : Node) : Nat := if n.kind = .raster then n.place else clusterOf n.place

/-- The accesses of a fixed node: no core issues it, so they go through no L1 (R132) and the TLB of its cluster (assumption 48,
DEDUCED). -/
def State.nodeAcc (s : State) (n : Node) : Acc :=
  match s.launch? n.lid with
  | none => { core := none, part := 0, asn := 0, gen := 0 }
  | some l => { core := none, part := l.part, asn := l.asn, gen := s.genOf l.part l.asn, clus := some n.cluster }

/-- A dropped record of a fixed node sets FLT on each of its out-spools (R264). -/
def State.faultOutputs (s : State) (n : Node) : State :=
  n.outs.foldl (fun s k => match k with
    | none => s
    | some k => (s.replicas k).foldl (fun s k => s.noteSpool k (false, true)) s) s

/-- A fixed node has met its end-of-stream record: its outputs close, with fault if the record says so, and it retires
(R264, R257). -/
def State.retireNode (s : State) (nid : Nat) (n : Node) (fault : Bool) : State :=
  let s := n.outs.foldl (fun s k => match k with
    | none => s
    | some k => s.closeSpool k fault) s
  (s.putNode nid { n with closed := true }).nodeRetired n.lid

/-- The record that a fixed node takes next from its in-port 0; with no spool there, nothing is left to come (R257). -/
def State.nodeRecord (s : State) (nid : Nat) (n : Node) : Option (Nat × Record) :=
  match n.ins.getD 0 none with
  | none => some (0, endOfStream false)
  | some k =>
    if s.reachable k then ((s.spool? k).bind fun x => (x.ahead nid).head?).map fun r => (k, r) else none

/-- Places a record on an out-port of a node, if there is room; an unbound port takes nothing. -/
def State.nodeEmit (s : State) (n : Node) (port : Nat) (r : Record) : Option State :=
  match n.outs.getD port none with
  | none => some s
  | some k => if s.fits k 1 then some (s.placeRecords k [r]) else none

/-- A step of a fixed node: done, not possible now, or stopped by an access. -/
abbrev NodeStep := Except (Option Verdict) State

def orWait : Option State → NodeStep
  | some s => .ok s
  | none => .error none

/-- The ray of a `trav` node's record: state words and t (R282, R265). -/
def Record.ray (r : Record) : List Word × Option Word :=
  if r.kind = 0x20 then
    let x := Config.rayRecord r.words
    let f := (x.getD 10 0).toNat
    ([x.getD 0 0, x.getD 1 0, x.getD 2 0, x.getD 4 0, x.getD 5 0, x.getD 6 0, x.getD 3 0, x.getD 7 0, x.getD 8 0, x.getD 9 0] ++
       List.replicate 8 0 ++
       [BitVec.ofNat 32 (bits 19 19 f + bits 18 18 f * 2 + bits 27 20 f * 2 ^ 8), r.words.getD 11 0] ++ List.replicate 12 0, none)
  else
    let x := Config.resumption r.words
    ((List.range 32).map fun k => x.1.getD k 0, some x.2)

/-- The hit record of a ray that is complete (R265). -/
def State.hitRecord (s : State) (r : Ray) (fault : Option Nat) : Record :=
  { seq := 0, kind := 0x22, lmask := 0, fault := false, eos := false, ticket := none
    words := (List.range 9).map fun k => (Config.hitRecord (s.rayResult r fault none) r.tag).getD k 0 }

def State.travHit (s : State) (n : Node) (r : Ray) (fault : Option Nat) : Option State :=
  s.bumpFree.nodeEmit n 0 (s.hitRecord r fault)

/-- A `trav` node's next step (R257, R264, R265, R283): a hit of a fetch that cannot be serviced goes first (R284). -/
def State.travStep (s : State) (nid : Nat) (n : Node) : NodeStep :=
  match n.heldRecords with
  | r :: rs => (orWait (s.nodeEmit n 0 r)).map fun s => s.putNode nid { n with heldRecords := rs }
  | [] =>
    match s.nodeRecord nid n with
    | none => .error none
    | some (k, r) =>
      if r.eos then .ok (s.retireNode nid n r.fault)
      else if r.fault ∨ (r.kind ≠ 0x20 ∧ r.kind ≠ 0x31) then .ok ((s.takeRecords k nid 1).faultOutputs n)
      else
        let x := s.rayRun (s.nodeAcc n) ((n.outs.getD 1 none).isSome) r.ray.1 r.ray.2
        match x.2 with
        | .done r fault => (orWait (x.1.travHit n r fault)).map fun s => s.takeRecords k nid 1
        | .suspended r _ => (orWait (x.1.nodeEmit n 1 (requestRecord r))).map fun s => s.takeRecords k nid 1
        | .failed r (.ends _) addr => (orWait (x.1.travHit n r (some addr))).map fun s => s.takeRecords k nid 1
        | .failed _ v _ => .error (some v)
        | .lost => .error none

/-- A fetch of a `trav` node cannot be serviced: its ray completes with FAULT and the address (R284). -/
def State.travFail (s : State) (nid : Nat) (n : Node) : State :=
  match s.nodeRecord nid n with
  | none => s
  | some (k, r) =>
    let ray := match (s.rayRun (s.nodeAcc n) ((n.outs.getD 1 none).isSome) r.ray.1 r.ray.2).2 with
      | .failed r _ _ => r
      | _ => Ray.ofState r.ray.1
    ((s.takeRecords k nid 1).putNode nid { n with heldRecords := [s.hitRecord ray (some n.heldAddr)] }).bumpFree

/-- A fixed node that can go on. -/
def Node.runs (n : Node) (kind : NodeKind) : Bool := n.kind == kind && !n.closed && n.held.isNone

/-- What follows from a fixed node's step: a failed access holds the node (R349), which is another event. -/
def nodeDone (s : State) : NodeStep → Out
  | .ok s => .next s
  | .error _ => .next s

/-- A turn of a fixed node of one kind. -/
def nodeTurn (kind : NodeKind) (nid : Nat) (s : State) (step : Node → NodeStep) : Out :=
  match s.node? nid with
  | some n => if n.runs kind then nodeDone s (step n) else .next s
  | none => .next s

/-- A `trav` node takes a record. -/
def execTravRay (nid : Nat) (s : State) : Out := nodeTurn .trav nid s (s.travStep nid)

end Sys2Proof.Machine
end

