-- ==== Sys2Proof/Machine/Raster.lean ====
section
/-! DEFINITION. The rasteriser and the blender (12 R267-R274, R279, 13 R294, 17 R333, R410). -/

namespace Sys2Proof.Machine

/-! ## Screen tiles (R270, R273) -/

/-- A workgroup of a pixel node of a pattern: one of its in-ports is fed by `raster`. -/
def State.pixelWg (s : State) (pat : Nat) (w : Workgroup) : Bool :=
  s.patternOf w.lid == pat && w.inPorts.any fun k => match k.bind s.spool? with
    | none => false
    | some x => x.fromRaster

/-- The tile-owning cores of a pattern, ascending (R333). -/
def State.tileCores (s : State) (pat : Nat) : List Nat :=
  (List.range 384).filter fun c => s.wgs.any fun e => e.2.core == c && s.pixelWg pat e.2

/-- The owner of a tile among the tile-owning cores (R270). -/
def tileOwner (cores : List Nat) (tx ty : Nat) : Option Nat :=
  let l := cores.filter fun c => c / 96 == tx % 2 + 2 * (ty % 2)
  l[(tx / 2 + 5 * (ty / 2)) % l.length]?

/-- The tiles of a surface that a core owns, in ascending (ty, tx) (R273). -/
def ownedTiles (cores : List Nat) (core e0 e1 : Nat) : List (Nat × Nat) :=
  (List.range ((e1 + 63) / 64)).flatMap fun ty => (List.range ((e0 + 63) / 64)).filterMap fun tx =>
    if tileOwner cores tx ty = some core then some (tx, ty) else none

/-- The surfaces that a pattern's fixed nodes work on (R269, R410). -/
def RasterState.surface (r : RasterState) : Layout := Layout.ofBytes 0 r.colour
def RasterState.depthSurface (r : RasterState) : Option Layout := r.depth.map (Layout.ofBytes 0)

/-- The extents within which pixels are covered (R274). -/
def RasterState.extent (r : RasterState) (k : Nat) : Nat :=
  let e := r.surface.levelExt 0 k
  match r.depthSurface with
  | none => e
  | some d => Nat.min e (d.levelExt 0 k)

/-! ## Triangle set-up (R271) -/

/-- A vertex on the screen: X and Y in 1/256 pixel, Z, and w. -/
structure ScreenVertex where
  x : Int
  y : Int
  z : Rat
  w : Rat
  deriving Repr

def f64Rat (x : DWord) : Rat := (f64.decode x.toNat).finiteRat

/-- x / y rounded to a format, if finite. -/
def FloatFmt.quotRat (f : FloatFmt) (x y : Rat) : Option Rat :=
  match f.decode (f.roundX .rne (XVal.ofRat (x / y))).1 with
  | .fin s m e => some (FVal.toRat (.fin s m e))
  | _ => none

/-- The exact value of a finite code. -/
def FloatFmt.ratOf (f : FloatFmt) (code : Nat) : Option Rat :=
  match f.decode code with
  | .fin s m e => some (FVal.toRat (.fin s m e))
  | _ => none

/-- The snapped vertex, or none where the triangle is dropped (R271 1, 2). -/
def RasterState.vertex (r : RasterState) (f : FloatFmt) (cs : List Nat) : Option ScreenVertex := do
  let x ← f.ratOf (cs.getD 0 0)
  let y ← f.ratOf (cs.getD 1 0)
  let z ← f.ratOf (cs.getD 2 0)
  let w ← f.ratOf (cs.getD 3 0)
  if w ≤ 0 then none
  else
    let q ← f.quotRat x w
    let p ← f.quotRat y w
    let depth ← f32.quotRat z w
    let sx := (XVal.ofRat ((q * f64Rat r.sx + f64Rat r.ox) * 256)).roundInt
    let sy := (XVal.ofRat ((p * f64Rat r.sy + f64Rat r.oy) * 256)).roundInt
    if sx < -2 ^ 23 ∨ 2 ^ 23 ≤ sx ∨ sy < -2 ^ 23 ∨ 2 ^ 23 ≤ sy then none
    else some { x := sx, y := sy, z := depth, w := w }

/-- An edge, clockwise, that faces a vertex: a point on it, its direction, and whether it is a top or left edge. -/
structure Edge where
  x : Int
  y : Int
  dx : Int
  dy : Int
  top : Bool
  deriving Repr

/-- A triangle ready for coverage. -/
structure Setup where
  vs : List ScreenVertex
  edges : List Edge
  area : Int
  id : Word
  pseq : Nat
  deriving Repr

def zeroVertex : ScreenVertex := { x := 0, y := 0, z := 0, w := 1 }

/-- The set-up of a triangle record, or none where it is dropped (R269, R271) (assumption 71, DEDUCED). -/
def RasterState.setup (r : RasterState) (t : Record) : Option Setup := do
  let wide := t.kind == 2
  let coord := fun i =>
    if wide then (t.words.getD (2 * i) 0).toNat + (t.words.getD (2 * i + 1) 0).toNat * 2 ^ 32 else (t.words.getD i 0).toNat
  let f := if wide then f64 else f32
  let a ← r.vertex f ((List.range 4).map coord)
  let b ← r.vertex f ((List.range 4).map fun i => coord (4 + i))
  let c ← r.vertex f ((List.range 4).map fun i => coord (8 + i))
  let area := (b.x - a.x) * (c.y - a.y) - (c.x - a.x) * (b.y - a.y)
  let front := decide (0 < area) == r.fcw
  if area = 0 ∨ (r.cull = 1 ∧ front = false) ∨ (r.cull = 2 ∧ front = true) then none
  else
    let k : Int := if 0 < area then 1 else -1
    let edge := fun (p q : ScreenVertex) =>
      let dx := k * (q.x - p.x)
      let dy := k * (q.y - p.y)
      ({ x := p.x, y := p.y, dx := dx, dy := dy, top := (dy == 0 && decide (0 < dx)) || decide (dy < 0) } : Edge)
    some { vs := [a, b, c], edges := [edge b c, edge c a, edge a b], area := area.natAbs
           id := t.words.getD (if wide then 24 else 12) 0, pseq := t.seq % 2 ^ 32 }

/-- The edge values at a pixel's centre: the weights of the vertices. -/
def Setup.weights (t : Setup) (x y : Nat) : List Int :=
  t.edges.map fun e => e.dx * (256 * (y : Int) + 128 - e.y) - e.dy * (256 * (x : Int) + 128 - e.x)

/-- The interpolated Z (R271 4). -/
def Setup.depthAt (t : Setup) (x y : Nat) : Rat :=
  (((t.weights x y).zip t.vs).map fun e => (e.1 : Rat) * e.2.z).foldl (· + ·) 0 / (t.area : Rat)

/-- A pixel is covered (R271 3, R274). -/
def Setup.covers (t : Setup) (r : RasterState) (x y : Nat) : Bool :=
  decide (x < r.extent 0) && decide (y < r.extent 1) &&
  (((t.weights x y).zip t.edges).all fun e => decide (0 < e.1) || (e.1 == 0 && e.2.top)) &&
  decide (0 ≤ t.depthAt x y) && decide (t.depthAt x y ≤ 1)

/-- The perspective-correct barycentric of vertex k (R271 4). -/
def Setup.bary (t : Setup) (x y k : Nat) : Word :=
  let ws := ((t.weights x y).zip t.vs).map fun e => (e.1 : Rat) / e.2.w
  let sum := ws.foldl (· + ·) 0
  if sum = 0 then 0 else roundWord (ws.getD k 0 / sum)

/-- The record of a quad (R271 5, R267), with its ticket (R272). -/
def Setup.quad (t : Setup) (r : RasterState) (x y : Nat) : Option Record :=
  let px := fun j => (x + j % 2, y + j / 2)
  let cover := BitVec.ofBoolListLE ((List.range 4).map fun j => t.covers r (px j).1 (px j).2)
  let z := (List.range 4).map fun j => roundWord (t.depthAt (px j).1 (px j).2)
  if (cover : BitVec 4) = 0 then none
  else
    some { seq := 0, kind := 0x10, lmask := cover, fault := false, eos := false
           words := ((List.range 4).map fun j => BitVec.ofNat 32 ((px j).1 % 2 ^ 16 + (px j).2 % 2 ^ 16 * 2 ^ 16)) ++ z ++
             ((List.range 4).map fun j => t.bary (px j).1 (px j).2 1) ++
             ((List.range 4).map fun j => t.bary (px j).1 (px j).2 2) ++ List.replicate 4 t.id
           ticket := some { tile := (x / 64, y / 64), x := x, y := y, pseq := t.pseq, z := z, coverage := cover } }

/-- The first and last pixel that a triangle can cover along an axis, within an extent. -/
def Setup.span (t : Setup) (f : ScreenVertex → Int) (e : Nat) : Nat × Nat :=
  let l := t.vs.map f
  let lo := l.foldl min (l.headD 0)
  let hi := l.foldl max (l.headD 0)
  ((lo / 256).toNat, Nat.min (e - 1) (hi / 256).toNat)

/-- The quads of a triangle on the tiles of some cores, tile by tile (R270, R271). -/
def Setup.quads (t : Setup) (r : RasterState) (owns : Nat → Nat → Bool) : List Record :=
  let sx := t.span (·.x) (r.extent 0)
  let sy := t.span (·.y) (r.extent 1)
  let tiles := fun (p : Nat × Nat) => (List.range (p.2 / 64 + 1)).filter fun k => decide (p.1 / 64 ≤ k)
  let rows := fun (p : Nat × Nat) k => (List.range 32).filterMap fun i =>
    let v := 64 * k + 2 * i
    if v + 1 < p.1 ∨ p.2 < v then none else some v
  (tiles sy).flatMap fun ty => (tiles sx).flatMap fun tx =>
    if owns tx ty then (rows sy ty).flatMap fun y => (rows sx tx).filterMap fun x => t.quad r x y else []

/-! ## `raster` -/

/-- The share of a raster instance's quad spool that goes to a core (assumption 49, DEDUCED), or a spool without shares. -/
def State.shareOf (s : State) (n : Node) (core : Nat) : Option Nat :=
  (n.outs.find? fun k => match k.bind s.spool? with
    | none => false
    | some x => x.die.isNone || x.die == some core).join

/-- Places quads while they fit; those that remain. -/
def State.placeQuads (s : State) (n : Node) (cores : List Nat) : List Record → State × List Record
  | [] => (s, [])
  | r :: rs =>
    match (r.ticket.bind fun t => tileOwner cores t.tile.1 t.tile.2).bind (s.shareOf n) with
    | none => s.placeQuads n cores rs
    | some k => if s.fits k 1 then (s.placeRecords k [r]).placeQuads n cores rs else (s, r :: rs)

/-- Where a raster instance stands after it has placed what fits. -/
def State.rasterPlace (s : State) (nid : Nat) (n : Node) (rs : List Record) : State :=
  let x := s.placeQuads n (s.tileCores n.lid) rs
  match x.1.node? nid with
  | none => x.1
  | some n => x.1.putNode nid { n with heldRecords := x.2 }

/-- A raster instance's next step (R271, R264). -/
def State.rasterStep (s : State) (nid : Nat) (n : Node) : NodeStep :=
  if n.heldRecords.isEmpty = false then
    if (s.placeQuads n (s.tileCores n.lid) n.heldRecords).2.length = n.heldRecords.length then .error none
    else .ok (s.rasterPlace nid n n.heldRecords)
  else match s.nodeRecord nid n, n.state with
    | some (k, r), some st =>
      if r.eos then .ok (s.retireNode nid n r.fault)
      else if r.fault ∨ (r.kind ≠ 1 ∧ r.kind ≠ 2) then .ok ((s.takeRecords k nid 1).faultOutputs n)
      else
        let cores := s.tileCores n.lid
        let owns := fun tx ty => match tileOwner cores tx ty with
          | none => false
          | some c => clusterOf c == n.place
        let quads := match st.setup r with
          | none => []
          | some t => t.quads st owns
        .ok ((s.takeRecords k nid 1).rasterPlace nid n quads)
    | _, _ => .error none

/-- A raster instance sets up a triangle and emits its quads (R271). -/
def execRasterTriangle (nid : Nat) (s : State) : Out :=
  nodeTurn .raster nid s (s.rasterStep nid)

/-! ## Tiles on the core (R273, R274) -/

/-- The pixel-node workgroup of a core, which holds its tiles. -/
def State.pixelWgOn (s : State) (pat core : Nat) : Option Workgroup :=
  (s.wgs.find? fun e => e.2.core == core && s.pixelWg pat e.2).map (·.2)

/-- Where a tile lies in the A store of its owner (R273). -/
def State.tileAt (s : State) (n : Node) (st : RasterState) (tile : Nat × Nat) : Nat :=
  let tiles := ownedTiles (s.tileCores n.lid) n.place (st.surface.levelExt 0 0) (st.surface.levelExt 0 1)
  ((s.pixelWgOn n.lid n.place).getD emptyWg).abase + 32768 * tiles.idxOf tile

/-- The blocks of a tile that hold a pixel within the extents: block number, and its corner in the tile (R274). -/
def tileBlocks (r : Layout) (tile : Nat × Nat) : List (Nat × Nat × Nat) :=
  (List.range 8).flatMap fun by' => (List.range 8).filterMap fun bx =>
    let x := 64 * tile.1 + 8 * bx
    let y := 64 * tile.2 + 8 * by'
    if x < r.levelExt 0 0 ∧ y < r.levelExt 0 1 then some (r.blockOf x y 0, 8 * bx, 8 * by') else none

/-- The raw bytes of a block of the colour surface. -/
def State.surfaceRead (s : State) (a : Acc) (r : Layout) (b : Nat) : Except Verdict (State × List Byte) :=
  if r.cmp then (s.blockRead a r b).map fun x => (x.1, x.2.2) else s.agentRead a (r.blockAddr b) 256

/-- Loads the blocks of a tile's colour (R273). -/
def State.loadBlocks (s : State) (a : Acc) (r : Layout) (core ofs : Nat) : List (Nat × Nat × Nat) → Except Verdict State
  | [] => .ok s
  | (b, x, y) :: l =>
    match s.surfaceRead a r b with
    | .error v => .error v
    | .ok (s, raw) =>
      let s := (List.range 8).foldl (fun s i =>
        s.writeUnchecked core (ofs + 16384 + 256 * (y + i) + 4 * x) ((raw.drop (32 * i)).take 32)) s
      s.loadBlocks a r core ofs l

/-- The first touch of a tile: its colour is loaded, its depth filled (R273) (assumption 50, DEDUCED). -/
def State.touchTile (s : State) (nid : Nat) (n : Node) (st : RasterState) (tile : Nat × Nat) : Except Verdict State :=
  if n.touched.contains tile then .ok s
  else
    let ofs := s.tileAt n st tile
    match s.loadBlocks (s.nodeAcc n) st.surface n.place ofs (tileBlocks st.surface tile) with
    | .error v => .error v
    | .ok s =>
      let s := match st.depthSurface with
        | none => s
        | some d => s.writeUnchecked n.place ofs ((List.range 4096).flatMap fun _ => d.clear.take 4)
      match s.node? nid with
      | none => .ok s
      | some n => .ok (s.putNode nid { n with touched := n.touched ++ [tile] })

/-- Writes the blocks of a tile's colour to the surface, encoded where it is compressed (R273, R279, R294). -/
def State.storeBlocks (s : State) (a : Acc) (r : Layout) (core ofs : Nat) : List (Nat × Nat × Nat) → Except Verdict State
  | [] => .ok s
  | (b, x, y) :: l =>
    let raw := (List.range 8).flatMap fun i => s.readStore .a core (ofs + 16384 + 256 * (y + i) + 4 * x) 32
    let e := if r.cmp then encodeBlock raw else (0, raw)
    match s.agentWrite a (r.blockAddr b) e.2 with
    | .error v => .error v
    | .ok s =>
      match if r.cmp then s.agentWrite a (r.cmeta + b) [BitVec.ofNat 8 e.1] else .ok s with
      | .error v => .error v
      | .ok s => s.storeBlocks a r core ofs l

def State.storeTiles (s : State) (n : Node) (st : RasterState) : List (Nat × Nat) → Except Verdict State
  | [] => .ok s
  | t :: ts =>
    match s.storeBlocks (s.nodeAcc n) st.surface n.place (s.tileAt n st t) (tileBlocks st.surface t) with
    | .error v => .error v
    | .ok s => s.storeTiles n st ts

/-! ## `blend` (R272) -/

/-- DFUNC (R277). -/
def depthPasses (f : Nat) (z stored : Rat) : Bool :=
  match f with
  | 0 => false
  | 1 => decide (z < stored)
  | 2 => z == stored
  | 3 => decide (z ≤ stored)
  | 4 => decide (stored < z)
  | 5 => z != stored
  | 6 => decide (stored ≤ z)
  | _ => true

/-- The stored depth after a pass with DWRITE (R272 1). -/
def storeDepth (fmt old : Nat) (z : Word) : Nat :=
  if fmt = 0x4A then z.toNat
  else setBits old 0 24 ((XVal.ofRat (ratOfWord z * ((2 ^ 24 - 1 : Nat) : Rat))).roundInt).toNat

/-- A blend factor (R277). -/
def blendFactor (k : Nat) (srcA dstA : Rat) : Rat :=
  match k with
  | 0 => 0
  | 1 => 1
  | 2 => srcA
  | 3 => 1 - srcA
  | 4 => dstA
  | _ => 1 - dstA

/-- x = src·SF ∘ dst·DF (R272 2). -/
def blendChannels (r : Layout) (src dst : List XVal) : List XVal :=
  let alpha := fun (l : List XVal) => (l.getD 3 (XVal.ofRat 1)).rat
  let sf := blendFactor r.srcFactor (alpha src) (alpha dst)
  let df := blendFactor r.dstFactor (alpha src) (alpha dst)
  (src.zip dst).map fun e =>
    let a := e.1.scale sf
    let b := e.2.scale df
    if r.blendOp = 0 then a.add b else if r.blendOp = 1 then a.sub b else b.sub a

/-- The source colour of lane j of a record (R268). -/
def sourceColour (fmt : Nat) (four : Bool) (words : List Word) (j : Nat) : List XVal :=
  if four then (List.range 4).map fun i => XVal.ofRat (f32.decode (words.getD (4 * i + j) 0).toNat).toRat
  else decodeTexel fmt (words.getD j 0).toNat

/-- Applies a record to one of its pixels (R272). -/
def State.blendPixel (s : State) (n : Node) (st : RasterState) (ofs : Nat) (t : Ticket) (words : List Word) (j : Nat) : State :=
  let x := (t.x + j % 2) % 64
  let y := (t.y + j / 2) % 64
  let dz := ofs + 256 * y + 4 * x
  let dc := ofs + 16384 + 256 * y + 4 * x
  let old := ofBytes (s.readStore .a n.place dz 4)
  let z := t.z.getD j 0
  let pass := match st.depthSurface with
    | none => true
    | some d => depthPasses d.dfunc (ratOfWord z) ((decodeTexel d.fmt old).getD 0 (XVal.ofRat 0)).rat
  if pass = false then s
  else
    let s := match st.depthSurface with
      | none => s
      | some d => if d.dwrite then s.writeUnchecked n.place dz (toBytes 4 (storeDepth d.fmt old z)) else s
    let r := st.surface
    let c := ofBytes (s.readStore .a n.place dc 4)
    let xs := blendChannels r (sourceColour r.fmt t.four words j) (decodeTexel r.fmt c)
    s.writeUnchecked n.place dc (toBytes 4 (encodeTexel r.fmt c r.wmask xs))

/-- A ticket of lower PSEQ that covers lane j's pixel of another. -/
def Ticket.before (u t : Ticket) (j : Nat) : Bool :=
  u.x == t.x && u.y == t.y && decide (u.pseq < t.pseq) && u.coverage.getLsbD j

/-- The tickets of a pattern's pixel quads that are not settled: in its waves, and in quad spools. -/
def State.openTickets (s : State) (pat core : Nat) : List Ticket :=
  (s.waves.flatMap fun e =>
    match s.wg? e.2.wg with
    | none => []
    | some w => if e.2.alive && w.core == core && s.patternOf w.lid == pat then e.2.tickets.map (·.2) else []) ++
  (s.spools.flatMap fun e => if e.2.lid == pat && e.2.fromRaster then e.2.tickets.map (·.2) else [])

/-- A record that a blender has not applied and that comes before another at a pixel. -/
def Record.before (r : Record) (t : Ticket) (j : Nat) : Bool :=
  match r.ticket with
  | none => false
  | some u => u.before t j && r.lmask.getLsbD j

/-- A record can be applied: nothing of lower PSEQ is open at any of its pixels (R272). -/
def blendable (tickets : List Ticket) (records : List Record) (r : Record) : Bool :=
  match r.ticket with
  | none => true
  | some t => (List.range 4).all fun j => !r.lmask.getLsbD j ||
      !((tickets.any fun u => u.before t j) || records.any fun x => x.before t j)

/-- The records that the blender's spool still holds for it. -/
def State.blendQueue (s : State) (nid : Nat) (n : Node) : List Record :=
  match (n.ins.getD 0 none).bind s.spool? with
  | none => []
  | some x => (x.ahead nid).filter fun r => !r.eos

/-- Applies a record that may go, and forgets it. -/
def State.blendApply (s : State) (nid : Nat) (n : Node) (st : RasterState) (r : Record) : Except Verdict State :=
  let drop := fun (s : State) => match s.node? nid with
    | none => s
    | some n => s.putNode nid { n with heldRecords := n.heldRecords.erase r }
  match r.ticket with
  | none => .ok (drop s)
  | some t =>
    match s.touchTile nid n st t.tile with
    | .error v => .error v
    | .ok s =>
      let ofs := s.tileAt n st t.tile
      .ok (drop ((List.range 4).foldl (fun s j => if r.lmask.getLsbD j then s.blendPixel n st ofs t r.words j else s) s))

/-- A blender's next step: it applies a held record whose turn has come, or takes the next record from its spool
(R272, R264). `fail`: a record whose tile cannot be loaded is dropped (assumption 28, DEDUCED). -/
def State.blendStep (s : State) (nid : Nat) (n : Node) (fail : Bool) : NodeStep :=
  match n.state with
  | none => .error none
  | some st =>
    let queue := s.blendQueue nid n
    let tickets := s.openTickets n.lid n.place
    match n.heldRecords.find? (blendable tickets (n.heldRecords ++ queue)) with
    | some r =>
      (match s.blendApply nid n st r with
       | .ok s => .ok s
       | .error (.ends _) => .ok (s.putNode nid { n with heldRecords := n.heldRecords.erase r })
       | .error v => if fail then .ok (s.putNode nid { n with heldRecords := n.heldRecords.erase r }) else .error (some v))
    | none =>
      match s.nodeRecord nid n with
      | none => .error none
      | some (k, r) =>
        if r.eos then .error none
        else
          let s := s.takeRecords k nid 1
          if r.fault ∨ r.kind ≠ 0x11 then .ok s else .ok (s.putNode nid { n with heldRecords := n.heldRecords ++ [r] })

/-- The blender applies a colour record once lower tickets settle (R272). -/
def execBlendRecord (nid : Nat) (s : State) : Out :=
  nodeTurn .blend nid s fun n => s.blendStep nid n false

/-- A blender at end-of-stream with nothing held (R273). -/
def State.blendAtEnd (s : State) (nid : Nat) (n : Node) : Bool :=
  n.heldRecords.isEmpty && (match s.nodeRecord nid n with
    | some (_, r) => r.eos
    | none => false)

/-- The write-out of every touched tile; then the node retires (R273, R257). -/
def State.blendEnd (s : State) (nid : Nat) (n : Node) (fail : Bool) : NodeStep :=
  match n.state with
  | none => .error none
  | some st =>
    if s.blendAtEnd nid n = false then .error none
    else match s.storeTiles n st n.touched with
      | .ok s => .ok (s.retireNode nid n false)
      | .error (.ends _) => .ok (s.retireNode nid n false)
      | .error v => if fail then .ok (s.retireNode nid n false) else .error (some v)

/-- At end-of-stream the blender writes every touched tile to the surface (R273). -/
def execBlendEndOfStream (nid : Nat) (s : State) : Out :=
  nodeTurn .blend nid s fun n => s.blendEnd nid n false

end Sys2Proof.Machine
end

