-- ==== Sys2Proof/Machine/Queues.lean ====
section
/-! DEFINITION. Work queues: doorbells, the registers' writes, and packets (17 R325-R332, R340). -/

namespace Sys2Proof.Machine

/-! ## Registers and doorbells (R325, R326) -/

/-- May write the registers of a partition: firmware, or the partition's owner (R325, R343). -/
def mayWrite (w : Writer) (p : Nat) : Bool := w == .firmware || w == .owner p

/-- The reserved bits of QCFG read as zero (R325). -/
def qcfgKept (x : DWord) : DWord := x &&& 0xFFFF17FF

/-- QSTAT with an error code, where none is held (R325). -/
def qstatErr (q : DWord) (code : Nat) : DWord :=
  if bits 7 0 q.toNat = 0 then BitVec.ofNat 64 (q.toNat / 256 * 256 + code % 256) else q

/-- QCFG after a write of x by w (R325). -/
def Queue.writeCfg (q : Queue) (w : Writer) (x : DWord) : Queue :=
  let en := x.getLsbD 7
  let others := fun (y : DWord) => y &&& ~~~ 0x80#64
  let x := qcfgKept x
  let x := if bits 6 4 x.toNat = 0 ∧ w ≠ .firmware then x &&& ~~~ 0x70#64 ||| q.qcfg &&& 0x70 else x
  if q.en ∧ others x ≠ others q.qcfg then q
  else if en ∧ (4 < bits 6 4 x.toNat ∨ 12 < bits 3 0 x.toNat) then
    { q with qcfg := others x, qstat := qstatErr q.qstat 1 }
  else { q with qcfg := x }

/-- A write of QCFG (R325); EN = 1 wakes an idle module (R404). -/
def execQcfgWrite (who : Writer) (q : Nat) (val : DWord) (s : State) : Out :=
  let x := s.queue q
  if 8192 ≤ q then .next s
  else if mayWrite who x.part = false then .next s
  else
    let y := x.writeCfg who val
    .next (if val.getLsbD 7 then (s.setQueue q y).wakeUp else s.setQueue q y)

/-- A host's read of the doorbell page of a queue (R326): other bytes of the page have no stated value and read as zero
(assumption 101, DESIGN CHOICE). -/
def State.doorbellRead (s : State) (q ofs : Nat) : Word := if ofs = 0 then (s.queue q).qann else 0

/-- A host's write to the doorbell page of a queue (R326). -/
def execDoorbellWrite (q : Nat) (ofs : Nat) (val : Word) (s : State) : Out :=
  let x := s.queue q
  if 8192 ≤ q then .next s
  else if ofs ≠ 0 ∨ x.dpost = true then .next s
  else if x.slots < (val - x.qrd).toNat then
    .next (s.setQueue q { x with qstat := qstatErr x.qstat 3, qcfg := x.qcfg &&& ~~~ 0x80#64 })
  else .next (s.setQueue q { x with qput := val, qann := val })

/-! ## Packets (R328) -/

/-- The scheduler's accesses for a queue (R326, R349). -/
def State.queueAcc (s : State) (q : Nat) : Acc :=
  let x := s.queue q
  { core := none, part := x.part, asn := x.asn, gen := s.genOf x.part x.asn }

/-- What follows from a step of the scheduler: nothing where it is not possible now or an access stops it, which is another event
(R349). -/
def schedDone (s : State) : NodeStep → Out := nodeDone s

/-- The FENCE flag of a packet (R329, R332). -/
def fenceFlag (bs : List Byte) : Bool := (bs.getD 1 0).getLsbD 0

/-- A queue from which a packet can be taken or started. -/
def Queue.canGo (x : Queue) : Bool :=
  x.held.isNone && x.waitFor.isNone && (match x.taken with
    | some bs => !fenceFlag bs || decide (x.inFlight ≤ 1)
    | none => x.en && x.qrd != x.qann)

/-- The queue that the scheduler serves next: the highest class, then round-robin by number among those of the class (R340). -/
def State.nextQueue (s : State) : Option Nat :=
  let l := s.regs.queues.filter fun e => e.2.canGo
  let key := fun (e : Nat × Queue) => e.2.cls * 8192 + (e.1 + 8191 - Sparse.get 8191 s.served e.2.cls) % 8192
  match l with
  | [] => none
  | e :: es => some (es.foldl (fun b e => if key e < key b then e else b) e).1

/-- The next slot has been read: QRD passes it, and the packet is in flight (R326). -/
def State.passSlot (s : State) (q addr : Nat) : State :=
  let x := s.queue q
  { s.setQueue q { x with qrd := x.qrd + 1, inFlight := x.inFlight + 1, packet := addr } with
    served := Sparse.set 8191 s.served x.cls q }

/-- The queue's next slot lies in an address space with no valid entry: its launch is rejected unread (R344; assumption 102,
DESIGN CHOICE). -/
def State.slotless (s : State) (q : Nat) : Bool :=
  (s.queue q).taken.isNone && !s.asnOk (s.queue q).part (s.queue q).asn

/-- The packet that is at hand: its bytes and address, and the state in which it has been taken (R326). -/
def State.packetAt (s : State) (q : Nat) : Except (Option Verdict) (State × Nat × List Byte) :=
  let x := s.queue q
  if s.nextQueue ≠ some q ∨ s.slotless q then .error none
  else match x.taken with
    | some bs => .ok (s.setQueue q { x with taken := none }, x.packet, bs)
    | none =>
      let addr := x.slotAddr x.qrd.toNat % 2 ^ 64
      match s.agentRead (s.queueAcc q) addr 128 with
      | .error v => .error (some v)
      | .ok (s, bs) => .ok (s.passSlot q addr, addr, bs)

/-- A packet with FENCE waits, taken, for the earlier packets of its queue (R328). -/
def State.fenced (s : State) (q : Nat) (bs : List Byte) : Bool := fenceFlag bs && decide (1 < (s.queue q).inFlight)

def State.holdTaken (s : State) (q : Nat) (bs : List Byte) : State := s.setQueue q { s.queue q with taken := some bs }

/-- A packet of a type, once its turn has come: held back by FENCE, or acted on. One whose tables cannot be read stays taken, its
slot passed (R326). -/
def State.packetStep (s : State) (q : Nat) (type : Nat → Bool) (fence : Bool)
    (act : State → Nat → List Byte → NodeStep) : NodeStep :=
  match s.packetAt q with
  | .error e => .error e
  | .ok (t, addr, bs) =>
    if type (byteAt bs 0) = false then .error none
    else if fence && t.fenced q bs then .ok (t.holdTaken q bs)
    else match act t addr bs with
      | .error (some v) => if (s.queue q).taken.isSome then .error (some v) else .ok (t.holdTaken q bs)
      | r => r

def State.nopStep (s : State) (q : Nat) : NodeStep :=
  s.packetStep q (· == 0) false fun s _ _ => .ok (s.packetDone q 0)

/-- A nop packet (R328). -/
def execNopPacket (q : Nat) (s : State) : Out := schedDone s (s.nopStep q)

def State.illegalStep (s : State) (q : Nat) : NodeStep :=
  s.packetStep q (fun t => t == 3 || decide (5 ≤ t)) false fun s _ _ => .ok (s.packetDone q 1)

/-- A packet of an illegal type (R328). -/
def execIllegalPacket (q : Nat) (s : State) : Out := schedDone s (s.illegalStep q)

def State.waitStep (s : State) (q : Nat) : NodeStep :=
  s.packetStep q (· == 4) false fun s _ bs =>
    if fieldAt bs 8 8 % 8 ≠ 0 then .ok (s.packetDone q 1)
    else .ok (s.setQueue q { s.queue q with waitFor := some (fieldAt bs 8 8, fieldAt bs 16 8) })

/-- A wait packet (R328). -/
def execWaitPacket (q : Nat) (s : State) : Out := schedDone s (s.waitStep q)

def State.waitedStep (s : State) (q : Nat) : NodeStep :=
  let x := s.queue q
  match x.waitFor with
  | none => .error none
  | some (a, v) =>
    if x.held.isSome then .error none
    else match s.agentRead (s.queueAcc q) a 8 with
      | .error e => .error (some e)
      | .ok (s, bs) =>
        if ofBytes bs < v then .error none else .ok ((s.setQueue q { x with waitFor := none }).packetDone q 0)

/-- The value that a wait packet awaits is reached (R328). -/
def execWaitPacketSatisfied (q : Nat) (s : State) : Out := schedDone s (s.waitedStep q)

/-! ## Grid packets and node entries (R329, R330) -/

/-- How a packet or entry is refused, or what it gives. -/
inductive Parsed (α : Type) where
  | refused (code : Nat)
  | ok (x : α)

/-- Bytes of a packet that must be zero. -/
def zeroAt (bs : List Byte) (l : List Nat) : Bool := l.all fun i => bs.getD i 0 == 0

def extentOk (n : Nat) : Bool := decide (1 ≤ n) && decide (n ≤ 2097151)

/-- The fields of a grid packet or a node entry (R329); the tables are read later. -/
def gridFields (node : Bool) (bs : List Byte) : GridSpec :=
  { flags := byteAt bs 1, mthr := byteAt bs 2, width := 4 * 2 ^ (byteAt bs 3 % 8), nwav := byteAt bs 4, gang := byteAt bs 5
    regs := byteAt bs 6, prod := byteAt bs 7, ex := fieldAt bs 8 4, ey := fieldAt bs 12 4, ez := fieldAt bs 16 4
    wsz := fieldAt bs 20 2, asz := fieldAt bs 22 2, csz := fieldAt bs 24 2, cvlo := byteAt bs 26, cvn := byteAt bs 27
    cglo := byteAt bs 28, cgn := byteAt bs 29, nbar := byteAt bs 31, entry := fieldAt bs 32 8, tba := fieldAt bs 40 8
    btab := [], pw := [], depbm := fieldAt bs 64 8, dshp := byteAt bs 72, pex := fieldAt bs 76 4, pey := fieldAt bs 80 4
    pez := fieldAt bs 84 4, cbm := fieldAt bs 88 8, signal := if node then 0 else fieldAt bs 96 8
    sigval := if node then 0 else fieldAt bs 104 8 }

def GridSpec.dep (g : GridSpec) : Bool := g.flags / 32 % 2 == 1
def GridSpec.race (g : GridSpec) : Bool := g.flags / 8 % 2 == 1

/-- The gangs of a grid (R329, R51). -/
def GridSpec.gangs (g : GridSpec) : Nat := (g.count + g.gang - 1) / g.gang

/-- A value outside its range, or a reserved byte that is not zero: ERR 0x01 (R329) (assumption 51, DEDUCED). -/
def GridSpec.malformed (g : GridSpec) (node : Bool) (bs : List Byte) : Bool :=
  !zeroAt bs ([30, 73, 74, 75] ++ (List.range 7).map (113 + ·) ++ (List.range 8).map (120 + ·)) || decide (64 ≤ g.flags) ||
  decide (4 < byteAt bs 3) || g.nwav == 0 || decide (16 < g.nwav) || decide (1024 < g.nwav * g.width) || g.gang == 0 ||
  decide (48 < g.gang) || g.regs % 8 != 0 || g.regs == 0 || decide (192 < g.regs) || decide (g.nwav ≤ g.prod) ||
  !extentOk g.ex || !extentOk g.ey || !extentOk g.ez || decide (1024 < g.wsz) || decide (768 < g.asz) || decide (512 < g.csz) ||
  decide (16 < g.nbar) || g.entry % 4 != 0 || g.tba % 256 != 0 || decide (2 ^ 57 ≤ g.tba) || fieldAt bs 48 8 % 4 != 0 ||
  (g.nbar == 0 && fieldAt bs 48 8 != 0) || fieldAt bs 56 8 % 16 != 0 || decide (3 < g.dshp) || g.cbm % 8 != 0 ||
  (g.dep && (g.depbm % 8 != 0 || !extentOk g.pex || !extentOk g.pey || !extentOk g.pez)) || decide (2 ^ 24 < g.gangs) ||
  (!node && (g.signal % 16 != 0 || bs.getD 112 0 != 0))

/-- The launch rejections that need no table: ERR 0x04 (R329, R41, R107, R344, R365). -/
def GridSpec.rejected (g : GridSpec) (node asnOk : Bool) : Bool :=
  (g.cgn != 0 && (decide (g.cglo < 4) || decide (32 < g.cglo + g.cgn))) || (g.cvn != 0 && decide (g.regs < g.cvlo + g.cvn)) ||
  decide (2048 * g.asz < 16 * g.nbar) || (g.race && decide (384 < g.asz)) || (node && g.repl) || !asnOk

/-- An entry of the barrier table (R330): count and GWG; a GWG from 48 to 62 is at or beyond every GANG. -/
def barCount (e : Nat) : Nat := bits 23 0 e
def barGwg (e : Nat) : Nat := bits 29 24 e
def barEntryBad (e : Nat) : Bool := barCount e == 0 || bits 31 30 e != 0

/-- What the tables of a grid give (R330, R319). -/
def GridSpec.withTables (g : GridSpec) (btab pwtab : List Byte) : Parsed GridSpec :=
  let bars := word32s btab 0 g.nbar
  let wins := (List.range 8).map fun k => (fieldAt pwtab (16 * k) 8, fieldAt pwtab (16 * k + 8) 4)
  if bars.any barEntryBad then .refused 1
  else if wins.any fun w => w.1 % 16 != 0 || w.2 % 16 != 0 || decide (65536 < w.2) then .refused 1
  else if bars.any fun e => barGwg e != 63 && decide (g.gang ≤ barGwg e) then .refused 4
  else if g.race && (bars.isEmpty || (barGwg (bars.headD 0) == 63 && g.gang != 1)) then .refused 4
  else .ok { g with btab := bars, pw := wins }

/-- Reads a table, or nothing where there is none. -/
def State.readTable (s : State) (a : Acc) (addr n : Nat) : Except Verdict (State × List Byte) :=
  if n = 0 then .ok (s, []) else s.agentRead a addr n

/-- A grid packet or a node entry with its tables (R329, R330). -/
def State.parseGrid (s : State) (a : Acc) (node : Bool) (bs : List Byte) : Except Verdict (State × Parsed GridSpec) :=
  let g := gridFields node bs
  if g.malformed node bs then .ok (s, .refused 1)
  else if g.rejected node (s.asnOk a.part a.asn) then .ok (s, .refused 4)
  else
    match s.readTable a (fieldAt bs 48 8) (4 * g.nbar) with
    | .error v => .error v
    | .ok (s, btab) =>
      match s.readTable a (fieldAt bs 56 8) (if fieldAt bs 56 8 = 0 then 0 else 128) with
      | .error v => .error v
      | .ok (s, pwtab) => .ok (s, g.withTables btab (pwtab ++ List.replicate (128 - pwtab.length) 0))

/-- Chunk k of die d among n gangs (R337) (assumption 53, DEDUCED). -/
def chunkOf (n d k : Nat) : List Nat := ((List.range 16).map fun i => d + 4 * (16 * k + i)).filter (· < n)

/-- A new launch (R328, R337). -/
def newLaunch (kind : LaunchKind) (q asn part cls packet order : Nat) (g : GridSpec) : Launch :=
  { kind := kind, queue := q, asn := asn, part := part, cls := cls, packet := packet, spec := g
    chunks := (List.range 4).map fun d => (0, chunkOf g.gangs d 0), live := g.gangs, error := 0, replays := 0
    reports := [0, 0, 0, 0], pattern := none, placed := false, writes := [], held := none, signalled := false
    order := order, done := false }

/-- Adds a launch under the next number. -/
def State.addLaunch (s : State) (l : Launch) : State := { s with launches := Sparse.put s.launches s.serial l, serial := s.serial + 1 }

/-- A packet that starts nothing completes with a code: with 0x01 without a signal, else with it (R331). -/
def State.completePacket (s : State) (q packet code : Nat) (g : GridSpec) : State :=
  if code = 1 then s.packetDone q 1
  else
    let x := s.queue q
    let l := newLaunch .grid q x.asn x.part x.cls packet s.serial g
    (s.addLaunch { l with live := 0, error := code, chunks := [] }).settleTop s.serial

/-- The fields of a spec that a launch without a grid has. -/
def emptySpec : GridSpec := gridFields true []

def State.gridStep (s : State) (q : Nat) : NodeStep :=
  if s.nextQueue = some q ∧ s.slotless q then
    .ok ((s.passSlot q ((s.queue q).slotAddr (s.queue q).qrd.toNat % 2 ^ 64)).packetDone q 4)
  else s.packetStep q (· == 1) true fun s addr bs =>
    match s.parseGrid (s.queueAcc q) false bs with
    | .error v => .error (some v)
    | .ok (s, .refused code) => .ok (s.completePacket q addr code (gridFields false bs))
    | .ok (s, .ok g) =>
      let x := s.queue q
      .ok (s.addLaunch (newLaunch .grid q x.asn x.part x.cls addr s.serial g))

/-- A grid packet is taken and its gangs launched (R328, R329). -/
def execGridPacket (q : Nat) (s : State) : Out := schedDone s (s.gridStep q)

/-! ## Pattern packets (R332, R258, R265, R410) -/

/-- The reserved bytes of a pattern packet, or NREC or PTAB out of range (R332). -/
def patternMalformed (bs : List Byte) : Bool :=
  decide (2 ≤ byteAt bs 1) || !zeroAt bs ((List.range 6).map (2 + ·) ++ (List.range 72).map (24 + ·) ++ (List.range 16).map (112 + ·)) ||
  fieldAt bs 8 8 % 128 != 0 || fieldAt bs 16 8 == 0 || fieldAt bs 16 8 % 128 != 0 || fieldAt bs 96 8 % 16 != 0

/-- The kind of a node entry: none for a program (R329). -/
def entryKind (k : Nat) : Option NodeKind :=
  match k with
  | 1 => some .raster
  | 2 => some .blend
  | 3 => some .trav
  | _ => none

/-- A port list (R329): spool indices, 0xFF unbound. -/
def portList (bs : List Byte) (k : Nat) : List (Option Nat) :=
  (List.range 8).map fun i => if byteAt bs (k + i) = 0xFF then none else some (byteAt bs (k + i))

/-- A fixed node's entry has a byte that must be zero (R332). -/
def fixedEntryBad (bs : List Byte) : Bool :=
  !zeroAt bs ((List.range 95).map (1 + ·) ++ (List.range 7).map (113 + ·)) ||
  (byteAt bs 112 != 1 && !zeroAt bs ((List.range 8).map (120 + ·)))

/-- A spool entry (R332). -/
def spoolDecl (e : Nat) : SpoolDecl := { slots := bits 11 0 e + 1, bytes := 16 * (bits 15 12 e + 1), bcst := e.testBit 16 }

/-- Where a declared spool is bound: nodes and ports (R258). -/
def PatternSpec.producers (p : PatternSpec) (k : Nat) : List (Nat × Nat) :=
  p.nodes.zipIdx.flatMap fun n => n.1.outs.zipIdx.filterMap fun o => if o.1 = some k then some (n.2, o.2) else none
def PatternSpec.consumers (p : PatternSpec) (k : Nat) : List (Nat × Nat) :=
  p.nodes.zipIdx.flatMap fun n => n.1.ins.zipIdx.filterMap fun o => if o.1 = some k then some (n.2, o.2) else none

def PatternSpec.kindOf (p : PatternSpec) (n : Nat) : Option NodeKind := (p.nodes[n]?).bind (·.kind)

/-- The kinds of the nodes at a spool's ends. -/
def PatternSpec.fedBy (p : PatternSpec) (k : Nat) : Option NodeKind := ((p.producers k).head?).bind fun x => p.kindOf x.1
def PatternSpec.readBy (p : PatternSpec) (k : Nat) : Option NodeKind := ((p.consumers k).head?).bind fun x => p.kindOf x.1

/-- A program node bound to a `raster` out-port (R333). -/
def PatternSpec.pixel (p : PatternSpec) (n : Nat) : Bool :=
  match p.nodes[n]? with
  | none => false
  | some x => x.kind.isNone && x.ins.any fun k => match k with
    | none => false
    | some k => p.fedBy k == some .raster

/-- The least slot of a spool (R265): the smallest payload that a fixed node takes, the largest that it writes on a port bound
there. -/
def PatternSpec.leastSlot (p : PatternSpec) (k : Nat) : Nat :=
  Nat.max (match p.readBy k with
    | some .raster => 52
    | some .blend => 16
    | some .trav => 48
    | none => 0)
   (match p.fedBy k with
    | some .raster => 80
    | some .trav => if (p.producers k).all fun x => x.2 == 0 then 36 else 128
    | _ => 0)

/-- The ports that a fixed node has (R258). -/
def portsOf : NodeKind → Nat × Nat
  | .raster => (1, 1)
  | .blend => (1, 0)
  | .trav => (1, 2)

/-- Exactly one node is at an end of a spool (R258): it may list the spool twice. -/
def oneNode (ends : List (Nat × Nat)) : Bool := (ends.map (·.1)).eraseDups.length == 1

/-- A binding that R258, R265 or R333 does not allow: ERR 0x04. -/
def PatternSpec.rejected (p : PatternSpec) (gangs : List Nat) : Bool :=
  (p.spools.zipIdx.any fun d => decide (d.1.slots < 8) || !oneNode (p.producers d.2) || !oneNode (p.consumers d.2) ||
    decide (d.1.bytes < p.leastSlot d.2)) ||
  (p.nodes.any fun n => (n.ins ++ n.outs).any fun k => match k with
    | none => false
    | some k => decide (p.spools.length ≤ k)) ||
  (p.nodes.any fun n => match n.kind with
    | none => false
    | some k => (n.ins.drop (portsOf k).1 ++ n.outs.drop (portsOf k).2).any (·.isSome)) ||
  p.nodes.zipIdx.any fun n => p.pixel n.2 && gangs.getD n.2 1 != 1

/-- A layout record for the pattern's fixed nodes (R410, R119): its bytes, or a refusal. -/
def State.patternRecord (s : State) (a : Acc) (h : Nat) : Except Verdict (State × Option (List Byte)) :=
  if h % 64 ≠ 0 then .ok (s, none)
  else match s.agentRead a h 192 with
    | .error v => .error v
    | .ok (s, bs) =>
      if Layout.owner bs ≠ a.asn ∨ (Layout.ofBytes h bs).bad bs = true then .ok (s, none) else .ok (s, some bs)

def colourOk (bs : List Byte) : Bool :=
  let r := Layout.ofBytes 0 bs
  r.kind == 2 && r.rank == 2 && r.elem == 4

def depthOk (bs : List Byte) : Bool :=
  let r := Layout.ofBytes 0 bs
  r.kind == 2 && r.rank == 2 && (r.fmt == 0x4A || r.fmt == 0x4B)

def finite64 (x : Nat) : Bool :=
  match f64.decode x with
  | .fin _ _ _ => true
  | _ => false

/-- The raster state record and the surfaces that it names, read once (R269, R410). -/
def State.readRaster (s : State) (a : Acc) (addr : Nat) : Except Verdict (State × Option RasterState) :=
  match s.agentRead a addr 64 with
  | .error v => .error v
  | .ok (s, bs) =>
    let fl := fieldAt bs 48 4
    if fl / 8 ≠ 0 ∨ fl % 4 = 3 ∨ zeroAt bs ((List.range 12).map (52 + ·)) = false ∨
        ((List.range 4).all fun k => finite64 (fieldAt bs (8 * k) 8)) = false then .ok (s, none)
    else
      match s.patternRecord a (fieldAt bs 32 8) with
      | .error v => .error v
      | .ok (s, none) => .ok (s, none)
      | .ok (s, some colour) =>
        let h := fieldAt bs 40 8
        let depth : Except Verdict (State × Option (List Byte)) := if h = 0 then .ok (s, some []) else s.patternRecord a h
        match depth with
        | .error v => .error v
        | .ok (s, none) => .ok (s, none)
        | .ok (s, some d) =>
          if colourOk colour = false ∨ (h ≠ 0 ∧ depthOk d = false) then .ok (s, none)
          else
            let x := fun k => BitVec.ofNat 64 (fieldAt bs (8 * k) 8)
            .ok (s, some { sx := x 0, sy := x 1, ox := x 2, oy := x 3, cull := fl % 4, fcw := fl / 4 % 2 == 1, colour := colour
                           depth := if h = 0 then none else some d })

/-- The node entries of a pattern: nodes with their grids, or the code of the first that is refused. -/
def State.parseNodes (s : State) (a : Acc) : List (List Byte) → Except Verdict (State × Parsed (List (NodeSpec × GridSpec)))
  | [] => .ok (s, .ok [])
  | bs :: l =>
    let kind := entryKind (byteAt bs 112)
    let node : NodeSpec := { kind := kind, lid := 0, ins := portList bs 96, outs := portList bs 104, raster := none }
    let here : Except Verdict (State × Parsed (NodeSpec × GridSpec)) :=
      if byteAt bs 0 ≠ 3 ∨ 3 < byteAt bs 112 then .ok (s, .refused 1)
      else match kind with
        | none => (s.parseGrid a true bs).map fun x => (x.1, match x.2 with
          | .refused c => .refused c
          | .ok g => .ok (node, g))
        | some k =>
          if fixedEntryBad bs then .ok (s, .refused 1)
          else if k = .raster then
            (s.readRaster a (fieldAt bs 120 8)).map fun x => (x.1, match x.2 with
              | none => .refused 4
              | some r => .ok ({ node with raster := some r }, emptySpec))
          else .ok (s, .ok (node, emptySpec))
    match here with
    | .error v => .error v
    | .ok (s, .refused c) => .ok (s, .refused c)
    | .ok (s, .ok x) =>
      match s.parseNodes a l with
      | .error v => .error v
      | .ok (s, .refused c) => .ok (s, .refused c)
      | .ok (s, .ok xs) => .ok (s, .ok (x :: xs))

/-- The pattern table (R332). -/
def State.parsePattern (s : State) (a : Acc) (bs : List Byte) : Except Verdict (State × Parsed (PatternSpec × List GridSpec)) :=
  if patternMalformed bs then .ok (s, .refused 1)
  else
    match s.agentRead a (fieldAt bs 8 8) 128 with
    | .error v => .error v
    | .ok (s, hd) =>
      let n := byteAt hd 0
      let m := byteAt hd 1
      if n = 0 ∨ 64 < n ∨ m = 0 ∨ zeroAt hd ((List.range 126).map (2 + ·)) = false then .ok (s, .refused 1)
      else
        match s.agentRead a (fieldAt bs 8 8 + 128) (128 * n + 4 * m) with
        | .error v => .error v
        | .ok (s, tab) =>
          let spools := word32s tab (128 * n) m
          if spools.any fun e => bits 31 17 e != 0 then .ok (s, .refused 1)
          else
            match s.parseNodes a ((List.range n).map fun k => (tab.drop (128 * k)).take 128) with
            | .error v => .error v
            | .ok (s, .refused c) => .ok (s, .refused c)
            | .ok (s, .ok xs) =>
              let p : PatternSpec := { nrec := fieldAt bs 16 8, nodes := xs.map (·.1), spools := spools.map spoolDecl }
              if p.rejected (xs.map fun x => x.2.gang) then .ok (s, .refused 4) else .ok (s, .ok (p, xs.map (·.2)))

/-- The launches of a pattern's program nodes, each under the next number. -/
def State.addNodes (s : State) (pat : Nat) (l : Launch) : List (NodeSpec × GridSpec) → Nat → State × List NodeSpec
  | [], _ => (s, [])
  | (n, g) :: xs, k =>
    match n.kind with
    | some _ =>
      let r := s.addNodes pat l xs (k + 1)
      (r.1, n :: r.2)
    | none =>
      let m := newLaunch (.node pat k) l.queue l.asn l.part l.cls l.packet l.order g
      let r := (s.addLaunch { m with chunks := [] }).addNodes pat l xs (k + 1)
      (r.1, { n with lid := s.serial } :: r.2)

/-- The signal of a packet (R329, R332). -/
def packetSignal (bs : List Byte) : GridSpec := { emptySpec with signal := fieldAt bs 96 8, sigval := fieldAt bs 104 8 }

def State.patternStep (s : State) (q : Nat) : NodeStep :=
  s.packetStep q (· == 2) true fun s addr bs =>
    let g := packetSignal bs
    if s.asnOk (s.queue q).part (s.queue q).asn = false then .ok (s.completePacket q addr 4 g)
    else match s.parsePattern (s.queueAcc q) bs with
      | .error v => .error (some v)
      | .ok (s, .refused code) => .ok (s.completePacket q addr code g)
      | .ok (s, .ok (p, gs)) =>
        let x := s.queue q
        let l := newLaunch .pattern q x.asn x.part x.cls addr s.serial g
        let pat := s.serial
        let r := (s.addLaunch { l with live := p.nodes.length, chunks := [] }).addNodes pat l (p.nodes.zip gs) 0
        match r.1.launch? pat with
        | none => .error none
        | some l => .ok (r.1.putLaunch pat { l with pattern := some { p with nodes := r.2 } })

/-- A pattern packet is taken, checked and its pattern launched (R332). -/
def execPatternPacket (q : Nat) (s : State) : Out := schedDone s (s.patternStep q)

/-- A packet read, or a table read, of the queue's next packet that fails: what stops it (R349). -/
def State.queueFails (s : State) (q : Nat) : Option Verdict :=
  let try' := fun (r : NodeStep) => match r with
    | .error (some v) => some v
    | _ => none
  (try' (s.nopStep q)).or ((try' (s.waitedStep q)).or ((try' (s.gridStep q)).or (try' (s.patternStep q))))

/-- The fail reply to a scheduler's read for a queue: its packet completes with 0x11 (R351), with the signal of a launch that has
been read (R331). -/
def State.failQueue (s : State) (q : Nat) : State :=
  let x := s.queue q
  match x.waitFor, x.taken with
  | some _, _ => (s.setQueue q { x with held := none, waitFor := none }).packetDone q 0x11
  | none, some bs => (s.setQueue q { x with held := none, taken := none }).completePacket q x.packet 0x11 (packetSignal bs)
  | none, none => (s.setQueue q { x with held := none, qrd := x.qrd + 1, inFlight := x.inFlight + 1 }).packetDone q 0x11

end Sys2Proof.Machine
end

