-- ==== Sys2Proof/Machine/Placement.lean ====
section
/-! DEFINITION. Distribution and placement (17 R330, R333, R334, R336-R341; 02 R16, R39, R41; 12 R259-R266). -/

namespace Sys2Proof.Machine

/-! ## What a core has free (R16, R104, R334) -/

/-- The bytes of a quad slice's bank (R11, R46). -/
def sliceBytes : Nat := 32768

def State.coreWaves (s : State) (core : Nat) : List Wave :=
  ((List.range 64).map fun k => s.wave (core * 64 + k)).filter (·.alive)

/-- The bytes in use in each of a core's sixteen slices. -/
def State.slicesUsed (s : State) (core : Nat) : List Nat :=
  (List.range 16).map fun i => (s.coreWaves core).foldl (fun n w =>
    if w.base ≤ i ∧ i < w.base + w.width / 4 then n + 16 * w.regs else n) 0

/-- A workgroup holds its windows: until its gang, which is resident as one, is done and no engine thread of it runs (R39;
assumption 57, DEDUCED), in a pattern until that completes (R333); not while it is saved. -/
def State.holdsWindows (s : State) (w : Workgroup) : Bool :=
  let kept := match s.launch? (s.patternOf w.lid) with
    | none => false
    | some l => l.kind == .pattern && !l.done
  match s.gang? w.gid with
  | none => kept
  | some g => (!g.done || kept || s.threads.any fun e => e.2.gid == w.gid) && g.pre != .saved

/-- The bytes of a spool's storage on the chip (R260, R334). -/
def SpoolUnit.storeBytes (x : SpoolUnit) : Nat := (x.size + 2047) / 2048 * 2048

/-- The ranges in use in a store of a core: offset and size. -/
def State.rangesUsed (s : State) (k : Store) (core : Nat) : List (Nat × Nat) :=
  (s.wgs.filterMap fun e =>
    if e.2.core = core ∧ s.holdsWindows e.2 = true then
      some (match k with
        | .w => (e.2.wbase, e.2.wsize)
        | .a => (e.2.abase, e.2.asize)
        | .c => (e.2.cbase, e.2.csize))
    else none) ++
  (match k with
   | .a => s.spools.filterMap fun e => match e.2.store with
     | some (c, ofs) => if c = core then some (ofs, e.2.storeBytes) else none
     | none => none
   | _ => [])

/-- The lowest place for a range of `n` bytes, aligned, below `cap` (R104). -/
def firstFit (used : List (Nat × Nat)) (n align cap : Nat) : Option Nat :=
  let places := 0 :: used.map fun u => (u.1 + u.2 + align - 1) / align * align
  let ok := places.filter fun b => decide (b + n ≤ cap) &&
    used.all fun u => decide (b + n ≤ u.1) || decide (u.1 + u.2 ≤ b) || u.2 == 0 || n == 0
  match ok with
  | [] => none
  | b :: bs => some (bs.foldl Nat.min b)

/-- What programs and spools may hold of an A store (R104), and what they may while its upper half is shadow words (R107). -/
def storeCap : Nat := 1536 * 1024
def raceCap : Nat := 768 * 1024

/-- A gang in race-detection mode holds a window on a core. -/
def State.raceCore (s : State) (core : Nat) : Bool :=
  s.wgs.any fun e => e.2.core == core && s.holdsWindows e.2 && (match s.launch? e.2.lid with
    | none => false
    | some l => l.spec.race)

/-- The lowest place for n bytes of a core's A store; none for a gang in race-detection mode where the half of its shadow words is in
use (R107). -/
def State.placeA (s : State) (core n : Nat) (race : Bool) : Option Nat :=
  let used := s.rangesUsed .a core
  if race && used.any fun u => u.2 != 0 && decide (raceCap < u.1 + u.2) then none
  else firstFit used n 2048 (if race || s.raceCore core then raceCap else storeCap)

/-- A core's part of a placement: slots with bases and what they inherit, and the windows' offsets. -/
structure CorePlan where
  core : Nat
  slots : List (Nat × Nat × Option Chain)
  wbase : Nat
  abase : Nat
  cbase : Nat
  deriving DecidableEq, Repr

/-- A base at which a wave of n slices has room (R16). -/
def baseFits (used : List Nat) (n need b : Nat) : Bool :=
  (List.range n).all fun i => decide (used.getD (b + i) sliceBytes + need ≤ sliceBytes)

def addSlices (used : List Nat) (n need b : Nat) : List Nat :=
  used.zipIdx.map fun e => if b ≤ e.2 ∧ e.2 < b + n then e.1 + need else e.1

/-- Slots for some waves: first those whose predecessor's base is free (R41, R339), else, unless only such slots count, the lowest free
slot and base. -/
def pickSlots (chainOf : Nat → Option Chain) (n need : Nat) (only : Bool) :
    Nat → List Nat → List Nat → Option (List (Nat × Nat × Option Chain))
  | 0, _, _ => some []
  | k + 1, free, used =>
    let kept := free.findSome? fun slot => match chainOf slot with
      | some x => if baseFits used n need x.base then some (slot, x.base, some x) else none
      | none => none
    let any := ((List.range (16 / n)).map (· * n)).find? (baseFits used n need)
    let fresh := match any, (free.find? fun slot => (chainOf slot).isNone).or free.head? with
      | some b, some slot => if only then none else some (slot, b, none)
      | _, _ => none
    match kept.or fresh with
    | none => none
    | some x => (pickSlots chainOf n need only k (free.erase x.1) (addSlices used n need x.2.1)).map (x :: ·)

/-- A workgroup's place on a core (R339); `only`: on slots that its predecessors freed. -/
def State.planCore (s : State) (lid : Nat) (g : GridSpec) (only : Bool) (core : Nat) : Option CorePlan := do
  let chainOf := fun slot => if g.cvn + g.cgn = 0 then none else match Sparse.find s.chains (core * 64 + slot) with
    | some x => if x.lid = lid then some x else none
    | none => none
  let free := (List.range 64).filter fun slot => !(s.wave (core * 64 + slot)).alive
  let slots ← pickSlots chainOf (g.width / 4) (16 * g.regs) only g.nwav free (s.slicesUsed core)
  let w ← firstFit (s.rangesUsed .w core) (1024 * g.wsz) 1024 (1024 * 1024)
  let a ← s.placeA core (2048 * g.asz) g.race
  let c ← firstFit (s.rangesUsed .c core) (1024 * g.csz) 1024 (512 * 1024)
  if s.retired.contains core then none else some { core := core, slots := slots, wbase := w, abase := a, cbase := c }

/-- The workgroups of gang i (R51): the last gang may be short. -/
def GridSpec.gangSize (g : GridSpec) (i : Nat) : Nat := Nat.min g.gang (g.count - i * g.gang)

/-- A gang's place from a base core on (R39). -/
def State.planAt (s : State) (lid : Nat) (g : GridSpec) (size : Nat) (only : Bool) (base : Nat) : Option (List CorePlan) :=
  if 48 < base % 48 + size then none else (List.range size).mapM fun j => s.planCore lid g only (base + j)

/-- The clusters that change hands at PART_SET (R389): those that leave the partition, and those that it takes from a partition that
is not enabled. -/
def State.handedOver (s : State) (p clus : Nat) : List Nat := (List.range 8).filter fun c =>
  ((s.part p).clus.getLsbD c && !clus.testBit c) ||
  (clus.testBit c && (List.range 8).any fun q => q != p && (s.part q).clus.getLsbD c)

/-- The clusters that a PART_SET in progress hands over: no gang is placed there while those on them are pre-empted (R389). -/
def State.closing (s : State) : List Nat :=
  match s.regs.mbox.pending with
  | some (.partSet p _ clus _ _ _ _) => s.handedOver p clus
  | _ => []

/-- The clusters of a partition among some. -/
def State.clustersOf (s : State) (p : Nat) (among : List Nat) : List Nat := among.filter fun c => (s.part p).clus.getLsbD c

/-- Those where a gang may be placed now. -/
def State.openClusters (s : State) (p : Nat) (among : List Nat) : List Nat :=
  (s.clustersOf p among).filter fun c => !s.closing.contains c

/-- A gang's place (R339): for a chain, the cores just freed by a gang of the grid first, where each of its waves takes a
predecessor's slot and base; else the lowest cluster and base core (assumption 54, DEDUCED). -/
def State.planGang (s : State) (lid : Nat) (g : GridSpec) (size : Nat) (clusters : List Nat) : Option (List CorePlan) :=
  let freed := if g.cvn + g.cgn = 0 then [] else
    (s.gangs.reverse.filter fun e => e.2.lid == lid && e.2.done && clusters.contains (e.2.base / 48)).map (·.2.base)
  (freed.findSome? (s.planAt lid g size true)).or
    ((clusters.flatMap fun c => (List.range (49 - size)).map (48 * c + ·)).findSome? (s.planAt lid g size false))

/-- The least number of cores in a row that a cluster has (R13, R39). -/
def State.hasRun (s : State) (cluster size : Nat) : Bool :=
  (List.range (49 - size)).any fun c => (List.range size).all fun j => !s.retired.contains (48 * cluster + c + j)

/-- A gang could fit on an empty cluster of the partition (R339). -/
def State.possible (s : State) (p : Nat) (g : GridSpec) (size : Nat) : Bool :=
  decide (g.nwav ≤ 4 * 16 / g.width * (sliceBytes / (16 * g.regs))) && decide (g.nwav ≤ 64) &&
  (s.clustersOf p (List.range 8)).any fun c => s.hasRun c size

/-! ## Starting a gang (R18, R41, R50, R62, R330) -/

/-- The place of workgroup i in its grid (R51). -/
def GridSpec.coords (g : GridSpec) (i : Nat) : Nat × Nat × Nat := (i % g.ex, i / g.ex % g.ey, i / (g.ex * g.ey))

/-- The packed layout of g0 and g2 (R50). -/
def packXyz (x y z : Nat) : DWord := BitVec.ofNat 64 (x + y * 2 ^ 21 + z * 2 ^ 42)

/-- The start values of g0-g3 (R50). -/
def startG (g : GridSpec) (index gang gwg wave node : Nat) : List (Nat × DWord) :=
  let c := g.coords index
  [(0, packXyz c.1 c.2.1 c.2.2),
   (1, BitVec.ofNat 64 (gang * 2 ^ 40 + gwg * 2 ^ 32 + (g.nwav - 1) * 2 ^ 12 + wave * 2 ^ 8 + g.width)),
   (2, packXyz g.ex g.ey g.ez), (3, BitVec.ofNat 64 node)]

/-- Panel 0 of a wave at its start (R18, R62). -/
def startPanel (g : GridSpec) (gs : List (Nat × DWord)) (now : Nat) : Panel :=
  { gs.foldl (fun p e => p.setG e.1 e.2) Panel.empty with
    valid := true, pc := g.entry, qmask := lanesQuads (waveLanes g.width), mask := waveLanes g.width, ready := now }

/-- A wave at its start (R62), with what it inherits (R41). -/
def startWave (g : GridSpec) (wg index gang gwg wave base node : Nat) (chain : Option Chain) (now : Nat) : Wave :=
  let cg := match chain with
    | none => []
    | some x => x.g
  { Wave.empty with
    alive := true, wg := wg, idx := wave, width := g.width, base := base, regs := g.regs
    v := (match chain with
      | none => []
      | some x => x.v)
    panels := [(0, startPanel g (startG g index gang gwg wave node ++ cg) now)] }

/-- The barrier handles of a workgroup (R55, R330): `cores` are the gang's, in order. -/
def startHandles (g : GridSpec) (cores : List Nat) (gwg : Nat) : List Word :=
  (List.range 16).map fun k => match g.btab[k]? with
    | none => 0
    | some e =>
      match cores[if barGwg e = 63 then gwg else barGwg e]? with
      | none => 0
      | some core => BitVec.ofNat 32 (2 ^ 31 + core % 48 * 2 ^ 21 + k * 16)

/-- Writes the barrier records that a gang's workgroups hold (R330): record k of a workgroup that entry k names. -/
def State.writeRecords (s : State) (g : GridSpec) (wgs : List Workgroup) : State :=
  wgs.foldl (fun s w => g.btab.zipIdx.foldl (fun s e =>
    if barGwg e.1 = 63 ∨ barGwg e.1 = w.gwg then s.writeStore .a w.core (w.abase + 16 * e.2) (toBytes 16 (barCount e.1)) else s) s) s

/-- Clears the shadow words of a window (R319). -/
def State.clearShadows (s : State) (g : GridSpec) (w : Workgroup) : State :=
  if g.race then s.clearShadow w.core w.abase w.asize else s

/-- Places the waves of a workgroup at their start, each by its slot, base and inheritance (R41, R62). -/
def State.startWaves (s : State) (g : GridSpec) (k : Nat) (w : Workgroup) (gang : Nat) (l : List (Nat × Nat × Option Chain)) : State :=
  l.zipIdx.foldl (fun s e =>
    let wid := w.core * 64 + e.1.1
    let s := s.setWave wid (startWave g k w.index gang w.gwg e.2 e.1.2.1 w.node e.1.2.2 s.cycle)
    { s with chains := Sparse.erase s.chains wid }) s

/-- A workgroup on a core. -/
def newWg (g : GridSpec) (gid lid gang gwg node : Nat) (cores : List Nat) (p : CorePlan) : Workgroup :=
  { gid := gid, lid := lid, index := gang * g.gang + gwg, gwg := gwg, core := p.core, wbase := p.wbase, wsize := 1024 * g.wsz
    abase := p.abase, asize := 2048 * g.asz, cbase := p.cbase, csize := 1024 * g.csz, handles := startHandles g cores gwg
    pw := g.pw, tba := g.tba, slots := p.slots.map (·.1), inPorts := List.replicate 8 none, outPorts := List.replicate 8 none
    closed := [], node := node, retired := false }

/-- Puts gang `gid` at its start where a plan puts it (R39, R62, R330). -/
def State.gangAt (s : State) (gid lid : Nat) (g : GridSpec) (index node : Nat) (plan : List CorePlan) : State :=
  let cores := plan.map (·.core)
  let wgs := plan.zipIdx.map fun p => newWg g gid lid index p.2 node cores p.1
  let base := cores.headD 0
  let inherited := (plan.zipIdx.flatMap fun p => p.1.slots.zipIdx.filterMap fun e => e.1.2.2.map fun x => (p.2 * 16 + e.2, x))
  let s := s.putGang gid
    { lid := lid, index := index, wgs := (List.range plan.length).map (gid + 1 + ·), pre := .run, errors := 0, ended := none
      done := false, saved := none, passed := false, inherited := inherited, cluster := base / 48, base := base }
  let s := (wgs.zip plan).zipIdx.foldl (fun s e =>
    let s := (s.acquireL1 e.1.1.core).putWg (gid + 1 + e.2) e.1.1
    (s.clearShadows g e.1.1).startWaves g (gid + 1 + e.2) e.1.1 index e.1.2.slots) s
  s.writeRecords g wgs

/-- Starts a gang: its number is the state's `serial`, its workgroups' the numbers that follow. -/
def State.startGang (s : State) (lid : Nat) (g : GridSpec) (index node : Nat) (plan : List CorePlan) : State :=
  { s.gangAt s.serial lid g index node plan with serial := s.serial + 1 + plan.length }

/-! ## Dependences (R336) -/

/-- The producers that a consumer workgroup waits for. -/
def GridSpec.needs (g : GridSpec) (i : Nat) : List Nat :=
  let c := g.coords i
  let at' := fun x y z => if x < g.pex ∧ y < g.pey ∧ z < g.pez then some (x + g.pex * (y + g.pey * z)) else none
  match g.dshp with
  | 0 => (at' c.1 c.2.1 c.2.2).toList
  | 1 => (List.range g.pex).filterMap fun a => at' a c.2.1 c.2.2
  | 2 => (List.range g.pey).filterMap fun b => at' c.1 b c.2.2
  | _ => List.range (g.pex * g.pey * g.pez)

/-- The producer's bitmap and error word, as the scheduler reads them. -/
def State.depRead (s : State) (l : Launch) : Except Verdict (State × List Byte × Nat) :=
  if l.spec.dep = false then .ok (s, [], 0)
  else
    let n := 8 * ((l.spec.pex * l.spec.pey * l.spec.pez + 63) / 64)
    (s.agentRead (s.launchAcc l) l.spec.depbm (n + 8)).map fun x => (x.1, x.2.take n, ofBytes (x.2.drop n))

/-- A gang whose workgroups may all start. -/
def GridSpec.ready (g : GridSpec) (bm : List Byte) (i : Nat) : Bool :=
  !g.dep || (List.range (g.gangSize i)).all fun j => (g.needs (i * g.gang + j)).all fun k => (bm.getD (k / 8) 0).getLsbD (k % 8)

/-- The unstarted gangs of a die: those of its current chunk, and of the chunks that follow (R337). -/
def Launch.chunk (l : Launch) (d : Nat) : List Nat := (l.chunks.getD d (0, [])).2
def Launch.unstarted (l : Launch) (d : Nat) : List Nat :=
  l.chunk d ++ (List.range l.spec.gangs).filter fun i => decide (i % 4 = d) && decide ((l.chunks.getD d (0, [])).1 < i / 64)

/-- The ready gangs among some. -/
def State.readyAmong (s : State) (l : Launch) (gangs : List Nat) : List Nat :=
  match s.depRead l with
  | .error _ => []
  | .ok (_, bm, _) => gangs.filter (l.spec.ready bm)

/-- The ready gangs of the current chunk of a die, and all its ready gangs (R338). -/
def State.readyGangs (s : State) (l : Launch) (d : Nat) : List Nat := s.readyAmong l (l.chunk d)
def State.allReady (s : State) (l : Launch) (d : Nat) : List Nat := s.readyAmong l (l.unstarted d)

/-! ## Distribution (R337, R339, R340) -/

/-- A die's list after a gang has left it: the next chunk when none is left (R337). -/
def nextChunk (g : GridSpec) (d : Nat) (c : Nat × List Nat) (i : Nat) : Nat × List Nat :=
  let l := c.2.erase i
  if l.isEmpty then (c.1 + 1, chunkOf g.gangs d (c.1 + 1)) else (c.1, l)

def Launch.take (l : Launch) (d i : Nat) : Launch :=
  { l with chunks := l.chunks.zipIdx.map fun e => if e.2 = d then nextChunk l.spec d e.1 i else e.1 }

/-- Bytes of a gang's save area, in 64 KiB units (R361). -/
def saveUnits (g : GridSpec) (size : Nat) : Nat :=
  (4096 + size * (4096 + 1024 * g.wsz + 2048 * g.asz + 1024 * g.csz + g.nwav * (16384 + g.width * (4 * g.regs + 128))) + 65535) / 65536

/-- Where a gang's state can go (R362): an area of the pool, in units, or the reserve area. -/
def State.saveArea (s : State) (p units : Nat) : Option (Option Nat) :=
  let x := s.part p
  match if x.bound then firstFit (s.poolUsed p) units 1 x.savesize.toNat else none with
  | some a => some (some a)
  | none => if x.reserveBusy then none else some none

/-- The cores without some gangs. -/
def State.without (s : State) (gids : List Nat) : State :=
  gids.foldl (fun s gid => match s.gang? gid with
    | none => s
    | some g =>
      let s := g.wgs.foldl (fun s k => match s.wg? k with
        | none => s
        | some w => (s.liveWaves k w).foldl (fun s wid => s.setWave wid Wave.empty) s) s
      s.putGang gid { g with pre := .saved }) s

/-- The gangs of grids that run on a cluster, in the order in which they are taken as victims (R341): lowest class first,
the most recently launched first. Realtime gangs are not taken (assumption 29, DEDUCED). -/
def State.victimsOn (s : State) (cluster : Nat) : List Nat :=
  let l := s.gangs.filterMap fun e => match s.launch? e.2.lid with
    | some l => if l.kind = .grid ∧ l.cls ≠ 0 ∧ e.2.done = false ∧ e.2.pre = .run ∧ e.2.passed = false ∧ e.2.cluster = cluster ∧
        (s.saveArea l.part (saveUnits l.spec e.2.wgs.length)).isSome = true
      then some (e.1, l.cls * 2 ^ 64 + e.1) else none
    | none => none
  (sortBy (fun e => 2 ^ 68 - e.2) l).map (·.1)

/-- The least number of victims, in order, without which a gang fits. -/
def State.enoughVictims (s : State) (fits : State → Bool) (taken : List Nat) : List Nat → Option (List Nat)
  | [] => if fits (s.without taken) then some taken else none
  | v :: vs => if fits (s.without taken) then some taken else s.enoughVictims fits (taken ++ [v]) vs

/-- The gangs on their way out. -/
def State.leaving (s : State) : List Nat :=
  (s.gangs.filter fun e => !e.2.done && (e.2.pre == .stopping || e.2.pre == .saving)).map (·.1)

/-- What a distributor does with the gang whose turn it is: places it, pre-empts for it, or ends it (R336, R339, R341). -/
inductive Placing where
  | start (plan : List CorePlan)
  | preempt (gids : List Nat)
  | fail (code : Nat)
  deriving DecidableEq, Repr

/-- The place of a gang on a die, if anything can be done for it now. -/
def State.placeOn (s : State) (d lid : Nat) (l : Launch) (i : Nat) : Option Placing :=
  let size := l.spec.gangSize i
  let clusters := s.openClusters l.part [2 * d, 2 * d + 1]
  if s.possible l.part l.spec size = false then some (.fail 0x02)
  else match s.planGang lid l.spec size clusters with
    | some p => some (.start p)
    | none =>
      if l.cls ≠ 0 then none
      else
        let gone := s.leaving
        let fitsOn := fun c (s : State) => (s.planGang lid l.spec size [c]).isSome
        if clusters.any fun c => fitsOn c (s.without gone) then none
        else (clusters.findSome? fun c => (s.without gone).enoughVictims (fitsOn c) [] ((s.victimsOn c))).map .preempt

/-- A saved gang that could be restored comes before new gangs of its class and of lower ones (R340). -/
def State.restoreFirst (s : State) (cls : Nat) : Bool :=
  s.gangs.any fun e => e.2.pre == .saved && !e.2.done && (match s.launch? e.2.lid with
    | none => false
    | some l => decide (l.cls ≤ cls) &&
      (s.planGang (2 ^ 64) l.spec e.2.wgs.length (s.openClusters l.part (List.range 8))).isSome)

/-- Grids in the order in which their gangs are placed (R340). -/
def State.gridOrder (s : State) : List (Nat × Launch) :=
  let l := s.launches.filter fun e => e.2.kind == .grid && !e.2.done && e.2.held.isNone
  sortBy (fun e => e.2.cls * 2 ^ 64 + e.2.order) l

/-- What a die's distributor does next: the launch, the gang, and its place (R336-R341). -/
def State.nextPlacement (s : State) (d : Nat) : Option (Nat × Nat × Placing) :=
  s.gridOrder.findSome? fun e =>
    match s.depRead e.2 with
    | .error _ => none
    | .ok (_, bm, err) =>
      let l := e.2.chunk d
      if err ≠ 0 then (l.head?).map fun i => (e.1, i, .fail 0x20)
      else match l.find? (e.2.spec.ready bm) with
        | none => none
        | some i => if s.restoreFirst e.2.cls then none else (s.placeOn d e.1 e.2 i).map fun p => (e.1, i, p)

/-- Requests the pre-emption of a gang that runs (R359). -/
def State.stopGang (s : State) (gid : Nat) : State :=
  match s.gang? gid with
  | none => s
  | some g => if g.pre = .run ∧ g.done = false then s.putGang gid { g with pre := .stopping } else s

/-- A distributor places a gang (R339), pre-empts for a realtime one (R341), or ends one that cannot start; none while
a limit is exceeded at the lowest clock (R403). -/
def execGangPlacement (die lid gang : Nat) (s : State) : Out :=
  match s.nextPlacement die, s.launch? lid with
  | some (lid', i, p), some l =>
    if lid' ≠ lid ∨ i ≠ gang ∨ s.hot = true then .next s
    else
      let s := match s.depRead l with
        | .ok (s, _) => s
        | .error _ => s
      let taken := s.putLaunch lid (l.take die i)
      (match p with
       | .start plan => .next (taken.startGang lid l.spec i 0 plan)
       | .preempt gids => .next (gids.foldl State.stopGang s)
       | .fail code => .next (taken.gangDone lid (some code) []))
  | _, _ => .next s

/-- A launch's dependence read that fails: what stops it (R349). -/
def State.launchFails (s : State) (l : Launch) : Option Verdict :=
  match s.depRead l with
  | .error v => if l.kind = .grid ∧ l.done = false ∧ (l.chunks.any fun c => !c.2.isEmpty) then some v else none
  | .ok _ => none

/-- Every gang not started completes with an error (R335, R336). -/
def State.failRest (s : State) (lid code : Nat) : State :=
  match s.launch? lid with
  | none => s
  | some l =>
    let left := (List.range 4).flatMap l.unstarted
    let s := s.putLaunch lid { l with chunks := l.chunks.map fun c => (c.1, []), held := none }
    left.foldl (fun s _ => s.gangDone lid (some code) []) s

/-! ## Reports and steals (R338) -/

/-- A distributor's report of its ready gangs, once every 4,096 fabric cycles. -/
def execResidencyReport (die : Nat) (s : State) : Out :=
  let period := s.fab / 4096
  if 4 ≤ die ∨ period ≤ Sparse.get 0 s.reported die then .next s
  else
    let report := fun (l : Launch) => l.reports.zipIdx.map fun e => if e.2 = die then (s.allReady l die).length else e.1
    .next { s with
      reported := Sparse.set 0 s.reported die period
      launches := s.launches.map fun e => if e.2.kind = .grid ∧ e.2.done = false then (e.1, { e.2 with reports := report e.2 }) else e }

/-- The die whose last report shows the most ready gangs; the lowest of those. -/
def mostReady (l : List Nat) (thief : Nat) : Nat :=
  let dies := (List.range 4).filter (· != thief)
  dies.foldl (fun b d => if l.getD b 0 < l.getD d 0 then d else b) (dies.headD 0)

/-- The gangs that a victim gives: the upper half, rounded down, of its ready ones. -/
def stolen (ready : List Nat) : List Nat := ready.drop (ready.length - ready.length / 2)

/-- A steal and its answer. -/
def execStealMessage (thief victim lid : Nat) (s : State) : Out :=
  match s.launch? lid with
  | none => .next s
  | some l =>
    let room := (s.planGang lid l.spec l.spec.gang (s.openClusters l.part [2 * thief, 2 * thief + 1])).isSome
    if 4 ≤ thief ∨ l.kind ≠ .grid ∨ l.done = true ∨ (s.allReady l thief).isEmpty = false ∨ mostReady l.reports thief ≠ victim ∨
        room = false then .next s
    else
      let got := stolen (s.readyGangs l victim)
      let move := fun (e : (Nat × List Nat) × Nat) =>
        if e.2 = thief then (e.1.1, sortBy id (e.1.2 ++ got))
        else if e.2 = victim then (e.1.1, e.1.2.filter fun i => !got.contains i) else e.1
      .next (s.putLaunch lid { l with chunks := l.chunks.zipIdx.map move })

/-! ## Patterns (R257-R266, R333, R410) -/

/-- Starts the gangs of a program node, one after another (R333); none when one does not fit. -/
def State.startNode (s : State) (part nrec k : Nat) (pixel : Bool) (lid : Nat) (g : GridSpec) : List Nat → Option State
  | [] => some s
  | i :: is =>
    let clusters := s.openClusters part (if pixel then [2 * (i % 4), 2 * (i % 4) + 1] else List.range 8)
    match s.planGang lid g (g.gangSize i) clusters with
    | none => none
    | some p => (s.startGang lid g i (nrec + 128 * k) p).startNode part nrec k pixel lid g is

def State.startNodes (s : State) (part : Nat) (p : PatternSpec) : List (NodeSpec × Nat) → Option State
  | [] => some s
  | (n, k) :: l =>
    match n.kind, s.launch? n.lid with
    | none, some x =>
      (match s.startNode part p.nrec k (p.pixel k) n.lid x.spec (List.range x.spec.gangs) with
       | none => none
       | some s => s.startNodes part p l)
    | _, _ => s.startNodes part p l

/-- The workgroups of a node: their numbers and cores. -/
def State.nodeWgs (s : State) (n : NodeSpec) : List (Nat × Nat) :=
  if n.kind.isSome then [] else (s.wgs.filter fun e => e.2.lid == n.lid).map fun e => (e.1, e.2.core)

/-- The tile-owning cores of a pattern in placement. -/
def State.pixelCores (s : State) (p : PatternSpec) : List Nat :=
  let on := p.nodes.zipIdx.flatMap fun e => if p.pixel e.2 then (s.nodeWgs e.1).map (·.2) else []
  (List.range 384).filter on.contains

/-- Where the instances of a fixed node run (R333). -/
def State.fixedPlaces (s : State) (p : PatternSpec) (n : NodeSpec) : List Nat :=
  let cores := s.pixelCores p
  match n.kind with
  | some .raster => (List.range 8).filter fun c => cores.any fun m => m / 48 == c
  | some .blend => cores
  | some .trav =>
    let on := p.nodes.flatMap fun x => match n.ins.getD 0 none with
      | none => []
      | some k => if x.outs.contains (some k) then (s.nodeWgs x).map (·.2) else []
    (List.range 384).filter on.contains
  | none => []

/-- Adds the instances of the fixed nodes: for each its node in the table and its number. -/
def State.addFixed (s : State) (pat : Nat) (p : PatternSpec) : List (NodeSpec × Nat) → State × List (Nat × Nat)
  | [] => (s, [])
  | (n, k) :: l =>
    let st := n.raster.or (p.nodes.findSome? (·.raster))
    let add := fun (x : State × List (Nat × Nat)) place =>
      match n.kind with
      | none => x
      | some kind =>
        ({ x.1.putNode x.1.serial { lid := pat, kind := kind, place := place, ins := [], outs := [], state := st, heldRecords := []
                                    touched := [], closed := false, held := none, heldAddr := 0 } with serial := x.1.serial + 1 },
         x.2 ++ [(k, x.1.serial)])
    let r := (s.fixedPlaces p n).foldl add (s, [])
    let t := r.1.addFixed pat p l
    (t.1, r.2 ++ t.2)

/-- One spool of a pattern to be made: the declared spool, the die or core of a replica or share, its producers, and its
consumers, each a workgroup's or a node's number with its core; and the cores of the end nodes' instances (R260). -/
structure SpoolPlan where
  k : Nat
  die : Option Nat
  share : Bool
  bcst : Bool
  makers : List (Nat × Nat)
  takers : List (Nat × Nat)
  ends : List Nat
  deriving DecidableEq, Repr

/-- The ends of a declared spool: instances with their cores, a `raster` instance's core being its cluster's first. -/
def State.spoolEnd (s : State) (p : PatternSpec) (fixed : List (Nat × Nat)) (n : Nat) : List (Nat × Nat) :=
  match p.nodes[n]? with
  | none => []
  | some x => s.nodeWgs x ++ (fixed.filter fun e => e.1 == n).map fun e =>
      (e.2, match s.node? e.2 with
        | none => 0
        | some y => if y.kind = .raster then 48 * y.place else y.place)

/-- The producers that close and feed a share of a `blend` spool: those on its core, and in the first share also those on cores that
own no tile, which hold no ticket and so place nothing (R259, R272; assumption 49, DEDUCED). -/
def shareMakers (cores : List Nat) (m : Nat) (a : List (Nat × Nat)) : List (Nat × Nat) :=
  a.filter fun e => e.2 == m || (cores.head? == some m && !cores.contains e.2)

/-- The spools that a declaration becomes (R266, R267, R272): a replica for each die, a share for each tile-owning core,
or one; one also where no core owns tiles, so that each port of the pattern table is bound (R259). -/
def State.spoolPlans (s : State) (p : PatternSpec) (fixed : List (Nat × Nat)) (k : Nat) (d : SpoolDecl) : List SpoolPlan :=
  let a := s.spoolEnd p fixed (((p.producers k).headD (64, 0)).1)
  let b := s.spoolEnd p fixed (((p.consumers k).headD (64, 0)).1)
  let cores := s.pixelCores p
  let whole : SpoolPlan := { k := k, die := none, share := false, bcst := d.bcst, makers := a, takers := b, ends := (a ++ b).map (·.2) }
  let plans : List SpoolPlan :=
    if p.readBy k = some .raster then
      ((List.range 4).filter fun die => cores.any fun m => m / 96 == die).map fun die =>
        let readers := b.filter fun e => e.2 / 96 == die
        { whole with die := some die, bcst := true, takers := readers, ends := (a ++ readers).map (·.2) }
    else if p.fedBy k = some .raster then
      cores.map fun m => { whole with
        die := some m, share := true, makers := a.filter fun e => e.2 / 48 == m / 48, takers := b.filter fun e => e.2 == m }
    else if p.readBy k = some .blend then
      cores.map fun m => { whole with die := some m, share := true, makers := shareMakers cores m a, takers := b.filter fun e => e.2 == m }
    else [whole]
  if plans.isEmpty then [{ whole with bcst := d.bcst || p.readBy k == some .raster }] else plans

/-- All of a spool's instances run in one cluster (R260). -/
def SpoolPlan.cluster (x : SpoolPlan) : Option Nat :=
  match x.ends with
  | [] => none
  | e :: es => if es.all fun f => f / 48 == e / 48 then some (e / 48) else none

/-- The lowest core of a cluster whose A store has room (R260, R334). -/
def State.spoolStore (s : State) (cluster n : Nat) : Option (Nat × Nat) :=
  (List.range 48).findSome? fun c =>
    let core := 48 * cluster + c
    if s.retired.contains core then none else (s.placeA core n false).map fun o => (core, o)

/-- Makes one spool, its header and tags written (R104, R333); none when its storage does not fit. -/
def State.makeSpool (s : State) (pat : Nat) (p : PatternSpec) (d : SpoolDecl) (x : SpoolPlan) : Option State :=
  let y : SpoolUnit :=
    { lid := pat, nslot := d.slots, ssz := d.bytes, mem := x.cluster.isNone, quad := p.fedBy x.k == some .raster || p.readBy x.k == some .blend, bcst := x.bcst
      hdr := 64 * (Config.spoolBase pat (x.k + 256 * (x.die.getD 0))).toNat
      readers := if x.bcst then x.takers.map fun e => (e.1, 0) else [], tickets := [], store := none, die := if x.share then x.die else none
      decl := x.k + (if x.share then 256 * (1 + x.die.getD 0) else 0), fromRaster := p.fedBy x.k == some .raster
      toBlend := p.readBy x.k == some .blend, pending := [], held := none }
  let put := fun (y : SpoolUnit) => some { s.initSpool s.serial y x.makers.length with serial := s.serial + 1 }
  match x.cluster with
  | none => put y
  | some c => (s.spoolStore c y.storeBytes).bind fun o => put { y with store := some o }

/-- The first failed access of the launch's writes of spools (R333, R349). -/
def State.spoolFails (s : State) (pat : Nat) : Option XFail :=
  (s.spools.filter fun e => e.2.lid == pat).findSome? fun e => s.storageFault e.2

/-- Makes the spools in turn: for each its number and its plan. -/
def State.makeSpools (s : State) (pat : Nat) (p : PatternSpec) : List (SpoolDecl × SpoolPlan) → Option (State × List (Nat × SpoolPlan))
  | [] => some (s, [])
  | (d, x) :: l =>
    match s.makeSpool pat p d x with
    | none => none
    | some s' => (s'.makeSpools pat p l).map fun r => (r.1, (s.serial, x) :: r.2)

/-- The spool that an instance is bound to for a declared spool. -/
def spoolOf (made : List (Nat × SpoolPlan)) (inst : Nat) (k : Option Nat) (taker : Bool) : Option Nat :=
  match k with
  | none => none
  | some k => (made.find? fun e => e.2.k == k && ((if taker then e.2.takers else e.2.makers).any fun x => x.1 == inst)).map (·.1)

/-- Binds the ports of the workgroups and the nodes (R259). -/
def State.bindPorts (s : State) (p : PatternSpec) (fixed : List (Nat × Nat)) (made : List (Nat × SpoolPlan)) : State :=
  let s := p.nodes.foldl (fun s n => (s.nodeWgs n).foldl (fun s e => match s.wg? e.1 with
    | none => s
    | some w => s.putWg e.1 { w with inPorts := n.ins.map (spoolOf made e.1 · true), outPorts := n.outs.map (spoolOf made e.1 · false) }) s) s
  fixed.foldl (fun s e => match s.node? e.2, p.nodes[e.1]? with
    | some x, some n =>
      let outs := if x.kind = .raster then
          let mine := made.filter fun m => some m.2.k == n.outs.getD 0 none && m.2.makers.any fun y => y.1 == e.2
          (if mine.all fun m => m.2.share then mine else mine.take 1).map fun m => some m.1
        else n.outs.map (spoolOf made e.2 · false)
      s.putNode e.2 { x with ins := n.ins.map (spoolOf made e.2 · true), outs := outs }
    | _, _ => s) s

/-- A port word of a node record (R259). -/
def State.portWord (s : State) (k : Option Nat) : Nat :=
  match k.bind s.unit? with
  | none => 0
  | some x =>
    let hdr := match x.store with
      | some (core, ofs) => 3 * 2 ^ 29 + core % 48 * 2 ^ 21 + ofs
      | none => x.hdr
    2 ^ 63 + x.mem.toNat * 2 ^ 62 + x.quad.toNat * 2 ^ 61 + x.bcst.toNat * 2 ^ 60 + hdr

/-- The ports of a node's first instance; of a node without instances, those that the pattern table gives it. -/
def State.nodePorts (s : State) (p : PatternSpec) (fixed : List (Nat × Nat)) (made : List (Nat × SpoolPlan)) (k : Nat) :
    List (Option Nat) :=
  match (p.nodes[k]?).bind fun n => (s.nodeWgs n).head?, fixed.find? fun e => e.1 == k with
  | some e, _ => ((s.wg? e.1).getD emptyWg).inPorts ++ ((s.wg? e.1).getD emptyWg).outPorts
  | none, some e =>
    (match s.node? e.2 with
     | none => []
     | some x => (x.ins ++ List.replicate (8 - x.ins.length) none) ++ (if x.kind = .raster then x.outs.take 1 else x.outs))
  | none, none =>
    (match p.nodes[k]? with
     | none => []
     | some n => (n.ins ++ n.outs).map fun j => j.bind fun j => (made.find? fun e => e.2.k == j).map (·.1))

/-- The node-record area (R259): 128 bytes for each node. -/
def State.nodeRecords (s : State) (p : PatternSpec) (fixed : List (Nat × Nat)) (made : List (Nat × SpoolPlan)) : List Byte :=
  (List.range p.nodes.length).flatMap fun k =>
    (List.range 16).flatMap fun i => toBytes 8 (s.portWord ((s.nodePorts p fixed made k).getD i none))

/-- Every owned tile lies in its pixel node's A window (R273, R410). -/
def State.tilesFit (s : State) (p : PatternSpec) : Bool :=
  let cores := s.pixelCores p
  p.nodes.all fun n => match n.raster with
    | none => true
    | some r => cores.all fun m =>
      let tiles := (ownedTiles cores m (r.surface.levelExt 0 0) (r.surface.levelExt 0 1)).length
      p.nodes.zipIdx.all fun x => !p.pixel x.2 || s.wgs.all fun w =>
        w.2.lid != x.1.lid || w.2.core != m || decide (32768 * tiles ≤ w.2.asize)

/-- A pattern placed whole, with the numbers of its fixed instances and its spools (R333); none when it does not fit. -/
def State.placeWhole (s : State) (pat : Nat) (l : Launch) (p : PatternSpec) :
    Option (State × List (Nat × Nat) × List (Nat × SpoolPlan)) := do
  let s ← s.startNodes l.part p p.nodes.zipIdx
  let r := s.addFixed pat p p.nodes.zipIdx
  let plans := p.spools.zipIdx.flatMap fun d => (r.1.spoolPlans p r.2 d.2 d.1).map fun x => (d.1, x)
  let m ← r.1.makeSpools pat p plans
  some (m.1.bindPorts p r.2 m.2, r.2, m.2)

/-- The machine with every cluster empty (R333). -/
def State.emptied (s : State) : State :=
  { s with
    waves := [], wgs := [], spools := [], gangs := []
    regs := { s.regs with mbox := { s.regs.mbox with pending := none } } }

/-- The launches of a pattern's program nodes have ended. -/
def State.dropNodes (s : State) (pat : Nat) : State :=
  { s with launches := s.launches.map fun e => match e.2.kind with
      | .node x _ => if x = pat then (e.1, { e.2 with live := 0, done := true }) else e
      | _ => e }

/-- A pattern that starts nothing completes with a code (R333, R410). -/
def State.failPattern (s : State) (pat code : Nat) : State :=
  match s.launch? pat with
  | none => s
  | some l => ((s.dropNodes pat).putLaunch pat { l with live := 0, error := code, placed := true, held := none }).settleTop pat

/-- The dependences of a pattern's program nodes (R332, R336): none that is not met, the state after their reads; else what is to
come. A pattern is placed whole, so it waits for all of them, and fails with any of them (assumption 103, DESIGN CHOICE). -/
def State.nodesReady (s : State) : List NodeSpec → Except (Option Verdict) (State × Bool)
  | [] => .ok (s, false)
  | n :: ns =>
    match s.launch? n.lid, n.kind with
    | some x, none =>
      (match s.depRead x with
       | .error v => .error (some v)
       | .ok (s, bm, err) =>
         if err ≠ 0 then .ok (s, true)
         else if (List.range x.spec.gangs).all (x.spec.ready bm) = false then .error none
         else s.nodesReady ns)
    | _, _ => s.nodesReady ns

/-- A pattern's launch (R333, R410, R259): placed, ended, or stopped by its write of the node records (assumption 52, DEDUCED). -/
def State.placeStep (s : State) (pat : Nat) : NodeStep :=
  match s.launch? pat with
  | none => .error none
  | some l =>
    match l.pattern with
    | none => .error none
    | some p =>
      if l.placed ∨ l.done ∨ l.held.isSome ∨ s.hot then .error none
      else if (s.emptied.placeWhole pat l p).isNone then .ok (s.failPattern pat 0x02)
      else match s.nodesReady p.nodes with
        | .error v => .error v
        | .ok (s, true) => .ok (s.failPattern pat 0x20)
        | .ok (s, false) =>
          match s.placeWhole pat l p with
          | none => .error none
          | some (t, fixed, made) =>
            if t.tilesFit p = false then .ok (s.failPattern pat 0x04)
            else match t.spoolFails pat, t.agentWrite (t.launchAcc l) p.nrec (t.nodeRecords p fixed made) with
              | some e, _ => .error (some (.trap true e))
              | none, .error v => .error (some v)
              | none, .ok t =>
                let live := (p.nodes.filter fun n => n.kind.isNone).length + fixed.length
                .ok (t.putLaunch pat { l with placed := true, live := live })

/-- A waiting pattern fits and is placed whole (R333). -/
def execPatternPlacement (lid : Nat) (s : State) : Out := schedDone s (s.placeStep lid)

end Sys2Proof.Machine
end

