-- ==== Sys2Proof/Machine/Held.lean ====
section
/-! DEFINITION. Held faults and their replies (18 R349-R351, R356; 07 R138; 10 R208). -/

namespace Sys2Proof.Machine

/-! ## The records of held faults (R350) -/

/-- The agent number of a thread's unit. -/
def Engine.agent : Engine → Nat
  | .trace .. => 3
  | .mest _ => 5
  | _ => 1

def NodeKind.agent : NodeKind → Nat
  | .raster => 8
  | .blend => 9
  | .trav => 3

/-- A record of an access of the scheduler, of a fixed node or of the controller of a spool: no gang and no wave. -/
def unitRecord (a : Acc) (x : XFail) (write : Bool) (agent queue : Nat) : FaultRec :=
  { addr := x.addr
    asn := a.asn, gtag := a.gen
    cause := x.cause
    sub := x.sub
    flags := 4 + write.toNat, agent := agent, wid := 0x7FFF, entry := 0xFF, fid := 0, pc := 0, gang := 0, queue := queue }

/-! ## What holds a unit -/

/-- The first ray of a thread that a failed fetch stops. -/
def State.rayStop (s : State) (t : Thread) (port : Option Nat) (rays : List RayState) : Option (RayState × Verdict) :=
  rays.findSome? fun x =>
    if x.done then none
    else match (s.rayRun t.acc port.isSome x.words x.resume).2 with
      | .failed _ (.trap w e) _ => some (x, .trap w e)
      | _ => none

/-- The failed access at which a thread's next unit of work stops, with the lane of its ray. -/
def State.threadStop (s : State) (tid : Nat) (t : Thread) : Option (Verdict × Option Nat) :=
  match t.engine with
  | .copy x =>
    (match s.copyUnit tid t x with
     | .error (.trap w e) => some (.trap w e, none)
     | _ => none)
  | .trace port _ rays => (s.rayStop t port rays).map fun r => (r.2, some r.1.lane)
  | _ => none

/-- The access that a thread of an old generation makes first (R138), with the lane of its ray. -/
def State.threadTouches (s : State) (tid : Nat) (t : Thread) : Option ((Bool × Nat) × Option Nat) :=
  match t.engine with
  | .copy x => (s.copyTouches tid t x).map fun r => (r, none)
  | .trace port _ rays => rays.findSome? fun x => if x.done then none else (s.rayTouches t port x).map fun r => (r, some x.lane)
  | _ => none

/-- A thread waits at an access, with its record (R349). -/
def State.holdThread (s : State) (tid : Nat) (t : Thread) (write : Bool) (x : XFail) (lane : Option Nat) : State :=
  let r := s.gangRecord t.gid t.asn t.gen x (4 + write.toNat) t.engine.agent t.wid t.entry t.pc
  let s := s.recordFault t.part r
  s.1.putThread tid { t with held := some s.2, ray := lane.map fun j => (j, r.addr) }

/-- A fixed node's step; `fail`: its access cannot be serviced. -/
def State.nodeStep (s : State) (nid : Nat) (n : Node) (fail : Bool) : NodeStep :=
  match n.kind with
  | .raster => s.rasterStep nid n
  | .trav => if fail then .ok (s.travFail nid n) else s.travStep nid n
  | .blend =>
    match s.blendStep nid n fail with
    | .error none => s.blendEnd nid n fail
    | r => r

/-- A panel waits on a spool: in an `emit` to one of its replicas, or in a `pull` from it. -/
def State.panelWaits (s : State) (k : Nat) (x : Waiting) (wg : Workgroup) : Bool :=
  match x.instr with
  | .emit _ port .. => (match wg.outPorts.getD port none with
    | none => false
    | some j => (s.replicas j).contains k)
  | .pull _ _ port _ => wg.inPorts.getD port none == some k
  | _ => false

/-- Something has to be done in the storage of a spool: closes are pending, or a panel, a fixed node or a traversal is at one of its
ends. -/
def State.spoolWanted (s : State) (k : Nat) (u : SpoolUnit) : Bool :=
  !u.pending.isEmpty ||
  (s.waves.any fun e => e.2.alive && e.2.entries.any fun n => match (e.2.panel n).wait with
    | none => false
    | some x => s.panelWaits k x ((s.wg? e.2.wg).getD emptyWg)) ||
  (s.nodes.any fun e => !e.2.closed && (e.2.ins.contains (some k) || e.2.outs.contains (some k))) ||
  s.threads.any fun e => match e.2.engine with
    | .trace port _ _ => s.requestSpool e.2 port == some k
    | _ => false

/-- The failed access that a launch's dependence read or its write of node records meets. -/
def State.launchStop (s : State) (lid : Nat) (l : Launch) : Option Verdict :=
  if l.held.isSome then none
  else match s.launchFails l, s.placeStep lid with
    | some v, _ => some v
    | none, .error (some v) => some v
    | _, _ => none

/-- What a failed access does with the unit that makes it. -/
def heldAt (s : State) (v : Option Verdict) (k : Bool → XFail → State) : Out :=
  match v with
  | some (.trap w e) => .next (k w e)
  | _ => .next s

/-- A unit's access fails translation or permission: a record goes to the ring, and the unit waits (R349). -/
def execHeldEngineFault (u : HeldUnit) (s : State) : Out :=
  match u with
  | .thread tid =>
    (match s.thread? tid with
     | none => .next s
     | some t =>
       if s.threadRuns t = false then .next s
       else
         let x := s.threadStop tid t
         heldAt s (x.map (·.1)) fun w e => s.holdThread tid t w e (x.bind (·.2)))
  | .node nid =>
    (match s.node? nid with
     | none => .next s
     | some n =>
       if n.closed ∨ n.held.isSome then .next s
       else
         let v := match s.nodeStep nid n false with
           | .error v => v
           | .ok _ => none
         heldAt s v fun w e =>
           let a := s.nodeAcc n
           let r := s.recordFault a.part (unitRecord a e w n.kind.agent (((s.launch? n.lid).map (·.queue)).getD 0))
           r.1.putNode nid { n with held := some r.2, heldAddr := e.addr })
  | .spool k =>
    (match s.unit? k with
     | none => .next s
     | some u =>
       if u.held.isSome || !s.spoolWanted k u then .next s
       else heldAt s ((s.storageFault u).map (Verdict.trap true)) fun w e =>
         let a := s.spoolAcc u
         let r := s.recordFault a.part (unitRecord a e w 4 (((s.launch? u.lid).map (·.queue)).getD 0))
         r.1.putUnit k { u with held := some r.2 })
  | .launch lid =>
    (match s.launch? lid with
     | none => .next s
     | some l => heldAt s (s.launchStop lid l) fun w e =>
         let r := s.recordFault l.part (unitRecord (s.launchAcc l) e w 6 l.queue)
         r.1.putLaunch lid { l with held := some r.2 })
  | .queue q =>
    let x := s.queue q
    if x.held.isSome then .next s
    else heldAt s (s.queueFails q) fun w e =>
      let r := s.recordFault x.part (unitRecord (s.queueAcc q) e w 6 q)
      r.1.setQueue q { r.1.queue q with held := some r.2 }
  | .lane .. => .next s

/-! ## Stale generations (R138, R208) -/

def setOutst (l : List Outstanding) (idx : Nat) (x : Outstanding) : List Outstanding :=
  l.zipIdx.map fun e => if e.2 = idx then x else e.1

/-- The loads of an outstanding result that the home L2 may still find to be of an old generation: those it was asked for, while the
panel has done nothing since (assumption 82, DEDUCED). -/
def State.rejectable (s : State) (c : Cur) (x : Outstanding) : List HeldAccess :=
  let p := s.panel c
  let a := s.laneAcc c
  if x.gen = s.genOf a.part a.asn ∨ x.held.isEmpty = false ∨ p.doneAt ≠ x.issued ∨ p.wait.isSome = true ∨ p.progress ≠ 0 then []
  else x.asked

/-- The home L2 rejects an access of an old generation: it is held with a record (R138, R349). -/
def execStaleGenerationReject (u : HeldUnit) (s : State) : Out :=
  match u with
  | .thread tid =>
    (match s.thread? tid with
     | none => .next s
     | some t =>
       if s.threadRuns t = false ∨ s.fresh t = true ∨ (s.threadStop tid t).isSome = true then .next s
       else match s.threadTouches tid t with
         | none => .next s
         | some ((w, va), lane) => .next (s.holdThread tid t w (.fail 0x12 0 va) lane))
  | .lane wid e idx =>
    let c : Cur := { wid := wid, entry := e, len := 1 }
    (match (s.panel c).outst[idx]? with
     | none => .next s
     | some x =>
       match s.rejectable c x with
       | [] => .next s
       | l =>
         let r := s.holdAccesses c { s.laneAcc c with gen := x.gen } x.pc 0x12 0 l
         let p := r.1.panel c
         .next (r.1.setPanel c { p with outst := setOutst p.outst idx { x with asked := [], held := r.2 } }))
  | _ => .next s

/-! ## Replies (R351) -/

/-- The thread that a reply names. -/
def State.replyThread (s : State) (p fid : Nat) (fail : Bool) : Option State :=
  (s.threads.find? fun e => e.2.held == some fid && e.2.part == p).map fun e =>
    let t := { e.2 with held := none, ray := none, gen := s.genOf e.2.part e.2.asn }
    if fail = false then s.putThread e.1 t
    else match t.engine, e.2.ray with
      | .trace port d rays, some (lane, addr) =>
        (match rays.find? fun x => x.lane == lane with
         | none => s.putThread e.1 t
         | some x =>
           let r := match (s.rayRun t.acc port.isSome x.words x.resume).2 with
             | .failed r _ _ => r
             | _ => Ray.ofState x.words
           (s.putThread e.1 t).deliverRay e.1 t port d lane rays (s.rayResult r (some addr) none))
      | _, _ => s.endThread e.1

/-- The fixed node that a reply names. -/
def State.replyNode (s : State) (p fid : Nat) (fail : Bool) : Option State :=
  (s.nodes.find? fun e => e.2.held == some fid && (s.nodeAcc e.2).part == p).map fun e =>
    let n := { e.2 with held := none }
    let s := s.putNode e.1 n
    if fail = false then s
    else match s.nodeStep e.1 n true with
      | .ok t => t
      | .error _ => s

/-- The spool whose controller a reply names: it tries its storage again, also after a fail reply, for which no effect is stated
(assumption 28, DESIGN CHOICE). -/
def State.replySpool (s : State) (p fid : Nat) : Option State :=
  (s.spools.find? fun e => e.2.held == some fid && (s.spoolAcc e.2).part == p).map fun e =>
    (s.putUnit e.1 { e.2 with held := none }).settleSpool e.1

/-- A write of the scheduler that stays unwritten (R335): a grid that had no error now has 0x11, and its error word is
tried; an error word of which the own write failed is tried once more (assumption 52, DEDUCED). -/
def failedWrites (l : Launch) (w : SchedWrite) (ws : List SchedWrite) : List SchedWrite :=
  match w with
  | .error addr _ => .errorAgain addr :: ws
  | .errorAgain _ => ws
  | _ => if l.spec.cbm = 0 ∨ l.error ≠ 0 then ws else .error (errorWord l.spec.cbm l.spec.count) 0x11 :: ws

/-- A launch has an error, if it had none. -/
def State.launchError (s : State) (lid code : Nat) : State :=
  match s.launch? lid with
  | none => s
  | some l => s.putLaunch lid { l with error := if l.error = 0 then code else l.error }

/-- A write of a launch is left out (R335): the launch has error 0x11, and so has the pattern of a node. -/
def State.writeLost (s : State) (lid : Nat) (l : Launch) : State :=
  match l.kind with
  | .node pat _ => (s.launchError lid 0x11).launchError pat 0x11
  | _ => s.launchError lid 0x11

/-- The launch that a reply names. -/
def State.replyLaunch (s : State) (p fid : Nat) (fail : Bool) : Option State :=
  (s.launches.find? fun e => e.2.held == some fid && e.2.part == p).map fun e =>
    let lid := e.1
    let l := { e.2 with held := none }
    match l.writes with
    | w :: ws =>
      let s := s.putLaunch lid l
      let s := if fail then s.writeLost lid l else s
      (s.schedWrites lid ((s.launch? lid).getD l) (if fail then failedWrites l w ws else w :: ws)).settleLaunch lid
    | [] =>
      if fail = false then s.putLaunch lid l
      else if l.kind = .pattern then s.failPattern lid 0x11
      else s.failRest lid 0x11

/-- The queue that a reply names. -/
def State.replyQueue (s : State) (p fid : Nat) (fail : Bool) : Option State :=
  (s.regs.queues.find? fun e => e.2.held == some fid && e.2.part == p).map fun e =>
    if fail then s.failQueue e.1 else s.setQueue e.1 { e.2 with held := none }

/-- A held access as it is made anew: with the generation of now, and what its instruction has read since (R138, R351). -/
def State.retryAcc (s : State) (c : Cur) (got : List (Nat × List Byte)) (h : HeldAccess) : Acc :=
  let a := s.laneAcc c
  let b := { a with gen := s.genOf a.part a.asn, evp := h.evp, got := got }
  match h.act with
  | .record => { b with core := none, clus := some (clusterOf (c.wid / 64)) }
  | _ => b

/-- What a retried access meets now (R349, R351): nothing that stops it, an error that ends its gang, or the failure with which it is
held again. -/
def State.retryAccess (s : State) (a : Acc) (h : HeldAccess) : Verdict :=
  match h.act with
  | .code =>
    (match s.translate a h.va .fetch with
     | .ok _ => .clear
     | .error (.poison _) => .ends 0x10
     | .error (.dead _) => .ends 0x11
     | .error e => .trap false e)
  | _ =>
    match s.judge a [h.access] with
    | .trap _ (.poison _) => .ends 0x10
    | .trap _ (.dead _) => .ends 0x11
    | v => v

/-- What comes of a held access that is performed: the gang ends with an error, or the state, the accesses that are held after it, and
what its instruction has read. -/
abbrev Performed := Except Nat (State × List HeldAccess × List (Nat × List Byte))

/-- A lane receives its result of a held access: its destination, its latch, and the element of a stream that is its destination, which
is an access of its own (R47, R49, R54). -/
def State.giveLane (s : State) (c : Cur) (a : Acc) (i : Instr) (d : HeldDst) (got : List (Nat × List Byte)) (lane : Nat)
    (f : Nat → Word) : Performed :=
  let m := BitVec.twoPow 64 lane
  let w := (s.wave c.wid).writeDst d.dst d.words m fun _ k => f k
  let w := match latchOf i with
    | none => w
    | some y => w.setLatch (latchNo y) m fun _ => latchValue d.words f
  let s := s.setWave c.wid w
  match d.elem with
  | none => .ok (s, [], got)
  | some (va, n) =>
    let x : Access := { lane := lane, va := va, n := n, write := true }
    let bs := toBytes n (latchValue d.words f).toNat
    match s.judge a [x] with
    | .clear => .ok ((s.storeEach a [(x, bs)]).wrote c m, [], got)
    | .ends code => .error code
    | .trap _ e =>
      let r := s.holdAccesses c a (s.panel c).pc e.cause e.sub [x.doing (.store bs) none]
      .ok (r.1, r.2, got)

/-- A held access is performed (R208). -/
def State.perform (s : State) (c : Cur) (i : Instr) (got : List (Nat × List Byte)) (h : HeldAccess) : Performed :=
  let a := s.retryAcc c got h
  let m := BitVec.twoPow 64 h.lane
  match h.act with
  | .pass =>
    if h.write then .ok (s, [], (h.access.mark, []) :: got)
    else
      let r := s.fetchBytes a h.va h.n
      .ok (r.1, [], (h.va, r.2) :: got)
  | .code => .ok (s.fillCode a (c.wid / 64) (h.va / 128), [], got)
  | .record =>
    (match s.recordBytes (clusterOf (c.wid / 64)) a h.va with
     | (s', .ok bs) => .ok (s', [], (h.va, bs) :: got)
     | (s', .error _) => .ok (s', [], got))
  | .load conv d =>
    let r := s.fetchBytes a h.va h.n
    r.1.giveLane c a i d ((h.va, r.2) :: got) h.lane (conv.word r.2)
  | .store bs => .ok ((s.storeEach a [(h.access, bs)]).wrote c m, [], got)
  | .rmw op ord scope d =>
    match s.translate a h.va .write with
    | .error _ => .ok (s, [], got)
    | .ok x =>
      if s.poisonPlace x then .error 0x10
      else
        let r := (s.cacheLeaves a [h.va]).rmwHome c (op.ty.width / 8) (relScope ord scope) op.new x
        let o := r.1.outcome c h.lane 1 (BitVec.ofNat 64 r.2)
        let t := if (op.new r.2).isSome then o.1.wrote c m else o.1
        let t := if ordAcquires ord then t.acquireAt c scope else t
        t.giveLane c a i d got h.lane (dwordWord o.2)

/-- A retry of a held access, with the translation and generation of now (R351): it is performed, held anew with a new record, or ends
the gang. `k` keeps what is held then and what has been read (assumption 85, DEDUCED). -/
def State.retry (s : State) (c : Cur) (i : Instr) (pc : Nat) (got : List (Nat × List Byte)) (h : HeldAccess)
    (k : State → List HeldAccess → List (Nat × List Byte) → State) : State :=
  let a := s.retryAcc c got h
  match s.retryAccess a h with
  | .ends code => s.endGang (s.curWg c).gid code
  | .trap _ e =>
    let r := s.holdAccesses c a pc e.cause e.sub [h]
    k r.1 r.2 got
  | .clear =>
    match s.perform c i got h with
    | .error code => s.endGang (s.curWg c).gid code
    | .ok (t, l, got) => k t l got

/-- A retry of an access of an outstanding result. A store, and an access of any other instruction whose results are in no slot, is
done with it. -/
def State.retryResult (s : State) (c : Cur) (idx : Nat) (x : Outstanding) (h : HeldAccess) : State :=
  s.retry c x.instr x.pc x.got h fun t l got =>
    let p := t.panel c
    let held := (x.held.filter fun y => y.fid != h.fid) ++ l
    let done := held.isEmpty && !variableLatency x.instr
    let y := { x with held := held, got := got, asked := if held.isEmpty then [] else x.asked, quads := if done then 0 else x.quads }
    t.setPanel c { p with outst := (setOutst p.outst idx y).filter fun o => o.quads != 0 }

/-- A retry of an access of an instruction that waits at its place (R349, R351): once none is held, the instruction goes on. -/
def State.retryWait (s : State) (c : Cur) (x : Waiting) (h : HeldAccess) : State :=
  s.retry c x.instr (s.panel c).pc (s.panel c).got h fun t l got =>
    let held := (x.held.filter fun y => y.fid != h.fid) ++ l
    t.setPanel c { t.panel c with got := got, wait := if held.isEmpty then none else some { x with held := held } }

/-- The cause that a held instruction's fault becomes (R289). -/
def unpackFault (aux : Nat) : Cause :=
  { cause := aux / 2 ^ 32 % 2 ^ 8, info := aux / 2 ^ 40 % 2 ^ 8, addr := aux / 2 ^ 48 }

/-- Whether a panel waits for the reply to a fault, and where: its own wait, an access of the instruction that it waits at, or the
result and lane. -/
inductive PanelHold where
  | wait (x : Waiting)
  | access (x : Waiting) (h : HeldAccess)
  | result (idx : Nat) (x : Outstanding) (h : HeldAccess)
  deriving DecidableEq, Repr

def Panel.holds (p : Panel) (fid : Nat) : Option PanelHold :=
  let own : Option PanelHold := match p.wait with
    | none => none
    | some x =>
      match x.instr with
      | .sample .. => if x.aux % 2 ^ 32 = fid then some (PanelHold.wait x) else none
      | .ctxFwd _ => if x.aux % 2 ^ 32 = fid then some (PanelHold.wait x) else none
      | _ => (x.held.find? fun h => h.fid == fid).map fun h => PanelHold.access x h
  own.or (p.outst.zipIdx.findSome? fun e => (e.1.held.find? fun h => h.fid == fid).map fun h => .result e.2 e.1 h)

/-- A reply reaches a panel (R351, R356, R289). -/
def State.panelReply (s : State) (c : Cur) (fail : Bool) : PanelHold → State
  | .result idx x h => if fail then s.endGang (s.curWg c).gid 0x11 else s.retryResult c idx x h
  | .access x h => if fail then s.endGang (s.curWg c).gid 0x11 else s.retryWait c x h
  | .wait x =>
    let p := { s.panel c with wait := none }
    match x.instr, p.frame with
    | .ctxFwd _, some f => if fail then s.endGang (s.curWg c).gid 0x11 else s.setPanel c (p.leaveTrap f)
    | _, _ =>
      let s := s.setPanel c p
      if fail then s.takeTrap { c with len := x.len } (unpackFault x.aux) else s

/-- The panels of a wave that wait for a reply. -/
def Wave.holder (w : Wave) (fid : Nat) : Option (Nat × PanelHold) :=
  w.entries.findSome? fun e => ((w.panel e).holds fid).map fun h => (e, h)

/-- The panel that a reply names. -/
def State.replyPanel (s : State) (p fid : Nat) (fail : Bool) : Option State :=
  s.waves.findSome? fun e =>
    if (s.laneAcc { wid := e.1, entry := 0, len := 1 }).part ≠ p then none
    else (e.2.holder fid).map fun h => s.panelReply { wid := e.1, entry := h.1, len := 1 } fail h.2

/-- A saved gang keeps a reply for its restore (R360). -/
def State.replySaved (s : State) (p fid : Nat) (fail : Bool) : Option State :=
  s.gangs.findSome? fun e =>
    match e.2.saved, s.launch? e.2.lid with
    | some v, some l =>
      if l.part = p ∧ (v.wgs.any fun x => x.waves.any fun w => (w.holder fid).isSome) = true then
        some (s.putGang e.1 { e.2 with saved := some { v with replies := v.replies ++ [(fid, fail)] } })
      else none
    | _, _ => none

/-- What a reply acts on. -/
def State.replyTo (s : State) (p fid : Nat) (fail : Bool) : State :=
  ((s.replyThread p fid fail).or ((s.replyPanel p fid fail).or ((s.replyNode p fid fail).or ((s.replySpool p fid).or
    ((s.replyLaunch p fid fail).or ((s.replyQueue p fid fail).or (s.replySaved p fid fail))))))).getD s

/-- Applies a reply (R351): none where the fault ID names no held record that waits for one. -/
def State.applyReply (s : State) (p fid : Nat) (fail : Bool) : Option State :=
  let x := s.part p
  if x.unreplied.contains fid then
    some ((s.setPart p { x with unreplied := x.unreplied.erase fid, fqpend := x.fqpend - 1 }).replyTo p fid fail)
  else none

/-- A write of FQREPLY (R343). -/
def execFqreply (who : Writer) (p : Nat) (val : DWord) (s : State) : Out :=
  if 8 ≤ p then .next s
  else if mayWrite who p = false then .next s
  else .next ((s.applyReply p (bits 31 0 val.toNat) (val.getLsbD 32)).getD s)

end Sys2Proof.Machine
end

