-- ==== Sys2Proof/Machine/System.lean ====
section
/-! DEFINITION. `ctx`, `tlbi` and `gen` (18 R354-R358; 07 R139). -/

namespace Sys2Proof.Machine

/-! ## `ctx` (R356) -/

/-- A trap frame whose resume point lies behind the trapping instruction, at `xpc`. -/
def Frame.skip (f : Frame) (p : Panel) (now : Nat) : Frame :=
  if f.pc = p.xpc.toNat then
    let q := { p with pc := f.pc, clause := f.clause }.advance f.len now
    { f with pc := q.pc, clause := q.clause }
  else f

/-- `ctx.skip`. -/
def execCtxSkip (s : State) : Out :=
  issue .ctxSkip s fun c s =>
    let p := s.panel c
    match p.frame with
    | none => illegal c s
    | some f => if f.onInstr = false then illegal c s else finish c (s.setPanel c { p with frame := some (f.skip p s.cycle), px := 0 })

/-- The record of `ctx.fwd`: of the trapping access, with the generation that it carried (R350). -/
def State.forwarded (s : State) (c : Cur) : FaultRec :=
  let p := s.panel c
  let a := s.laneAcc c
  let x := p.xcause.toNat
  s.gangRecord (s.curWg c).gid a.asn ((p.frame.map (·.gen)).getD a.gen) (.fail (bits 7 0 x) (bits 23 16 x) p.xaddr.toNat) (bits 24 24 x + 2 * bits 25 25 x + 12) 0
    c.wid c.entry p.xpc.toNat

/-- `ctx.fwd`: the panel waits for the reply. -/
def execCtxFwd (d : GDst) (s : State) : Out :=
  issue (.ctxFwd d) s fun c s =>
    let p := s.panel c
    let cause := bits 7 0 p.xcause.toNat
    if p.frame.isNone ∨ (cause ≠ 0x10 ∧ cause ≠ 0x11) then illegal c s
    else
      let r := s.recordFault (s.laneAcc c).part (s.forwarded c)
      let q := (r.1.panel c).writeG d (BitVec.ofNat 64 r.2)
      .next (r.1.setPanel c { q with wait := some { instr := .ctxFwd d, len := c.len, since := s.cycle, aux := r.2 } })

/-- The error that `ctx.end` gives (R356, R331). -/
def endCode (x : Nat) : Nat := if [0x01, 0x02, 0x03, 0x04, 0x10, 0x11, 0x12, 0x13, 0x20].contains x then x else 0x12

/-- `ctx.end`. -/
def execCtxEnd (a b : GSrc) (s : State) : Out :=
  issue (.ctxEnd a b) s fun c s =>
    let p := s.panel c
    if p.frame.isNone then illegal c s
    else .next (s.endWithRecord c.wid c.entry (endCode (bits 7 0 (p.gsrc a).toNat)) (p.gsrc b).toNat)

/-- `ctx.fqpop`: FQTAIL mod FQSIZE has no stated value where FQSIZE = 0 (assumption 2, DESIGN CHOICE). -/
def execCtxFqpop (d : GDst) (s : State) : Out :=
  issue (.ctxFqpop d) s fun c s =>
    let p := (s.laneAcc c).part
    let x := s.part p
    if x.fqhead = x.fqtail then finish c (s.setPanel c ((s.panel c).writeG d (BitVec.ofNat 64 (2 ^ 63))))
    else
      let slot := if x.fqsize = 0 then (Config.fqSlot x.fqtail).toNat else x.fqtail.toNat % x.fqsize.toNat
      let s := (s.setPart p { x with fqtail := x.fqtail + 1 }).retryRing p
      finish c (s.setPanel c ((s.panel c).writeG d (BitVec.ofNat 64 (x.fqbase.toNat + 64 * slot))))

/-- `ctx.reply`. -/
def execCtxReply (d : GDst) (a b : GSrc) (s : State) : Out :=
  issue (.ctxReply d a b) s fun c s =>
    let p := s.panel c
    match s.applyReply (s.laneAcc c).part (bits 31 0 (p.gsrc a).toNat) ((p.gsrc b).getLsbD 0) with
    | none => finish c (s.setPanel c (p.writeG d 1))
    | some s => finish c (s.setPanel c ((s.panel c).writeG d 0))

/-! ## `tlbi` (R357) -/

/-- A reserved bit is set, a count is 0, or the ASN names no valid entry (assumption 64, DEDUCED). -/
def State.tlbiBad (s : State) (p : Nat) (kind : TlbiKind) (a b : Nat) : Bool :=
  match kind with
  | .all => a != 0 || b != 0
  | _ => decide (2 ^ 57 ≤ a) || decide (2 ^ 48 ≤ b) || (kind == .range && bits 47 16 b == 0) || !s.asnOk p (bits 15 0 b)

/-- The TLB entries that a `tlbi` of a partition removes. -/
def TlbEntry.removed (t : TlbEntry) (p : Nat) (kind : TlbiKind) (a b : Nat) : Bool :=
  let size := 2 ^ levelShift t.level
  let first := a / 65536 * 65536
  let n := match kind with
    | .range => Sys2Proof.bits 47 16 b
    | _ => 1
  t.part == p && (match kind with
    | .all => true
    | .asn => t.asn == Sys2Proof.bits 15 0 b
    | _ => t.asn == Sys2Proof.bits 15 0 b && decide (t.page * size < first + 65536 * n) && decide (first < (t.page + 1) * size))

/-- `tlbi`: a release, then the panel waits for the invalidation. -/
def execTlbi (kind : TlbiKind) (a b : GSrc) (s : State) : Out :=
  issue (.tlbi kind a b) s fun c s =>
    let p := s.panel c
    if s.tlbiBad (s.laneAcc c).part kind (p.gsrc a).toNat (p.gsrc b).toNat then illegal c s
    else
      let s := s.releaseL1 (c.wid / 64)
      .next (s.setPanel c { p with wait := some { instr := .tlbi kind a b, len := c.len, since := s.cycle, aux := 0 } })

/-- The invalidation is complete everywhere; a gang on its way to a save waits for it too (R360). -/
def execTlbiComplete (wid e : Nat) (s : State) : Out :=
  let p := (s.wave wid).panel e
  match p.valid && s.waveEnds wid, p.wait with
  | true, some x =>
    (match x.instr with
     | .tlbi kind a b =>
       let c : Cur := { wid := wid, entry := e, len := x.len }
       let part := (s.laneAcc c).part
       let s := { s with tlb := s.tlb.filter fun t => !t.removed part kind (p.gsrc a).toNat (p.gsrc b).toNat }
       finish c (s.setPanel c { p with wait := none })
     | _ => .next s)
  | _, _ => .next s

/-! ## `gen` (R358, R139) -/

/-- A reserved bit is set, or the ASN names no valid entry. -/
def State.genBad (s : State) (p a : Nat) : Bool := decide (2 ^ 16 ≤ a) || !s.asnOk p a

/-- A core runs for a partition: a compute core of its clusters, or a display core whose last gang was its (R391). -/
def State.coreOf (s : State) (p core : Nat) : Bool :=
  if core < 384 then (s.part p).clus.getLsbD (clusterOf core) else Sparse.find s.owners core == some p

/-- The places of the lines of an address space in the L1s of a partition's cores. -/
def State.spaceLines (s : State) (p asn : Nat) : List Nat :=
  (s.l1.map (·.1)).filter fun ix => s.coreOf p (ixCore ix) && ixAsn ix == asn

/-- The written bytes that the L1s of a partition hold in lines of an address space go to their home L2s (R139, R358 2). -/
def State.flushSpace (s : State) (p asn : Nat) : State := (s.spaceLines p asn).foldl State.writeBackLine s

/-- The instruction-cache lines of an address space in a partition are invalid (R358 4). -/
def State.flushCode (s : State) (p asn : Nat) : State :=
  { s with icache := s.icache.filter fun e => !(s.coreOf p (codeCore e.1) && codeAsn e.1 == asn) }

/-- Writes GEN of an address-space table entry (R344). -/
def State.setGen (s : State) (p asn gen : Nat) : State :=
  { s with mem := Sparse.setBytes s.mem (s.astAddr p asn + 8) (toBytes 2 gen) }

/-- `gen.inc`: the change is made, and the panel waits until it has completed; one that finds another change of the address space
under way has yet to begin (R358). -/
def execGenInc (d : GDst) (a : GSrc) (s : State) : Out :=
  issue (.genInc d a) s fun c s =>
    let p := s.panel c
    let part := (s.laneAcc c).part
    let asn := (p.gsrc a).toNat
    if s.genBad part asn then illegal c s
    else if s.changing part asn then .next s
    else
      let gen := s.genOf part asn
      let s := (((s.releaseL1 (c.wid / 64)).flushSpace part asn).setGen part asn (gen + 1)).flushCode part asn
      .next (s.setPanel c
        { s.panel c with
          wait := some { instr := .genInc d a, len := c.len, since := s.cycle, aux := (gen + 1) % 2 ^ 16 + asn * 2 ^ 16 } })

/-- The loads of a panel that no home L2 has rejected have been performed. -/
def Panel.performed (p : Panel) (gen : Nat) : Panel :=
  { p with outst := p.outst.map fun x => if x.held.isEmpty then { x with gen := gen } else x }

/-- A tag of an older generation: it stays older when the generation comes round to its value again (R139). -/
def staleTag (gen : Nat) : Nat := gen % 2 ^ 16 + 2 ^ 16

/-- Every access of an address space under an older generation has been performed or is rejected for good (R139): lanes' loads not
rejected count as performed, engine threads keep a tag that is never current again, and the L1s keep no older line. -/
def State.settleSpace (s : State) (p asn : Nat) : State :=
  let gen := s.genOf p asn
  let s := s.waves.foldl (fun s e =>
    let a := s.laneAcc { wid := e.1, entry := 0, len := 1 }
    if a.part = p ∧ a.asn = asn then s.setWave e.1 ((s.wave e.1).mapPanels fun q => q.performed gen) else s) s
  let old := fun (e : Nat × Thread) =>
    if e.2.part = p ∧ e.2.asn = asn ∧ e.2.gen ≠ gen then (e.1, { e.2 with gen := staleTag e.2.gen }) else e
  let s := { s with threads := s.threads.map old }
  (s.spaceLines p asn).foldl (fun s ix => if (s.l1At ix).gen = gen then s else s.giveUp ix) s

/-- The generation change has completed: the new GEN is written to d; a gang on its way to a save waits for it too (R360). -/
def execGenChangeComplete (wid e : Nat) (s : State) : Out :=
  let p := (s.wave wid).panel e
  match p.valid && s.waveEnds wid, p.wait with
  | true, some x =>
    (match x.instr with
     | .genInc d _ =>
       let c : Cur := { wid := wid, entry := e, len := x.len }
       let s := s.settleSpace (s.laneAcc c).part (x.aux / 2 ^ 16)
       finish c (s.setPanel c { (s.panel c).writeG d (BitVec.ofNat 64 (x.aux % 2 ^ 16)) with wait := none })
     | _ => .next s)
  | _, _ => .next s

/-- `gen.rd`. -/
def execGenRd (d : GDst) (a : GSrc) (s : State) : Out :=
  issue (.genRd d a) s fun c s =>
    let p := s.panel c
    let part := (s.laneAcc c).part
    let asn := (p.gsrc a).toNat
    if s.genBad part asn then illegal c s
    else finish c (s.setPanel c (p.writeG d (BitVec.ofNat 64 (s.genOf part asn))))

end Sys2Proof.Machine
end

