-- ==== Sys2Proof/Machine/Debug.lean ====
section
/-! DEFINITION. The debug port (16 R308-R312), stall counters (R314), samples (R317), the log's gaps (R322) and mirror
registers (R323). -/

namespace Sys2Proof.Machine

/-! ## The panel-table entry (02 R18) -/

/-- WAITCT: cycles in the current SEAMW or FFW, saturating. -/
def Panel.waitCount (p : Panel) (now : Nat) : Nat :=
  match p.status with
  | .seamw => Nat.min (now - p.since) 524287
  | .ffw => Nat.min (now - p.since) 524287
  | .stop => Nat.min p.waitct 524287
  | _ => 0

/-- The 128 bits of an entry; an invalid one is zero. -/
def Panel.word (p : Panel) (now : Nat) : BitVec 128 :=
  if p.valid = false then 0
  else BitVec.ofNat 128
    (p.pc / 4 % 2 ^ 55 * 2 ^ 73 + p.frame.isSome.toNat * 2 ^ 69 + p.stack.length % 32 * 2 ^ 64 + p.qmask.toNat * 2 ^ 48 +
      p.stateCode * 2 ^ 44 + p.seamk.toNat * 2 ^ 41 + p.seamid.toNat * 2 ^ 29 + p.waitCount now * 2 ^ 10 +
      p.origin.toNat * 2 ^ 8 + p.stall.toNat * 2 ^ 4 + 8 + p.iss.toNat * 4)

def Wave.table (w : Wave) (now : Nat) : List (BitVec 128) := (List.range 8).map fun e => (w.panel e).word now

def Wave.counters (w : Wave) : List Word := (List.range 16).map fun k => Sparse.get 0 w.stalls k

/-! ## The mirror (R323) -/

/-- Every block copies its registers. -/
def State.strobe (s : State) : State :=
  let live := s.waves.filter fun e => e.2.alive
  { s with mirror :=
    { regs := s.regs, tables := live.map fun e => (e.1, e.2.table s.cycle), stalls := live.map fun e => (e.1, e.2.counters) } }

/-- The strobe fires while ARM = 1, which clears ARM (assumption 73, DEDUCED). -/
def State.fire (s : State) (p : Nat) : State :=
  if (s.part p).mirctl.getLsbD 0 then s.strobe.setPart p { s.part p with mirctl := 0 } else s

/-- A write of MIRCTL with FIRE: the ARM that it meets decides. -/
def execMirrorStrobe (p : Nat) (val : DWord) (s : State) : Out :=
  if 8 ≤ p ∨ val.getLsbD 1 = false then .next s
  else
    let t := s.fire p
    .next (if (s.part p).mirctl.getLsbD 0 then t else t.setPart p { t.part p with mirctl := val &&& 1 })

/-! ## Commands (R308, R311) -/

def cmdOp (x : DWord) : Nat := bits 63 60 x.toNat
def cmdEntry (x : DWord) : Nat := bits 59 56 x.toNat
def cmdLane (x : DWord) : Nat := bits 55 50 x.toNat
def cmdWid (x : DWord) : Nat := bits 46 32 x.toNat
def cmdSel (x : DWord) : Nat := bits 15 0 x.toNat

/-- DBGSTAT: BUSY, DONE, ERR. -/
def dbgstatOf (busy done : Bool) (err : Nat) : DWord := BitVec.ofNat 64 (busy.toNat + 2 * done.toNat + 16 * err)

def Partition.busy (x : Partition) : Bool := x.dbgstat.getLsbD 0

/-- A command completes, or fails with an error. -/
def State.dbgEnd (s : State) (p err : Nat) : State := s.setPart p { s.part p with dbgstat := dbgstatOf false (err == 0) err }

/-- A live wave of the partition (R308, R2). -/
def State.waveOf (s : State) (p wid : Nat) : Bool := (s.wave wid).alive && (s.laneAcc { wid := wid, entry := 0, len := 1 }).part == p

/-- A command: ignored with ERR 5 while BUSY; ERR 3 for a reserved entry and ERR 1 for no wave of the partition; else it
acts. -/
def dbgCommand (op : Nat) (every : Bool) (p : Nat) (cmd : DWord) (s : State) (act : State → Nat → State) : Out :=
  if 8 ≤ p ∨ cmdOp cmd ≠ op then .next s
  else
    let x := s.part p
    if x.busy then .next (s.setPart p { x with dbgstat := dbgstatOf true false 5 })
    else if 8 ≤ cmdEntry cmd ∧ ¬(every ∧ cmdEntry cmd = 15) then .next (s.dbgEnd p 3)
    else if s.waveOf p (cmdWid cmd) = false then .next (s.dbgEnd p 1)
    else .next (act s (cmdWid cmd))

/-- The entries that a command names: 15 is every valid one. -/
def Wave.named (w : Wave) (e : Nat) : List Nat := if e = 15 then w.entries else w.entries.filter (· == e)

/-- A command that acts on a panel in STOP, else ERR 2. -/
def State.onStopped (s : State) (p wid e : Nat) (f : State → Cur → State) : State :=
  let q := (s.wave wid).panel e
  if q.valid = true ∧ q.status = .stop then f s { wid := wid, entry := e, len := 1 } else s.dbgEnd p 2

/-- Asks for the stop of some panels, which keeps the port BUSY. -/
def State.askStops (s : State) (p wid : Nat) (es : List Nat) : State :=
  let w := es.foldl (fun w e => w.setPanel e { w.panel e with stopAsked := (w.panel e).stopAsked.or (some none) }) (s.wave wid)
  let x := s.part p
  (s.setWave wid w).setPart p { x with dbgstat := dbgstatOf true false 0, stops := x.stops ++ es.map fun e => (wid, e) }

/-- STOP. -/
def execDbgStop (p : Nat) (cmd : DWord) (s : State) : Out :=
  dbgCommand 0 true p cmd s fun s wid =>
    let w := s.wave wid
    let es := w.named (cmdEntry cmd)
    let left := es.filter fun e => (w.panel e).status != .stop
    if es.isEmpty then s.dbgEnd p 2 else if left.isEmpty then s.dbgEnd p 0 else s.askStops p wid left

/-- A panel that may enter STOP (R309): its results are written, and it waits for nothing but a seam, a forced fuse or a
barrier (assumption 72, DEDUCED). -/
def Panel.quiet (p : Panel) : Bool :=
  p.outst.isEmpty && (p.wait.isNone || p.status == .ffw || p.status == .barw)

/-- The panel in STOP: it keeps its wait, with WAITCT frozen (R310). -/
def Panel.stop (p : Panel) (now : Nat) : Panel := { p with status := .stop, under := p.status, waitct := p.waitCount now, stepping := false }

/-- What DBGSTAT shows once a stop is made, or found impossible with an error (R309, R310): DONE where the command met none; the
error of a command ignored in the meantime stays (R311). -/
def stopStatus (busy : Bool) (old err : Nat) : DWord :=
  let own := if err = 0 ∧ old ≠ 5 then old else err
  dbgstatOf busy (!busy && own == 0) (if own = 0 then old else own)

/-- One stop fewer is pending; with the last, the command is complete. -/
def State.stopDone (s : State) (p wid e err : Nat) : State :=
  let x := s.part p
  let left := x.stops.filter (· != (wid, e))
  let stat := if x.stops.contains (wid, e) then stopStatus (!left.isEmpty) (bits 7 4 x.dbgstat.toNat) err else x.dbgstat ||| 2
  s.setPart p { x with stops := left, dbgstat := stat }

/-- The partition whose port waits for the stop of an entry. -/
def State.stopPort (s : State) (wid e : Nat) : Option Nat := (List.range 8).find? fun p => (s.part p).stops.contains (wid, e)

/-- A stop completes: with its record, and for a capture the strobe of MIRBK; or the panel has gone before, though another may have
its entry (R309, R310). -/
def execStopComplete (wid e : Nat) (s : State) : Out :=
  let w := s.wave wid
  let q := w.panel e
  let part := (s.laneAcc { wid := wid, entry := e, len := 1 }).part
  match w.alive && q.valid, q.stopAsked with
  | true, some code =>
    if q.status = .stop ∨ q.quiet = false then .next s
    else
      let t := s.setWave wid (w.setPanel e (q.stop s.cycle))
      let block := panelBlock wid e 4 q.qmask.toNat q.pc
      let t := match code with
        | none => t.traceRecord part 0x03 0 (dieByte (wid / 64)) block 1
        | some k =>
          let t := t.traceRecord part 0x02 k.toNat (dieByte (wid / 64)) block 1
          if (t.part part).dbgctl.getLsbD 11 then t.fire part else t
      .next (t.stopDone part wid e 0)
  | v, _ =>
    if v && q.stepping then .next s
    else match s.stopPort wid e with
      | none => .next s
      | some p => .next (s.stopDone p wid e 2)

/-- A panel that leaves STOP: back in the state it left, or behind the captured `bkpt` (R310, R311, R202). -/
def Panel.resume (p : Panel) (now : Nat) : Panel :=
  let q := { p with status := p.under, since := now - p.waitct, waitct := 0, stopAsked := none, ready := now }
  match p.stopAsked with
  | some (some _) => q.advance 1 now
  | _ => q

/-- A panel that waits again takes part again (R30, R33, R34): a conflict is a trap on the instruction that it waits at. -/
def State.rejoin (s : State) (c : Cur) : State :=
  let w := s.wave c.wid
  let p := w.panel c.entry
  let c := { c with len := (p.wait.map (·.len)).getD 1 }
  match p.status with
  | .ffw =>
    if (w.siblings c.entry).any fun x => (w.panel x).status == .ffw && ((w.panel x).pc != p.pc || !stackCompatible p (w.panel x)) then
      s.takeTrap c { cause := 0x06 }
    else (s.fuseForced c.wid c.entry).settleSeams c.wid
  | .seamw => s.settleSeams c.wid
  | _ => s

def State.resumePanel (s : State) (c : Cur) : State := (s.setPanel c ((s.panel c).resume s.cycle)).rejoin c

/-- RESUME. -/
def execDbgResume (p : Nat) (cmd : DWord) (s : State) : Out :=
  dbgCommand 1 true p cmd s fun s wid =>
    let w := s.wave wid
    match (w.named (cmdEntry cmd)).filter fun e => (w.panel e).status == .stop with
    | [] => s.dbgEnd p 2
    | es => (es.foldl (fun s e => s.resumePanel { wid := wid, entry := e, len := 1 }) s).dbgEnd p 0

/-- A panel has come to its next instruction boundary (R311): past an instruction or into a handler, into or out of a wait, or fused.
To take up a clause is none. -/
def Panel.moved (p q : Panel) : Bool :=
  p.status != q.status || p.frame.isSome != q.frame.isSome || p.qmask != q.qmask ||
    (p.clause.isSome && (p.pc != q.pc || q.clause.isNone))

/-- STEP has taken a panel to its boundary: it stops again. -/
def Panel.stepped (p q : Panel) : Panel := if p.moved q then { q with stepping := false, stopAsked := some none } else q

/-- STEP: the port is BUSY until the panel has stopped again. -/
def execDbgStep (p : Nat) (cmd : DWord) (s : State) : Out :=
  dbgCommand 2 false p cmd s fun s wid =>
    s.onStopped p wid (cmdEntry cmd) fun s c =>
      let q := { (s.panel c).resume s.cycle with stepping := true }
      let x := s.part p
      let t := ((s.setPanel c q).setPart p { x with dbgstat := dbgstatOf true false 0, stops := x.stops ++ [(c.wid, c.entry)] }).rejoin c
      if (t.panel c).stepping then t.setPanel c (q.stepped (t.panel c)) else t

/-! ## Registers (R312) -/

/-- A register that SEL names, or none for any other value. -/
inductive DbgReg where
  | v (n : Nat)
  | o (n : Nat)
  | latch (n : Nat)
  | g (n : Nat)
  | p (n : Nat)
  | gp (n : Nat)
  | ctl (n : Nat)
  | fb (k h : Nat)
  | s (k w : Nat)
  | mask
  deriving DecidableEq, Repr

/-- SEL as a register, given the wave's register count. -/
def dbgReg (regs sel : Nat) : Option DbgReg :=
  let i := sel % 256
  match sel / 256 with
  | 0 =>
    if i < 0xC0 then (if i < regs then some (.v i) else none)
    else if i < 0xD0 then some (.o (i - 0xC0))
    else if i < 0xD4 then some (.latch (i - 0xD0))
    else if 0xE0 ≤ i then some (.g (i - 0xE0))
    else none
  | 1 => if i < 8 then some (.p i) else none
  | 2 => if i < 4 then some (.gp i) else none
  | 3 => if i < 7 then some (.ctl i) else none
  | 4 => if i < 16 then some (.fb (i / 2) (i % 2)) else none
  | 5 => if i < 80 then some (.s (i / 10) (i % 10)) else none
  | 6 => if i = 0 then some .mask else none
  | _ => none

/-- A register held per lane. -/
def DbgReg.perLane : DbgReg → Bool
  | .v _ => true
  | .o _ => true
  | .latch _ => true
  | .p _ => true
  | _ => false

/-- The register that a command names; none for ERR 3. -/
def State.dbgNamed (s : State) (c : Cur) (cmd : DWord) : Option DbgReg :=
  let w := s.wave c.wid
  match dbgReg w.regs (cmdSel cmd) with
  | none => none
  | some r => if r.perLane && !((w.panel c.entry).qmask.getLsbD (cmdLane cmd / 4)) then none else some r

/-- The 640 bits of a stream register (R53). -/
def Stream.word (x : Stream) : Nat :=
  let dims := (List.range 5).foldl (fun n k => n + (x.ext.getD k 0).toNat * 2 ^ (64 + 96 * k) + (x.strd.getD k 0).toNat * 2 ^ (96 + 96 * k)) 0
  x.base % 2 ^ 57 + dims + x.cursor * 2 ^ 544 + x.fmt * 2 ^ 608 + x.rank * 2 ^ 616 + x.defined.toNat * 2 ^ 619 + x.exh.toNat * 2 ^ 620

/-- The value that READ returns. -/
def State.dbgValue (s : State) (c : Cur) (lane : Nat) : DbgReg → DWord
  | .v n => (((s.wave c.wid).vreg n).getD lane 0).setWidth 64
  | .o n => (((s.wave c.wid).oreg n).getD lane 0).setWidth 64
  | .latch n => ((s.wave c.wid).latchVec n).getD lane 0
  | .g n => (s.panel c).greg n
  | .p n => if ((s.wave c.wid).pred n).getLsbD lane then 1 else 0
  | .gp n => if (s.panel c).gp.getLsbD n then 1 else 0
  | .ctl n => (s.panel c).readControl (s.curWg c).tba n
  | .fb k h => ((s.panel c).format k >>> (64 * h)).setWidth 64
  | .s k w => BitVec.ofNat 64 (((s.panel c).stream k).word / 2 ^ (64 * w))
  | .mask => (s.panel c).mask

/-- READ. -/
def execDbgRead (p : Nat) (cmd : DWord) (s : State) : Out :=
  dbgCommand 3 false p cmd s fun s wid =>
    s.onStopped p wid (cmdEntry cmd) fun s c =>
      match s.dbgNamed c cmd with
      | none => s.dbgEnd p 3
      | some r => (s.setPart p { s.part p with dbgdata := s.dbgValue c (cmdLane cmd) r }).dbgEnd p 0

/-- A 64-bit half of a 128-bit block. -/
def setHalf (x : BitVec 128) (h : Nat) (v : DWord) : BitVec 128 :=
  if h = 0 then (x >>> 64).setWidth 64 ++ v else v ++ x.setWidth 64

/-- The state after WRITE; none for a register that is not writable (ERR 4). -/
def State.dbgSet (s : State) (c : Cur) (lane : Nat) (x : DWord) : DbgReg → Option State
  | .v n => some (s.setWave c.wid ((s.wave c.wid).setV n (BitVec.twoPow 64 lane) fun _ => x.setWidth 32))
  | .o n => some (s.setWave c.wid ((s.wave c.wid).setO n (BitVec.twoPow 64 lane) fun _ => x.setWidth 32))
  | .latch _ => none
  | .g n => some (s.setPanel c ((s.panel c).setG n x))
  | .p n => some (s.setWave c.wid ((s.wave c.wid).setPred n (BitVec.twoPow 64 lane) fun _ => x.getLsbD 0))
  | .gp n => some (s.setPanel c ((s.panel c).setGp n (x.getLsbD 0)))
  | .ctl n => if n ≤ 1 then some (s.setPanel c ((s.panel c).writeControl n (x.setWidth 32))) else none
  | .fb k h => some (s.setPanel c ((s.panel c).setFormat k (setHalf ((s.panel c).format k) h x &&& formatMask)))
  | .s _ _ => none
  | .mask => none

/-- WRITE. -/
def execDbgWrite (p : Nat) (cmd : DWord) (s : State) : Out :=
  dbgCommand 4 false p cmd s fun s wid =>
    s.onStopped p wid (cmdEntry cmd) fun s c =>
      match s.dbgNamed c cmd with
      | none => s.dbgEnd p 3
      | some r =>
        match s.dbgSet c (cmdLane cmd) (s.part p).dbgdata r with
        | none => s.dbgEnd p 4
        | some t => t.dbgEnd p 0

/-- READPT: half of an entry, or of its mirror with SEL[15]. -/
def execDbgReadpt (p : Nat) (cmd : DWord) (s : State) : Out :=
  dbgCommand 5 false p cmd s fun s wid =>
    let sel := cmdSel cmd
    if 2 ≤ sel % 2 ^ 15 then s.dbgEnd p 3
    else
      let table := if sel / 2 ^ 15 = 1 then (Sparse.find s.mirror.tables wid).getD [] else (s.wave wid).table s.cycle
      let x := table.getD (cmdEntry cmd) 0
      (s.setPart p { s.part p with dbgdata := (x >>> (64 * (sel % 2))).setWidth 64 }).dbgEnd p 0

/-- WRPC: the next word is a clause header; a captured breakpoint, and what the panel was in, are left behind. -/
def execDbgWrpc (p : Nat) (cmd : DWord) (s : State) : Out :=
  dbgCommand 6 false p cmd s fun s wid =>
    s.onStopped p wid (cmdEntry cmd) fun s c =>
      let pc := bits 56 2 (s.part p).dbgdata.toNat * 4
      let s := if s.inMmq c then s.leaveMmq c else s
      (s.setPanel c { s.panel c with pc := pc, clause := none, px := 0, hpx := 0, wait := none, under := .run, stopAsked := some none }).dbgEnd p 0

/-- READCNT: a stall counter of the wave (R314), or its mirror with SEL[15]. -/
def execDbgReadcnt (p : Nat) (cmd : DWord) (s : State) : Out :=
  dbgCommand 7 false p cmd s fun s wid =>
    let sel := cmdSel cmd
    let l := if sel / 2 ^ 15 = 1 then (Sparse.find s.mirror.stalls wid).getD [] else (s.wave wid).counters
    (s.setPart p { s.part p with dbgdata := (l.getD (sel % 16) 0).setWidth 64 }).dbgEnd p 0

/-! ## Samples (R317) -/

/-- The partition that a core runs for. -/
def State.corePart (s : State) (core : Nat) : Option Nat := (List.range 8).find? fun p => s.coreOf p core

/-- The next of some numbers after `last`, in turn. -/
def nextInTurn (l : List Nat) (last : Nat) : Option Nat := (l.find? fun x => decide (last < x)).or l.head?

/-- The clock of a compute core in units of 100 MHz, as CLKSTAT shows it (R403). -/
def State.coreClock (s : State) : Nat := Nat.max 1 (bits 7 0 s.regs.clkstat.toNat)

/-- The fabric cycles of the current core cycle: 22 in the time of CCLK (R11). -/
def State.fabStep (s : State) : Nat := (22 - s.fabPart + s.coreClock - 1) / s.coreClock

/-- A core's sample period expires: its die's fabric cycles reach, in this cycle, a multiple of the period (R317, R318). -/
def execTraceSample (core : Nat) (s : State) : Out :=
  match s.corePart core with
  | none => .next s
  | some p =>
    let x := s.part p
    let m := Sparse.get Sampler.reset s.samplers core
    let now := s.fabric (dieByte core)
    let period := 2 ^ (bits 7 4 x.dbgctl.toNat + 10)
    if 388 ≤ core ∨ x.dbgctl.getLsbD 3 = false ∨ s.fabStep ≤ now % period ∨ now / period = m.last / period then .next s
    else
      let live := (List.range 64).filter fun k => (s.wave (core * 64 + k)).alive
      let put := fun (m : Sampler) (s : State) => { s with samplers := Sparse.set Sampler.reset s.samplers core { m with last := now } }
      match nextInTurn live m.slot with
      | none => .next (put m s)
      | some slot =>
        let wid := core * 64 + slot
        let w := s.wave wid
        match nextInTurn w.entries (Sparse.get 8 m.entries slot) with
        | none => .next (put { m with slot := slot } s)
        | some e =>
          let q := w.panel e
          .next (put { m with slot := slot, entries := Sparse.set 8 m.entries slot e }
            (s.traceRecord p 0x01 q.stall.toNat (dieByte core) (panelBlock wid e q.stateCode q.qmask.toNat q.pc) 1))

/-! ## The log's gaps (R322) -/

/-- Space has come back, and the gap entry is written. -/
def execLogGapEntry (p : Nat) (s : State) : Out :=
  if 8 ≤ p ∨ (s.part p).logGap = none ∨ logFree (s.part p) < 16 then .next s else .next (s.logGapWrite p)

end Sys2Proof.Machine
end

