-- ==== Sys2Proof/Machine/Deprecated.lean ====
section
/-! DEFINITION. `ldq`, a microcoded load of four words (11 R253, R255). `mmq` stands in Machine/Matrix.lean, `sbar` in
Machine/Barriers.lean. -/

namespace Sys2Proof.Machine

/-- The trap of a micro-step (R253): %px keeps the step, and the steps before it stand. -/
def microTrap (c : Cur) (x : Cause) (step : Nat) (s : State) : Out := trapTo c { x with mcode := true } (s.setProgress c step)

/-- Goes on with a micro-step whose accesses find nothing and that the home L2 does not reject (R208, R253). -/
def whenMicroClear (i : Instr) (c : Cur) (step : Nat) (s : State) (xs : List Access) (k : Out) : Out :=
  let ys := xs.filter fun x => !(s.laneAcc c).has x
  whenCheckedOr (fun write e => match e with
      | .fail cause sub addr => microTrap c { cause := cause, info := sub, write := write, addr := addr } step s
      | e => accessTrap c write false e s) c s ys fun zs => if zs.isEmpty then k else holdIssue i c s ys zs

/-- Puts a word into the lanes of a register. -/
def putResult (d : VReg) (w : Wave) (k : Nat) (m : Mask) (f : Nat → Word) : Wave :=
  match d with
  | .v n => w.setV (n + k) m f
  | .o n => w.setO (n + k) m f

/-- The register of a result group. -/
def resultWord (d : VReg) (w : Wave) (k j : Nat) : Word :=
  match d with
  | .v n => (w.vreg (n + k)).getD j 0
  | .o n => (w.oreg (n + k)).getD j 0

/-- Micro-step `step` of `ldq` (R255), all or nothing: an `ld.b32` into the group's register of that number; the last one writes
lm and ends the instruction. -/
def ldqStep (m : MemWord) (d : VReg) (a : Src) (c : Cur) (l : Lanes) (step : Nat) (s : State) : Out :=
  let i : Instr := .ldq m d a
  let js := activeLanes l.act
  let addr := fun (j : Nat) => (globalAddr l m a j + 4 * step) % 2 ^ 64
  let aligned := js.takeWhile fun j => addr j % 4 == 0
  whenMicroClear i c step s (aligned.map fun j => { lane := j, va := addr j, n := 4, write := false })
    (match js.find? fun j => addr j % 4 != 0 with
     | some j => microTrap c { cause := 0x13, addr := addr j } step s
     | none =>
       let r := s.readLanes { s.memAcc c m with got := (s.panel c).got } addr (fun _ => 4) js
       let w := putResult d (r.1.curWave c) step l.act fun j => BitVec.ofNat 32 (ofBytes (laneBytes r.2 j))
       let s := r.1.setWave c.wid w
       if step < 3 then .next ((s.setPanel c (s.panel c).nextStep).setProgress c (step + 1))
       else writeLanes i c l (VReg.dst d) 4 (fun j k => resultWord d w k j) 0 (s.setProgress c 0))

/-- `ldq` (R253, R255): one micro-step a turn, from that in %px on. -/
def execLdq (m : MemWord) (d : VReg) (a : Src) (s : State) : Out :=
  issue (.ldq m d a) s fun c s => withLanes (.ldq m d a) c s fun l s =>
    ldqStep m d a c l (bits 1 0 (s.panel c).progress.toNat) s

end Sys2Proof.Machine
end

