-- ==== Sys2Proof/Machine/Graphics.lean ====
section
/-! DEFINITION. `sample`, `gath`, `texq` and `disc` (12 R285, R288-R291), and the motion estimator (19 R382-R384). -/

namespace Sys2Proof.Machine

/-! ## Texels -/

/-- A coordinate wrapped into n texels (R277); none is the border. -/
def wrapCoord (mode n : Nat) (i : Int) : Option Nat :=
  match mode with
  | 0 => some (i % (n : Int)).toNat
  | 1 => some (min (max i 0) ((n : Int) - 1)).toNat
  | 2 =>
    let k := (i % (2 * n : Int)).toNat
    some (if k < n then k else 2 * n - 1 - k)
  | _ => if 0 ≤ i ∧ i < n then some i.toNat else none

/-- The bytes of a texel inside the level (R276, R279); on a sparse page with no valid leaf they read as zero, with status
(R115). The data bytes of a fast-clear block are not read. -/
def State.texelBytes (s : State) (a : Acc) (r : Layout) (level x y z : Nat) : Except Verdict (State × Nat × Bool) :=
  let b := r.blockOf x y z
  if r.cmp then
    match s.blockRead a r b with
    | .error v => .error v
    | .ok (t, mode, raw) =>
      if mode != 1 && s.onHole a (r.blockAddr b) (64 * r.elem) then .ok (t, 0, true)
      else .ok (t, ofBytes ((raw.drop (r.inBlock x y)).take r.elem), false)
  else
    let addr := if r.kind = 1 then r.texelAddr level x y z else r.blockAddr b + r.inBlock x y
    match s.agentRead a addr r.elem with
    | .error v => .error v
    | .ok (t, bs) => if s.onHole a addr r.elem then .ok (t, 0, true) else .ok (t, ofBytes bs, false)

/-- T(i, j) (R289): decoded exactly, with wrapping; the border reads CLEAR. -/
def State.texelAt (s : State) (a : Acc) (r : Layout) (level z : Nat) (i j : Int) : Except Verdict (State × List XVal × Bool) :=
  match wrapCoord r.wrapU (r.levelExt level 0) i, wrapCoord r.wrapV (r.levelExt level 1) j with
  | some x, some y =>
    (match s.texelBytes a r level x y z with
     | .error v => .error v
     | .ok (s, n, status) => .ok (s, decodeTexel r.fmt n, status))
  | _, _ => .ok (s, decodeTexel r.fmt (ofBytes (r.clear.take r.elem)), false)

/-! ## Filtering (R289) -/

/-- Rounds to the nearest multiple of 2^-8, ties to even. -/
def toGrid (x : Rat) : Rat := ((XVal.ofRat (x * 256)).roundInt : Rat) / 256

def addChannels (xs ys : List XVal) : List XVal := (xs.zip ys).map fun e => e.1.add e.2

/-- The weighted sum of some texels: level, i, j, weight. -/
def State.texelSum (s : State) (a : Acc) (r : Layout) (z : Nat) :
    List (Nat × Int × Int × Rat) → Except Verdict (State × List XVal × Bool)
  | [] => .ok (s, List.replicate 4 (XVal.ofRat 0), false)
  | (level, i, j, w) :: l =>
    match s.texelAt a r level z i j with
    | .error v => .error v
    | .ok (s, xs, st) =>
      match s.texelSum a r z l with
      | .error v => .error v
      | .ok (s, ys, st') => .ok (s, addChannels (xs.map (XVal.scale w)) ys, st || st')

/-- The texels of Bil(L, k) with their weights. -/
def bilinear (r : Layout) (level : Nat) (k u v : Rat) : List (Nat × Int × Int × Rat) :=
  let s := u * ((r.levelExt level 0 : Nat) : Rat) - 1 / 2
  let t := v * ((r.levelExt level 1 : Nat) : Rat) - 1 / 2
  let i := s.floor
  let j := t.floor
  let a := toGrid (s - i)
  let b := toGrid (t - j)
  [(level, i, j, k * ((1 - a) * (1 - b))), (level, i + 1, j, k * (a * (1 - b))), (level, i, j + 1, k * ((1 - a) * b)),
   (level, i + 1, j + 1, k * (a * b))]

/-- The texels of a sample at a level of detail, by FILT. -/
def filterTaps (r : Layout) (lam u v : Rat) : List (Nat × Int × Int × Rat) :=
  let near := (lam + 1 / 2).floor.toNat
  let low := lam.floor.toNat
  if r.filt = 0 then
    [(near, (u * ((r.levelExt near 0 : Nat) : Rat)).floor, (v * ((r.levelExt near 1 : Nat) : Rat)).floor, 1)]
  else if r.filt = 1 then bilinear r near 1 u v
  else
    let f := toGrid (lam - low)
    if low = r.levels then bilinear r low 1 u v else bilinear r low (1 - f) u v ++ bilinear r (low + 1) f u v

/-- ½ log2 x of a positive rational, rounded to f32: −∞ at 0. -/
def halfLog2 (x : Rat) : Nat :=
  if x = 0 then 0xFF800000
  else
    let k : Int := (Nat.log2 x.num.toNat : Int) - Nat.log2 x.den
    let y := x * pow2Rat (-k)
    if y = 1 then (f32.roundX .rne (XVal.ofRat ((k : Rat) / 2))).1
    else
      let f := fun p => ({ lo := k * 2 ^ p, hi := k * 2 ^ p } : Ival).add ((lnRat p y).div p (ln2I p))
      let half := fun p => ({ lo := (f p).lo / 2, hi := ceilDiv (f p).hi 2 } : Ival)
      if x < 1 then (f32.round .rne false true (decided fun p => (half p).neg)).1 else (f32.round .rne false false (decided half)).1
where
  /-- ln y for 1/2 < y < 2. -/
  lnRat (p : Nat) (y : Rat) : Ival := lnI p ((oneAt p).scaleRat y)

/-- The operands of one lane of a sample: u, v, layer, the fourth register, and u and v of the quad's lanes 0 to 2. -/
structure SampleIn where
  u : Rat
  v : Rat
  layer : Rat
  fourth : FVal
  us : List Rat
  vs : List Rat
  deriving Repr

/-- The level of detail (R289): clamped to [0, LEVELS]. -/
def sampleLod (r : Layout) (mode : LodMode) (x : SampleIn) : Rat :=
  let e0 : Rat := ((r.ext.getD 0 1 : Nat) : Rat)
  let e1 : Rat := ((r.ext.getD 1 1 : Nat) : Rat)
  let sq := fun (k : Nat) =>
    let du := (x.us.getD k 0 - x.us.getD 0 0) * e0
    let dv := (x.vs.getD k 0 - x.vs.getD 0 0) * e1
    du * du + dv * dv
  let own := halfLog2 (max (sq 1) (sq 2))
  let sum := fun (a b : FVal) => f32.decode (f32.fused .rne false [] [a, b]).1
  let lam := match mode with
    | .lod => x.fourth
    | .implicit => f32.decode own
    | .bias => sum (f32.decode own) x.fourth
  match sum lam (f32.decode r.bias) with
  | .nan => 0
  | .inf true => 0
  | .inf false => ((r.levels : Nat) : Rat)
  | .fin s m e => min (max 0 (FVal.toRat (.fin s m e))) ((r.levels : Nat) : Rat)

/-- The residency byte at the level-0 tile of (u, v) (R278): 0 where a border coordinate lies in no tile. -/
def State.residency (s : State) (a : Acc) (r : Layout) (u v : Rat) (z : Nat) : Except Verdict (State × Nat) :=
  if r.sparse = false then .ok (s, 0)
  else
    match wrapCoord r.wrapU (r.levelExt 0 0) (u * ((r.levelExt 0 0 : Nat) : Rat)).floor,
      wrapCoord r.wrapV (r.levelExt 0 1) (v * ((r.levelExt 0 1 : Nat) : Rat)).floor with
    | some x, some y =>
      (match r.mapTile [x, y, z] (r.elemAddr [x, y, z]) with
       | none => .ok (s, 0)
       | some k =>
         match s.agentRead a (r.rmap + k) 1 with
         | .error e => .error e
         | .ok (s, bs) => .ok (s, ofBytes bs))
    | _, _ => .ok (s, 0)

/-- SampleLane (R289): four f32 words and the status. -/
def State.sampleLane (s : State) (a : Acc) (r : Layout) (mode : LodMode) (x : SampleIn) :
    Except Verdict (State × List Nat × Bool) :=
  let z := (min (max (XVal.ofRat x.layer).roundInt 0) ((r.levelExt 0 2 : Nat) - 1 : Int)).toNat
  let lam := sampleLod r mode x
  match s.residency a r x.u x.v z with
  | .error v => .error v
  | .ok (s, m) =>
    if m = 0xFF ∨ r.levels < m then .ok (s, [0, 0, 0, 0], true)
    else
      let coarse := decide (lam < (m : Rat))
      match s.texelSum a r z (filterTaps r (if coarse then (m : Rat) else lam) x.u x.v) with
      | .error v => .error v
      | .ok (s, xs, st) => .ok (s, xs.map fun x => (f32.roundX .rne x).1, st || coarse)

/-- The samples of some lanes. -/
def State.sampleLanes (s : State) (a : Acc) (r : Layout) (mode : LodMode) (f : Nat → SampleIn) :
    List Nat → Except Verdict (State × List (Nat × List Nat × Bool))
  | [] => .ok (s, [])
  | j :: js =>
    match s.sampleLane a r mode (f j) with
    | .error v => .error v
    | .ok (s, x, st) =>
      match s.sampleLanes a r mode f js with
      | .error v => .error v
      | .ok (s, l) => .ok (s, (j, x, st) :: l)

/-! ## Held faults of a panel's instruction -/

/-- The number that `Waiting.aux` holds for a held fault: fault ID, cause, subkind and address. -/
def packFault (fid cause sub addr : Nat) : Nat := fid + 2 ^ 32 * (cause + 2 ^ 8 * (sub + 2 ^ 8 * addr))

/-- The instruction waits for the reply to a held fault of its unit (R349-R351): `agent` is the unit. -/
def holdPanel (c : Cur) (i : Instr) (agent : Nat) (e : XFail) (s : State) : Out :=
  let a := s.laneAcc c
  let r := s.recordFault a.part
    (s.gangRecord (s.curWg c).gid a.asn a.gen e 4 agent c.wid c.entry (s.panel c).pc)
  .next (r.1.setPanel c { r.1.panel c with
    wait := some { instr := i, len := c.len, since := s.cycle, aux := packFault r.2 e.cause e.sub e.addr } })

/-! ## `sample` -/

/-- The operands of a lane of `sample` (R289, R166). -/
def sampleIn (w : Wave) (a j : Nat) : SampleIn :=
  let val := fun (k j : Nat) => (f32.decode ((w.vreg (a + k)).getD j 0).toNat).finiteRat
  let q := j / 4 * 4
  { u := val 0 j, v := val 1 j, layer := val 2 j
    fourth := (match f32.decode ((w.vreg (a + 3)).getD j 0).toNat with
      | .fin s m e => .fin s m e
      | _ => .fin false 0 0)
    us := [val 0 q, val 0 (q + 1), val 0 (q + 2)], vs := [val 1 q, val 1 (q + 1), val 1 (q + 2)] }

/-- Writes the status predicate (R289). -/
def setStatus (pse : Option Nat) (m : Mask) (f : Nat → Bool) (w : Wave) : Wave :=
  match pse with
  | none => w
  | some k => w.setPred k m f

/-- The samples of a panel's lanes; in a context of an old generation its first access to memory is rejected (R138). -/
def State.sampleAll (s : State) (c : Cur) (r : Layout) (lodm : LodMode) (l : Lanes) (a : Nat) :
    Except Verdict (State × List (Nat × List Nat × Bool)) :=
  let acc := s.laneAcc c
  let run := fun (x : Acc) => s.sampleLanes x r lodm (sampleIn l.w a) (activeLanes l.act)
  match run acc, acc.gen == s.genOf acc.part acc.asn, run { acc with asn := 65536 } with
  | .error v, _, _ => .error v
  | .ok _, false, .error (.trap w e) => .error (.trap w (.fail 0x12 0 e.addr))
  | .ok x, _, _ => .ok x

/-- `sample` (R289) (assumption 70, DEDUCED). -/
def execSample (lodm : LodMode) (pse : Option Nat) (d a : Nat) (h : GSrc) (s : State) : Out :=
  issue (.sample lodm pse d a h) s fun c s => withLanes (.sample lodm pse d a h) c s fun l s =>
    withLayout (.sample lodm pse d a h) c ((s.panel c).gsrc h).toNat s fun r s =>
      if r.kind = 0 ∨ (r.rank ≠ 2 ∧ r.rank ≠ 3) ∨ r.fmt < 0x40 then illegal c s
      else
        match s.sampleAll c r lodm l a with
        | .error (.ends code) => endCur c code s
        | .error (.trap _ (.poison _)) => endCur c 0x10 s
        | .error (.trap _ (.dead _)) => endCur c 0x11 s
        | .error (.trap _ e) => holdPanel c (.sample lodm pse d a h) 2 e (s.keepRecord c r.handle)
        | .error .clear => finish c s
        | .ok (s, xs) =>
          let at' := fun (j : Nat) => (Sparse.find xs j).getD ([], false)
          let s := s.setWave c.wid (setStatus pse l.act (fun j => (at' j).2) (s.curWave c))
          writeLanes (.sample lodm pse d a h) c l (.v d) 4 (fun j k => BitVec.ofNat 32 ((at' j).1.getD k 0)) 0 s

/-! ## `gath` (R290) -/

/-- The coordinates of a lane. -/
def gathCoords (w : Wave) (a rank j : Nat) : List Int := (List.range rank).map fun k => ((w.vreg (a + k)).getD j 0).toInt

/-- Where element t of a lane lies; none outside the extents. -/
def gathAddr (r : Layout) (xs : List Int) (t : Nat) : Option Nat :=
  let ys := (xs.headD 0 + t) :: xs.drop 1
  if (ys.zip r.ext).all fun e => decide (0 ≤ e.1) && decide (e.1 < e.2) then some (r.elemAddr (ys.map Int.toNat)) else none

/-- The elements of a lane whose accesses have been checked: their bytes, and each one's status. -/
def State.gathElems (s : State) (a : Acc) (r : Layout) (xs : List Int) : List Nat → State × List (List Byte × Bool)
  | [] => (s, [])
  | t :: ts =>
    match gathAddr r xs t with
    | none =>
      let u := s.gathElems a r xs ts
      (u.1, (r.clear.take r.elem, true) :: u.2)
    | some addr =>
      let x := s.fetchBytes a addr r.elem
      let u := x.1.gathElems a r xs ts
      (u.1, (x.2, s.onHole a addr r.elem) :: u.2)

/-- The record checks of `gath`, with those of the groups whose lengths it gives (R290, R285). -/
def gathBad (r : Layout) (w : Wave) (ne a : Nat) (d : VReg) : Bool :=
  let wide := r.elem == 8
  let run := ((dstRun (VReg.dst d, if wide then 2 * ne else ne)).getD { o := false, first := 0, n := 0 })
  r.kind != 0 || r.cmp || r.fmt == 6 || decide (0x10 ≤ r.fmt) || (r.mom && r.fmt != 8) || (wide && run.first % 2 != 0) ||
  !run.fits w.regs || decide (w.regs < a + r.rank)

/-- Word k of what a lane's elements hold (R217, R290). -/
def gathWord (r : Layout) (x : List (List Byte)) (k : Nat) : Word :=
  if r.elem = 8 then dwordWord (holdElem 9 (x.getD (k / 2) [])) (k % 2) else (holdElem r.fmt (x.getD k [])).setWidth 32

/-- Lane `j` of a `gath` (R290): its elements, its registers and its status; after the last lane the instruction ends. -/
def gathLane (i : Instr) (c : Cur) (l : Lanes) (r : Layout) (ne : Nat) (pse : Option Nat) (d : VReg) (a j : Nat) (last : Bool)
    (s : State) : Out :=
  let acc := s.laneAcc c
  let xs := gathCoords l.w a r.rank j
  let ts := List.range ne
  let n := if r.elem = 8 then 2 * ne else ne
  let lane := BitVec.twoPow 64 j
  let accs := ts.filterMap fun t => (gathAddr r xs t).map fun va => { lane := j, va := va, n := r.elem, write := false }
  whenClear i c (s.setProgress c j) accs
    (let x := (s.touchLanes acc accs).gathElems { acc with ctr := some s.freeCtr } r xs ts
     let word := fun (k : Nat) => gathWord r (x.2.map (·.1)) k
     let w := (x.1.curWave c).writeDst (VReg.dst d) n lane fun _ k => word k
     let w := setStatus pse lane (fun _ => x.2.any (·.2)) (w.setLatch 3 lane fun _ => latchValue n word)
     let s := x.1.setWave c.wid w
     if last then
       finish c ((s.setProgress c 0).setPanel c (((s.setProgress c 0).panel c).track i l.act acc.gen s.cycle
         (r.rank, if r.elem = 8 then 2 else 1)))
     else .next ((s.setPanel c (s.panel c).nextStep).setProgress c (j + 1)))

/-- `gath` (R290): one lane a turn, from that in %px on. -/
def execGath (ne : Nat) (pse : Option Nat) (d : VReg) (a : Nat) (h : GSrc) (s : State) : Out :=
  let i : Instr := .gath ne pse d a h
  issue i s fun c s => withLanes i c s fun l s =>
    withLayout i c ((s.panel c).gsrc h).toNat s fun r s =>
      if gathBad r l.w ne a d then illegal c s
      else
        let js := (activeLanes l.act).filter fun j => decide (bits 6 0 l.p.progress.toNat ≤ j)
        match js with
        | [] => finish c (s.setProgress c 0)
        | j :: rest => gathLane i c l r ne pse d a j rest.isEmpty (s.keepRecord c r.handle)

/-! ## `texq` (R291) -/

/-- `texq.size` (R291); a record of format 0x06 is no layout that it may name (R64). -/
def execTexqSize (d : Dst) (h : GSrc) (b : Src) (s : State) : Out :=
  issue (.texqSize d h b) s fun c s => withLanes (.texqSize d h b) c s fun l s =>
    withLayout (.texqSize d h b) c ((s.panel c).gsrc h).toNat s fun r s =>
      if r.fmt = 6 then illegal c s else
      let size := fun (k j : Nat) => BitVec.ofNat 32 (if k < r.rank then Nat.max 1 (r.ext.getD k 1 / 2 ^ (l.a32 b j).toNat) else 1)
      writeLanes (.texqSize d h b) c l d 2 (fun j k => size k j) 0 s

/-- `texq.res` (R291, R64). -/
def execTexqRes (d : Dst) (h : GSrc) (b : Src) (s : State) : Out :=
  issue (.texqRes d h b) s fun c s => withLanes (.texqRes d h b) c s fun l s =>
    withLayout (.texqRes d h b) c ((s.panel c).gsrc h).toNat s fun r s =>
      if r.fmt = 6 then illegal c s else
      let tile := fun (j : Nat) => (l.a32 b j).toNat
      let js := if r.sparse then (activeLanes l.act).filter fun j => decide (tile j < r.mapSize) else []
      let addr := fun (j : Nat) => (r.rmap + tile j) % 2 ^ 64
      whenClear (.texqRes d h b) c s (js.map fun j => { lane := j, va := addr j, n := 1, write := false })
        (let t := s.readLanes (s.laneAcc c) addr (fun _ => 1) js
         let val := fun (j : Nat) => if r.sparse = false then 0 else if js.contains j then ofBytes (laneBytes t.2 j) else 0xFF
         writeLanes (.texqRes d h b) c l d 2 (fun j k => if k = 0 then BitVec.ofNat 32 (val j) else 0) 0 t.1)

/-! ## `disc` (R288) -/

/-- A register-sourced loop in flight stores no row of a discarded lane (R288). -/
def MatOp.discard (x : MatOp) (m : Mask) : MatOp :=
  { x with written := x.written.zipIdx.map fun e => e.1 && !(match x.lanes[e.2]? with
      | none => false
      | some j => m.getLsbD j) }

/-- The same for the loop of a wave. -/
def State.discardRows (s : State) (wid : Nat) (m : Mask) : State :=
  { s with threads := s.threads.map fun e => match e.2.engine with
      | .mloop x => if e.2.wid = wid ∧ (s.wave wid).matrix = some e.1 then (e.1, { e.2 with engine := .mloop (x.discard m) }) else e
      | _ => e }

/-- Discards lanes of a panel. -/
def State.discard (s : State) (c : Cur) (m : Mask) : State :=
  let w := s.curWave c
  let p := w.panel c.entry
  let w := w.setPanel c.entry { p.removeLanes m with discarded := p.discarded ||| m }
  let cut := fun (t : Nat × Ticket) =>
    (t.1, { t.2 with coverage := t.2.coverage &&& ~~~ ((m >>> (4 * t.1)).setWidth 4) })
  ((s.setWave c.wid { w with tickets := w.tickets.map cut }).discardRows c.wid m).settleTickets c.wid

def execDisc (neg : Bool) (p : Nat) (s : State) : Out :=
  issue (.disc neg p) s fun c s =>
    let w := s.curWave c
    let k := if neg then ~~~ w.pred p else w.pred p
    finish c (s.discard c ((s.panel c).active w &&& k))

def execDiscAll (s : State) : Out :=
  issue .discAll s fun c s => finish c (s.discard c ((s.panel c).active (s.curWave c)))

/-! ## Motion estimation (R382-R384) -/

def MestOp.word (x : MestOp) (i hi : Nat) : Nat := (x.g.getD i 0).toNat / 2 ^ (32 * hi) % 2 ^ 32
def MestOp.curAddr (x : MestOp) : Nat := x.word 0 0
def MestOp.refAddr (x : MestOp) : Nat := x.word 0 1
def MestOp.vout (x : MestOp) : Nat := x.word 1 0
def MestOp.vcand (x : MestOp) : Nat := x.word 1 1
/-- See assumption 69, DEDUCED. -/
def MestOp.pitchC (x : MestOp) : Nat := x.word 2 0 % 2 ^ 16
def MestOp.pitchR (x : MestOp) : Nat := x.word 2 0 / 2 ^ 16

/-- What a block's search reads: the current block and the reference region, row by row. -/
structure MestView where
  cur : List (List Byte)
  ref : List (List Byte)

def MestView.refAt (v : MestView) (x y : Int) : Nat := ((v.ref.getD y.toNat []).getD x.toNat 0).toNat

/-- Qref(X, Y) (R383), with coordinates from the reference region's corner. -/
def MestView.qref (v : MestView) (x4 y4 : Int) : Nat :=
  let x := x4 / 4
  let y := y4 / 4
  let a := (x4 % 4).toNat
  let b := (y4 % 4).toNat
  ((4 - a) * (4 - b) * v.refAt x y + a * (4 - b) * v.refAt (x + 1) y + (4 - a) * b * v.refAt x (y + 1) +
    a * b * v.refAt (x + 1) (y + 1) + 8) / 16

/-- Cost(vx, vy) of the block at x0 (R383). -/
def MestView.cost (v : MestView) (range x0 : Nat) (vx vy : Int) : Nat :=
  (List.range 8).foldl (fun n q => (List.range 8).foldl (fun n p =>
    let k := ((v.cur.getD q []).getD (x0 + p) 0).toNat
    let r := v.qref (4 * ((x0 + p + range + 1 : Nat) : Int) + vx) (4 * ((q + range + 1 : Nat) : Int) + vy)
    n + (max k r - min k r)) n) 0

/-- A place before another in the order of ties: least cost, then the least of some keys in turn. -/
def keyLess : List Int → List Int → Bool
  | x :: xs, y :: ys => if x = y then keyLess xs ys else decide (x < y)
  | _, _ => false

/-- The vector of least cost among some, each with its keys after the cost. -/
def leastVector (cost : Int → Int → Nat) (cs : List (Int × Int × List Int)) : Int × Int :=
  let r := cs.map fun e => (e.1, e.2.1, ((cost e.1 e.2.1 : Nat) : Int) :: e.2.2)
  match r with
  | [] => (0, 0)
  | e :: es =>
    let b := es.foldl (fun b e => if keyLess e.2.2 b.2.2 then e else b) e
    (b.1, b.2.1)

def intRange (n : Nat) : List Int := (List.range (2 * n + 1)).map fun (i : Nat) => (i : Int) - n

/-- Estimate(k) (R383): the vector, its cost, and whether a candidate was clamped. -/
def MestView.estimate (v : MestView) (range x0 : Nat) (cand : Option (Int × Int)) : Int × Int × Nat × Bool :=
  let cost := v.cost range x0
  let i := leastVector cost ((intRange range).flatMap fun dy => (intRange range).map fun dx =>
    (4 * dx, 4 * dy, [((dx.natAbs + dy.natAbs : Nat) : Int), dy, dx]))
  let r := leastVector cost ((intRange 3).flatMap fun b => (intRange 3).map fun a =>
    (i.1 + a, i.2 + b, [((a.natAbs + b.natAbs : Nat) : Int), b, a]))
  match cand with
  | none => (r.1, r.2, cost r.1 r.2, false)
  | some k =>
    let lim : Int := 4 * range + 3
    let x := min (max k.1 (-lim)) lim
    let y := min (max k.2 (-lim)) lim
    let sat := x != k.1 || y != k.2
    if cost x y < cost r.1 r.2 then (x, y, cost x y, sat) else (r.1, r.2, cost r.1 r.2, sat)

/-- The bytes that the estimator reads. -/
def State.mestView (s : State) (wg : Workgroup) (x : MestOp) : MestView :=
  { cur := (List.range 8).map fun y => s.unitRead wg (x.curAddr + y * x.pitchC) (8 * x.nbx)
    ref := (List.range (2 * x.range + 11)).map fun y => s.unitRead wg (x.refAddr + y * x.pitchR) (8 * x.nbx + 2 * x.range + 3) }

/-- Block k: its 8 bytes, in one write, and its flags (R383, R384). -/
def State.mestBlock (s : State) (wg : Workgroup) (x : MestOp) (k : Nat) : State × Word :=
  let c := s.unitRead wg (x.vcand + 4 * k) 4
  let r := (s.mestView wg x).estimate x.range (8 * k)
    (if x.cand then some (signedOf 16 (fieldAt c 0 2), signedOf 16 (fieldAt c 2 2)) else none)
  (s.unitWrite wg (x.vout + 8 * k) (toBytes 2 (wrap 16 r.1) ++ toBytes 2 (wrap 16 r.2.1) ++ toBytes 4 r.2.2.1),
   if r.2.2.2 then fSAT else 0)

/-- The checks of addresses, in order (R384, R106). -/
def State.mestCauses (s : State) (wg : Workgroup) (x : MestOp) : Option Cause :=
  let cand := if x.cand then [(x.vcand, [1], false)] else []
  s.localCauses wg ([(x.curAddr, [1], false), (x.refAddr, [1], false), (x.vout, [1], true)] ++ cand)
    ([(x.vout, 8, true)] ++ (if x.cand then [(x.vcand, 4, false)] else []))
    ([(x.curAddr, 7 * x.pitchC + 8 * x.nbx, false), (x.refAddr, (2 * x.range + 10) * x.pitchR + 8 * x.nbx + 2 * x.range + 3, false),
      (x.vout, 8 * x.nbx, true)] ++ (if x.cand then [(x.vcand, 4 * x.nbx, false)] else []))

/-- `mest` (R382-R384). -/
def execMest (g bh nbx : Nat) (cand : Bool) (range : Nat) (s : State) : Out :=
  issue (.mest g bh nbx cand range) s fun c s =>
    let p := s.panel c
    let wg := s.curWg c
    let x : MestOp := { g := (List.range 3).map fun i => p.greg (g + i), nbx := nbx, cand := cand, range := range, blocks := 0, flags := 0 }
    if c.wid / 64 < 384 ∨ handleBound (wg.handles.getD bh 0) = false then illegal c s
    else match s.mestCauses wg x with
      | some cause => trapTo c cause s
      | none => withHandle c bh true s fun _ =>
          if p.active (s.curWave c) = 0 then finish c s
          else finish c (s.fork c (some (handleAddr (wg.handles.getD bh 0))) (.mest x))

/-- The next block of an estimate; the last one completes it (R384). -/
def execMestComplete (tid : Nat) (s : State) : Out :=
  match s.thread? tid with
  | some t =>
    (match t.engine with
     | .mest x =>
       if s.threadGoes t = false then .next s
       else
         let r := s.mestBlock (threadWindow s t) x x.blocks
         let y := { x with blocks := x.blocks + 1, flags := x.flags ||| r.2 }
         if x.nbx ≤ y.blocks then
           .next (((r.1.threadFlags t y.flags false).landThread t fun s place => s.landBytes place (8 * x.nbx)).endThread tid)
         else .next (r.1.putThread tid { t with engine := .mest y })
     | _ => .next s)
  | none => .next s

end Sys2Proof.Machine
end

