-- ==== Sys2Proof/Machine/Preempt.lean ====
section
/-! DEFINITION. Pre-emption (18 R359-R363; 02 R37; 03 R63) and replay after uncorrectable errors (18 R364-R366). -/

namespace Sys2Proof.Machine

/-! ## The save pool (R343, R362) -/

/-- The codes of ERR (assumption 75, DEDUCED). -/
def pageError (x : Partition) (e : Option DWord) : Nat :=
  match e with
  | none => 1
  | some e =>
    if pteWr e = false then 2
    else if ptePin e = false then 3
    else if pteKey e < x.kfirst ∨ x.kfirst + x.kcnt ≤ pteKey e then 4
    else 0

/-- The leaf of a page as memory holds it. -/
def State.pageLeaf (s : State) (p asn va : Nat) : Option DWord :=
  if 2 ^ 57 ≤ va ∨ s.asnOk p asn = false ∨ memorySize ≤ s.astAddr p asn then none
  else match s.walk (astTkey (s.astRaw p asn)) va [5, 4, 3, 2, 1] (astRoot (s.astRaw p asn)) with
    | .ok (some (e, _)) => some e
    | _ => none

/-- The first failure among `n` pages of the pool; 0 for none. -/
def State.poolError (s : State) (p asn va : Nat) : Nat → Nat
  | 0 => 0
  | n + 1 =>
    match pageError (s.part p) (s.pageLeaf p asn va) with
    | 0 => s.poolError p asn (va + 65536) n
    | e => e

/-- A write of BIND = 1 (R362); the ring is tried again (R343). -/
def execSavePoolBind (who : Writer) (p : Nat) (val : DWord) (s : State) : Out :=
  let x := s.part p
  if 8 ≤ p ∨ val.getLsbD 0 = false then .next s
  else if mayWrite who p = false then .next s
  else
    let asn := bits 31 16 val.toNat
    let e := s.poolError p asn x.savebase.toNat x.savesize.toNat
    .next ((s.setPart p { x with savectl := savectl true (e == 0) e asn }).retryRing p)

/-- A write of BIND = 0 (R362). -/
def execSavePoolUnbind (who : Writer) (p : Nat) (val : DWord) (s : State) : Out :=
  let x := s.part p
  if 8 ≤ p ∨ val.getLsbD 0 = true then .next s
  else if mayWrite who p = false then .next s
  else
    let s := s.setPart p { x with savectl := savectl false x.bound (bits 7 4 x.savectl.toNat) (bits 31 16 val.toNat) }
    .next ((s.settlePool p).retryRing p)

/-! ## Requests (R359, R343) -/

/-- The gangs of a queue's grids in a partition (assumption 74, DEDUCED). -/
def State.queueGangs (s : State) (p q : Nat) : List Nat :=
  s.gangs.filterMap fun e => match s.launch? e.2.lid with
    | some l => if l.kind = .grid ∧ l.queue = q ∧ l.part = p then some e.1 else none
    | none => none

/-- A write of PREEMPT: the running gangs of the queue's grids, of the block's partition (R2, R343). -/
def execPreempt (who : Writer) (p : Nat) (val : DWord) (s : State) : Out :=
  if 8 ≤ p then .next s
  else if mayWrite who p = false then .next s
  else .next ((s.queueGangs p (bits 12 0 val.toNat)).foldl State.stopGang s)

/-! ## Stopping (R360) -/

/-- A result that stays outstanding over a save: of a ray, which is traced again, or of lanes that a held fault stops. -/
def Outstanding.stays (x : Outstanding) : Bool :=
  x.ofRays || (List.range 16).all fun q => !x.quads.getLsbD q || x.held.any fun h => h.lane / 4 == q

/-- The wait of a panel that stops where it is. -/
def Waiting.stays (x : Waiting) : Bool :=
  match x.instr with
  | .lflush .. => false
  | .tlbi .. => false
  | .genInc .. => false
  | _ => true

/-- An instruction in flight that pre-emption abandons: it is issued again after the restore (R292, R360). -/
def Waiting.abandoned (x : Waiting) : Bool :=
  match x.instr with
  | .sample .. => x.held.isEmpty
  | .pull .. => x.held.isEmpty
  | _ => false

/-- A panel at its stopping point. One in a `yield`, which R205 lets a pre-emption take at once, waits for its results and stores as any
other (assumption 110, DESIGN CHOICE). -/
def Panel.stopped (p : Panel) : Bool :=
  p.undrained == 0 && p.outst.all Outstanding.stays && (match p.wait with
    | none => true
    | some x => x.stays)

/-- An engine thread at its stopping point (R360): the rows that a copy has issued have landed, a matrix operation is between
two of its steps, a traversal is abandoned. -/
def Engine.stopped : Engine → Bool
  | .trace .. => true
  | .mloop _ => true
  | .msoft _ => true
  | .copy x => decide (x.issued ≤ x.landed)
  | .mest _ => false

/-- Every stop of a gang is reached: of its panels and of its engine threads. -/
def State.stopsReached (s : State) (gid : Nat) (g : Gang) : Bool :=
  (g.wgs.all fun k => (s.liveWaves k ((s.wg? k).getD emptyWg)).all fun wid =>
    (s.wave wid).entries.all fun e => ((s.wave wid).panel e).stopped) &&
  s.threads.all fun t => t.2.gid != gid || t.2.engine.stopped

/-! ## Saving (R361-R363) -/

/-- The header of a save area (R361). -/
def saveHeader (units packet index queue : Nat) : List Byte :=
  toBytes 4 1 ++ toBytes 4 units ++ toBytes 8 packet ++ toBytes 8 index ++ toBytes 2 queue ++ toBytes 38 0

/-- The virtual address of an area of a pool. -/
def Partition.areaVa (x : Partition) (area : Nat) : Nat := x.savebase.toNat + 65536 * area

/-- The first failure of a translation among the pages of an area. -/
def State.areaFault (s : State) (p va : Nat) (need : Need) : Nat → Option (XFail × Nat)
  | 0 => none
  | n + 1 =>
    match s.translate (s.ringAcc p) va need with
    | .error e => some (e, va)
    | .ok _ => s.areaFault p (va + 65536) need n

/-- The record of a fault on the pool (R363): AGENT 7, during a save or restore, not held. -/
def State.saveRecord (s : State) (l : Launch) (index : Nat) (e : XFail) (va flags : Nat) : State :=
  let asn := (s.part l.part).saveAsn
  (s.recordFault l.part
    { addr := va, asn := asn, gtag := s.genOf l.part asn
      cause := e.cause
      sub := e.sub
      flags := flags, agent := 7, wid := 0x7FFF, entry := 0xFF, fid := 0, pc := 0, gang := index, queue := l.queue }).1

/-- The lines of a partition's reserve area (R362). -/
def reserveLines (p units : Nat) : List Nat := (List.range (512 * units)).map fun i => ((Config.reserveLine p).toNat + i) % 2 ^ 32

/-- A save goes to the reserve area, or is abandoned where that is busy (R363). -/
def State.saveReserve (s : State) (gid : Nat) (g : Gang) (p units : Nat) : State :=
  if (s.part p).reserveBusy then (s.putGang gid { g with pre := .run, passed := true, saved := none }).settlePool p
  else
    ((s.setReserve p true).putGang gid
      { g with pre := .saving, saved := some { area := 0, units := units, reserve := true, wgs := [], replies := [] } }).settlePool p

/-- The stops of a gang are reached: its area is chosen, and its header is written (R359, R361-R363). -/
def execGangSave (gid : Nat) (s : State) : Out :=
  match s.gang? gid with
  | none => .next s
  | some g =>
    match s.launch? g.lid with
    | none => .next s
    | some l =>
      if g.done ∨ g.pre ≠ .stopping ∨ s.stopsReached gid g = false then .next s
      else
        let units := saveUnits l.spec g.wgs.length
        match s.saveArea l.part units with
        | some (some area) =>
          let va := (s.part l.part).areaVa area
          (match s.areaFault l.part va .write units with
           | some (e, addr) => .next ((s.saveRecord l g.index e addr 0x11).saveReserve gid g l.part units)
           | none =>
             match s.writeVa (s.ringAcc l.part) va (saveHeader units l.packet g.index l.queue) with
             | .error e => .next ((s.saveRecord l g.index e va 0x11).saveReserve gid g l.part units)
             | .ok s =>
               .next (s.putGang gid { g with pre := .saving, saved := some { area := area, units := units, reserve := false, wgs := [], replies := [] } }))
        | _ => .next (s.saveReserve gid g l.part units)

/-- The times of a panel counted from `now`, or back: the part of each wait that has passed (R37). The rest of its clause waits
again for what its header names (R146). -/
def Panel.rebase (p : Panel) (now : Nat) : Panel :=
  { p with
    since := now - p.since, hold := 0, ready := 0, pause := [], entered := 0, hinted := none, doneAt := now - p.doneAt
    got := (match p.wait with
      | none => p.got
      | some x => if x.abandoned then [] else p.got)
    clause := p.clause.map Clause.resumed
    stopAsked := if p.status ≠ .stop ∧ p.stopAsked = some none then none else p.stopAsked
    wait := match p.wait with
      | none => none
      | some x => if x.abandoned then none else some { x with since := now - x.since }
    outst := p.outst.map fun x => { x with issued := now - x.issued } }

/-- The bytes of a window, by offset. -/
def State.windowCells (s : State) (k : Store) (core base size : Nat) : List Host.Cell :=
  let lo := storeIndex core base
  (s.store k).filterMap fun e => if lo ≤ e.1 ∧ e.1 < lo + size then some (e.1 - lo, e.2) else none

/-- Gives a window its saved bytes. -/
def State.setWindow (s : State) (k : Store) (core base size : Nat) (cells : List Host.Cell) : State :=
  let lo := storeIndex core base
  s.setStore k ((s.store k).filter (fun e => decide (e.1 < lo)) ++ cells.map (fun e => (e.1 + lo, e.2)) ++
    (s.store k).filter (fun e => decide (lo + size ≤ e.1)))

/-- A wave as a save keeps it; nothing for one that has ended. -/
def State.savedWave (s : State) (k core slot : Nat) : Wave :=
  match s.waveIn k core slot with
  | none => Wave.empty
  | some wid => (s.wave wid).mapPanels fun p => p.rebase s.cycle

def State.saveWg (s : State) (k : Nat) : Option SavedWg :=
  (s.wg? k).map fun w =>
    { wg := k, wids := w.slots.map (w.core * 64 + ·), waves := w.slots.map (s.savedWave k w.core)
      w := s.windowCells .w w.core w.wbase w.wsize, a := s.windowCells .a w.core w.abase w.asize
      c := s.windowCells .c w.core w.cbase w.csize }

/-- A gang leaves its cores: its written bytes go out (R136), and its slots are free. -/
def State.vacate (s : State) (g : Gang) : State :=
  g.wgs.foldl (fun s k => match s.wg? k with
    | none => s
    | some w =>
      let s := (s.liveWaves k w).foldl (fun s wid => s.setWave wid Wave.empty) (s.releaseL1 w.core)
      s.putWg k { w with slots := [] }) s

/-- A traversal is abandoned, to be traced again (R360). -/
def State.abandonRays (s : State) (gid : Nat) : State :=
  { s with threads := s.threads.map fun e => if e.2.gid = gid then (e.1, { e.2 with held := none, ray := none }) else e }

/-- What a save writes behind the header of an area (R361). -/
def saveBody (wgs : List SavedWg) (units : Nat) : List Byte := (List.range (65536 * units - 64)).map (Config.savedByte wgs)

/-- Writes the body of a save; in the reserve area whole lines clear their poison (R364). -/
def State.writeBody (s : State) (l : Launch) (v : SavedGang) (wgs : List SavedWg) : Except XFail State :=
  if v.reserve then .ok ((reserveLines l.part v.units).foldl State.clearPoison s)
  else s.writeVa (s.ringAcc l.part) ((s.part l.part).areaVa v.area + 64) (saveBody wgs v.units)

/-- The save is complete: cores, slots and windows are free (R359). A pool that can no longer be written sends it to the reserve
area (R363). -/
def execGangSaveComplete (gid : Nat) (s : State) : Out :=
  match s.gang? gid with
  | none => .next s
  | some g =>
    match g.saved, s.launch? g.lid with
    | some v, some l =>
      if g.done ∨ g.pre ≠ .saving then .next s
      else
        let wgs := g.wgs.filterMap s.saveWg
        (match s.writeBody l v wgs with
         | .error e => .next ((s.saveRecord l g.index e e.addr 0x11).saveReserve gid g l.part v.units)
         | .ok t =>
           .next (((t.vacate g).abandonRays gid).putGang gid { g with pre := .saved, saved := some { v with wgs := wgs } }))
    | _, _ => .next s

/-! ## Restoring (R339, R340, R359, R363) -/

/-- A gang is to start again from its launch, where it fits (R37, R365): QSTAT and the grid count it. -/
def State.replayGang (s : State) (gid errors : Nat) : State :=
  match s.gang? gid with
  | none => s
  | some g =>
    match s.launch? g.lid with
    | none => s
    | some l =>
      let s := (s.vacate g).freeArea l.part gid
      let s := g.wgs.foldl (fun s k => match s.wg? k with
        | none => s
        | some w => s.putWg k { w with retired := false, closed := [] }) s
      let s := { s with threads := s.threads.filter fun e => e.2.gid != gid }
      let s := s.putGang gid { g with pre := .saved, saved := none, errors := errors }
      let s := s.putLaunch g.lid { l with replays := l.replays + 1 }
      let x := s.queue l.queue
      let rpl := Nat.min (bits 31 16 x.qstat.toNat + 1) 65535
      s.setQueue l.queue { x with qstat := BitVec.ofNat 64 (bits 63 32 x.qstat.toNat * 2 ^ 32 + rpl * 2 ^ 16 + x.qstat.toNat % 2 ^ 16) }

/-- An uncorrectable error affects a gang (R363, R365): it is replayed, or ends with a code. -/
def State.affectGang (s : State) (code gid : Nat) : State :=
  match s.gang? gid with
  | none => s
  | some g =>
    match s.launch? g.lid with
    | none => s
    | some l =>
      if g.done then s
      else if l.spec.repl = false then s.endGang gid code
      else if 3 ≤ g.errors then s.endGang gid 0x10
      else s.replayGang gid (g.errors + 1)

/-- A map of bytes below a size, in canonical form. -/
def cellsBelow (size : Nat) (l : List Host.Cell) : List Host.Cell :=
  (l.filter fun e => decide (e.1 < size)).foldl (fun m e => Sparse.set 0 m e.1 e.2) []

/-- A wave of a gang whose saved bytes have been changed: whatever state they encode, within what the launch gave the wave. -/
def Wave.changedTo (w x : Wave) : Wave :=
  if w.alive = false then w
  else { x with alive := true, wg := w.wg, idx := w.idx, width := w.width, base := w.base, regs := w.regs, matrix := w.matrix }

/-- The same of a workgroup and its windows. -/
def SavedWg.changedTo (v x : SavedWg) (w : Workgroup) : SavedWg :=
  { v with
    waves := v.waves.zipIdx.map fun e => e.1.changedTo (x.waves.getD e.2 Wave.empty)
    w := cellsBelow w.wsize x.w, a := cellsBelow w.asize x.a, c := cellsBelow w.csize x.c }

/-- The state that a body encodes (R361): what was saved where no byte has changed. -/
def State.bodyState (s : State) (v : SavedGang) (body : List Byte) : List SavedWg :=
  if body = saveBody v.wgs v.units then v.wgs
  else
    let xs := Config.savedState body
    v.wgs.zipIdx.map fun e => e.1.changedTo (xs.getD e.2 e.1) ((s.wg? e.1.wg).getD emptyWg)

/-- What reading a save area back finds (R361, R363): the state it encodes, a changed header, a poisoned line, a fault. -/
inductive AreaState where
  | good (wgs : List SavedWg)
  | changed
  | poisoned
  | fault (e : XFail) (va : Nat)
  deriving DecidableEq, Repr

/-- A line of the area is poisoned. -/
def State.areaPoisoned (s : State) (p va : Nat) : Nat → Bool
  | 0 => false
  | n + 1 =>
    (match s.translate (s.ringAcc p) va .read with
     | .ok (.leaf e pa) => !ptePeer e && s.poison.any fun x => x.1 / 512 == pa / 65536 && x.2
     | _ => false) || s.areaPoisoned p (va + 65536) n

def State.areaState (s : State) (l : Launch) (g : Gang) (v : SavedGang) : AreaState :=
  if v.reserve then
    if s.poison.any fun e => e.2 && (reserveLines l.part v.units).contains e.1 then .poisoned else .good v.wgs
  else
    let va := (s.part l.part).areaVa v.area
    match s.areaFault l.part va .read v.units with
    | some (.poison _, _) => .poisoned
    | some (e, addr) => .fault e addr
    | none =>
      if s.areaPoisoned l.part va v.units then .poisoned
      else match (s.readVa (s.ringAcc l.part) va 64).2 with
        | .error e => .fault e va
        | .ok bs =>
          if bs ≠ saveHeader v.units l.packet g.index l.queue then .changed
          else match (s.readVa (s.ringAcc l.part) (va + 64) (65536 * v.units - 64)).2 with
            | .error e => .fault e va
            | .ok body => .good (s.bodyState v body)

/-- A saved workgroup on its new core: its handles name records of the gang's new cores. -/
def State.restoreWg (s : State) (g : GridSpec) (cores : List Nat) (v : SavedWg) (p : CorePlan) : State :=
  match s.wg? v.wg with
  | none => s
  | some w =>
    let w' := { w with
      core := p.core, wbase := p.wbase, abase := p.abase, cbase := p.cbase, slots := p.slots.map (·.1)
      handles := startHandles g cores w.gwg }
    let s := (s.acquireL1 p.core).putWg v.wg w'
    let s := ((s.setWindow .w p.core p.wbase w.wsize v.w).setWindow .a p.core p.abase w.asize v.a).setWindow .c p.core p.cbase w.csize v.c
    let s := s.clearShadows g w'
    (v.waves.zip p.slots).foldl (fun s e =>
      if e.1.alive = false then s
      else
        let wid := p.core * 64 + e.2.1
        let t := s.setWave wid ({ e.1 with base := e.2.2.1 }.mapPanels fun q => { q.rebase s.cycle with ready := s.cycle })
        { t with chains := Sparse.erase t.chains wid }) s

/-- The local address of a record after its gang has moved from one base core of a cluster to another (R55, R103). -/
def moveRecord (was now addr : Nat) : Nat :=
  if laSpace addr = 3 then addr - laCore addr * 2 ^ 21 + (laCore addr + now % 48 - was % 48) * 2 ^ 21 else addr

/-- The operands of an engine operation that lie in stores of its gang, on its new cores (R103, R246, R250). -/
def Engine.moved (was now : Nat) : Engine → Engine
  | .copy x => .copy { x with loc := moveRecord was now x.loc }
  | .mloop x => .mloop { x with g := x.g.zipIdx.map fun e =>
      if e.2 = 0 then BitVec.ofNat 64 (e.1.toNat / 2 ^ 32 * 2 ^ 32 + moveRecord was now (e.1.toNat % 2 ^ 32)) else e.1 }
  | .msoft x => .msoft { x with pout := moveRecord was now x.pout }
  | e => e

/-- An engine thread of a restored gang on its new core: a new wave identifier and the generation now in force (R359). -/
def State.moveThread (s : State) (g : Gang) (v : SavedGang) (plan : List CorePlan) (t : Thread) : Thread :=
  let wids := (v.wgs.zip plan).flatMap fun e => e.1.wids.zip (e.2.slots.map fun x => e.2.core * 64 + x.1)
  let base := (plan.map (·.core)).headD 0
  { t with
    wid := (Sparse.find wids t.wid).getD t.wid, core := t.core - g.base + base, gen := s.genOf t.part t.asn
    bar := t.bar.map (moveRecord g.base base), engine := t.engine.moved g.base base }

/-- The state read back onto the cores of a plan (R359): an acquire, the waves and windows, and the threads. -/
def State.restoreGang (s : State) (gid : Nat) (g : Gang) (l : Launch) (v : SavedGang) (wgs : List SavedWg) (plan : List CorePlan) :
    State :=
  let cores := plan.map (·.core)
  let s := (wgs.zip plan).foldl (fun s e => s.restoreWg l.spec cores e.1 e.2) s
  let s := { s with threads := s.threads.map fun (e : Nat × Thread) => if e.2.gid = gid then (e.1, s.moveThread g v plan e.2) else e }
  let base := cores.headD 0
  let s := (s.putGang gid { g with pre := .run, cluster := base / 48, base := base }).freeArea l.part gid
  v.replies.foldl (fun s r => s.replyTo l.part r.1 r.2) s

/-- Starts a gang again from its launch (R365), with the chain values that its first run inherited (R42). -/
def State.restart (s : State) (gid : Nat) (g : Gang) (l : Launch) (plan : List CorePlan) : State :=
  let plan := plan.zipIdx.map fun p =>
    { p.1 with slots := p.1.slots.zipIdx.map fun e => (e.1.1, e.1.2.1, Sparse.find g.inherited (p.2 * 16 + e.2)) }
  let t := s.gangAt gid g.lid l.spec g.index 0 plan
  match t.gang? gid with
  | none => t
  | some x => t.putGang gid { x with errors := g.errors }

/-- The place of a saved gang, in any cluster of its partition (R341). -/
def State.placeAgain (s : State) (g : Gang) (l : Launch) : Option (List CorePlan) :=
  s.planGang (2 ^ 64) l.spec g.wgs.length (s.openClusters l.part (List.range 8))

/-- A new gang of a higher class, or another saved gang before this one, is placed first (R340). -/
def State.othersFirst (s : State) (gid : Nat) (l : Launch) : Bool :=
  ((List.range 4).any fun d => match s.nextPlacement d with
    | some (lid, _, .start _) => (match s.launch? lid with
      | none => false
      | some x => decide (x.cls < l.cls))
    | _ => false) ||
  s.gangs.any fun e => match s.launch? e.2.lid with
    | none => false
    | some x => e.2.pre == .saved && !e.2.done && e.1 != gid && (s.placeAgain e.2 x).isSome &&
        (decide (x.cls < l.cls) || (x.cls == l.cls && (decide (x.order < l.order) || (x.order == l.order && decide (e.1 < gid)))))

/-- A saved gang is placed and its state read back, or the restore fails (R359, R363); one that fits nowhere any more
ends (R366). -/
def execGangRestore (gid : Nat) (s : State) : Out :=
  match s.gang? gid with
  | none => .next s
  | some g =>
    match s.launch? g.lid with
    | none => .next s
    | some l =>
      if g.done ∨ g.pre ≠ .saved then .next s
      else if s.possible l.part l.spec g.wgs.length = false then .next (s.endGang gid 0x02)
      else match s.placeAgain g l with
        | none => .next s
        | some plan =>
          if s.othersFirst gid l then .next s
          else match g.saved with
            | none => .next (s.restart gid g l plan)
            | some v =>
              match s.areaState l g v with
              | .good wgs => .next (s.restoreGang gid g l v wgs plan)
              | .changed => .next (s.endGang gid 0x13)
              | .poisoned => .next (s.affectGang 0x13 gid)
              | .fault e va => .next ((s.saveRecord l g.index e va 0x10).endGang gid 0x13)

/-! ## Uncorrectable errors (R364-R366) -/

/-- The gangs with a workgroup on a core: each with the code it ends with where it is not replayed. -/
def State.gangsOn (s : State) (core : Nat) : List (Nat × Nat) :=
  s.gangs.filterMap fun e =>
    if e.2.done = false ∧ e.2.pre ≠ .saved ∧ (e.2.wgs.any fun k => match s.wg? k with
        | none => false
        | some w => w.core == core) = true then some (e.1, if e.2.pre = .saving then 0x13 else 0x10)
    else none

/-- An error in a core's state affects every gang with a workgroup on it; at the third the core is retired (R366). -/
def State.coreError (s : State) (core : Nat) : State :=
  let n := Sparse.get 0 s.coreErrors core + 1
  let t := (s.gangsOn core).foldl (fun s e => s.affectGang e.2 e.1) s
  State.showIdent { t with
    coreErrors := Sparse.set 0 t.coreErrors core n
    retired := if n = 3 ∧ t.retired.contains core = false then core :: t.retired else t.retired }

/-- An uncorrectable error (R364). -/
def execUncorrectableError (site : ErrorSite) (s : State) : Out :=
  match site with
  | .core n => if n < 388 then .next (s.coreError n) else .next s
  | .line pa => if pa < memorySize then .next { s with poison := Sparse.set false s.poison (pa / 128) true }
      else .next s

end Sys2Proof.Machine
end

