-- ==== Sys2Proof/Machine/Display.lean ====
section
/-! DEFINITION. The display engine (19 R367-R381): heads, frame descriptors, bands, the fixed filters and fallback
records. Each BAND_SCANOUT is one line of a head (assumption 31, DESIGN CHOICE). -/

namespace Sys2Proof.Machine

/-! ## Registers (R367) -/

def Head.en (x : Head) : Bool := x.hctl.getLsbD 0
def Head.wb (x : Head) : Bool := x.hctl.getLsbD 1
def Head.lanes (x : Head) : Nat := bits 7 6 x.hctl.toNat
def Head.rate (x : Head) : Nat := bits 11 8 x.hctl.toNat
def Head.dsc (x : Head) : Bool := x.hctl.getLsbD 12
def Head.depth (x : Head) : Nat := bits 17 16 x.hctl.toNat
def Head.part (x : Head) : Nat := bits 20 18 x.hctl.toNat
def Head.hact (x : Head) : Nat := bits 15 0 x.htim.toNat
def Head.htotal (x : Head) : Nat := bits 31 16 x.htim.toNat
def Head.vact (x : Head) : Nat := bits 47 32 x.htim.toNat
def Head.ww (x : Head) : Nat := bits 2 0 x.kcfg.toNat
def Head.nwav (x : Head) : Nat := bits 11 8 x.kcfg.toNat + 1
def Head.regs (x : Head) : Nat := bits 19 12 x.kcfg.toNat
def Head.gang (x : Head) : Nat := bits 21 20 x.kcfg.toNat + 1
def Head.csz (x : Head) : Nat := bits 31 22 x.kcfg.toNat
def Head.wsz (x : Head) : Nat := bits 47 32 x.kcfg.toNat
def Head.asz (x : Head) : Nat := bits 63 48 x.kcfg.toNat
def Head.asn (x : Head) : Nat := bits 15 0 x.fdcfg.toNat
def Head.slots (x : Head) : Nat := 2 ^ (bits 19 16 x.fdcfg.toNat + 2)
def Head.nbands (x : Head) : Nat := x.vact / 32

/-- The fields of HCTL that exist; PART keeps its value unless firmware writes (R367). -/
def hctlKept (who : Writer) (old val : DWord) : DWord :=
  let x := val &&& 0xFF1F1FC3
  if who = .firmware then x else x &&& ~~~ 0x1C0000#64 ||| old &&& 0x1C0000

/-- HCTL without EN. -/
def hctlRest (x : DWord) : DWord := x &&& ~~~ 1#64

/-- The payload of a link in kb/s, times 132 (R368; the lane rates and codings are those of DisplayPort: assumption 32, PRESUMED). -/
def linkPayload (rate lanes : Nat) : Nat :=
  let perLane := [1620000, 2700000, 5400000, 8100000, 10000000, 13500000, 20000000].getD rate 0
  2 ^ lanes * (if rate < 4 then perLane * 132 * 8 / 10 else perLane * 128)

/-- Bits of a pixel on the link (R368). -/
def Head.pixelBits (x : Head) : Nat := if x.dsc then 12 else 3 * (8 + 2 * x.depth)

/-- KCFG breaks R47, R104 or R38. -/
def Head.kcfgBad (x : Head) : Bool :=
  decide (4 < x.ww) || x.regs == 0 || decide (192 < x.regs) || x.regs % 8 != 0 || decide (1024 < x.nwav * (4 * 2 ^ x.ww)) ||
  decide (1024 < x.wsz) || decide (768 < x.asz) || decide (512 < x.csz)

/-- ERR of a write of EN = 1 (R368); 0 where the head starts. -/
def Head.startError (x : Head) : Nat :=
  if x.depth = 3 ∨ 7 ≤ x.rate ∨ x.lanes = 3 ∨ x.guard < 2 ∨ 64 < x.guard ∨ x.kcfgBad = true ∨ 7 ≤ bits 19 16 x.fdcfg.toNat then 1
  else if x.hact % 8 ≠ 0 ∨ x.hact < 64 ∨ 7680 < x.hact ∨ x.vact % 32 ≠ 0 ∨ x.vact < 64 ∨ 8192 < x.vact ∨
      x.htotal < x.hact + 32 ∨ x.vtotal < x.vact + x.guard + 1 ∨
      (x.wb = false ∧ linkPayload x.rate x.lanes < bits 31 0 x.pclk.toNat * x.pixelBits * 132) then 2
  else 0

/-- A write of EN = 1 (R368): line 0 of the lead-in, or ERR. Either wakes the module (R404). -/
def execHeadEnable (who : Writer) (h : Nat) (val : DWord) (s : State) : Out :=
  let x := s.head h
  if 8 ≤ h ∨ val.getLsbD 0 = false ∨ x.en = true then .next s
  else if mayWrite who x.part = false then .next s
  else
    let y := { x with hctl := hctlKept who x.hctl val }
    let e := y.startError
    if e ≠ 0 then .next (s.setHead h { y with hctl := hctlRest y.hctl, err := BitVec.ofNat 4 e }).wakeUp
    else
      .next (s.setHead h { y with
        err := 0, line := 0, frame := 0xFFFFFFFF, leadIn := true, running := true, stopping := false, desc := none, next := none
        nextTaken := false, repeating := false, descError := false, nextRepeat := false, nextError := false, underrun := false
        started := false, recorded := false, failed := [], nextFailed := [], bands := [], nextBands := [], sources := []
        sent := [] }).wakeUp

/-- A write of EN = 0 that leaves the other fields (R367, R368): the head stops at the end of the frame. -/
def execHeadDisable (who : Writer) (h : Nat) (val : DWord) (s : State) : Out :=
  let x := s.head h
  if 8 ≤ h ∨ val.getLsbD 0 = true ∨ x.en = false then .next s
  else if mayWrite who x.part = false ∨ hctlKept who x.hctl val ≠ hctlRest x.hctl then .next s
  else .next (s.setHead h { x with hctl := hctlRest x.hctl, stopping := true })

/-! ## Frame descriptors (R372, R373) -/

/-- The head's accesses: in the space of FDCFG.ASN, through no core. -/
def State.headAcc (s : State) (h : Nat) : Acc :=
  let x := s.head h
  { core := none, part := x.part, asn := x.asn, gen := s.genOf x.part x.asn }

def FrameDesc.mode (d : FrameDesc) : Nat := byteAt d.bytes 0 % 4
def FrameDesc.seq (d : FrameDesc) : Nat := fieldAt d.bytes 4 4
def FrameDesc.halo (d : FrameDesc) : Nat := byteAt d.bytes 91
def FrameDesc.recAddr (d : FrameDesc) : Nat := fieldAt d.bytes 96 8
def FrameDesc.surface (bs : List Byte) : Layout := Layout.ofBytes 0 bs

/-- A value that the table of R372, or for a trap base R61, does not allow. -/
def descFields (bs : List Byte) : Bool :=
  let mode := byteAt bs 0
  let named := fun k => fieldAt bs k 8 != 0
  decide (4 ≤ mode) || !zeroAt bs ([1, 2, 3, 95] ++ (List.range 15).map (113 + ·)) || (mode != 3 && named 24) ||
  (decide (mode < 2) && named 32) || (mode == 0 && named 40) || fieldAt bs 48 8 % 256 != 0 || decide (2 ^ 57 ≤ fieldAt bs 48 8) || fieldAt bs 56 8 % 16 != 0 ||
  fieldAt bs 64 4 % 16 != 0 || decide (65536 < fieldAt bs 64 4) || fieldAt bs 88 2 == 0 || decide (4096 < fieldAt bs 88 2) ||
  fieldAt bs 92 2 == 0 || decide (4096 < fieldAt bs 92 2) || decide (byteAt bs 90 < 5) || decide (8 < byteAt bs 90) ||
  decide (byteAt bs 94 < 5) || decide (8 < byteAt bs 94) || decide (64 < byteAt bs 91) || fieldAt bs 96 8 % 128 != 0 ||
  fieldAt bs 104 8 % 4 != 0 || (byteAt bs 112 == 0 && named 104) || decide (16 < byteAt bs 112)

/-- A layout record that obeys R119 in the head's space; none where it does not, or cannot be read. -/
def State.frameRecord (s : State) (a : Acc) (h : Nat) : State × Option (List Byte) :=
  match s.patternRecord a h with
  | .ok r => r
  | .error _ => (s, none)

/-- A surface that OUT, SRC0 and SRC1 may name (assumption 83, DEDUCED). -/
def frameSurface (bs : List Byte) : Bool :=
  let r := Layout.ofBytes 0 bs
  r.kind == 2 && r.rank == 2 && [0x42, 0x43, 0x44, 0x47].contains r.fmt

/-- The records of a descriptor fit together (R372, R375). -/
def FrameDesc.recordsOk (d : FrameDesc) (hact vact : Nat) : Bool :=
  let o := FrameDesc.surface d.out
  let ext := fun (bs : List Byte) k => (FrameDesc.surface bs).ext.getD k 0
  let fmt := fun (bs : List Byte) => (FrameDesc.surface bs).fmt
  frameSurface d.out && ext d.out 0 == hact && ext d.out 1 == vact &&
  (d.mode == 0 || (frameSurface d.src0 && fmt d.src0 == o.fmt)) &&
  (d.mode != 3 || (frameSurface d.src1 && fmt d.src1 == o.fmt && ext d.src1 0 == ext d.src0 0 && ext d.src1 1 == ext d.src0 1)) &&
  (decide (d.mode < 2) || (fmt d.mot == 0x46 && ext d.mot 1 == vact))

/-- The records and the barrier table that a descriptor names. -/
def State.descReads (s : State) (a : Acc) (addr : Nat) (bs : List Byte) : State × Option FrameDesc :=
  let mode := byteAt bs 0
  let get := fun (s : State) (need : Bool) k => if need then s.frameRecord a (fieldAt bs k 8) else (s, some [])
  let r0 := get s true 8
  let r1 := get r0.1 (mode != 0) 16
  let r2 := get r1.1 (mode == 3) 24
  let r3 := get r2.1 (decide (2 ≤ mode)) 32
  match r0.2, r1.2, r2.2, r3.2, r3.1.readTable a (fieldAt bs 104 8) (4 * byteAt bs 112) with
  | some o, some x, some y, some m, .ok (s, tab) =>
    (s, some { addr := addr, bytes := bs, btab := word32s tab 0 (byteAt bs 112), out := o, src0 := x, src1 := y, mot := m })
  | _, _, _, _, _ => (r3.1, none)

/-- A descriptor that passes R372. -/
def State.takeDesc (s : State) (h addr : Nat) : State × Option FrameDesc :=
  let x := s.head h
  match s.agentRead (s.headAcc h) addr 128 with
  | .error _ => (s, none)
  | .ok (s, bs) =>
    if descFields bs then (s, none)
    else match s.descReads (s.headAcc h) addr bs with
      | (s, none) => (s, none)
      | (s, some d) =>
        let ok := d.recordsOk x.hact x.vact && decide (16 * d.btab.length ≤ 2048 * x.asz) &&
          d.btab.all fun e => !barEntryBad e && decide (barGwg e < x.gang)
        (s, if ok then some d else none)

/-- The head stands at the take point of its next frame (R373), which it does not pass without taking. -/
def Head.atTake (x : Head) : Bool := x.running && !x.nextTaken && (x.leadIn || decide (32 ≤ x.line))

/-- The take point (R373). -/
def execDescriptorTake (h : Nat) (s : State) : Out :=
  let x := s.head h
  if 8 ≤ h ∨ x.atTake = false then .next s
  else
    let waiting := (x.fdann - x.fdrd).toNat
    let repeats := { x with nextTaken := true, next := none, nextRepeat := true, nextError := false }
    if waiting = 0 then .next (s.setHead h repeats)
    else if x.slots < waiting then .next (s.setHead h { repeats with err := 3 })
    else
      let r := s.takeDesc h (x.fdbase.toNat + 128 * (x.fdrd.toNat % x.slots))
      match r.2 with
      | none => .next (r.1.setHead h { repeats with fdrd := x.fdrd + 1, nextError := true })
      | some d => .next (r.1.setHead h { x with fdrd := x.fdrd + 1, nextTaken := true, next := some d, nextRepeat := false, nextError := false })

/-! ## Bands (R374-R376) -/

/-- The rows of an input of height ih that band b needs (R375). -/
def bandRows (vact ih halo b : Nat) : Nat × Nat :=
  (32 * b * ih / vact - halo, Nat.min (ih - 1) (((32 * b + 32) * ih + vact - 1) / vact - 1 + halo))

/-- An input of a frame (R375): its number, its bitmap, BPR, S and height, and the greatest height that its bitmap covers. -/
structure FrameInput where
  num : Nat
  cbm : Nat
  bpr : Nat
  st : Nat
  ih : Nat
  top : Nat

/-- The inputs that a mode names: with CBM0 that of OUT or SRC0, with CBM1 those of SRC1 and MOT (R375). CBM1 is one bitmap, as
long as the higher of the two needs (assumption 118, DEDUCED). -/
def FrameDesc.inputs (d : FrameDesc) : List FrameInput :=
  let high := fun (bs : List Byte) => (FrameDesc.surface bs).ext.getD 1 0
  let one := fun (n : Nat) (bs : List Byte) =>
    ({ num := n, cbm := fieldAt d.bytes 80 8, bpr := fieldAt d.bytes 92 2, st := byteAt d.bytes 94, ih := high bs
       top := Nat.max (high d.mot) (if d.mode = 3 then high d.src1 else 0) } : FrameInput)
  let ih := high (if d.mode = 0 then d.out else d.src0)
  { num := 0, cbm := fieldAt d.bytes 72 8, bpr := fieldAt d.bytes 88 2, st := byteAt d.bytes 90, ih := ih, top := ih } ::
  ((if d.mode = 3 then [one 1 d.src1] else []) ++ (if 2 ≤ d.mode then [one 2 d.mot] else []))

def FrameInput.count (x : FrameInput) : Nat := ((x.top - 1) / 2 ^ x.st + 1) * x.bpr

/-- The bitmap of an input with its error word, if it can be read. -/
def State.inputBits (s : State) (a : Acc) (x : FrameInput) : Option (List Byte × Nat) :=
  let n := 8 * ((x.count + 63) / 64)
  match s.agentRead a x.cbm (n + 8) with
  | .error _ => none
  | .ok (_, bs) => some (bs.take n, ofBytes (bs.drop n))

/-- The bitmap of an input shows an error. -/
def State.inputFails (s : State) (a : Acc) (x : FrameInput) : Bool :=
  match s.inputBits a x with
  | none => false
  | some e => e.2 != 0

/-- An input is complete for a band (R375): its bits are set, and its bitmap's error word is and has been zero. -/
def State.inputReady (s : State) (a : Acc) (failed : List Nat) (x : FrameInput) (vact halo b : Nat) : Bool :=
  let rows := bandRows vact x.ih halo b
  !failed.contains x.num &&
  match s.inputBits a x with
  | none => false
  | some (bs, err) =>
    err == 0 &&
    (List.range (rows.2 / 2 ^ x.st + 1)).all fun j => decide (j < rows.1 / 2 ^ x.st) ||
      (List.range x.bpr).all fun k => (bs.getD ((j * x.bpr + k) / 8) 0).getLsbD ((j * x.bpr + k) % 8)

/-- The inputs with some numbers are complete, for the current frame or the next. -/
def State.inputsOf (s : State) (h b : Nat) (next : Bool) (d : FrameDesc) (ns : List Nat) : Bool :=
  let x := s.head h
  d.inputs.all fun i => !ns.contains i.num ||
    s.inputReady (s.headAcc h) (if next then x.nextFailed else x.failed) i x.vact d.halo b

/-- What CBM0 covers is complete, and what CBM1 covers; every input that the mode names is (R377). -/
def State.ready0 (s : State) (h b : Nat) (next : Bool) (d : FrameDesc) : Bool := s.inputsOf h b next d [0]
def State.ready1 (s : State) (h b : Nat) (next : Bool) (d : FrameDesc) : Bool := s.inputsOf h b next d [1, 2]
def State.inputsReady (s : State) (h b : Nat) (next : Bool) (d : FrameDesc) : Bool := s.inputsOf h b next d [0, 1, 2]

/-- The inputs of a frame that show an error now, beside those that have. -/
def State.failures (s : State) (h : Nat) (d : Option FrameDesc) (l : List Nat) : List Nat :=
  match d with
  | none => l
  | some d => (l ++ (d.inputs.filter fun i => s.inputFails (s.headAcc h) i).map (·.num)).eraseDups

/-- The sequencer has seen the error words of its frames' inputs (R375). -/
def State.noteFailures (s : State) (h : Nat) : State :=
  let x := s.head h
  if 8 ≤ h ∨ x.running = false then s
  else s.setHead h { x with
    failed := s.failures h (if x.leadIn || x.repeating then none else x.desc) x.failed, nextFailed := s.failures h x.next x.nextFailed }

/-- The descriptor and the band of the frame that a head is to prepare band b for: the current one until the band is
scanned, then the next (R374). The first component says which: true for the next. -/
def Head.target (x : Head) (b : Nat) : Option (Bool × FrameDesc × Band) :=
  if x.leadIn = false ∧ x.line ≤ 32 * b then
    (if x.repeating then none else x.desc.map fun d => (false, d, Sparse.get Band.fresh x.bands b))
  else if x.nextTaken = true ∧ x.nextRepeat = false ∧ (x.leadIn = true ∨ 32 * b + 32 ≤ x.line) then
    x.next.map fun d => (true, d, Sparse.get Band.fresh x.nextBands b)
  else none

def Head.setBand (x : Head) (next : Bool) (b : Nat) (y : Band) : Head :=
  if next then { x with nextBands := Sparse.set Band.fresh x.nextBands b y } else { x with bands := Sparse.set Band.fresh x.bands b y }

/-- Scan-out has reached a band's deadline line (R374). -/
def Head.reached (x : Head) (next : Bool) (b : Nat) : Bool := decide (x.deadline next b ≤ x.line)

/-- Every deadline that the head has reached has been dealt with. -/
def Head.decided (x : Head) : Bool :=
  (List.range x.nbands).all fun b => match x.target b with
    | none => true
    | some (next, d, y) => d.mode == 0 || y.code.isSome || !x.reached next b

/-- The frame number of a band's gang. -/
def Head.frameOf (x : Head) (next : Bool) : Nat := if next then x.nextFrame else x.frame

/-! ## Band kernels (R377, R378) -/

/-- The shape of a band's gang. -/
def Head.bandSpec (x : Head) (d : FrameDesc) : GridSpec :=
  { emptySpec with
    width := 4 * 2 ^ x.ww, nwav := x.nwav, gang := x.gang, regs := x.regs, prod := 0, ex := x.gang, ey := x.nbands, ez := 1
    wsz := x.wsz, asz := x.asz, csz := x.csz, nbar := d.btab.length, entry := fieldAt d.bytes 40 8, tba := fieldAt d.bytes 48 8
    btab := d.btab, pw := if fieldAt d.bytes 56 8 = 0 then [] else [(fieldAt d.bytes 56 8, fieldAt d.bytes 64 4)] }

/-- A TLB that some cores' clearing clears (R391): that of one of the cores, or of a cluster of one. -/
def clearsTlb (f : Nat → Bool) (unit : Nat) : Bool :=
  if unit < clusterTlb 0 then f unit
  else decide (unit ≤ clusterTlb 8) && (List.range 48).any fun j => f (48 * (unit - clusterTlb 0) + j)

/-- What some cores lose when they change partition (R391). -/
def State.clearCores (s : State) (f : Nat → Bool) : State :=
  let out := fun (l : List Host.Cell) => l.filter fun e => !f (e.1 / 2 ^ 21)
  { s with
    wStore := out s.wStore, aStore := out s.aStore, cStore := out s.cStore
    shadow := s.shadow.filter fun e => !f (e.1 / 2 ^ 19)
    l1 := s.l1.filter fun e => !f (ixCore e.1)
    icache := s.icache.filter fun e => !f (codeCore e.1)
    tlb := s.tlb.filter fun t => !clearsTlb f t.unit
    chains := s.chains.filter fun e => !f (e.1 / 64)
    waves := s.waves.filter fun e => !f (e.1 / 64) }

/-- A display core goes to a partition (R391). -/
def State.ownCore (s : State) (p core : Nat) : State :=
  if Sparse.find s.owners core = some p then s
  else
    let s := s.clearCores (· == core)
    { s with owners := Sparse.put s.owners core p }

/-- No workgroup of another partition runs on some cores or holds windows there: a display core changes its partition only when it
is free (R377, R391). -/
def State.coresFree (s : State) (p first n : Nat) : Bool :=
  s.wgs.all fun e => !s.holdsWindows e.2 || decide (e.2.core < first) || decide (first + n ≤ e.2.core) || s.wgPart e.2 == p

/-- Workgroup j on display core j (R377), where the gang fits beside those that run. -/
def State.planBand (s : State) (p : Nat) (g : GridSpec) : Option (List CorePlan) :=
  if s.coresFree p 384 g.gang then s.planAt (2 ^ 64) g g.gang false 384 else none

/-- A band that can be launched now: its place. -/
def State.bandPlan (s : State) (h b : Nat) : Option (Bool × FrameDesc × Band × List CorePlan) :=
  let x := s.head h
  if x.running = false ∨ x.nbands ≤ b then none
  else match x.target b with
    | none => none
    | some (next, d, y) =>
      if d.mode = 0 ∨ y.launch.isSome ∨ y.code.isSome ∨ x.reached next b ∨ s.inputsReady h b next d = false then none
      else (s.planBand x.part (x.bandSpec d)).map fun p => (next, d, y, p)

/-- The display-core cycles to a band's deadline (R377). -/
def Head.cyclesLeft (x : Head) (next : Bool) (b : Nat) : Rat :=
  (((x.deadline next b - x.line).toNat * x.htotal * 3300000 : Nat) : Rat) / ((bits 31 0 x.pclk.toNat : Nat) : Rat)

/-- Another band that can be launched comes first (R377). -/
def State.bandFirst (s : State) (h b : Nat) (next : Bool) : Bool :=
  let mine := (s.head h).cyclesLeft next b
  (List.range 8).any fun k => (List.range (s.head k).nbands).any fun c =>
    match s.bandPlan k c with
    | none => false
    | some (n, _, _, _) =>
      let other := (s.head k).cyclesLeft n c
      decide (other < mine) || (decide (other = mine) && (decide (k < h) || (k == h && decide (c < b))))

/-- g0 of the waves of a band's workgroups: WGX = j, WGY = b, WGZ = h. -/
def State.bandStarts (s : State) (h b : Nat) (ks : List Nat) : State :=
  ks.zipIdx.foldl (fun s e => match s.wg? e.1 with
    | none => s
    | some w => (s.liveWaves e.1 w).foldl (fun s wid =>
        s.setWave wid ((s.wave wid).mapPanels fun p => p.setG 0 (packXyz e.2 b h))) s) s

/-- A band's gang starts on the display cores (R377), unless heat keeps new gangs back (R403). The launch has no queue: what a fault record gives for it is open
(assumption 33, DESIGN CHOICE). -/
def execBandLaunch (h b : Nat) (s : State) : Out :=
  let s := s.noteFailures h
  let x := s.head h
  match s.bandPlan h b with
  | none => .next s
  | some (next, d, y, plan) =>
    if 8 ≤ h ∨ s.hot = true ∨ s.bandFirst h b next = true then .next s
    else
      let g := x.bandSpec d
      let s := (plan.map (·.core)).foldl (fun s c => s.ownCore x.part c) s
      let lid := s.serial
      let l := newLaunch (.band h b (x.frameOf next)) ((Config.free s.freeCtr 0).toNat % 8192) x.asn x.part 0 0 lid g
      let s := (s.addLaunch { l with chunks := [], live := 1 }).bumpFree
      let gid := s.serial
      let s := (s.startGang lid g b d.addr plan).bandStarts h b ((List.range plan.length).map (gid + 1 + ·))
      .next (s.setHead h (x.setBand next b { y with launch := some lid }))

/-- The gang of a launch is killed: nothing is saved and no error arises (R378). -/
def State.killBand (s : State) (lid : Nat) : State :=
  match s.gangs.find? fun e => e.2.lid == lid && !e.2.done with
  | none => s
  | some e => s.endGang e.1 0

/-- A band's deadline (R378): its code is decided, with 1 for the fixed filter, which is still to write it. A gang that has ended
early counts as killed here. -/
def execBandDeadline (h b : Nat) (s : State) : Out :=
  let s := s.noteFailures h
  let x := s.head h
  match x.target b with
  | none => .next s
  | some (next, d, y) =>
    if 8 ≤ h ∨ x.running = false ∨ x.nbands ≤ b ∨ d.mode = 0 ∨ y.code.isSome ∨ x.reached next b = false then .next s
    else if y.published then .next (s.setHead h (x.setBand next b { y with code := some 0 }))
    else
      let fixed := (d.mode == 1 && s.ready0 h b next d) || (d.mode == 3 && s.ready0 h b next d && s.ready1 h b next d)
      let s := match y.launch with
        | none => s
        | some lid => s.killBand lid
      .next (s.setHead h (x.setBand next b { y with killed := y.launch.isSome, code := some (if fixed then 1 else 2) }))

/-! ## The fixed filters (R379, R380) -/

/-- The stored bytes of a pixel (R114, R279), in a record of any kind: R372 gives MOT none. -/
def State.pixelGet (s : State) (a : Acc) (r : Layout) (x y : Nat) : Except Verdict (State × Nat) :=
  (s.agentRead a (r.elemAddr [x, y]) r.elem).map fun p => (p.1, ofBytes p.2)

def State.pixelPut (s : State) (a : Acc) (r : Layout) (x y n : Nat) : Except Verdict State :=
  s.agentWrite a (r.elemAddr [x, y]) (toBytes r.elem n)

/-- CR(p, t) (R380), for p from −1: k = p + 1. -/
def cubic (k : Nat) (t : Rat) : Rat :=
  match k with
  | 0 => (2 * t * t - t * t * t - t) / 2
  | 1 => (3 * t * t * t - 5 * t * t + 2) / 2
  | 2 => (4 * t * t - 3 * t * t * t + t) / 2
  | _ => (t * t * t - t * t) / 2

def clampInt (x lo hi : Int) : Nat := (max lo (min x hi)).toNat

/-- The weighted sum of the taps. -/
def State.taps (s : State) (a : Acc) (r : Layout) (z : List XVal) : List (Nat × Nat × Rat) → Except Verdict (State × List XVal)
  | [] => .ok (s, z)
  | (x, y, k) :: l =>
    match s.pixelGet a r x y with
    | .error v => .error v
    | .ok (s, n) => s.taps a r (addChannels z ((decodeTexel r.fmt n).map (XVal.scale k))) l

/-- Bicubic(x, y). -/
def State.bicubic (s : State) (a : Acc) (src out : Layout) (hact vact : Nat) (rows : Nat × Nat) (x y : Nat) : Except Verdict (State × Nat) :=
  let w := src.ext.getD 0 0
  let sx := ((x : Rat) + 1 / 2) * (w : Rat) / (hact : Rat) - 1 / 2
  let sy := ((y : Rat) + 1 / 2) * (src.ext.getD 1 0 : Rat) / (vact : Rat) - 1 / 2
  let t := toGrid (sx - (sx.floor : Rat))
  let u := toGrid (sy - (sy.floor : Rat))
  let l := (List.range 4).flatMap fun (q : Nat) => (List.range 4).map fun (p : Nat) =>
    (clampInt (sx.floor + (p : Int) - 1) 0 ((w : Int) - 1), clampInt (sy.floor + (q : Int) - 1) rows.1 rows.2, cubic p t * cubic q u)
  (s.taps a src (List.replicate 4 (XVal.ofRat 0)) l).map fun r => (r.1, encodeTexel out.fmt 0 15 r.2)

/-- One component of MOT, unless either is NaN or infinite. -/
def motion (n : Nat) : Rat × Rat :=
  match f16.decode (n % 2 ^ 16), f16.decode (n / 2 ^ 16) with
  | .fin a m e, .fin b k f => (FVal.toRat (.fin a m e), FVal.toRat (.fin b k f))
  | _, _ => (0, 0)

/-- Reproject(x, y): PHASE is a finite number, or its result is open. -/
def State.reproject (s : State) (a : Acc) (d : FrameDesc) (rows : Nat × Nat) (x y : Nat) : Except Verdict (State × Nat) :=
  let src := FrameDesc.surface d.src0
  match s.pixelGet a (FrameDesc.surface d.mot) x y with
  | .error v => .error v
  | .ok (s, n) =>
    let m := motion n
    match f32.decode (fieldAt d.bytes 68 4) with
    | .fin b k e =>
      let phase := FVal.toRat (.fin b k e)
      let i := clampInt ((x : Rat) - phase * m.1 + 1 / 2).floor 0 ((src.ext.getD 0 0 : Int) - 1)
      let j := clampInt ((y : Rat) - phase * m.2 + 1 / 2).floor rows.1 rows.2
      s.pixelGet a src i j
    | _ => .ok (s.bumpFree, (Config.free s.freeCtr (x + y * 65536)).toNat)

/-- The filter of a descriptor at a pixel. -/
def State.filterAt (s : State) (a : Acc) (d : FrameDesc) (hact vact b x y : Nat) : Except Verdict (State × Nat) :=
  let src := FrameDesc.surface d.src0
  let rows := bandRows vact (src.ext.getD 1 0) d.halo b
  if d.mode = 1 then s.bicubic a src (FrameDesc.surface d.out) hact vact rows x y else s.reproject a d rows x y

/-- Writes pixels one after another. -/
def State.paint (s : State) (a : Acc) (r : Layout) (f : State → Nat → Nat → Except Verdict (State × Nat)) :
    List (Nat × Nat) → Except Verdict State
  | [] => .ok s
  | (x, y) :: l =>
    match f s x y with
    | .error v => .error v
    | .ok (s, n) =>
      match s.pixelPut a r x y n with
      | .error v => .error v
      | .ok s => s.paint a r f l

/-- The pixels of a band, line by line. -/
def bandPixels (hact b : Nat) : List (Nat × Nat) := (List.range 32).flatMap fun j => (List.range hact).map fun x => (x, 32 * b + j)

/-- The fixed filter writes every pixel of a band (R379, R380); where an access fails, the band stays unwritten
(assumption 34, DESIGN CHOICE). -/
def execBandFixedFilter (h b : Nat) (s : State) : Out :=
  let x := s.head h
  match x.target b with
  | none => .next s
  | some (next, d, y) =>
    if 8 ≤ h ∨ x.running = false ∨ y.code ≠ some 1 ∨ y.published = true then .next s
    else match s.paint (s.headAcc h) (FrameDesc.surface d.out) (fun s i j => s.filterAt (s.headAcc h) d x.hact x.vact b i j) (bandPixels x.hact b) with
      | .error _ => .next s
      | .ok s => .next (s.setHead h (x.setBand next b { y with published := true }))

/-! ## Scan-out (R369-R371, R376) -/

/-- A frame of a writeback head begins: its 32 bitmap bytes are zero (R370). -/
def execWritebackFrameStart (h : Nat) (s : State) : Out :=
  let x := s.head h
  if 8 ≤ h ∨ x.running = false ∨ x.wb = false ∨ x.leadIn = true ∨ x.started = true ∨ x.line ≠ 0 then .next s
  else
    let t := match s.agentWrite (s.headAcc h) (x.wbcbm.toNat + 32 * (x.frame % 2)) (toBytes 32 0) with
      | .ok t => t
      | .error _ => s
    .next (t.setHead h { x with started := true })

/-- The code of a band that is about to be scanned (R376). -/
def State.bandCode (s : State) (h b : Nat) : Nat :=
  let x := s.head h
  match x.repeating, x.desc with
  | false, some d =>
    if d.mode = 0 then (if s.ready0 h b false d then 3 else 2)
    else
      let y := Sparse.get Band.fresh x.bands b
      if y.published then y.code.getD 2 else 2
  | _, _ => 2

/-- What a band is scanned from (R376). -/
def Head.sourceOf (x : Head) (b code : Nat) : BandSource :=
  if code = 2 then Sparse.get none x.sources b else x.desc.map fun d => (d.out, d.seq)

/-- A band begins: its code and its source are decided (R376). -/
def State.bandBegins (s : State) (h b : Nat) : State :=
  let x := s.head h
  let code := s.bandCode h b
  s.setHead h { x with
    bands := Sparse.set Band.fresh x.bands b { Sparse.get Band.fresh x.bands b with code := some code }
    sources := Sparse.set none x.sources b (x.sourceOf b code) }

/-- A scanned pixel: unconverted, or zero from nothing and from the pixel `late` on, or where the source cannot be read. -/
def State.scanPixel (s : State) (a : Acc) (src : BandSource) (late : Option Nat) (x y : Nat) : State × Nat :=
  match src with
  | none => (s, 0)
  | some (bs, _) =>
    if (match late with
      | none => false
      | some k => decide (k ≤ x)) then (s, 0)
    else match s.pixelGet a (FrameDesc.surface bs) x y with
      | .ok r => r
      | .error _ => (s, 0)

/-- A channel as the link takes it (R369): its code over the greatest one, with no linearisation; a half clamped to [0, 1]. -/
def Channel.linkValue (n : Nat) : Channel → Rat
  | .unorm lo w => ((n / 2 ^ lo % 2 ^ w : Nat) : Rat) / ((2 ^ w - 1 : Nat) : Rat)
  | .srgb lo => ((n / 2 ^ lo % 256 : Nat) : Rat) / 255
  | .f16 lo => max 0 (min 1 (FVal.toRat (Machine.f16.decode (n / 2 ^ lo % 2 ^ 16))))
  | _ => 0

/-- Red, green and blue as sent at a depth of d bits (R369). -/
def linkPixel (fmt d n : Nat) : List Nat :=
  ((channelsOf fmt).take 3).map fun c => (XVal.ofRat (c.linkValue n * ((2 ^ d - 1 : Nat) : Rat))).roundInt.toNat

/-- The pixels of a line. -/
def linePixels (hact y : Nat) : List (Nat × Nat) := (List.range hact).map fun x => (x, y)

/-- What the link is sent for a line (R369). -/
def State.sendLine (s : State) (h y : Nat) (src : BandSource) (late : Option Nat) : State × List (List Nat) :=
  let x := s.head h
  let fmt := match src with
    | none => 0x42
    | some (bs, _) => (FrameDesc.surface bs).fmt
  (linePixels x.hact y).foldl (fun r e =>
    let v := r.1.scanPixel (r.1.headAcc h) src late e.1 e.2
    (v.1, r.2 ++ [linkPixel fmt (8 + 2 * x.depth) v.2])) (s, [])

/-- The record of WBREC is one that R370 allows: KIND 2 with the format and the extents of the frame's OUT; another is not written
to (assumption 34, DESIGN CHOICE). -/
def Head.writesTo (x : Head) (bs : List Byte) : Bool :=
  let r := FrameDesc.surface bs
  r.kind == 2 && r.ext.getD 0 0 == x.hact && r.ext.getD 1 0 == x.vact &&
  (match x.desc with
   | none => true
   | some d => r.fmt == (FrameDesc.surface d.out).fmt)

/-- A writeback head writes a line to its surface (R370). -/
def State.writeLine (s : State) (h y : Nat) (src : BandSource) (late : Option Nat) : State :=
  let x := s.head h
  let a := s.headAcc h
  match s.frameRecord a x.wbrec.toNat with
  | (s, none) => s
  | (s, some bs) =>
    if x.writesTo bs = false then s
    else match s.paint a (FrameDesc.surface bs) (fun s i j => .ok (s.scanPixel a src late i j)) (linePixels x.hact y) with
      | .ok s => s
      | .error _ => s

/-- After the last line of a band a writeback head sets its bit (R370). -/
def State.setBandBit (s : State) (h b : Nat) : State :=
  let x := s.head h
  let a := s.headAcc h
  let at' := x.wbcbm.toNat + 32 * (x.frame % 2) + b / 8
  match s.agentRead a at' 1 with
  | .error _ => s
  | .ok (s, old) =>
    match s.agentWrite a at' [old.headD 0 ||| BitVec.twoPow 8 (b % 8)] with
    | .ok s => s
    | .error _ => s

/-- An active line of a frame is scanned (R369-R371, R376): the first of a band decides its source. -/
def State.scanLine (s : State) (h : Nat) (late : Option Nat) : State :=
  let y := (s.head h).line
  let b := y / 32
  let s := if y % 32 = 0 then s.bandBegins h b else s
  let src := Sparse.get none (s.head h).sources b
  let r := if (s.head h).wb then (s.writeLine h y src late, []) else s.sendLine h y src late
  let x := r.1.head h
  let s := r.1.setHead h { x with sent := r.2, undr := x.undr || late.isSome, underrun := x.underrun || late.isSome }
  if x.wb && y % 32 == 31 then s.setBandBit h b else s

/-- A line of the lead-in: a link is sent zero pixels (R368). -/
def State.leadLine (s : State) (h : Nat) : State :=
  let x := s.head h
  s.setHead h { x with sent := if x.wb then [] else List.replicate x.hact [0, 0, 0] }

/-- The head may pass its current line: it has taken a descriptor at its take point (R373), its reached deadlines are dealt with
(R378), a writeback head has begun its frame (R370), and before the last line ends the record is written (R381). -/
def Head.mayPass (x : Head) : Bool :=
  x.running && !x.atTake && x.decided && (!x.wb || x.leadIn || x.started) &&
  (x.leadIn || decide (x.line + 1 < x.vtotal) || x.recorded)

/-- The head in its next frame, or stopped (R368). -/
def Head.endFrame (x : Head) : Head :=
  if x.stopping then { x with running := false, stopping := false, leadIn := false }
  else
    { x with
      line := 0, frame := x.nextFrame, leadIn := false, desc := if x.nextRepeat then x.desc else x.next, next := none, nextTaken := false
      repeating := x.nextRepeat, descError := x.nextError, nextRepeat := false, nextError := false, underrun := false, started := false
      recorded := false, failed := x.nextFailed, nextFailed := [], bands := x.nextBands, nextBands := [] }

/-- The current line has passed; after the last one the next frame begins. -/
def Head.passLine (x : Head) : Head :=
  if x.line + 1 < x.vtotal then { x with line := x.line + 1 } else x.endFrame

/-- The current line of a head, one of band `b` or of the lines behind the bands, passes (R367, R368, R376). `late`: the pixel from
which contention leaves the line zero (R371). -/
def execBandScanout (h b : Nat) (late : Option Nat) (s : State) : Out :=
  let x := s.head h
  if 8 ≤ h ∨ x.line / 32 ≠ b ∨ x.mayPass = false then .next s
  else
    let t := s.noteFailures h
    let t := if x.leadIn then t.leadLine h else if x.line < x.vact then t.scanLine h late else t.setHead h { t.head h with sent := [] }
    .next (t.setHead h (t.head h).passLine)

/-! ## Fallback records (R381) -/

/-- OLDEST: with no band scanned from a frame it is open. -/
def oldestSeq (l : List (Nat × BandSource)) (other : Nat) : Nat :=
  match l.filterMap fun e => e.2.map (·.2) with
  | [] => other
  | n :: ns => ns.foldl Nat.min n

def fallbackBytes (x : Head) (d : FrameDesc) (other : Nat) : List Byte :=
  let codes := (List.range 64).map fun i => (List.range 4).foldl (fun n k =>
    n + ((Sparse.get Band.fresh x.bands (4 * i + k)).code.getD 0) % 4 * 4 ^ k) 0
  toBytes 4 d.seq ++ toBytes 4 x.frame ++ toBytes 4 (oldestSeq x.sources other) ++ toBytes 2 x.nbands ++
  toBytes 1 (x.repeating.toNat + 2 * x.descError.toNat + 4 * x.underrun.toNat) ++ toBytes 1 0 ++
  toBytes 4 (x.bands.filter fun e => e.2.killed).length ++ toBytes 12 0 ++ codes.flatMap (toBytes 1) ++ toBytes 32 0

/-- After a frame's last line has been scanned its record is written (R381). -/
def execFallbackRecord (h : Nat) (s : State) : Out :=
  let x := s.head h
  if 8 ≤ h ∨ x.running = false ∨ x.leadIn = true ∨ x.recorded = true ∨ x.line < x.vact then .next s
  else
    let t := match x.desc with
      | some d =>
        (match s.agentWrite (s.headAcc h) d.recAddr (fallbackBytes x d (Config.free s.freeCtr 0).toNat) with
         | .ok t => t.bumpFree
         | .error _ => s)
      | none => s
    .next (t.setHead h { t.head h with recorded := true })

end Sys2Proof.Machine
end

