-- ==== Sys2Proof/Machine/Float.lean ====
section
/-! DEFINITION. The floating-point forms (09 R176-R185): exact values, rounded once. -/

namespace Sys2Proof.Machine

/-- An f32 source under %fpc.FTZ (R70, R176). -/
def Lanes.f32 (l : Lanes) (a : Src) (j : Nat) : FVal :=
  Machine.f32.decodeFtz (fpcFtz l.p.fpc) (l.a32 a j).toNat

/-- The code of an f32 source, a subnormal flushed under FTZ. -/
def Lanes.f32Code (l : Lanes) (a : Src) (j : Nat) : Nat :=
  let x := (l.a32 a j).toNat
  if fpcFtz l.p.fpc && Machine.f32.subnormal x then x / 2 ^ 31 * 2 ^ 31 else x

/-- An f64 source (R182). -/
def Lanes.f64 (l : Lanes) (a : Src) (j : Nat) : FVal := Machine.f64.decode (l.a64 a j).toNat

/-- A sum of products and addends in f32 (R176, R177). -/
def f32Fused (r : Rnd) (ps : List (Src × Src)) (as : List Src) (l : Lanes) (j : Nat) : Nat × Word :=
  Machine.f32.fused (modeOf r l.p.fpc) (fpcFtz l.p.fpc) (ps.map fun x => (l.f32 x.1 j, l.f32 x.2 j)) (as.map fun a => l.f32 a j)

/-- a − b: the sum of a and −b (R176). -/
def f32Sub (r : Rnd) (a b : Src) (l : Lanes) (j : Nat) : Nat × Word :=
  Machine.f32.fused (modeOf r l.p.fpc) (fpcFtz l.p.fpc) [] [l.f32 a j, (l.f32 b j).negate]

/-- The same in f64, which knows no FTZ (R182). -/
def f64Fused (r : Rnd) (ps : List (Src × Src)) (as : List Src) (l : Lanes) (j : Nat) : Nat × Word :=
  Machine.f64.fused (modeOf r l.p.fpc) false (ps.map fun x => (l.f64 x.1 j, l.f64 x.2 j)) (as.map fun a => l.f64 a j)

/-- A function of one f32 operand (R77, R176). -/
def f32Un (f : Mode → Bool → FVal → Nat × Word) (r : Rnd) (a : Src) (l : Lanes) (j : Nat) : Nat × Word :=
  f (modeOf r l.p.fpc) (fpcFtz l.p.fpc) (l.f32 a j)

/-- Minimum or maximum in f32, under FTZ (R176, R178). -/
def f32MinMax (mx : Bool) (a b : Src) (l : Lanes) (j : Nat) : Nat × Word :=
  (Machine.f32.minMax mx (l.f32Code a j) (l.f32Code b j) (l.f32 a j) (l.f32 b j), 0)

def f64MinMax (mx : Bool) (a b : Src) (l : Lanes) (j : Nat) : Nat × Word :=
  (Machine.f64.minMax mx (l.a64 a j).toNat (l.a64 b j).toNat (l.f64 a j) (l.f64 b j), 0)

/-- The class bit of a code (R180). -/
def FloatFmt.classBit (f : FloatFmt) (code : Nat) : Nat :=
  match f.decode code with
  | .nan => 0
  | .inf s => if s then 1 else 8
  | .fin s m _ =>
    if m = 0 then (if s then 4 else 5)
    else if f.subnormal code then (if s then 3 else 6)
    else (if s then 2 else 7)

def floatTy : FloatTy → FloatFmt
  | .f32 => Machine.f32
  | .f64 => Machine.f64
  | .f16 => Machine.f16
  | .bf16 => Machine.bf16

/-- `fclass` (R180). -/
def classify (ty : FloatTy) (a : Src) (l : Lanes) (j : Nat) : Nat × Word :=
  let x := l.bits ty.wide false a j
  (2 ^ (floatTy ty).classBit (x % 2 ^ (floatTy ty).width), 0)

/-- The sign that `fsgn` gives (R181). -/
def signOf (sel : SgnSel) (a b : Bool) : Bool :=
  match sel with
  | .copy => b
  | .neg => !a
  | .abs => false
  | .xsgn => a != b

/-- `fsgn`: only the sign of a changes, and a NaN delivers the canonical NaN (R181, R68). -/
def signForm (wide : Bool) (sel : SgnSel) (a b : Src) (l : Lanes) (j : Nat) : Nat × Word :=
  let f := if wide then Machine.f64 else Machine.f32
  let x := l.bits wide false a j
  let y := l.bits wide false b j
  if (f.decode x).isNan then (f.nan, 0)
  else (f.signed (signOf sel (x / f.signBit == 1) (y / f.signBit == 1)) (x % f.signBit), 0)

/-- The 16-bit format of the packed forms (R183). -/
def packedFmt (bf : Bool) : FloatFmt := if bf then Machine.bf16 else Machine.f16

/-- Half h of a packed source. -/
def Lanes.half (l : Lanes) (bf : Bool) (a : Src) (j h : Nat) : FVal :=
  (packedFmt bf).decode ((l.a32 a j).toNat / 2 ^ (16 * h) % 2 ^ 16)

/-- A packed form: each half rounded on its own (R183). -/
def packed (bf : Bool) (r : Rnd) (ps : List (Src × Src)) (as : List Src) (l : Lanes) (j : Nat) : Nat × Word :=
  let f := fun (h : Nat) => (packedFmt bf).fused (modeOf r l.p.fpc) false
    (ps.map fun x => (l.half bf x.1 j h, l.half bf x.2 j h)) (as.map fun a => l.half bf a j h)
  ((f 0).1 + (f 1).1 * 2 ^ 16, (f 0).2 ||| (f 1).2)

/-- `pk`: two f32 values rounded into packed elements (R185). -/
def pack (sel : PkSel) (r : Rnd) (a b c : Src) (l : Lanes) (j : Nat) : Nat × Word :=
  let f := match sel with
    | .f16 => Machine.f16
    | .bf16 => Machine.bf16
    | .e4m3 => Machine.e4m3
    | .e5m2 => Machine.e5m2
  let x := f.convert (modeOf r l.p.fpc) (Machine.f32.decode (l.a32 a j).toNat)
  let y := f.convert (modeOf r l.p.fpc) (Machine.f32.decode (l.a32 b j).toNat)
  (x.1 + y.1 * 2 ^ f.width + (if f.width = 8 then (l.a32 c j).toNat / 2 ^ 16 * 2 ^ 16 else 0), x.2 ||| y.2)

/-- `fadd`: a + b (R176). -/
def execFadd (d : Dst) (a b : Src) (s : State) : Out :=
  laneOp (.fadd d a b) d 1 s (f32Fused .dflt [] [a, b])

/-- `fadd` with a rounding mode (R176). -/
def execFaddLong (rnd : Rnd) (d : Dst) (a b : Src) (s : State) : Out :=
  laneOp (.faddLong rnd d a b) d 1 s (f32Fused rnd [] [a, b])

/-- `fsub`: a − b (R176). -/
def execFsub (d : Dst) (a b : Src) (s : State) : Out :=
  laneOp (.fsub d a b) d 1 s (f32Sub .dflt a b)

/-- `fsub` with a rounding mode (R176). -/
def execFsubLong (rnd : Rnd) (d : Dst) (a b : Src) (s : State) : Out :=
  laneOp (.fsubLong rnd d a b) d 1 s (f32Sub rnd a b)

/-- `fmul`: a × b (R176). -/
def execFmul (d : Dst) (a b : Src) (s : State) : Out :=
  laneOp (.fmul d a b) d 1 s (f32Fused .dflt [(a, b)] [])

/-- `fmul` with a rounding mode (R176). -/
def execFmulLong (rnd : Rnd) (d : Dst) (a b : Src) (s : State) : Out :=
  laneOp (.fmulLong rnd d a b) d 1 s (f32Fused rnd [(a, b)] [])

/-- `ffma`: a × b + c (R176, R177). -/
def execFfma (rnd : Rnd) (d : Dst) (a b c : Src) (s : State) : Out :=
  laneOp (.ffma rnd d a b c) d 1 s (f32Fused rnd [(a, b)] [c])

/-- `ffma3`: a × b + c × e (R176, R177). -/
def execFfma3 (rnd : Rnd) (d : Dst) (a b c e : Src) (s : State) : Out :=
  laneOp (.ffma3 rnd d a b c e) d 1 s (f32Fused rnd [(a, b), (c, e)] [])

/-- `fmin` (R178). -/
def execFmin (d : Dst) (a b : Src) (s : State) : Out :=
  laneOp (.fmin d a b) d 1 s (f32MinMax false a b)

/-- `fmin`, or `fmin.max` (R178). -/
def execFminLong (mx : Bool) (d : Dst) (a b : Src) (s : State) : Out :=
  laneOp (.fminLong mx d a b) d 1 s (f32MinMax mx a b)

/-- `fcmp` (R179). -/
def execFcmp (cond : Cond) (p : Nat) (a b : Src) (s : State) : Out :=
  lanePred (.fcmp cond p a b) p s (fun l j => condVal cond (l.f32 a j) (l.f32 b j))

/-- `fdiv`: a / b (R176, R77). -/
def execFdiv (d : Dst) (a b : Src) (s : State) : Out :=
  laneOp (.fdiv d a b) d 1 s (fun l j => Machine.f32.div (modeOf .dflt l.p.fpc) (fpcFtz l.p.fpc) (l.f32 a j) (l.f32 b j))

/-- `fdiv` with a rounding mode (R176). -/
def execFdivLong (rnd : Rnd) (d : Dst) (a b : Src) (s : State) : Out :=
  laneOp (.fdivLong rnd d a b) d 1 s (fun l j => Machine.f32.div (modeOf rnd l.p.fpc) (fpcFtz l.p.fpc) (l.f32 a j) (l.f32 b j))

/-- `frcp`: 1 / a (R176, R77). -/
def execFrcp (d : Dst) (a : Src) (s : State) : Out :=
  laneOp (.frcp d a) d 1 s (f32Un Machine.f32.rcp .dflt a)

/-- `frcp` with a rounding mode (R176). -/
def execFrcpLong (rnd : Rnd) (d : Dst) (a : Src) (s : State) : Out :=
  laneOp (.frcpLong rnd d a) d 1 s (f32Un Machine.f32.rcp rnd a)

/-- `frsq`: 1 / √a (R176, R77). -/
def execFrsq (d : Dst) (a : Src) (s : State) : Out :=
  laneOp (.frsq d a) d 1 s (f32Un Machine.f32.rsq .dflt a)

/-- `frsq` with a rounding mode (R176). -/
def execFrsqLong (rnd : Rnd) (d : Dst) (a : Src) (s : State) : Out :=
  laneOp (.frsqLong rnd d a) d 1 s (f32Un Machine.f32.rsq rnd a)

/-- `fsqrt`: √a (R176, R77). -/
def execFsqrt (d : Dst) (a : Src) (s : State) : Out :=
  laneOp (.fsqrt d a) d 1 s (f32Un Machine.f32.sqrt .dflt a)

/-- `fsqrt` with a rounding mode (R176). -/
def execFsqrtLong (rnd : Rnd) (d : Dst) (a : Src) (s : State) : Out :=
  laneOp (.fsqrtLong rnd d a) d 1 s (f32Un Machine.f32.sqrt rnd a)

/-- `fexp2`: 2^a (R176, R77). -/
def execFexp2 (d : Dst) (a : Src) (s : State) : Out :=
  laneOp (.fexp2 d a) d 1 s (f32Un Machine.f32.exp2 .dflt a)

/-- `fexp2` with a rounding mode (R176). -/
def execFexp2Long (rnd : Rnd) (d : Dst) (a : Src) (s : State) : Out :=
  laneOp (.fexp2Long rnd d a) d 1 s (f32Un Machine.f32.exp2 rnd a)

/-- `flog2`: log2 a (R176, R77). -/
def execFlog2 (d : Dst) (a : Src) (s : State) : Out :=
  laneOp (.flog2 d a) d 1 s (f32Un Machine.f32.log2 .dflt a)

/-- `flog2` with a rounding mode (R176). -/
def execFlog2Long (rnd : Rnd) (d : Dst) (a : Src) (s : State) : Out :=
  laneOp (.flog2Long rnd d a) d 1 s (f32Un Machine.f32.log2 rnd a)

/-- `fsin`: sin(π a) (R176, R77). -/
def execFsin (d : Dst) (a : Src) (s : State) : Out :=
  laneOp (.fsin d a) d 1 s (f32Un (fun m z => Machine.f32.sinPi m z false) .dflt a)

/-- `fsin`: sin(π a), or cos(π a) (R176, R77). -/
def execFsinLong (rnd : Rnd) (cos : Bool) (d : Dst) (a : Src) (s : State) : Out :=
  laneOp (.fsinLong rnd cos d a) d 1 s (f32Un (fun m z => Machine.f32.sinPi m z cos) rnd a)

/-- `fclass` (R180). -/
def execFclass (d : Dst) (a : Src) (s : State) : Out :=
  laneOp (.fclass d a) d 1 s (classify .f32 a)

/-- `fclass` with a type (R180). -/
def execFclassLong (ty : FloatTy) (d : Dst) (a : Src) (s : State) : Out :=
  laneOp (.fclassLong ty d a) d 1 s (classify ty a)

/-- `fsgn.copy` in f32 (R181). -/
def execFsgn (d : Dst) (a b : Src) (s : State) : Out :=
  laneOp (.fsgn d a b) d 1 s (signForm false .copy a b)

/-- `fsgn` (R181). -/
def execFsgnLong (wide : Bool) (sel : SgnSel) (d : Dst) (a b : Src) (s : State) : Out :=
  laneOp (.fsgnLong wide sel d a b) d (lw wide) s (signForm wide sel a b)

/-- `dadd`: a + b (R182). -/
def execDadd (d : Dst) (a b : Src) (s : State) : Out :=
  laneOp (.dadd d a b) d 2 s (f64Fused .dflt [] [a, b])

/-- `dadd` with a rounding mode (R182). -/
def execDaddLong (rnd : Rnd) (d : Dst) (a b : Src) (s : State) : Out :=
  laneOp (.daddLong rnd d a b) d 2 s (f64Fused rnd [] [a, b])

/-- `dmul`: a × b (R182). -/
def execDmul (d : Dst) (a b : Src) (s : State) : Out :=
  laneOp (.dmul d a b) d 2 s (f64Fused .dflt [(a, b)] [])

/-- `dmul` with a rounding mode (R182). -/
def execDmulLong (rnd : Rnd) (d : Dst) (a b : Src) (s : State) : Out :=
  laneOp (.dmulLong rnd d a b) d 2 s (f64Fused rnd [(a, b)] [])

/-- `dfma`: a × b + c (R182, R177). -/
def execDfma (rnd : Rnd) (d : Dst) (a b c : Src) (s : State) : Out :=
  laneOp (.dfma rnd d a b c) d 2 s (f64Fused rnd [(a, b)] [c])

/-- `ddiv`: a / b (R182, R77). -/
def execDdiv (d : Dst) (a b : Src) (s : State) : Out :=
  laneOp (.ddiv d a b) d 2 s (fun l j => Machine.f64.div (modeOf .dflt l.p.fpc) false (l.f64 a j) (l.f64 b j))

/-- `ddiv` with a rounding mode (R182). -/
def execDdivLong (rnd : Rnd) (d : Dst) (a b : Src) (s : State) : Out :=
  laneOp (.ddivLong rnd d a b) d 2 s (fun l j => Machine.f64.div (modeOf rnd l.p.fpc) false (l.f64 a j) (l.f64 b j))

/-- `dsqrt`: √a (R182, R77). -/
def execDsqrt (d : Dst) (a : Src) (s : State) : Out :=
  laneOp (.dsqrt d a) d 2 s (fun l j => Machine.f64.sqrt (modeOf .dflt l.p.fpc) false (l.f64 a j))

/-- `dsqrt` with a rounding mode (R182). -/
def execDsqrtLong (rnd : Rnd) (d : Dst) (a : Src) (s : State) : Out :=
  laneOp (.dsqrtLong rnd d a) d 2 s (fun l j => Machine.f64.sqrt (modeOf rnd l.p.fpc) false (l.f64 a j))

/-- `dcmp` (R179). -/
def execDcmp (cond : Cond) (p : Nat) (a b : Src) (s : State) : Out :=
  lanePred (.dcmp cond p a b) p s (fun l j => condVal cond (l.f64 a j) (l.f64 b j))

/-- `dmin` (R178). -/
def execDmin (d : Dst) (a b : Src) (s : State) : Out :=
  laneOp (.dmin d a b) d 2 s (f64MinMax false a b)

/-- `dmin`, or `dmin.max` (R178). -/
def execDminLong (mx : Bool) (d : Dst) (a b : Src) (s : State) : Out :=
  laneOp (.dminLong mx d a b) d 2 s (f64MinMax mx a b)

/-- `hadd2`: both halves in f16 (R183). -/
def execHadd2 (d : Dst) (a b : Src) (s : State) : Out :=
  laneOp (.hadd2 d a b) d 1 s (packed false .dflt [] [a, b])

/-- `hadd2` with a type and a rounding mode (R183). -/
def execHadd2Long (bf : Bool) (rnd : Rnd) (d : Dst) (a b : Src) (s : State) : Out :=
  laneOp (.hadd2Long bf rnd d a b) d 1 s (packed bf rnd [] [a, b])

/-- `hmul2`: both halves in f16 (R183). -/
def execHmul2 (d : Dst) (a b : Src) (s : State) : Out :=
  laneOp (.hmul2 d a b) d 1 s (packed false .dflt [(a, b)] [])

/-- `hmul2` with a type and a rounding mode (R183). -/
def execHmul2Long (bf : Bool) (rnd : Rnd) (d : Dst) (a b : Src) (s : State) : Out :=
  laneOp (.hmul2Long bf rnd d a b) d 1 s (packed bf rnd [(a, b)] [])

/-- `hfma2` (R183). -/
def execHfma2 (bf : Bool) (rnd : Rnd) (d : Dst) (a b c : Src) (s : State) : Out :=
  laneOp (.hfma2 bf rnd d a b c) d 1 s (packed bf rnd [(a, b)] [c])

/-- `cvt` (R184). -/
def execCvt (dst src : Fmt) (rnd : Rnd) (d : Dst) (a : Src) (s : State) : Out :=
  laneOp (.cvt dst src rnd d a) d (lw dst.wide) s (fun l j => convertCode dst src (modeOf rnd l.p.fpc) (l.bits src.wide false a j))

/-- `pk` (R185). -/
def execPk (sel : PkSel) (rnd : Rnd) (d : Dst) (a b c : Src) (s : State) : Out :=
  laneOp (.pk sel rnd d a b c) d 1 s (pack sel rnd a b c)

end Sys2Proof.Machine
end

