-- ==== Sys2Proof/Machine/Integer.lean ====
section
/-! DEFINITION. The integer forms (09 R169-R174): each computes exactly and delivers as its type. -/

namespace Sys2Proof.Machine

/-- An arithmetic form of two sources (R169). -/
def intBin (op : Int → Int → Int) (sat : Bool) (ty : IntTy) (a b : Src) (l : Lanes) (j : Nat) : Nat × Word :=
  deliverInt ty.width ty.signed sat (op (l.int ty a j) (l.int ty b j))

/-- floor(x / 2^w) of the exact product (R169). -/
def intMulh (ty : IntTy) (a b : Src) (l : Lanes) (j : Nat) : Nat × Word :=
  (wrap ty.width (l.int ty a j * l.int ty b j / (2 ^ ty.width : Int)), 0)

/-- a × b + c (R170). -/
def intMad (sat : Bool) (ty : IntTy) (a b c : Src) (l : Lanes) (j : Nat) : Nat × Word :=
  deliverInt ty.width ty.signed sat (l.int ty a j * l.int ty b j + l.int ty c j)

/-- A form on bit patterns of the type's width, which sets no flag (R171, R172). -/
def intBits (op : Nat → Nat → Nat → Nat) (ty : IntTy) (a b : Src) (l : Lanes) (j : Nat) : Nat × Word :=
  (op ty.width (l.bits ty.wide ty.signed a j) (l.bits ty.wide ty.signed b j), 0)

def bitsUn (op : Nat → Nat → Nat) (ty : IntTy) (a : Src) (l : Lanes) (j : Nat) : Nat × Word :=
  (op ty.width (l.bits ty.wide ty.signed a j), 0)

/-- a AND NOT b (R171). -/
def andNot (w a b : Nat) : Nat := a &&& (2 ^ w - 1 - b % 2 ^ w)

/-- (a × 2^n) mod 2^w when n < w, else 0 (R171). -/
def shiftLeft (w a n : Nat) : Nat := if n < w then a * 2 ^ n % 2 ^ w else 0

/-- floor(a / 2^n), signed types by at most w − 1 (R171). -/
def intShr (ty : IntTy) (a b : Src) (l : Lanes) (j : Nat) : Nat × Word :=
  let n := l.bits ty.wide ty.signed b j
  if ty.signed then (wrap ty.width (l.int ty a j / (2 ^ Nat.min n (ty.width - 1) : Int)), 0)
  else (if n < ty.width then (wrap ty.width (l.int ty a j / (2 ^ n : Int)), 0) else (0, 0))

/-- Set bits among the low w bits (R172). -/
def popcount (w a : Nat) : Nat := (List.range w).countP fun k => a.testBit k

/-- Zero bits above the highest set bit, w for 0 (R172). -/
def leadingZeros (w a : Nat) : Nat := if a = 0 then w else w - 1 - Nat.log2 a

/-- Bit k at bit w − 1 − k (R172). -/
def reverseBits (w a : Nat) : Nat :=
  (List.range w).foldl (fun r k => if a.testBit k then r + 2 ^ (w - 1 - k) else r) 0

/-- `bfx` (R173). -/
def extractField (ty : IntTy) (pos width : Nat) (a : Nat) : Nat :=
  let f := a / 2 ^ pos % 2 ^ width
  if ty.signed then wrap ty.width (signedOf width f) else f

/-- `bfi` (R173). -/
def insertField (pos width : Nat) (a b : Nat) : Nat :=
  b % 2 ^ pos + a % 2 ^ width * 2 ^ pos + b / 2 ^ (pos + width) * 2 ^ (pos + width)

/-- A comparison of integers (R155). -/
def condInt (c : Cond) (a b : Int) : Bool :=
  match c with
  | .eq => a == b
  | .ne => a != b
  | .lt => decide (a < b)
  | .le => decide (a ≤ b)
  | .gt => decide (b < a)
  | .ge => decide (b ≤ a)
  | .un => false
  | .ord => true

/-- `add`: a + b, wrapped (R169). -/
def execAdd (d : Dst) (a b : Src) (s : State) : Out :=
  laneOp (.add d a b) d 1 s (intBin (fun x y => x + y) false .i32 a b)

/-- `add` with a type and saturation (R169). -/
def execAddLong (ty : IntTy) (sat : Bool) (d : Dst) (a b : Src) (s : State) : Out :=
  laneOp (.addLong ty sat d a b) d (lw ty.wide) s (intBin (fun x y => x + y) sat ty a b)

/-- `sub`: a − b, wrapped (R169). -/
def execSub (d : Dst) (a b : Src) (s : State) : Out :=
  laneOp (.sub d a b) d 1 s (intBin (fun x y => x - y) false .i32 a b)

/-- `sub` with a type and saturation (R169). -/
def execSubLong (ty : IntTy) (sat : Bool) (d : Dst) (a b : Src) (s : State) : Out :=
  laneOp (.subLong ty sat d a b) d (lw ty.wide) s (intBin (fun x y => x - y) sat ty a b)

/-- `mul`: a × b, wrapped (R169). -/
def execMul (d : Dst) (a b : Src) (s : State) : Out :=
  laneOp (.mul d a b) d 1 s (intBin (fun x y => x * y) false .i32 a b)

/-- `mul` with a type and saturation (R169). -/
def execMulLong (ty : IntTy) (sat : Bool) (d : Dst) (a b : Src) (s : State) : Out :=
  laneOp (.mulLong ty sat d a b) d (lw ty.wide) s (intBin (fun x y => x * y) sat ty a b)

/-- `adds`: a + b, saturated (R169). -/
def execAdds (d : Dst) (a b : Src) (s : State) : Out :=
  laneOp (.adds d a b) d 1 s (intBin (fun x y => x + y) true .i32 a b)

/-- `adds` with a type (R169). -/
def execAddsLong (ty : IntTy) (d : Dst) (a b : Src) (s : State) : Out :=
  laneOp (.addsLong ty d a b) d (lw ty.wide) s (intBin (fun x y => x + y) true ty a b)

/-- `subs`: a − b, saturated (R169). -/
def execSubs (d : Dst) (a b : Src) (s : State) : Out :=
  laneOp (.subs d a b) d 1 s (intBin (fun x y => x - y) true .i32 a b)

/-- `subs` with a type (R169). -/
def execSubsLong (ty : IntTy) (d : Dst) (a b : Src) (s : State) : Out :=
  laneOp (.subsLong ty d a b) d (lw ty.wide) s (intBin (fun x y => x - y) true ty a b)

/-- `mulh`: the high half of the product (R169). -/
def execMulh (d : Dst) (a b : Src) (s : State) : Out :=
  laneOp (.mulh d a b) d 1 s (intMulh .i32 a b)

/-- `mulh` with a type (R169). -/
def execMulhLong (ty : IntTy) (d : Dst) (a b : Src) (s : State) : Out :=
  laneOp (.mulhLong ty d a b) d (lw ty.wide) s (intMulh ty a b)

/-- `mad`: a × b + c, wrapped or saturated (R170). -/
def execMad (ty : IntTy) (sat : Bool) (d : Dst) (a b c : Src) (s : State) : Out :=
  laneOp (.mad ty sat d a b c) d (lw ty.wide) s (intMad sat ty a b c)

/-- `and`: a AND b (R171). -/
def execAnd (d : Dst) (a b : Src) (s : State) : Out :=
  laneOp (.and d a b) d 1 s (intBits (fun _ x y => x &&& y) .i32 a b)

/-- `and` with a type (R171). -/
def execAndLong (ty : IntTy) (d : Dst) (a b : Src) (s : State) : Out :=
  laneOp (.andLong ty d a b) d (lw ty.wide) s (intBits (fun _ x y => x &&& y) ty a b)

/-- `or`: a OR b (R171). -/
def execOr (d : Dst) (a b : Src) (s : State) : Out :=
  laneOp (.or d a b) d 1 s (intBits (fun _ x y => x ||| y) .i32 a b)

/-- `or` with a type (R171). -/
def execOrLong (ty : IntTy) (d : Dst) (a b : Src) (s : State) : Out :=
  laneOp (.orLong ty d a b) d (lw ty.wide) s (intBits (fun _ x y => x ||| y) ty a b)

/-- `xor`: a XOR b (R171). -/
def execXor (d : Dst) (a b : Src) (s : State) : Out :=
  laneOp (.xor d a b) d 1 s (intBits (fun _ x y => x ^^^ y) .i32 a b)

/-- `xor` with a type (R171). -/
def execXorLong (ty : IntTy) (d : Dst) (a b : Src) (s : State) : Out :=
  laneOp (.xorLong ty d a b) d (lw ty.wide) s (intBits (fun _ x y => x ^^^ y) ty a b)

/-- `andn`: a AND NOT b (R171). -/
def execAndn (d : Dst) (a b : Src) (s : State) : Out :=
  laneOp (.andn d a b) d 1 s (intBits (andNot) .i32 a b)

/-- `andn` with a type (R171). -/
def execAndnLong (ty : IntTy) (d : Dst) (a b : Src) (s : State) : Out :=
  laneOp (.andnLong ty d a b) d (lw ty.wide) s (intBits (andNot) ty a b)

/-- `shl`: shift left (R171). -/
def execShl (d : Dst) (a b : Src) (s : State) : Out :=
  laneOp (.shl d a b) d 1 s (intBits (shiftLeft) .i32 a b)

/-- `shl` with a type (R171). -/
def execShlLong (ty : IntTy) (d : Dst) (a b : Src) (s : State) : Out :=
  laneOp (.shlLong ty d a b) d (lw ty.wide) s (intBits (shiftLeft) ty a b)

/-- `shr`: shift right, by the type's signedness (R171). -/
def execShr (d : Dst) (a b : Src) (s : State) : Out :=
  laneOp (.shr d a b) d 1 s (intShr .i32 a b)

/-- `shr` with a type (R171). -/
def execShrLong (ty : IntTy) (d : Dst) (a b : Src) (s : State) : Out :=
  laneOp (.shrLong ty d a b) d (lw ty.wide) s (intShr ty a b)

/-- `min`: the smaller (R171). -/
def execMin (d : Dst) (a b : Src) (s : State) : Out :=
  laneOp (.min d a b) d 1 s (intBin (fun x y => if y < x then y else x) false .i32 a b)

/-- `min` with a type (R171). -/
def execMinLong (ty : IntTy) (d : Dst) (a b : Src) (s : State) : Out :=
  laneOp (.minLong ty d a b) d (lw ty.wide) s (intBin (fun x y => if y < x then y else x) false ty a b)

/-- `max`: the larger (R171). -/
def execMax (d : Dst) (a b : Src) (s : State) : Out :=
  laneOp (.max d a b) d 1 s (intBin (fun x y => if x < y then y else x) false .i32 a b)

/-- `max` with a type (R171). -/
def execMaxLong (ty : IntTy) (d : Dst) (a b : Src) (s : State) : Out :=
  laneOp (.maxLong ty d a b) d (lw ty.wide) s (intBin (fun x y => if x < y then y else x) false ty a b)

/-- `absd`: |a − b| as an unsigned number (R171). -/
def execAbsd (d : Dst) (a b : Src) (s : State) : Out :=
  laneOp (.absd d a b) d 1 s (intBin (fun x y => ((x - y).natAbs : Int)) false .i32 a b)

/-- `absd` with a type (R171). -/
def execAbsdLong (ty : IntTy) (d : Dst) (a b : Src) (s : State) : Out :=
  laneOp (.absdLong ty d a b) d (lw ty.wide) s (intBin (fun x y => ((x - y).natAbs : Int)) false ty a b)

/-- `popc` (R172). -/
def execPopc (d : Dst) (a : Src) (s : State) : Out :=
  laneOp (.popc d a) d 1 s (bitsUn popcount .i32 a)

/-- `popc` with a type (R172). -/
def execPopcLong (ty : IntTy) (d : Dst) (a : Src) (s : State) : Out :=
  laneOp (.popcLong ty d a) d (lw ty.wide) s (bitsUn popcount ty a)

/-- `clz` (R172). -/
def execClz (d : Dst) (a : Src) (s : State) : Out :=
  laneOp (.clz d a) d 1 s (bitsUn leadingZeros .i32 a)

/-- `clz` with a type (R172). -/
def execClzLong (ty : IntTy) (d : Dst) (a : Src) (s : State) : Out :=
  laneOp (.clzLong ty d a) d (lw ty.wide) s (bitsUn leadingZeros ty a)

/-- `brev` (R172). -/
def execBrev (d : Dst) (a : Src) (s : State) : Out :=
  laneOp (.brev d a) d 1 s (bitsUn reverseBits .i32 a)

/-- `brev` with a type (R172). -/
def execBrevLong (ty : IntTy) (d : Dst) (a : Src) (s : State) : Out :=
  laneOp (.brevLong ty d a) d (lw ty.wide) s (bitsUn reverseBits ty a)

/-- `bfx` (R173). -/
def execBfx (ty : IntTy) (d : Dst) (a : Src) (pos width : Nat) (s : State) : Out :=
  laneOp (.bfx ty d a pos width) d (lw ty.wide) s (bitsUn (fun _ x => extractField ty pos width x) ty a)

/-- `bfi` (R173). -/
def execBfi (ty : IntTy) (d : Dst) (a b : Src) (pos width : Nat) (s : State) : Out :=
  laneOp (.bfi ty d a b pos width) d (lw ty.wide) s (intBits (fun _ x y => insertField pos width x y) ty a b)

/-- `icmp` (R174). -/
def execIcmp (cond : Cond) (ty : IntTy) (p : Nat) (a b : Src) (s : State) : Out :=
  lanePred (.icmp cond ty p a b) p s (fun l j => condInt cond (l.int ty a j) (l.int ty b j))

/-- `sel`: a where the predicate is 1, else b (R174). -/
def execSel (ty : IntTy) (d : Dst) (a b : Src) (p : Nat) (s : State) : Out :=
  laneOp (.sel ty d a b p) d (lw ty.wide) s
    (fun l j => (if (l.w.pred p).getLsbD j then l.bits ty.wide ty.signed a j else l.bits ty.wide ty.signed b j, 0))

/-- `mov`: the bits unchanged (R174). -/
def execMov (d : Dst) (a : Src) (s : State) : Out :=
  laneOp (.mov d a) d 1 s (bitsUn (fun _ x => x) .i32 a)

/-- `mov` with a type (R174). -/
def execMovLong (ty : IntTy) (d : Dst) (a : Src) (s : State) : Out :=
  laneOp (.movLong ty d a) d (lw ty.wide) s (bitsUn (fun _ x => x) ty a)

end Sys2Proof.Machine
end

