-- ==== Sys2Proof/Machine/Group.lean ====
section
/-! DEFINITION. The lane-to-lane, wave-wide, group-wide and predicate forms (09 R186-R198). -/

namespace Sys2Proof.Machine

/-! ## Lane and wave forms -/

/-- `qswz`: the value in the selected lane of the same quad, active or not (R186, R166). -/
def execQswz (d : Dst) (a : Src) (sel : Byte) (s : State) : Out :=
  laneOp (.qswz d a sel) d 1 s
    (fun l j => ((l.a32 a (j / 4 * 4 + sel.toNat / 4 ^ (j % 4) % 4)).toNat, 0))

/-- The source lane of `shfl` in a wave of W lanes (R187). -/
def shflLane (mode : ShflMode) (width j b : Nat) : Nat :=
  match mode with
  | .idx => b % width
  | .up => if b ≤ j then j - b else j
  | .down => if j + b < width then j + b else j
  | .xor => j ^^^ (b % width)

def shuffle (mode : ShflMode) (a b : Src) (l : Lanes) (j : Nat) : Nat × Word :=
  ((l.a32 a (shflLane mode l.w.width j (l.a32 b j).toNat)).toNat, 0)

/-- `shfl.idx` (R187). -/
def execShfl (d : Dst) (a b : Src) (s : State) : Out := laneOp (.shfl d a b) d 1 s (shuffle .idx a b)

/-- `shfl` with a mode (R187). -/
def execShflLong (mode : ShflMode) (d : Dst) (a b : Src) (s : State) : Out :=
  laneOp (.shflLong mode d a b) d 1 s (shuffle mode a b)

/-- What `vote` finds of a predicate in the active lanes (R188). -/
def voteBit (mode : VoteMode) (act q : Mask) : Bool :=
  match mode with
  | .all => act &&& ~~~ q == 0
  | .any => act &&& q != 0
  | .uni => act &&& ~~~ q == 0 || act &&& q == 0

/-- `vote` (R188). -/
def execVote (mode : VoteMode) (p q : Nat) (s : State) : Out :=
  lanePred (.vote mode p q) p s (fun l _ => voteBit mode l.act (l.w.pred q))

/-- `ballot`: a group-wide effect, made with an empty mask too (R189). -/
def execBallot (d : GDst) (q : Nat) (s : State) : Out :=
  issue (.ballot d q) s fun c s =>
    let w := s.wave c.wid
    let p := w.panel c.entry
    finish c (s.setPanel c (p.writeG d (p.active w &&& w.pred q &&& waveLanes w.width)))

/-! ## Reductions (R190) -/

/-- The identity of an integer reduction (R190). -/
def redIdentity (op : RedOp) (ty : IntTy) : Nat :=
  match op with
  | .add => 0
  | .or => 0
  | .xor => 0
  | .and => 2 ^ ty.width - 1
  | .min => wrap ty.width (intHigh ty.width ty.signed)
  | .max => wrap ty.width (intLow ty.width ty.signed)

/-- An integer reduction over bit patterns (R190). -/
def redInt (op : RedOp) (ty : IntTy) (xs : List Nat) : Nat :=
  let val := fun (n : Nat) => if ty.signed then signedOf ty.width n else (n : Int)
  xs.foldl (fun x y => match op with
    | .add => (x + y) % 2 ^ ty.width
    | .or => x ||| y
    | .xor => x ^^^ y
    | .and => x &&& y
    | .min => if val y < val x then y else x
    | .max => if val x < val y then y else x) (redIdentity op ty)

/-- FloatSum (R190): the exact sum, rounded once; +0 of no values. -/
def floatSum (fpc : Word) (xs : List Nat) : Nat × Word :=
  Machine.f32.fused (fpcMode fpc) (fpcFtz fpc) [] (xs.map fun x => Machine.f32.decodeFtz (fpcFtz fpc) x)

/-- Folds R178 over codes already read under FTZ; NaN is delivered canonical (R190). -/
def floatFold (mx : Bool) : List Nat → Nat
  | [] => Machine.f32.infinity mx
  | x :: xs =>
    let r := xs.foldl (fun a b => Machine.f32.minMax mx a b (Machine.f32.decode a) (Machine.f32.decode b)) x
    if (Machine.f32.decode r).isNan then Machine.f32.nan else r

/-- WaveReduce (R190) over the values of some lanes, in lane order. -/
def waveReduce (op : RedOp) (ty : RedTy) (fpc : Word) (xs : List Nat) : Nat × Word :=
  match ty with
  | .int t => (redInt op t xs, 0)
  | .f32 =>
    match op with
    | .min => (floatFold false xs, 0)
    | .max => (floatFold true xs, 0)
    | _ => if xs.isEmpty then (0, 0) else floatSum fpc xs

/-- The values of a source in some lanes, f32 sources under FTZ (R190). -/
def laneList (ty : RedTy) (a : Src) (l : Lanes) (m : Mask) : List Nat :=
  ((List.range 64).filter fun j => m.getLsbD j).map fun j =>
    match ty with
    | .int t => l.bits t.wide t.signed a j
    | .f32 => l.f32Code a j

def redSigned : RedTy → Bool
  | .int t => t.signed
  | .f32 => false

/-- `wred` (R190): to every active lane, or to a g register whatever the mask. -/
def execWred (op : RedOp) (ty : RedTy) (d : RedDst) (a : Src) (s : State) : Out :=
  match d with
  | .lane d =>
    laneOp (.wred op ty (.lane d) a) d (lw ty.wide) s (fun l _ => waveReduce op ty l.p.fpc (laneList ty a l l.act))
  | .g n =>
    issue (.wred op ty (.g n) a) s fun c s => withLanes (.wred op ty (.g n) a) c s fun l s =>
      let r := waveReduce op ty l.p.fpc (laneList ty a l l.act)
      let x : DWord := if ty.wide then BitVec.ofNat 64 r.1
        else if redSigned ty then (BitVec.ofNat 32 r.1).signExtend 64 else BitVec.ofNat 64 r.1
      let i : Instr := .wred op ty (.g n) a
      let p := ((s.panel c).advanceStreams l.w.width (usesOf i).srcStreams).track i l.act (s.laneAcc c).gen s.cycle
      finish c (s.setPanel c ((p.setG n x).raise r.2))

/-- The lanes below j, or up to j. -/
def lanesBelow (excl : Bool) (j : Nat) : Mask := maskOf fun k => if excl then decide (k < j) else decide (k ≤ j)

/-- `wscan` (R191): each prefix formed afresh and rounded once. -/
def execWscan (op : RedOp) (excl : Bool) (ty : RedTy) (d : Dst) (a : Src) (s : State) : Out :=
  laneOp (.wscan op excl ty d a) d (lw ty.wide) s
    (fun l j => waveReduce op ty l.p.fpc (laneList ty a l (l.act &&& lanesBelow excl j)))

/-! ## Group-wide forms -/

/-- A group-wide form changes the panel's copy, whatever the guard and the mask (R192). -/
def groupOp (i : Instr) (s : State) (f : Panel → Panel) : Out :=
  issue i s fun c s => finish c (s.setPanel c (f (s.panel c)))

/-- `gadd`: a + b on 64 bits (R192). -/
def execGadd (d : GDst) (a b : GSrc) (s : State) : Out :=
  groupOp (.gadd d a b) s fun p => p.writeG d (p.gsrc a + p.gsrc b)

/-- `gsub`: a − b on 64 bits (R192). -/
def execGsub (d : GDst) (a b : GSrc) (s : State) : Out :=
  groupOp (.gsub d a b) s fun p => p.writeG d (p.gsrc a - p.gsrc b)

/-- `gmul`: a × b on 64 bits (R192). -/
def execGmul (d : GDst) (a b : GSrc) (s : State) : Out :=
  groupOp (.gmul d a b) s fun p => p.writeG d (p.gsrc a * p.gsrc b)

/-- `gand`: a AND b on 64 bits (R192). -/
def execGand (d : GDst) (a b : GSrc) (s : State) : Out :=
  groupOp (.gand d a b) s fun p => p.writeG d (p.gsrc a &&& p.gsrc b)

/-- `gor`: a OR b on 64 bits (R192). -/
def execGor (d : GDst) (a b : GSrc) (s : State) : Out :=
  groupOp (.gor d a b) s fun p => p.writeG d (p.gsrc a ||| p.gsrc b)

/-- `gxor`: a XOR b on 64 bits (R192). -/
def execGxor (d : GDst) (a b : GSrc) (s : State) : Out :=
  groupOp (.gxor d a b) s fun p => p.writeG d (p.gsrc a ^^^ p.gsrc b)

/-- `gsh.left` (R193). -/
def execGshLeft (d : GDst) (a n : GSrc) (s : State) : Out :=
  groupOp (.gshLeft d a n) s fun p => p.writeG d (if (p.gsrc n).toNat < 64 then p.gsrc a <<< (p.gsrc n).toNat else 0)

/-- `gsh.right`, logical (R193). -/
def execGshRight (d : GDst) (a n : GSrc) (s : State) : Out :=
  groupOp (.gshRight d a n) s fun p => p.writeG d (if (p.gsrc n).toNat < 64 then p.gsrc a >>> (p.gsrc n).toNat else 0)

/-- `gmov` to a g register (R194). -/
def execGmov (d : GDst) (a : GSrc) (s : State) : Out := groupOp (.gmov d a) s fun p => p.writeG d (p.gsrc a)

/-- `gmov` to a control register (R194). -/
def execGmovCtl (c : Nat) (a : GSrc) (s : State) : Out :=
  groupOp (.gmovCtl c a) s fun p => p.writeControl c ((p.gsrc a).setWidth 32)

/-- `gread` (R194). -/
def execGread (d : GDst) (c : Nat) (s : State) : Out :=
  issue (.gread d c) s fun k s =>
    finish k (s.setPanel k ((s.panel k).writeG d ((s.panel k).readControl (s.curWg k).tba c)))

/-- `gcmp` (R196). -/
def execGcmp (cond : Cond) (uns : Bool) (gp : Nat) (a b : GSrc) (s : State) : Out :=
  groupOp (.gcmp cond uns gp a b) s fun p =>
    let val := fun (x : DWord) => if uns then (x.toNat : Int) else x.toInt
    p.setGp gp (condInt cond (val (p.gsrc a)) (val (p.gsrc b)))

/-! ## Predicate forms -/

/-- SELA[2x + y] (R197). -/
def tableBit (table : BitVec 4) (x y : Bool) : Bool := table.getLsbD (2 * x.toNat + y.toNat)

/-- `plog`, on lane predicates or on group predicates (R197). -/
def execPlog (grp : Bool) (d a b : Nat) (table : BitVec 4) (s : State) : Out :=
  if grp then
    groupOp (.plog true d a b table) s fun p => p.setGp d (tableBit table (p.gp.getLsbD a) (p.gp.getLsbD b))
  else
    lanePred (.plog false d a b table) d s
      (fun l j => tableBit table ((l.w.pred a).getLsbD j) ((l.w.pred b).getLsbD j))

/-- `pmask` (R198). -/
def execPmask (p : Nat) (a : GSrc) (s : State) : Out :=
  lanePred (.pmask p a) p s (fun l j => (l.p.gsrc a).getLsbD j)

end Sys2Proof.Machine
end

