-- ==== Sys2Proof/Machine/Issue.lean ====
section
/-! DEFINITION. Clause headers (08 R141, R146), when a panel may issue (08 R142-R145, 02 R20, R43) and the stall reasons (16 R313),
what comes between issues (02 R25, R33), and reserved opcodes (R156). -/

namespace Sys2Proof.Machine

/-- A header that no clause may have (R146). -/
def headerBad (w : Word) : Bool := hdrN w == 0 || hdrSlot w == 7 || w &&& 0xF != 0

/-- A panel takes up the clause whose header is at its PC (R140, R146); WAIT and DRN are still to be waited for
(R142). -/
def execClauseHeader (w : Word) (s : State) : Out :=
  match s.cur with
  | none => .fault .noPanel
  | some c =>
    let p := s.panel c
    if ((s.wave c.wid).alive && p.valid) = false then .fault .noPanel
    else if headerBad w then .next (s.takeTrap c { cause := 0x01 } false false)
    else
      .next (s.setPanel c
        { p with
          clause := some { addr := p.pc, word := w, pos := 0, fresh := true }, pc := (p.pc + 4) % 2 ^ 57, entered := s.cycle })

/-- The cycles of a stall hint are over (R144). -/
def execStallHintExpiry (wid e : Nat) (s : State) : Out :=
  let w := s.wave wid
  let p := w.panel e
  if p.valid && p.hold != 0 && !p.yielded && decide (p.hold ≤ s.cycle) then
    .next (s.setWave wid (w.setPanel e { p with hold := 0 }))
  else .next s

/-- Outstanding results that are still owed to some quads. -/
def deliver (l : List Outstanding) (idx : Nat) (q : BitVec 16) : List Outstanding :=
  (l.zipIdx.map fun x => if x.2 = idx then { x.1 with quads := x.1.quads &&& ~~~ q } else x.1).filter fun x => x.quads != 0

/-- A variable-latency result arrives for some quads and clears its slot for them (R20, R143). A lane access that the
home L2 rejected and that waits for a reply holds its result (R208). -/
def execVariableLatencyResult (wid e idx : Nat) (quads : BitVec 16) (s : State) : Out :=
  let w := s.wave wid
  let p := w.panel e
  match p.valid, p.outst[idx]? with
  | true, some x =>
    if x.quads &&& quads = 0 ∨ x.ofRays = true ∨ (x.held.any fun h => quads.getLsbD (h.lane / 4)) = true then
      .next s
    else .next (s.setWave wid (w.setPanel e { p with outst := deliver p.outst idx quads }))
  | _, _ => .next s

/-- A store of a panel is accepted by its L1 or bank (R142). -/
def execStoreDrain (wid e : Nat) (s : State) : Out :=
  let w := s.wave wid
  let p := w.panel e
  if p.valid && p.undrained != 0 then .next (s.setWave wid (w.setPanel e { p with undrained := p.undrained - 1 }))
  else .next s

/-! ## Slots (R25, R304) -/

/-- The slots that a clause's WAIT names (R141). -/
def waitSlots (h : Word) : List Nat := (List.range 6).filter fun k => (hdrWait h).testBit k

/-- What the record of a `gath` says of its groups (R290). -/
def State.shapeOf (s : State) (c : Cur) : Instr → GathShape
  | .gath _ _ _ _ h =>
    (match (s.layoutFor (clusterOf (c.wid / 64)) (s.laneAcc c) ((s.panel c).gsrc h).toNat).2 with
     | .ok r => (r.rank, if r.elem = 8 then 2 else 1)
     | .error _ => (0, 1))
  | _ => (0, 1)

/-- The results that the interlock holds an instruction on (R143). -/
def Panel.interlocks (p : Panel) (sh : GathShape) (cl : Clause) (i : Instr) : List Outstanding :=
  p.outst.filter fun x => x.blocks p sh cl i

/-- The slots that the next instruction waits for (R304): those of its clause's WAIT, and of the results that the interlock holds it
on. -/
def Panel.neededSlots (p : Panel) (sh : GathShape) (cl : Clause) (i : Instr) : List Nat :=
  (p.interlocks sh cl i).filterMap (·.slot) ++ waitSlots cl.word

/-- The results outstanding in some slots. -/
def Panel.inSlots (p : Panel) (ks : List Nat) : List Outstanding :=
  p.outst.filter fun x => match x.slot with
    | none => false
    | some k => ks.contains k

/-- The quads with a result outstanding. -/
def owedQuads (l : List Outstanding) : BitVec 16 := l.foldl (fun q x => q ||| x.quads) 0

/-! ## When a panel may issue -/

/-- Instructions that wait for the panel's held accesses (R208): fences and releases. -/
def releases : Instr → Bool
  | .fence .. => true
  | .atom _ _ o .. => o == .rel || o == .ar
  | .cas _ o .. => o == .rel || o == .ar
  | .barr .. => true
  | .sbar .. => true
  | .qpost .. => true
  | .lflush .. => true
  | .tlbi .. => true
  | .genInc .. => true
  | .emit .. => true
  | .emitClose .. => true
  | _ => false

/-- Instructions that wait until the panel's earlier ones have completed (R195, R206). -/
def drains : Instr → Bool
  | .gmovCtl c _ => decide (c < 2)
  | .gread _ c => decide (c < 2)
  | .trapf => true
  | _ => false

def usesMatrix : Instr → Bool
  | .mloop .. => true
  | .msoft .. => true
  | .mmq .. => true
  | _ => false

/-- The matrix unit holds an instruction (R236): while an operation of its wave is in flight, and an `mmq` until every operation issued
before it on its core has ended. -/
def State.matrixBusy (s : State) (c : Cur) (i : Instr) : Bool :=
  usesMatrix i && !s.inMmq c && ((s.curWave c).matrix.isSome || (match i with
    | .mmq .. => s.matrixOn (c.wid / 64) != []
    | _ => false))

/-- A `gen.inc` waits for one on the same address space (R358). -/
def State.changeBusy (s : State) (c : Cur) (p : Panel) : Instr → Bool
  | .genInc _ a => s.changing (s.laneAcc c).part (p.gsrc a).toNat
  | _ => false

/-- The entries that an instruction appends to the log when it issues now (R321): an atomic one for each active lane, a `bwait` and a
`pull` none where they have yet to wait. -/
def State.logEntries (s : State) (c : Cur) (i : Instr) : Nat :=
  let p := s.panel c
  let place := fun (h : Nat) => s.handlePlace (s.curWg c) h
  match i with
  | .atom .. => countBits (p.active (s.curWave c))
  | .cas .. => countBits (p.active (s.curWave c))
  | .pull .. => (s.pullReady c { instr := i, len := 1, since := 0, aux := 0 }).toNat
  | .barr _ h => (place h).isSome.toNat
  | .bexp _ h _ => (place h).isSome.toNat
  | .bwait _ h ph => ((place h).map fun x => (phaseDone 32 (recGen (s.readRec x)) (bits 31 0 (p.gsrc ph).toNat)).toNat).getD 0
  | .sbar _ h => if p.progress.getLsbD 31 then 0 else (place h).isSome.toNat
  | _ => 0

/-- Instructions that start an engine thread, which comes after all that the panel has done before (R130). -/
def forks : Instr → Bool
  | .copy .. => true
  | .mloop .. => true
  | .msoft .. => true
  | .mmq .. => true
  | .mest .. => true
  | .sample .. => true
  | .gath .. => true
  | .texqSize .. => true
  | .texqRes .. => true
  | .trace .. => true
  | .traceResume .. => true
  | .sdef .. => true
  | _ => false

/-- Instructions whose lanes write memory. -/
def writesMemory (i : Instr) : Bool :=
  (match i with
    | .st .. => true
    | .sts .. => true
    | .atom .. => true
    | .cas .. => true
    | .swrite .. => true
    | .bexp .. => true
    | _ => false) || !(usesOf i).dstStreams.isEmpty

/-- Instructions that reach memory. -/
def reachesMemory (i : Instr) : Bool :=
  classOf i == 1 || classOf i == 3 || classOf i == 4 || !(usesOf i).srcStreams.isEmpty || !(usesOf i).dstStreams.isEmpty

/-- A held access that reads, and one that is an acquire (R126). -/
def HeldAct.reads : HeldAct → Bool
  | .store _ => false
  | _ => true
def HeldAct.acquires : HeldAct → Bool
  | .rmw _ ord _ _ => ordAcquires ord
  | _ => false

/-- An instruction waits until the panel's held accesses have been made (R208): a fence or release, and the fork of a thread (R130); a
write, where one of them reads (R125); any access, where one is an acquire (R126) (assumption 90, DEDUCED). -/
def Panel.awaitsHeld (p : Panel) (i : Instr) : Bool :=
  let l := p.heldAll
  !l.isEmpty && (releases i || forks i || (writesMemory i && l.any (·.act.reads)) || (reachesMemory i && l.any (·.act.acquires)))

/-- The reason of a wait for some results: translation where the home L2 has rejected one (R208), else `why`. -/
def waitsFor (why : Nat) : List Outstanding → Option Nat
  | [] => none
  | l => if l.any fun x => !x.held.isEmpty then some 13 else some why

/-- Stores that are not drained: accepted by no L1 or bank yet, or held (R142, R208). -/
def Panel.storesDue (p : Panel) : Bool := p.undrained != 0 || p.heldAll.any (·.write)

/-- The clause's WAIT and DRN, before its first instruction (R142, R146); a drain that a held store delays counts as translation
(R208). -/
def Panel.clauseHold (p : Panel) (cl : Clause) : Option Nat :=
  if cl.fresh then
    (waitsFor 2 (p.inSlots (waitSlots cl.word))).or
      (if hdrDrn cl.word && p.storesDue then some (if p.heldAll.any (·.write) then 13 else 2) else none)
  else none

/-- The results on which the interlock holds an instruction count as a stall hint too short, where the clause just issued made one of
them (R144), else as the scoreboard. -/
def Panel.interlockReason (p : Panel) (l : List Outstanding) : Nat :=
  match p.hinted with
  | none => 0
  | some since => if l.any fun x => decide (since ≤ x.issued) then 15 else 0

/-- The interlock (R143). -/
def Panel.interlockHold (p : Panel) (sh : GathShape) (cl : Clause) (i : Instr) : Option Nat :=
  waitsFor (p.interlockReason (p.interlocks sh cl i)) (p.interlocks sh cl i)

/-- The results that an `exit` waits for (R204); it waits for held stores too (assumption 90, DEDUCED). -/
def Panel.exitHold (p : Panel) (w : Wave) (i : Instr) : Option Nat :=
  if i = .exit then waitsFor 0 (p.outst.filter fun x => x.quads &&& lanesQuads (p.active w) != 0) else none

/-- The other conditions that hold an instruction at issue: rejected accesses (R208), the matrix unit (R236), another generation change
(R358), and room in the log (R322). -/
def State.otherHold (s : State) (c : Cur) (w : Wave) (p : Panel) (i : Instr) : Option Nat :=
  (p.exitHold w i).or
    (if p.awaitsHeld i then some 13
     else if s.matrixBusy c i then some 6
     else if s.changeBusy c p i then some 15
     else if s.logStalls c (s.logEntries c i) then some 15
     else none)

/-- The drains of R195 and R206, which wait for no engine thread; one that a held access delays counts as translation (R208, R349;
assumption 112, DESIGN CHOICE: R206 says 14 of the whole wait). -/
def Panel.drainHold (p : Panel) (i : Instr) : Option Nat :=
  if drains i then (waitsFor 14 (p.outst.filter fun x => !x.ofEngine)).or (if p.undrained != 0 then some 14 else none) else none

/-- What holds an instruction of a panel at issue: the stall reason of R313, or nothing. -/
def State.instrHold (s : State) (c : Cur) (w : Wave) (p : Panel) (cl : Clause) (i : Instr) : Option Nat :=
  (p.clauseHold cl).or ((p.drainHold i).or ((p.interlockHold (s.shapeOf c i) cl i).or (s.otherHold c w p i)))

/-- The reason of a panel that waits inside an instruction. -/
def State.waitReason (s : State) (c : Cur) (x : Waiting) : Nat :=
  if !x.held.isEmpty then 13
  else match x.instr with
    | .emit .. => 9
    | .emitClose .. => 9
    | .pull .. => if s.pullReady c x then 15 else 8
    | .sample .. => 12
    | .gath .. => 13
    | .ctxFwd .. => 13
    | _ => 15

/-- Why a panel does not look at its PC in this cycle (R313), or nothing. The eight cycles of a `yield` count as R205 says, those of its
clause's stall hint beyond them as R144 does (assumption 111, DESIGN CHOICE). -/
def State.frontHold (s : State) (wid e : Nat) : Option Nat :=
  let w := s.wave wid
  let p := w.panel e
  let c : Cur := { wid := wid, entry := e, len := 1 }
  if (w.alive && p.valid) = false then some 15
  else match p.status, p.wait with
    | .seamw, _ => some 4
    | .ffw, _ => some 5
    | .stop, _ => some 15
    | .barw, some x => if s.waitStalls c x && (s.phaseOver c x).isSome then some 15 else some 3
    | .barw, none => some 3
    | .run, some x => some (s.waitReason c x)
    | .run, none =>
      if p.stopAsked.isSome || !s.waveRuns wid then some 15
      else if s.cycle < p.hold then some (if p.yielded && decide (s.cycle < p.doneAt + 9) then 15 else 2)
      else (p.pause.find? fun x => decide (s.cycle < x.2)).map (·.1)

/-- Why a panel does not issue an instruction in this cycle (R313), or nothing. A clause header takes a cycle of the fetch (assumption
8, DESIGN CHOICE). -/
def State.holdReason (s : State) (wid e : Nat) : Option Nat :=
  match s.frontHold wid e with
  | some r => some r
  | none =>
    let w := s.wave wid
    let p := w.panel e
    let c : Cur := { wid := wid, entry := e, len := 1 }
    match s.fetch c, p.clause with
    | .header _, _ => some 10
    | .stop (.miss why), _ => some why
    | .instr i len, some cl => s.instrHold { c with len := len } w p cl i
    | _, _ => none

/-! ## Splitting by miss (R25) -/

/-- The cycles T of R25: the threshold in units of 64, or 512. -/
def missThreshold (g : GridSpec) : Nat := if g.mthr = 0 then 512 else 64 * g.mthr

/-- The launch enabled miss splits (R329 MSPL). -/
def GridSpec.missSplits (g : GridSpec) : Bool := g.flags / 4 % 2 == 1

/-- The quads that split off a panel held by the scoreboard on an instruction (R25). -/
def Panel.missQuads (p : Panel) (w : Wave) (g : GridSpec) (sh : GathShape) (cl : Clause) (i : Instr) (now : Nat) :
    Option (BitVec 16) :=
  let l := p.inSlots (p.neededSlots sh cl i)
  let late := l.filter fun x => decide (x.issued + missThreshold g ≤ now)
  let q := p.qmask &&& ~~~ (owedQuads l)
  if g.missSplits && q != 0 && p.qmask &&& ~~~ q != 0 && p.qmask &&& ~~~ q == p.qmask &&& owedQuads late &&
      decide (minWidth i w.width ≤ 4 * countBits q) then
    some q
  else none

def State.curSpec (s : State) (c : Cur) : Option GridSpec :=
  match s.launch? (s.curWg c).lid with
  | none => none
  | some l => some l.spec

/-- Only results on the scoreboard hold the panel (R25): the interlock or its clause's WAIT, by some result that is counted in a slot
(R304), and neither its store drain nor any other condition of its issue. -/
def State.onlyScoreboard (s : State) (c : Cur) (w : Wave) (p : Panel) (cl : Clause) (i : Instr) : Bool :=
  ((cl.fresh && !(p.inSlots (waitSlots cl.word)).isEmpty) || (p.interlocks (s.shapeOf c i) cl i).any (·.slot.isSome)) &&
  !(cl.fresh && hdrDrn cl.word && p.storesDue) && (p.drainHold i).isNone && (s.otherHold c w p i).isNone

/-- The quads that split off the panel of an entry in this cycle, at its instruction (R25). -/
def State.missSplitOf (s : State) (wid e : Nat) : Option (BitVec 16) :=
  let c : Cur := { wid := wid, entry := e, len := 1 }
  let w := s.wave wid
  let p := w.panel e
  match s.frontHold wid e, p.clause, s.curSpec c with
  | none, some cl, some g =>
    if g.missSplits = false then none
    else match s.fetch c with
      | .instr i len => if s.onlyScoreboard { c with len := len } w p cl i then p.missQuads w g (s.shapeOf c i) cl i s.cycle else none
      | _ => none
  | _, _, _ => none

/-- The panel of a wave that splits by miss in this cycle, and its quads: the lowest that qualifies, unless the wave has split in the
cycle already (R26). -/
def State.missSplit (s : State) (wid : Nat) : Option (Nat × BitVec 16) :=
  if (s.wave wid).splitAt = some s.cycle then none
  else (s.wave wid).entries.findSome? fun e => (s.missSplitOf wid e).map fun q => (e, q)

/-- A panel splits by miss (R25, R26). -/
def execMissSplit (wid e : Nat) (s : State) : Out :=
  let w := s.wave wid
  match s.missSplit wid, w.freeEntry with
  | some (k, q), some n =>
    if k ≠ e then .next s
    else .next ((s.setWave wid (w.split e n q 2 (w.panel e).pc (w.panel e).clause s.cycle)).eventRecord wid n 0x04 2)
  | _, _ => .next s

/-- The panel waiting in FFW is wide enough: it runs, and issues its instruction next (R33). -/
def execForcedFuseIssue (wid e : Nat) (s : State) : Out :=
  let w := s.wave wid
  let p := w.panel e
  match p.valid && p.status == .ffw && s.waveRuns wid, p.wait with
  | true, some x =>
    if p.effWidth w < s.needWidth { wid := wid, entry := e, len := x.len } x.instr then .next s
    else .next (s.setWave wid (w.setPanel e { p with status := .run, wait := none, waitct := 0 }))
  | _, _ => .next s

/-- A reserved opcode traps in every class and position (R156): the check of decode raises it. -/
def execReservedOpcode (w : Word) (s : State) : Out :=
  issue (.reservedOpcode w) s fun c s => trapTo c { cause := 0x02 } s

end Sys2Proof.Machine
end

