-- ==== Sys2Proof/Machine/Moment.lean ====
section
/-! DEFINITION. Moment arithmetic (05 R84-R97, R101; 11 R252): `madd`, `mmul`, `mnl` and `mcoll`. The rules are written
over f32 codes, as the spec writes them; the state of `Moments` is the flags raised so far (R88). -/

namespace Sys2Proof.Machine

abbrev Moments := StateM Word

/-- A rounded result, with its flags raised. -/
def raising (r : Nat × Word) : Moments Nat := modifyGet fun fl => (r.1, fl ||| r.2)

/-! ## Primitives (R88) -/

def mOne : Nat := 0x3F800000
def mHalf : Nat := 0x3F000000
def mFour : Nat := 0x40800000
def mL2E : Nat := 0x3FB8AA3B
def mPi8 : Nat := 0x3EC90FDB

/-- ±2 as an exact factor. -/
def twoVal (neg : Bool) : FVal := .fin neg 2 0

def mNeg (a : Nat) : Nat := a ^^^ 0x80000000
def mSigned (neg : Bool) (a : Nat) : Nat := if neg then mNeg a else a
def mAdd (a b : Nat) : Moments Nat := raising (f32.fused .rne false [] [f32.decode a, f32.decode b])
def mSub (a b : Nat) : Moments Nat := raising (f32.fused .rne false [] [f32.decode a, (f32.decode b).negate])
def mMul (a b : Nat) : Moments Nat := raising (f32.fused .rne false [(f32.decode a, f32.decode b)] [])
def mFma (a b c : Nat) : Moments Nat := raising (f32.fused .rne false [(f32.decode a, f32.decode b)] [f32.decode c])
def mTwice (a : Nat) : Moments Nat := raising (f32.fused .rne false [(twoVal false, f32.decode a)] [])
def mSqrt (a : Nat) : Moments Nat := raising (f32.sqrt .rne false (f32.decode a))
def mRsq (a : Nat) : Moments Nat := raising (f32.rsq .rne false (f32.decode a))
def mRcp (a : Nat) : Moments Nat := raising (f32.rcp .rne false (f32.decode a))
def mDiv (a b : Nat) : Moments Nat := raising (f32.div .rne false (f32.decode a) (f32.decode b))
def mExp2 (a : Nat) : Moments Nat := raising (f32.exp2 .rne false (f32.decode a))
def mPhi (a : Nat) : Moments Nat := raising (f32.normal .rne (f32.decode a))
def mDens (a : Nat) : Moments Nat := raising (f32.density .rne (f32.decode a))
def mExpE (a : Nat) : Moments Nat := do mExp2 (← mMul a mL2E)

/-- Fma with a coefficient of ±2 that scales exactly (R89, R90). -/
def mFmaTwo (neg : Bool) (a b c : Nat) : Moments Nat :=
  raising (f32.fused .rne false [(mulVal (twoVal neg) (f32.decode a), f32.decode b)] [f32.decode c])

/-! ## Rules -/

/-- The correlation of two sources: none for ρ = 0, else whether it is −1 (R87). -/
def rhoOf (sel : CovSel) (mcr : Word) : Option Bool :=
  match sel with
  | .ind => none
  | .pos => some false
  | .neg => some true
  | .mcr => if bits 1 0 mcr.toNat = 1 then some false else if bits 1 0 mcr.toNat = 2 then some true else none

/-- MomentAdd (R89). -/
def momentAdd (sub : Bool) (rho : Option Bool) (ma va mb vb : Nat) : Moments (Nat × Nat) := do
  let mean ← mAdd ma (mSigned sub mb)
  let t ← mAdd va vb
  match rho with
  | none => pure (mean, t)
  | some neg => do
    let sa ← mSqrt va
    let sb ← mSqrt vb
    let var ← mFmaTwo (sub != neg) sa sb t
    pure (mean, var)

/-- MomentMul (R90). -/
def momentMul (rho : Option Bool) (ma va mb vb : Nat) : Moments (Nat × Nat) := do
  let ma2 ← mMul ma ma
  let mb2 ← mMul mb mb
  let t1 ← mMul ma2 vb
  let t2 ← mFma mb2 va t1
  match rho with
  | none => do
    let mean ← mMul ma mb
    let var ← mFma va vb t2
    pure (mean, var)
  | some neg => do
    let sa ← mSqrt va
    let sb ← mSqrt vb
    let s ← mMul sa sb
    let mean ← mFma ma mb (mSigned neg s)
    let q ← mMul ma mb
    let p ← mMul q s
    let t3 ← mFmaTwo neg mOne p t2
    let v2 ← mTwice va
    let var ← mFma v2 vb t3
    pure (mean, var)

/-- The plain logistic function (R91). -/
def plainSig (m : Nat) : Moments Nat := do mRcp (← mAdd mOne (← mExpE (mNeg m)))

/-- The forms at a variance of zero (R91). -/
def plainForm (f : NlForm) (m : Nat) : Moments Nat :=
  match f with
  | .relu => pure (match f32.decode m with
      | .nan => f32.nan
      | x => if condVal .gt x (.fin false 0 0) then m else 0)
  | .exp => mExpE m
  | .sig => plainSig m
  | .tanh => do
    let s ← plainSig (← mTwice m)
    mSub (← mTwice s) mOne
  | .rcp => mRcp m

/-- MomentSig (R94) (assumption 67, DEDUCED). -/
def momentSig (m v : Nat) : Moments (Nat × Nat) := do
  let kap ← mRsq (← mFma v mPi8 mOne)
  let mean ← mRcp (← mAdd mOne (← mExpE (mNeg (← mMul m kap))))
  let r ← mSub mOne mean
  let q ← mMul mean r
  let k ← mSub mOne kap
  let var ← mMul q k
  pure (mean, var)

/-- MomentRelu (R92). -/
def momentRelu (m v : Nat) : Moments (Nat × Nat) := do
  let sd ← mSqrt v
  let al ← mDiv m sd
  let p ← mPhi al
  let d ← mDens al
  let mean ← mFma m p (← mMul sd d)
  let x ← mFma m m v
  let y ← mMul (← mMul m sd) d
  let e2 ← mFma x p y
  let var ← mFma (mNeg mean) mean e2
  pure (mean, var)

/-- MomentExp (R93). -/
def momentExp (m v : Nat) : Moments (Nat × Nat) := do
  let mean ← mExpE (← mFma v mHalf m)
  let a ← mSub (← mExpE v) mOne
  let var ← mMul a (← mMul mean mean)
  pure (mean, var)

/-- MomentTanh (R95). -/
def momentTanh (m v : Nat) : Moments (Nat × Nat) := do
  let r ← momentSig (← mTwice m) (← mMul mFour v)
  let mean ← mSub (← mTwice r.1) mOne
  let var ← mMul mFour r.2
  pure (mean, var)

/-- MomentRcp (R96). -/
def momentRcp (m v : Nat) : Moments (Nat × Nat) := do
  let q ← mRcp m
  let q2 ← mMul q q
  let mean ← mFma v (← mMul q2 q) q
  let var ← mMul v (← mMul q2 q2)
  pure (mean, var)

/-- `mnl` of a source whose variance is not negative (R91-R96). -/
def momentForm (f : NlForm) (m v : Nat) : Moments (Nat × Nat) :=
  if v = 0 then do pure (← plainForm f m, 0)
  else match f with
    | .relu => momentRelu m v
    | .exp => momentExp m v
    | .sig => momentSig m v
    | .tanh => momentTanh m v
    | .rcp => momentRcp m v

/-! ## Checks of variances -/

/-- An invalid variance (R84). -/
def badVariance (v : Nat) : Bool :=
  match f32.decode v with
  | .nan => true
  | .inf s => s
  | .fin s m _ => s && m != 0

/-- A source variance as the rules read it (R84, R85). -/
def cleanVariance (v : Nat) : Nat := if badVariance v || v == 0x80000000 then 0 else v

/-- The result of a moment instruction in one lane: mean, variance, flags, NEGVAR. -/
structure MomentOut where
  mean : Nat
  var : Nat
  flags : Word
  negvar : Bool
  deriving DecidableEq, Repr

/-- Runs a rule and checks its result (R85, R86). -/
def momentResult (invalid clamp : Bool) (rule : Moments (Nat × Nat)) : MomentOut :=
  let r := rule.run 0
  let mean := r.1.1
  let var := r.1.2
  if invalid then { mean := mean, var := f32.nan, flags := r.2, negvar := true }
  else match f32.decode var with
    | .nan => { mean := mean, var := f32.nan, flags := r.2, negvar := true }
    | x =>
      if x.neg && x.isZero then { mean := mean, var := 0, flags := r.2, negvar := false }
      else if x.neg then { mean := mean, var := if clamp then 0 else var, flags := r.2, negvar := true }
      else { mean := mean, var := var, flags := r.2, negvar := false }

/-! ## Instructions (R252) -/

/-- Word k of moment register mn in lane j (R48). -/
def momentWord (l : Lanes) (n k j : Nat) : Nat := ((l.w.vreg (2 * n + k)).getD j 0).toNat

/-- A moment instruction with a moment destination. -/
def momentOp (i : Instr) (d : Nat) (s : State) (f : Lanes → Nat → MomentOut) : Out :=
  issue i s fun c s => withLanes i c s fun l s =>
    let r := laneValues l.act { mean := 0, var := 0, flags := 0, negvar := false } (f l)
    let at' := fun (j : Nat) => r.getD j { mean := 0, var := 0, flags := 0, negvar := false }
    let s := s.setPanel c ((s.panel c).raiseNegvar (r.any (·.negvar)))
    writeLanes i c l (.v (2 * d)) 2 (fun j k => BitVec.ofNat 32 (if k = 0 then (at' j).mean else (at' j).var))
      (orFlags (r.map (·.flags))) s

/-- Two moment sources under a rule (R85, R87). -/
def momentTwo (sel : CovSel) (rule : Option Bool → Nat → Nat → Nat → Nat → Moments (Nat × Nat)) (a b : Nat) (l : Lanes)
    (j : Nat) : MomentOut :=
  let va := momentWord l a 1 j
  let vb := momentWord l b 1 j
  momentResult (badVariance va || badVariance vb) (mcrClamp l.p.mcr)
    (rule (rhoOf sel l.p.mcr) (momentWord l a 0 j) (cleanVariance va) (momentWord l b 0 j) (cleanVariance vb))

/-- `madd` (R89, R252). -/
def execMadd (d a b : Nat) (s : State) : Out := momentOp (.madd d a b) d s (momentTwo .mcr (momentAdd false) a b)
def execMaddLong (sub : Bool) (cov : CovSel) (d a b : Nat) (s : State) : Out :=
  momentOp (.maddLong sub cov d a b) d s (momentTwo cov (momentAdd sub) a b)

/-- `mmul` (R90, R252). -/
def execMmul (d a b : Nat) (s : State) : Out := momentOp (.mmul d a b) d s (momentTwo .mcr momentMul a b)
def execMmulLong (cov : CovSel) (d a b : Nat) (s : State) : Out :=
  momentOp (.mmulLong cov d a b) d s (momentTwo cov momentMul a b)

/-- `mnl` (R91-R96, R252). -/
def execMnl (f : NlForm) (d a : Nat) (s : State) : Out :=
  momentOp (.mnl f d a) d s fun l j =>
    let v := momentWord l a 1 j
    momentResult (badVariance v) (mcrClamp l.p.mcr) (momentForm f (momentWord l a 0 j) (cleanVariance v))

/-- The rule of a collapse mode (R97) on the mean, the variance and the multiplier or sample. -/
def collapse (mode : Coll) (m v k : Nat) : Moments Nat :=
  match mode with
  | .mean => pure (if (f32.decode m).isNan then f32.nan else m)
  | .std => mSqrt v
  | .upper _ => do mFma k (← mSqrt v) m
  | .lower _ => do mFma (mNeg k) (← mSqrt v) m
  | .sample _ => do mFma (← mSqrt v) k m

/-- What `mcoll` delivers in one lane (R85, R97): the value in `mean`. -/
def collapseOut (mode : Coll) (m v k : Nat) : MomentOut :=
  let r := (collapse mode m (cleanVariance v) k).run 0
  let bad := badVariance v
  { mean := (match mode with
      | .mean => r.1
      | _ => if bad then f32.nan else r.1), var := 0, flags := r.2, negvar := bad }

/-- The multiplier or the sample of a collapse mode in a lane (R97). -/
def collapseArg (mode : Coll) (l : Lanes) (j : Nat) : Nat :=
  match mode with
  | .upper k => bits 31 0 (l.p.gsrc k).toNat
  | .lower k => bits 31 0 (l.p.gsrc k).toNat
  | .sample z => (l.a32 z j).toNat
  | _ => 0

/-- `mcoll` (R97, R252). -/
def execMcoll (mode : Coll) (d : Dst) (a : Nat) (s : State) : Out :=
  issue (.mcoll mode d a) s fun c s => withLanes (.mcoll mode d a) c s fun l s =>
    let zero : MomentOut := { mean := 0, var := 0, flags := 0, negvar := false }
    let r := laneValues l.act zero fun j =>
      collapseOut mode (momentWord l a 0 j) (momentWord l a 1 j) (collapseArg mode l j)
    let s := s.setPanel c ((s.panel c).raiseNegvar (r.any (·.negvar)))
    writeLanes (.mcoll mode d a) c l d 1 (fun j _ => BitVec.ofNat 32 (r.getD j zero).mean) (orFlags (r.map (·.flags))) s

end Sys2Proof.Machine
end

