-- ==== Sys2Proof/Machine/Partition.lean ====
section
/-! DEFINITION. Partitions, keys, attestation, images, firmware, idle, power and bring-up (20 R386-R398, R402-R409). -/

namespace Sys2Proof.Machine

/-! ## Mailboxes (R387) -/

/-- The mailbox of the platform, or of a partition's owner. -/
def State.mailbox (s : State) (who : Writer) : Option Mailbox :=
  match who with
  | .platform => some s.regs.mbox
  | .owner p => if p < 8 then some (s.part p).mbox else none
  | _ => none

def State.setMailbox (s : State) (who : Writer) (m : Mailbox) : State :=
  match who with
  | .platform => { s with regs := { s.regs with mbox := m } }
  | .owner p => s.setPart p { s.part p with mbox := m }
  | _ => s

/-- MBSTAT. -/
def mbstatOf (busy : Bool) (result : Nat) : DWord := BitVec.ofNat 64 (busy.toNat + 256 * result)

/-- A written command as its mailbox takes it: its event, or the RESULT that turns it away. -/
inductive Command where
  | ok (i : Instr)
  | bad (result : Nat)
  deriving DecidableEq, Repr

/-- PART_SET's words: as the configuration block lays them out, each in an argument of its own (assumption 35, DESIGN CHOICE). -/
def partSetOf (a : Nat → Nat) : Command :=
  if 8 ≤ a 0 then .bad 2
  else .ok (.partSet (a 0) ((a 1).testBit 0) (bits 15 8 (a 1)) (bits 37 32 (a 1)) (bits 46 40 (a 1)) (bits 8 0 (a 2)) (bits 9 0 (a 3)))

def linkOf (who : Writer) (port action : Nat) : Command :=
  match action with
  | 0 => .ok (.linkTrain who port)
  | 1 => .ok (.linkRetrain who port)
  | 2 => .ok (.linkDisable who port)
  | _ => .bad 2

/-- The table of commands; a code that a mailbox does not have is refused. -/
def mailCommand (who : Writer) (args : List DWord) (code : Nat) : Command :=
  let x := fun k => args.getD k 0
  let a := fun k => (x k).toNat
  match code, who with
  | 1, .platform => partSetOf a
  | 2, .platform => if 8 ≤ a 0 then .bad 2 else .ok (.partReset who (a 0))
  | 2, .owner p => if a 0 = p then .ok (.partReset who p) else .bad 1
  | 3, _ => .ok (.keyLoad who (a 0) (x 1))
  | 4, _ => .ok (.attest who (x 0) (x 1))
  | 5, _ => .ok (.cert who (x 0) (a 1))
  | 6, .owner p => .ok (.imageLoad p (x 0) (x 1) ((x 2).getLsbD 0) (bits 15 0 (a 7)))
  | 7, _ => linkOf who (a 0) (a 1)
  | 8, .platform => .ok (.fwUpdate (x 0))
  | 9, .platform => .ok .idle
  | 10, .platform => .ok .wake
  | _, _ => .bad 1

/-- Commands are accepted at stage 6 and while idle; before, FW_UPDATE alone at stage 5 (R392, R404, R407). -/
def State.accepts (s : State) (code : Nat) : Bool := s.stage == 6 || s.idle || (s.stage == 5 && code == 8)

/-- A write of MBCMD. -/
def State.postCommand (s : State) (who : Writer) (code : Nat) : State :=
  match s.mailbox who with
  | none => s
  | some m =>
    if m.pending.isSome then s.setMailbox who { m with stat := mbstatOf true 4 }
    else if s.accepts code = false then s.setMailbox who { m with stat := mbstatOf false 1 }
    else match mailCommand who m.args code with
      | .bad r => s.setMailbox who { m with stat := mbstatOf false r }
      | .ok i => s.setMailbox who { m with stat := mbstatOf true 0, pending := some i }

/-- The command in progress in a mailbox. -/
def State.command (s : State) (who : Writer) : Option Instr := (s.mailbox who).bind (·.pending)

/-- A command ends with its RESULT. -/
def State.endMail (s : State) (who : Writer) (result : Nat) : State :=
  match s.mailbox who with
  | none => s
  | some m => s.setMailbox who { m with stat := mbstatOf false result, pending := none }

/-- A command acts while it is its mailbox's command in progress. -/
def mailEvent (who : Writer) (i : Instr) (s : State) (act : Out) : Out := if s.command who = some i then act else .next s

/-- A command that does what it is asked, or is turned away with a RESULT. -/
def mailDone (who : Writer) (s : State) : Except Nat State → Out
  | .ok t => .next (t.endMail who 0)
  | .error r => .next (s.endMail who r)

/-- The access of a mailbox's owner: the address space of MBARG7 (R387). -/
def State.mailAcc (s : State) (p : Nat) : Acc :=
  let asn := bits 15 0 ((s.part p).mbox.args.getD 7 0).toNat
  { core := none, part := p, asn := asn, gen := s.genOf p asn }

/-- Reads for a mailbox: the platform's physical bytes as they are stored, or an owner's virtual ones; RESULT 2 where there
are none (assumption 36, DESIGN CHOICE). -/
def State.mailRead (s : State) (who : Writer) (adr n : Nat) : Except Nat (State × List Byte) :=
  match who with
  | .owner p => match s.agentRead (s.mailAcc p) adr n with
    | .ok r => .ok r
    | .error _ => .error 2
  | _ => if memorySize < adr + n then .error 2 else .ok (s, Sparse.getBytes s.mem adr n)

def State.mailWrite (s : State) (who : Writer) (adr : Nat) (bs : List Byte) : Except Nat State :=
  match who with
  | .owner p => match s.agentWrite (s.mailAcc p) adr bs with
    | .ok t => .ok t
    | .error _ => .error 2
  | _ => if memorySize < adr + bs.length then .error 2 else .ok { s with mem := Sparse.setBytes s.mem adr bs }

/-! ## Partitions (R388, R389, R391, R409) -/

/-- The three words of a configuration block. -/
def Partition.config (x : Partition) (k : Nat) : DWord :=
  match k with
  | 0 => BitVec.ofNat 64 (x.kcnt * 2 ^ 40 + x.kfirst * 2 ^ 32 + x.clus.toNat * 2 ^ 8 + x.en.toNat)
  | 1 => BitVec.ofNat 64 x.gbase
  | _ => BitVec.ofNat 64 x.gsize

/-- Another enabled partition. -/
def State.others (s : State) (p : Nat) : List Partition := ((List.range 8).filter (· != p)).filterMap fun q => if (s.part q).en then some (s.part q) else none

/-- PART_SET is refused with RESULT 2. -/
def State.partBad (s : State) (p clus kfirst kcnt gbase gsize : Nat) : Bool :=
  decide (64 < kfirst + kcnt) || decide (512 < gbase + gsize) ||
  (s.others p).any fun x => x.clus &&& BitVec.ofNat 8 clus != 0 ||
    (decide (kfirst < x.kfirst + x.kcnt) && decide (x.kfirst < kfirst + kcnt) && kcnt != 0 && x.kcnt != 0)

/-- A cluster holds part of a running pattern (R334). -/
def State.holdsPattern (s : State) (cluster : Nat) : Bool :=
  let runs := fun lid => match s.launch? lid with
    | none => false
    | some l => !l.done
  (s.wgs.any fun w => clusterOf w.2.core == cluster && (match s.launch? w.2.lid with
    | none => false
    | some l => match l.kind with
      | .node pat _ => runs pat
      | _ => false)) ||
  (s.nodes.any fun n => n.2.cluster == cluster && runs n.2.lid) ||
  s.spools.any fun x => (match x.2.store with
    | none => false
    | some e => clusterOf e.1 == cluster) && runs x.2.lid

/-- The gangs on some clusters that have not been saved. -/
def State.gangsIn (s : State) (clusters : List Nat) : List (Nat × Gang) :=
  s.gangs.filter fun e => !e.2.done && e.2.pre != .saved && clusters.contains e.2.cluster

/-- Areas for some gangs at once, each from what those before it leave (R362, R389); none where one finds none. -/
def State.areasFor : List (Nat × Gang) → State → Option State
  | [], s => some s
  | e :: es, s =>
    match s.launch? e.2.lid with
    | none => State.areasFor es s
    | some l =>
      let units := saveUnits l.spec e.2.wgs.length
      let hold := fun (s : State) (area : Nat) (reserve : Bool) => s.putGang e.1
        { e.2 with saved := some { area := area, units := units, reserve := reserve, wgs := [], replies := [] } }
      if e.2.pre == .saving then State.areasFor es s
      else if e.2.passed then none
      else match s.saveArea l.part units with
        | none => none
        | some none => State.areasFor es (hold (s.setReserve l.part true) 0 true)
        | some (some a) => State.areasFor es (hold s a false)

/-- PART_SET's effect: clusters leave the partitions that held them, cores that change partition are cleared, and the image log
starts (R391, R395). -/
def State.configure (s : State) (p : Nat) (en : Bool) (clus kfirst kcnt gbase gsize : Nat) : State :=
  let new : BitVec 8 := BitVec.ofNat 8 clus
  let changed := (s.part p).clus ^^^ new
  let s := s.clearCores fun c => decide (c < 384) && changed.getLsbD (clusterOf c)
  let s := ((List.range 8).filter (· != p)).foldl (fun s q => s.setPart q { s.part q with clus := (s.part q).clus &&& ~~~new }) s
  s.setPart p { s.part p with
    en := en, clus := new, kfirst := kfirst, kcnt := kcnt, gbase := gbase, gsize := gsize
    imageLog := List.replicate 64 0 }

/-- PART_SET (R389): the gangs on clusters that change hands are first pre-empted, while the mailbox is BUSY; where one of them can
be saved nowhere, nothing changes. -/
def execPartSet (p : Nat) (en : Bool) (clus kfirst kcnt gbase gsize : Nat) (s : State) : Out :=
  mailEvent .platform (.partSet p en clus kfirst kcnt gbase gsize) s
    (if s.partBad p clus kfirst kcnt gbase gsize then .next (s.endMail .platform 2)
    else
      let leaving := s.handedOver p clus
      let gangs := s.gangsIn leaving
      if leaving.any s.holdsPattern ∨ (State.areasFor gangs s).isNone = true then .next (s.endMail .platform 1)
      else if gangs.isEmpty then .next ((s.configure p en clus kfirst kcnt gbase gsize).endMail .platform 0)
      else .next (((gangs.filter fun e => e.2.pre == .run).map (·.1)).foldl State.stopGang s))

/-- The fixed nodes of a placed pattern end with its gangs where the stores that hold its spools are cleared (R391, R409; assumption
40, DEDUCED). -/
def State.dropFixed (s : State) (pat : Nat) : State :=
  let mine := fun (e : Nat × Node) => e.2.lid == pat && !e.2.closed
  match s.launch? pat with
  | none => s
  | some l =>
    ({ s with nodes := s.nodes.filter fun e => !mine e }.putLaunch pat { l with live := l.live - (s.nodes.filter mine).length }).settleTop pat

/-- Every gang of a partition ends with an error: those placed, those saved, and those not started (assumption 40, DEDUCED). -/
def State.endPart (s : State) (p code : Nat) : State :=
  let of := fun lid => (s.launch? lid).map (·.part) == some p
  let placed := s.gangs.filterMap fun e => if of e.2.lid && !e.2.done then some e.1 else none
  let launches := s.launches.filterMap fun e => if e.2.part = p ∧ e.2.done = false then some e.1 else none
  let s := placed.foldl (fun s gid => s.endGang gid code) s
  launches.foldl (fun s lid => match s.launch? lid with
    | none => s
    | some l => if l.kind = .pattern then (if l.placed then s.dropFixed lid else s.failPattern lid code) else s.failRest lid code) s

/-- EN of a partition's queues and heads is cleared. -/
def State.disablePart (s : State) (p : Nat) : State :=
  let queue := fun (x : Queue) => if x.part = p then { x with qcfg := x.qcfg &&& ~~~ 0x80#64 } else x
  let head := fun (x : Head) => if x.part = p then { x with hctl := hctlRest x.hctl, stopping := x.stopping || x.running } else x
  { s with regs := { s.regs with
    queues := s.regs.queues.map fun e => (e.1, queue e.2), heads := s.regs.heads.map fun e => (e.1, head e.2) } }

/-- PART_RESET. -/
def State.resetPart (s : State) (p : Nat) : State :=
  let s := (s.endPart p 0x12).disablePart p
  s.clearCores (s.coreOf p)

def execPartReset (who : Writer) (p : Nat) (s : State) : Out :=
  mailEvent who (.partReset who p) s (.next ((s.resetPart p).endMail who 0))

/-! ## Keys and attestation (R390, R393) -/

/-- A slot among those of a partition. -/
def Partition.ownsSlot (x : Partition) (slot : Nat) : Bool := decide (x.kfirst ≤ slot) && decide (slot < x.kfirst + x.kcnt)

/-- A key slot that a requester may not load. -/
def State.slotBarred (s : State) (who : Writer) (slot : Nat) : Bool :=
  (match who with
   | .owner p => !(s.part p).ownsSlot slot
   | _ => false) ||
  (List.range 8).any fun q => (s.part q).en && (s.part q).ownsSlot slot && who != .owner q

def State.loadKey (s : State) (who : Writer) (slot adr : Nat) : Except Nat State :=
  if 64 ≤ slot then .error 2
  else if s.slotBarred who slot then .error 1
  else match s.mailRead who adr 64 with
    | .error r => .error r
    | .ok (s, bs) => .ok { s with keys := Sparse.put s.keys slot (ofBytes bs + 1) }

/-- KEY_LOAD. -/
def execKeyLoad (who : Writer) (slot : Nat) (adr : DWord) (s : State) : Out :=
  mailEvent who (.keyLoad who slot adr) s (mailDone who s (s.loadKey who slot adr.toNat))

def State.runningFirmware (s : State) : List Byte := s.firmware.getD Config.shipped

/-- The first 512 bytes of a report. From the platform mailbox, which is of no partition, bytes 128-255 are open (assumption 41, DESIGN CHOICE). -/
def State.report (s : State) (who : Writer) (nonce : List Byte) : List Byte :=
  let own := match who with
    | .owner p => sha512 ((List.range 3).flatMap fun k => toBytes 8 ((s.part p).config k).toNat) ++
        (s.part p).imageLog ++ List.replicate (64 - (s.part p).imageLog.length) 0
    | _ => (List.range 128).map fun i => (Config.free s.freeCtr i).setWidth 8
  let number := match who with
    | .owner p => p
    | _ => 0xFF
  nonce ++ sha512 s.runningFirmware ++ own ++ toBytes 8 s.regs.ident.toNat ++ toBytes 8 s.regs.errata.toNat ++
  toBytes 1 number ++ toBytes 1 s.rollback ++ List.replicate 238 0

def State.attestTo (s : State) (who : Writer) (nonce report : Nat) : Except Nat State :=
  match s.mailRead who nonce 64 with
  | .error r => .error r
  | .ok (s, bs) =>
    let body := s.report who bs
    s.bumpFree.mailWrite who report (body ++ (List.range 512).map (Config.signature body))

/-- ATTEST. -/
def execAttest (who : Writer) (nonce report : DWord) (s : State) : Out :=
  mailEvent who (.attest who nonce report) s (mailDone who s (s.attestTo who nonce.toNat report.toNat))

/-- CERT; a buffer that is too small is a bad argument. -/
def execCert (who : Writer) (buf : DWord) (size : Nat) (s : State) : Out :=
  mailEvent who (.cert who buf size) s
    (mailDone who s (if size < Config.certificateSize then .error 2
      else s.mailWrite who buf.toNat ((List.range Config.certificateSize).map Config.certificate)))

/-! ## Cersan images (R394-R396) -/

/-- A section of an image. -/
structure Section where
  type : Nat
  ofs : Nat
  size : Nat
  deriving DecidableEq, Repr

def Section.bytes (image : List Byte) (x : Section) : List Byte := (image.drop x.ofs).take x.size

def imageSections (image : List Byte) : List Section := (List.range (byteAt image 7)).map fun k =>
  let e := 64 + 32 * k
  { type := byteAt image e, ofs := fieldAt image (e + 8) 8, size := fieldAt image (e + 16) 8 }

/-- The header and the section table of a Cersan image, their other bytes zero. -/
def imageHeader (image : List Byte) : Bool :=
  fieldAt image 0 4 == 0x4E535243 && fieldAt image 4 2 == 1 && zeroAt image ((List.range 40).map (24 + ·)) &&
  (List.range (byteAt image 7)).all fun k =>
    zeroAt image (((List.range 7).map (64 + 32 * k + 1 + ·)) ++ (List.range 8).map (64 + 32 * k + 24 + ·))

def imagePmask (image : List Byte) : DWord := BitVec.ofNat 64 (fieldAt image 16 8)

/-- A patch: its erratum, its place in the code, and its words. -/
structure Patch where
  bit : Nat
  ofs : Nat
  bytes : List Byte
  deriving DecidableEq, Repr

/-- The entries of a patch section from the k-th on: they end where the replacement words begin (assumption 37, DESIGN CHOICE). -/
def patchEntries (sec : List Byte) (k stop : Nat) : Nat → List Patch
  | 0 => []
  | n + 1 =>
    if stop < 16 * k + 16 then []
    else
      let at' := fieldAt sec (16 * k + 12) 4
      let p : Patch := { bit := byteAt sec (16 * k), ofs := fieldAt sec (16 * k + 4) 4, bytes := (sec.drop at').take (4 * fieldAt sec (16 * k + 8) 4) }
      p :: patchEntries sec (k + 1) (Nat.min stop at') n

def imagePatches (image : List Byte) : List Patch :=
  ((imageSections image).filter fun x => x.type == 5).flatMap fun x =>
    let sec := x.bytes image
    patchEntries sec 0 sec.length (sec.length / 16)

/-- Replaces bytes in place. -/
def overwrite (code : List Byte) (ofs : Nat) (bs : List Byte) : List Byte := code.zipIdx.map fun e =>
  if ofs ≤ e.2 ∧ e.2 < ofs + bs.length then bs.getD (e.2 - ofs) 0 else e.1

/-- The code of an image at an address: its code section where it has one and no relocations; otherwise R394 gives no layout
(assumption 37, DESIGN CHOICE). -/
def relocatedCode (image : List Byte) (dest : Nat) : List Byte :=
  let of := fun (t : Nat) => (imageSections image).filter fun x => x.type == t
  match of 1, of 3 with
  | [x], [] => x.bytes image
  | _, _ => Config.relocated image dest

/-- The relocated code with the patches of A applied, in ascending order. -/
def patched (image : List Byte) (dest : Nat) (a : DWord) : List Byte :=
  ((imagePatches image).filter fun p => a.getLsbD p.bit).foldl (fun code p => overwrite code p.ofs p.bytes) (relocatedCode image dest)

/-- The image's code from the cache, or translated and kept there. -/
def State.translated (s : State) (image : List Byte) (dest : Nat) : State × List Byte :=
  let d := sha512 image
  let a := imagePmask image &&& s.regs.errata
  match s.images.find? fun e => e.digest == d && e.applied == a with
  | some e => (s, e.code)
  | none =>
    let code := patched image dest a
    ({ s with images := { digest := d, applied := a, pmask := imagePmask image, code := code } :: s.images }, code)

/-- `gen.inc` by firmware: the new GEN. -/
def State.incGen (s : State) (p asn : Nat) : State × Nat :=
  let gen := s.genOf p asn
  ((((s.flushSpace p asn).setGen p asn (gen + 1)).flushCode p asn).settleSpace p asn, (gen + 1) % 2 ^ 16)

def State.loadImage (s : State) (p image dest : Nat) (emul : Bool) (asn : Nat) : Except Nat State :=
  let a : Acc := { core := none, part := p, asn := asn, gen := s.genOf p asn }
  match s.agentRead a image 64 with
  | .error _ => .error 2
  | .ok (s, hd) =>
    match s.agentRead a image (fieldAt hd 8 8) with
    | .error _ => .error 2
    | .ok (s, bs) =>
      if imageHeader bs = false then .error 2
      else if 2 < byteAt bs 6 ∧ emul = false then .error 1
      else
        let r := s.translated bs dest
        match r.1.agentWrite a dest r.2 with
        | .error _ => .error 2
        | .ok s =>
          let g := s.incGen p asn
          let x := g.1.part p
          .ok (g.1.setPart p { x with
            imageLog := sha512 (x.imageLog ++ sha512 bs)
            mbox := { x.mbox with args := x.mbox.args.set 0 (BitVec.ofNat 64 g.2) } })

/-- IMAGE_LOAD. -/
def execImageLoad (p : Nat) (image dest : DWord) (emul : Bool) (asn : Nat) (s : State) : Out :=
  mailEvent (.owner p) (.imageLoad p image dest emul asn) s
    (mailDone (.owner p) s (s.loadImage p image.toNat dest.toNat emul asn))

/-- A firmware image that the boot ROM accepts (R392). -/
def State.acceptsFirmware (s : State) (image : List Byte) : Bool :=
  Config.authentic image && decide (s.rollback ≤ (Config.rollbackOf image).toNat)

/-- Firmware runs: its errata mask counts, and the cache loses what it changes (R396). -/
def State.runFirmware (s : State) (image : List Byte) : State :=
  let e := Config.errataOf image
  { s with
    images := s.images.filter fun x => (x.pmask &&& s.regs.errata) == (x.pmask &&& e)
    regs := { s.regs with errata := e } }

/-- FW_UPDATE: the accepted image runs, and the fused counter rises to its number (R392). See assumption 43, DEDUCED. -/
def State.updateFirmware (s : State) (image : Nat) : Except Nat State :=
  match s.mailRead .platform image Config.firmwareSize with
  | .error r => .error r
  | .ok (s, bs) =>
    if s.acceptsFirmware bs = false then .error 3
    else
      let t := { s.runFirmware bs with firmware := some bs, good := true, rollback := Nat.max s.rollback (Config.rollbackOf bs).toNat }
      .ok (if t.stage = 5 then t.atStage 6 else t)

/-- FW_UPDATE. -/
def execFwUpdate (image : DWord) (s : State) : Out :=
  mailEvent .platform (.fwUpdate image) s (mailDone .platform s (s.updateFirmware image.toNat))

/-! ## Idle and wake (R404) -/

/-- A queue or a head has EN = 1, or a gang, a band or part of a pattern is resident. -/
def State.busyModule (s : State) : Bool :=
  (s.regs.queues.any fun e => e.2.en) || (s.regs.heads.any fun e => e.2.en) ||
  (s.gangs.any fun e => !e.2.done && e.2.pre != .saved) || !s.spools.isEmpty || s.nodes.any fun e => !e.2.closed

/-- IDLE. -/
def execIdle (s : State) : Out :=
  mailEvent .platform .idle s
    (if s.busyModule then .next (s.endMail .platform 1)
    else
      let t := s.clearCores (· < 384)
      .next ((State.atStage { t with recCache := t.recCache.filter fun e => decide (recKey 8 0 0 0 ≤ e.1), idle := true } 7).endMail
        .platform 0))

/-- WAKE. -/
def execWake (s : State) : Out := mailEvent .platform .wake s (.next (s.wakeUp.endMail .platform 0))

/-! ## Bring-up, reset and power (R402, R403, R405-R409) -/

/-- Retires the cores of the units that failed, as free bits tell: which ones is seen outside the module only. -/
def State.retireUnits (s : State) (size : Nat) : State :=
  let failed := (List.range 384).filter fun c => (Config.free s.freeCtr (c / size)).getLsbD 0 && !s.retired.contains c
  { s.bumpFree with retired := failed ++ s.retired }

/-- The links after training: up, but for those that fail. -/
def State.trainLinks (s : State) (good : Bool) : State :=
  let up := fun k => if good || (Config.free s.freeCtr k).getLsbD 0 then LinkState.up else .down
  let ports := (List.range 28).filter fun k => (Config.portHead k).isNone
  { s.bumpFree with links := ports.foldl (fun l k => Sparse.put l k (up k)) s.links }

/-- A stage completes with power-good, or not (R407); the compute dies' fabric counts begin as they power up (R318). -/
def execBringupStage (good : Bool) (s : State) : Out :=
  if s.powered = false ∨ s.tripped = true ∨ s.good = false then .next s
  else
    let stuck : Out := .next { s with good := false }
    match s.stage with
    | 0 => if good then .next (s.atStage 1) else stuck
    | 1 => .next (State.atStage { (if good then s else s.retireUnits 96) with fabUp := s.fab, samplers := [] } 2)
    | 2 =>
      let t := if good then s else s.retireUnits 8
      .next (if t.idle then State.atStage { t with idle := false } 6 else t.atStage 3)
    | 3 => if good then .next (s.atStage 4) else stuck
    | 4 => .next ((s.trainLinks good).atStage 5)
    | 5 => if good ∧ s.acceptsFirmware s.runningFirmware = true then .next ((s.runFirmware s.runningFirmware).atStage 6) else stuck
    | _ => .next s

/-- What every reset leaves: the fuses, the firmware, and what is outside the machine. -/
def State.afresh (s : State) : State :=
  { State.reset with rollback := s.rollback, firmware := s.firmware, cycle := s.cycle, turns := s.turns, freeCtr := s.freeCtr }

/-- Module reset, and the power-on that leaves standby (R405, R409): memory that had power keeps its contents
(assumption 38, DESIGN CHOICE). -/
def execModuleReset (s : State) : Out :=
  .next { s.afresh with mem := s.mem, lineKey := s.lineKey, poison := s.poison }

/-- Module power is removed (R405). -/
def execPowerRemoval (s : State) : Out := .next { s.afresh with powered := false }

/-- A stage-5 failure: IDENT and FW_UPDATE alone act (R392). -/
def State.locked (s : State) : Bool := s.stage == 5 && !s.good

/-- A thermal trip: every clock stops, and what runs is lost (R403). -/
def State.trip (s : State) : State :=
  { s with
    tripped := true, waves := [], chains := [], wgs := [], gangs := [], launches := [], spools := [], nodes := [], threads := []
    l1 := [], icache := [], tlb := [], regs := { s.regs with queues := [], heads := [] } }

/-- A sensor of THERM's five reads at least some temperature. -/
def sensorAt (temps limit : Nat) : Bool := (List.range 5).any fun k => decide (limit ≤ temps / 256 ^ k % 256)

/-- Firmware sets the core clock and reports its sensors, whose readings are outside (R403) (assumption 44, DESIGN CHOICE): a reading
of 110 °C trips; at the lowest clock one above 95 °C, or too much power, keeps new gangs back. -/
def execClockThrottle (cclk : Nat) (s : State) : Out :=
  if cclk < 15 ∨ 33 < cclk ∨ s.locked = true then .next s
  else
    let temps := (Config.free s.freeCtr 0).toNat % 2 ^ 40
    let t := { s.bumpFree with
      regs := { s.regs with clkstat := BitVec.ofNat 64 cclk, therm := BitVec.ofNat 64 ((decide (cclk < 33)).toNat * 2 ^ 40 + temps) }
      hot := cclk == 15 && (sensorAt temps 96 || (Config.free s.freeCtr 1).getLsbD 0) }
    .next (if sensorAt temps 110 then t.trip else t)

/-- A thermal trip on a reading that no report has shown. -/
def execThermalTrip (s : State) : Out := .next s.trip

end Sys2Proof.Machine
end

