-- ==== Sys2Proof/Machine/Registers.lean ====
section
/-! DEFINITION. BAR0: reads and writes of every register by access code (00 R5, 17 R324), and the agents behind the links:
the host's window, UALink peers and Ultra Ethernet senders (20 R399-R401). -/

namespace Sys2Proof.Machine

/-! ## Reads (R5, R324) -/

def lowWord (x : Word) : DWord := x.setWidth 64

/-- A mailbox register: MBCMD reads zero. -/
def Mailbox.read (m : Mailbox) (o : Nat) : DWord :=
  if o = 8 then m.stat else if 0x10 ≤ o ∧ o < 0x50 ∧ o % 8 = 0 then m.args.getD ((o - 0x10) / 8) 0 else 0

/-- A queue descriptor register (R325). -/
def Queue.read (x : Queue) (o : Nat) : DWord :=
  match o with
  | 0x00 => x.qbase
  | 0x08 => x.qcfg
  | 0x10 => lowWord x.qrd
  | 0x18 => lowWord x.qput
  | 0x20 => lowWord x.qann
  | 0x28 => x.qstat
  | _ => 0

/-- A translation register (R343). -/
def Partition.readTranslation (x : Partition) (o : Nat) : DWord :=
  match o with
  | 0x00 => x.astbase
  | 0x08 => x.astcnt
  | 0x10 => x.fqbase
  | 0x18 => x.fqsize
  | 0x20 => lowWord x.fqhead
  | 0x28 => lowWord x.fqtail
  | 0x38 => x.fqpend
  | 0x40 => x.savebase
  | 0x48 => x.savesize
  | 0x50 => x.savectl
  | 0x60 => x.rsvstat
  | _ => 0

/-- A debug port register (R308). -/
def Partition.readDebug (x : Partition) (o : Nat) : DWord :=
  match o with
  | 0x000 => x.dbgctl
  | 0x010 => x.dbgdata
  | 0x018 => x.dbgstat
  | 0x020 => x.trbase
  | 0x028 => x.trsize
  | 0x030 => x.trhead
  | 0x038 => x.trtail
  | 0x040 => x.trlost
  | 0x048 => x.logbase
  | 0x050 => x.logsize
  | 0x058 => x.loghead
  | 0x060 => x.logtail
  | 0x068 => x.mirctl
  | _ => 0

/-- A configuration word (R388) or a register of the partition's mailbox (R387). -/
def Partition.readConfig (x : Partition) (o : Nat) : DWord :=
  if 0x800 ≤ o then x.mbox.read (o - 0x800) else if o = 0 ∨ o = 8 ∨ o = 16 then x.config (o / 8) else 0

/-- A head register (R367). -/
def Head.read (x : Head) (o : Nat) : DWord :=
  match o with
  | 0x00 => x.hctl
  | 0x08 => x.htim
  | 0x10 => x.pclk
  | 0x18 => x.kcfg
  | 0x20 => x.fdbase
  | 0x28 => x.fdcfg
  | 0x30 => lowWord x.fdrd
  | 0x38 => lowWord x.fdann
  | 0x40 => BitVec.ofNat 64 (x.line % 2 ^ 16 + x.frame * 2 ^ 16)
  | 0x48 => BitVec.ofNat 64 (x.running.toNat + 2 * x.undr.toNat + 16 * x.err.toNat)
  | 0x50 => x.wbrec
  | 0x58 => x.wbcbm
  | _ => 0

/-- The blocks of BAR0 (R324). -/
inductive Block where
  | platform (o : Nat)
  | mailbox (o : Nat)
  | queue (q o : Nat)
  | translation (p o : Nat)
  | head (h o : Nat)
  | config (p o : Nat)
  | debug (p o : Nat)
  | none
  deriving DecidableEq, Repr

/-- The register at an offset; the distributors' status blocks have none that the spec describes (assumption 45, DESIGN CHOICE). -/
def blockOf (ofs : Nat) : Block :=
  if ofs % 8 ≠ 0 then .none
  else if ofs < 0x1000 then .platform ofs
  else if ofs < 0x2000 then .mailbox (ofs - 0x1000)
  else if ofs < 0x100000 then .none
  else if ofs < 0x300000 then .queue ((ofs - 0x100000) / 256) (ofs % 256)
  else if ofs < 0x400000 then .none
  else if ofs < 0x408000 then .translation ((ofs - 0x400000) / 0x1000) (ofs % 0x1000)
  else if ofs < 0x800000 then .none
  else if ofs < 0x880000 then .head ((ofs - 0x800000) / 0x10000) (ofs % 0x10000)
  else if ofs < 0xC00000 then .none
  else if ofs < 0xC08000 then .config ((ofs - 0xC00000) / 0x1000) (ofs % 0x1000)
  else if ofs < 0x1F00000 then .none
  else if ofs < 0x1F08000 then .debug ((ofs - 0x1F00000) / 0x1000) (ofs % 0x1000)
  else .none

/-- What a reader finds at an offset below the mirrors: zero in a block that it does not reach. -/
def Regs.read (r : Regs) (who : Writer) (ofs : Nat) : DWord :=
  let part := fun p => Sparse.get Partition.reset r.parts p
  match blockOf ofs with
  | .platform 0x00 => r.ident
  | .platform 0x08 => r.errata
  | .platform 0x100 => r.winctl
  | .platform 0x200 => r.therm
  | .platform 0x208 => r.pwrcap
  | .platform 0x210 => r.clkstat
  | .platform _ => 0
  | .mailbox o => r.mbox.read o
  | .queue q o => (Sparse.get Queue.reset r.queues q).read o
  | .translation p o => if mayWrite who p then (part p).readTranslation o else 0
  | .head h o => let x := Sparse.get Head.reset r.heads h; if mayWrite who x.part then x.read o else 0
  | .config p o => (part p).readConfig o
  | .debug p o => if mayWrite who p then (part p).readDebug o else 0
  | .none => 0

/-- A read of BAR0; the mirrors lie in its upper half (R323, R324). -/
def State.readRegister (s : State) (who : Writer) (ofs : Nat) : DWord :=
  if s.locked then (match blockOf ofs with
    | .platform 0 => s.regs.ident
    | .mailbox o => s.regs.mbox.read o
    | _ => 0)
  else if ofs < 2 ^ 25 then s.regs.read who ofs
  else s.mirror.regs.read who (ofs - 2 ^ 25)

/-! ## Writes -/

/-- A power limit, taken as the nearest that is allowed (R403). -/
def clampCap (x : DWord) : DWord := BitVec.ofNat 64 (Nat.max 1000 (Nat.min 3200 (bits 11 0 x.toNat)))

/-- WINCTL and PWRCAP are the platform's (R399, R403). -/
def State.writePlatform (s : State) (who : Writer) (o : Nat) (v : DWord) : State :=
  if who ≠ .platform then s
  else if o = 0x100 then { s with regs := { s.regs with winctl := v &&& 0x13F1F } }
  else if o = 0x208 then { s with regs := { s.regs with pwrcap := clampCap v } }
  else s

/-- A write to a mailbox by the one it belongs to. -/
def State.writeMailbox (s : State) (who owner : Writer) (o : Nat) (v : DWord) : State :=
  if who ≠ owner then s
  else if o = 0 then s.postCommand who (bits 7 0 v.toNat)
  else match s.mailbox who with
    | none => s
    | some m => if 0x10 ≤ o ∧ o < 0x50 then s.setMailbox who { m with args := m.args.set ((o - 0x10) / 8) v } else s

/-- Bits [56:n] of a base register. -/
def baseBits (n : Nat) (v : DWord) : DWord := BitVec.ofNat 64 (v.toNat % 2 ^ 57 / 2 ^ n * 2 ^ n)

/-- A write to a queue descriptor (R325). -/
def State.writeQueueReg (s : State) (who : Writer) (q o : Nat) (v : DWord) : Out :=
  let x := s.queue q
  if o = 8 then execQcfgWrite who q v s
  else if mayWrite who x.part = false then .next s
  else if o = 0 then .next (if x.en then s else s.setQueue q { x with qbase := baseBits 7 v })
  else if o = 0x28 then .next (s.setQueue q { x with qstat := x.qstat &&& ~~~ 0xFF#64 ||| v &&& 0xFF })
  else .next s

/-- FQSIZE: 0, or a power of two from 64 to 65,536. -/
def fqsizeOk (v : DWord) : Bool := v == 0 || (List.range 11).any fun k => v.toNat == 64 * 2 ^ k

/-- A queue of the partition is enabled. -/
def State.queuesEnabled (s : State) (p : Nat) : Bool := s.regs.queues.any fun e => e.2.en && e.2.part == p

/-- A write to a translation block (R343). -/
def State.writeTranslation (s : State) (who : Writer) (p o : Nat) (v : DWord) : Out :=
  let x := s.part p
  let put := fun y => Host.Outcome.next (s.setPart p y)
  let retry := fun y => Host.Outcome.next ((s.setPart p y).retryRing p)
  if mayWrite who p = false then .next s
  else match o with
    | 0x00 => if s.queuesEnabled p then .next s else put { x with astbase := BitVec.ofNat 64 (bits 51 12 v.toNat * 4096) }
    | 0x08 => if s.queuesEnabled p ∨ 65536 < v.toNat then .next s else put { x with astcnt := v }
    | 0x10 => retry { x with fqbase := baseBits 12 v }
    | 0x18 => if fqsizeOk v then retry { x with fqsize := v } else .next (s.retryRing p)
    | 0x28 => retry { x with fqtail := v.setWidth 32 }
    | 0x30 => execFqreply who p v s
    | 0x40 => put { x with savebase := baseBits 16 v }
    | 0x48 => put { x with savesize := v }
    | 0x50 => if v.getLsbD 0 then execSavePoolBind who p v s else execSavePoolUnbind who p v s
    | 0x58 => execPreempt who p v s
    | _ => .next s

/-- A write to a head's registers while EN = 0 (R367). -/
def Head.write (x : Head) (o : Nat) (v : DWord) : Head :=
  match o with
  | 0x08 => { x with htim := v }
  | 0x10 => { x with pclk := v &&& 0xFFFFFFFF }
  | 0x18 => { x with kcfg := v &&& ~~~ 0xF8#64 }
  | 0x20 => { x with fdbase := baseBits 7 v }
  | 0x28 => { x with fdcfg := v &&& 0xFFFFF }
  | 0x50 => { x with wbrec := v }
  | 0x58 => { x with wbcbm := v }
  | _ => x

def State.writeHeadReg (s : State) (who : Writer) (h o : Nat) (v : DWord) : Out :=
  let x := s.head h
  if mayWrite who x.part = false then .next s
  else match o, x.en, v.getLsbD 0 with
    | 0x00, false, true => execHeadEnable who h v s
    | 0x00, true, false => execHeadDisable who h v s
    | 0x00, false, false => .next (s.setHead h { x with hctl := hctlKept who x.hctl v })
    | 0x00, true, true => .next s
    | 0x38, _, _ => .next (s.setHead h { x with fdann := v.setWidth 32 })
    | 0x48, _, _ => .next (s.setHead h { x with undr := x.undr && !v.getLsbD 1 })
    | _, en, _ => .next (if en then s else s.setHead h (x.write o v))

/-- DBGCMD: a reserved operation gives ERR 3, or ERR 5 while BUSY (R311). -/
def State.writeCommand (s : State) (p : Nat) (v : DWord) : Out :=
  match cmdOp v with
  | 0 => execDbgStop p v s
  | 1 => execDbgResume p v s
  | 2 => execDbgStep p v s
  | 3 => execDbgRead p v s
  | 4 => execDbgWrite p v s
  | 5 => execDbgReadpt p v s
  | 6 => execDbgWrpc p v s
  | 7 => execDbgReadcnt p v s
  | _ =>
    let x := s.part p
    .next (if x.busy then s.setPart p { x with dbgstat := dbgstatOf true false 5 } else s.dbgEnd p 3)

/-- TRSIZE or LOGSIZE after a write: R308 gives no consequence of a value above 65,536, so it is ignored as the nearest stated case is,
that of FQSIZE (R2, R343; assumption 104, DEDUCED). -/
def ringSize (old v : DWord) : DWord := if v.toNat ≤ 65536 then v else old

/-- A write to a debug port (R308). -/
def State.writeDebug (s : State) (who : Writer) (p o : Nat) (v : DWord) : Out :=
  let x := s.part p
  let put := fun y => Host.Outcome.next (s.setPart p y)
  if mayWrite who p = false then .next s
  else match o with
    | 0x000 => put { x with dbgctl := v &&& 0xFFE }
    | 0x008 => s.writeCommand p v
    | 0x010 => put { x with dbgdata := v }
    | 0x020 => put { x with trbase := baseBits 12 v }
    | 0x028 => put { x with trsize := ringSize x.trsize v }
    | 0x038 => put { x with trtail := v }
    | 0x040 => put { x with trlost := x.trlost &&& ~~~ v }
    | 0x048 => put { x with logbase := baseBits 12 v }
    | 0x050 => put { x with logsize := ringSize x.logsize v }
    | 0x060 => put { x with logtail := v }
    | 0x068 => if v.getLsbD 1 then execMirrorStrobe p v s else put { x with mirctl := v &&& 1 }
    | _ => .next s

/-- A write to a register by access code (R5): an offset without a register ignores it. -/
def execRegisterWrite (who : Writer) (ofs : Nat) (val : DWord) (s : State) : Out :=
  if s.locked then (match blockOf ofs with
    | .mailbox o => .next (s.writeMailbox who .platform o val)
    | _ => .next s)
  else match blockOf ofs with
    | .platform o => .next (s.writePlatform who o val)
    | .mailbox o => .next (s.writeMailbox who .platform o val)
    | .queue q o => s.writeQueueReg who q o val
    | .translation p o => s.writeTranslation who p o val
    | .head h o => s.writeHeadReg who h o val
    | .config p o => .next (if 0x800 ≤ o then s.writeMailbox who (.owner p) (o - 0x800) val else s)
    | .debug p o => s.writeDebug who p o val
    | .none => .next s

/-! ## Links (R387, R399-R401) -/

/-- A port that a requester may train or disable: an owner those of its own heads. -/
def State.portAllowed (s : State) (who : Writer) (port : Nat) : Bool :=
  match who with
  | .owner p => match Config.portHead port with
    | some h => (s.head h.val).part == p
    | none => false
  | _ => true

/-- Trains a port: whether it comes up is seen outside the module only (assumption 39, DESIGN CHOICE). -/
def State.train (s : State) (who : Writer) (port : Nat) : Except Nat State :=
  if 28 ≤ port then .error 2
  else if s.portAllowed who port = false then .error 1
  else .ok { s.bumpFree with links := Sparse.put s.links port (if (Config.free s.freeCtr 0).getLsbD 0 then .up else .down) }

/-- LINK, action train: a link that has failed stays down (R400). -/
def execLinkTrain (who : Writer) (port : Nat) (s : State) : Out :=
  mailEvent who (.linkTrain who port) s (mailDone who s ((s.train who port).map fun t =>
    if Sparse.find s.links port = some .failed then { t with links := s.links } else t))

/-- LINK, action retrain: a port that failed may come up again (R400). -/
def execLinkRetrain (who : Writer) (port : Nat) (s : State) : Out :=
  mailEvent who (.linkRetrain who port) s (mailDone who s (s.train who port))

/-- LINK, action disable. -/
def execLinkDisable (who : Writer) (port : Nat) (s : State) : Out :=
  mailEvent who (.linkDisable who port) s
    (mailDone who s (if 28 ≤ port then .error 2
      else if s.portAllowed who port = false then .error 1
      else .ok { s with links := Sparse.put s.links port .down }))

/-- Device memory written by physical address: whole lines clear their poison (R364). -/
def State.writeDevice (s : State) (slot pa : Nat) (bs : List Byte) : State :=
  let s := s.writeKeyedBytes slot pa bs
  ((List.range (bs.length / 128 + 1)).map fun i => (pa + 127) / 128 + i).foldl (fun s line =>
    if 128 * line + 128 ≤ pa + bs.length then s.clearPoison line else s) s

/-- The physical address that a byte of the window reaches. -/
def State.windowBase (s : State) : Nat := bits 4 0 s.regs.winctl.toNat * 2 ^ 34
def State.windowKey (s : State) : Nat := bits 13 8 s.regs.winctl.toNat

/-- What a read through the window returns; while it is disabled a free value (assumption 87, DESIGN CHOICE). -/
def State.windowRead (s : State) (ofs n : Nat) : List Byte :=
  if s.regs.winctl.getLsbD 16 then s.readKeyedBytes s.windowKey (s.windowBase + ofs) n
  else (List.range n).map fun i => (Config.free s.freeCtr i).setWidth 8

/-- A host access through BAR4 (R399): while the window is disabled nothing happens (assumption 87, DESIGN CHOICE). -/
def execHostWindowAccess (ofs : Nat) (data : List Byte) (write : Bool) (s : State) : Out :=
  if 2 ^ 34 < ofs + data.length ∨ s.locked = true then .next s
  else .next (if write = true ∧ s.regs.winctl.getLsbD 16 = true then s.writeDevice s.windowKey (s.windowBase + ofs) data else s)

/-- A UALink peer's access to this module's memory (R137); beyond it there is none. -/
def execUalinkPeerAccess (port pa : Nat) (data : List Byte) (write : Bool) (s : State) : Out :=
  if Sparse.find s.links port ≠ some .up ∨ memorySize < pa + data.length ∨ s.locked = true then .next s
  else .next (if write then s.writeDevice (Config.peerKey port pa).toNat pa data else s)

/-- The access of an Ultra Ethernet sender (R401). -/
def State.remoteAcc (s : State) (p asn : Nat) : Acc := { core := none, part := p, asn := asn, gen := s.genOf p asn }

/-- An Ultra Ethernet port is up (R401, R407). -/
def State.uetUp (s : State) : Bool := (List.range 4).any fun k => Sparse.find s.links (Config.uetPort k).val == some .up

/-- A remote access over Ultra Ethernet: into a registered region, translated; otherwise a negative acknowledgement, and
no fault record (assumption 42, DESIGN CHOICE). -/
def execUetRemoteAccess (asn : Nat) (va : Nat) (data : List Byte) (write : Bool) (s : State) : Out :=
  if s.locked || !s.uetUp then .next s else
  let t := s.bumpFree
  match Config.uetRegion s.freeCtr asn va data.length with
  | none => .next t
  | some p =>
    let a := t.remoteAcc p.toNat asn
    if write then (match t.agentWrite a va data with
      | .ok t => .next t
      | .error _ => .next t)
    else (match t.agentRead a va data.length with
      | .ok r => .next r.1
      | .error _ => .next t)

/-- An address leads to a peer behind a port. -/
def State.behindPort (s : State) (a : Acc) (port va : Nat) : Bool :=
  match s.translate a va .read with
  | .ok (.leaf e _) => ptePeer e && (Config.peerPort (bits 51 46 (pteAddr e))).val == port
  | _ => false

/-- The addresses of the lane accesses that a panel has pending: of outstanding loads, and of those that are held. -/
def Panel.pendingVas (p : Panel) : List Nat :=
  (p.outst.flatMap fun x => (x.asked ++ x.held).map (·.va)) ++ ((p.wait.map fun x => x.held.map (·.va)).getD [])

/-- The gangs with a lane access pending behind a port. -/
def State.pendingBehind (s : State) (port : Nat) : List Nat :=
  s.waves.filterMap fun e =>
    let c : Cur := { wid := e.1, entry := 0, len := 1 }
    if e.2.entries.any fun k => (e.2.panel k).pendingVas.any (s.behindPort (s.laneAcc c) port) then some (s.curWg c).gid else none

/-- A held fault, by partition and fault ID, where its access is to an address behind a port. -/
def State.heldAtPort (s : State) (port : Nat) (a : Acc) (held : Option Nat) (va : Option Nat) : Option (Nat × Nat) :=
  match held, va with
  | some fid, some x => if s.behindPort a port x then some (a.part, fid) else none
  | _, _ => none

/-- The address of the scheduler's access that holds a launch: of its first write, or else of its dependence bits. -/
def Launch.heldAddr (l : Launch) : Nat := (l.writes.head?.map (·.addr)).getD l.spec.depbm

/-- The held faults of engine threads and units on accesses behind a port. -/
def State.heldBehind (s : State) (port : Nat) : List (Nat × Nat) :=
  (s.threads.filterMap fun e => s.heldAtPort port e.2.acc e.2.held ((s.threadTouches e.1 e.2).map fun r => r.1.2)) ++
  (s.nodes.filterMap fun e => s.heldAtPort port (s.nodeAcc e.2) e.2.held (some e.2.heldAddr)) ++
  (s.spools.filterMap fun e => s.heldAtPort port (s.spoolAcc e.2) e.2.held (some e.2.hdr)) ++
  (s.launches.filterMap fun e => s.heldAtPort port (s.launchAcc e.2) e.2.held (some e.2.heldAddr)) ++
  s.regs.queues.filterMap fun e => s.heldAtPort port (s.queueAcc e.1) e.2.held (some ((s.queue e.1).slotAddr e.2.qrd.toNat))

/-- A link fails (R400): pending accesses behind it end their gangs with 0x11, and held ones are failed. -/
def execUalinkLinkFailure (port : Nat) (s : State) : Out :=
  if 28 ≤ port ∨ (Config.portHead port).isSome then .next s
  else
    let gangs := s.pendingBehind port
    let held := s.heldBehind port
    let s := { s with links := Sparse.put s.links port .failed }
    let s := gangs.foldl (fun s gid => s.endGang gid 0x11) s
    .next (held.foldl (fun s e => (s.applyReply e.1 e.2 true).getD s) s)

end Sys2Proof.Machine
end

