-- ==== Sys2Proof/Machine/Streams.lean ====
section
/-! DEFINITION. The stream instructions (10 R218-R223). -/

namespace Sys2Proof.Machine

/-! ## sdef -/

/-- A stream's definition: extents and strides at RANK and above are zero (R218). -/
def defineStream (base : Nat) (ext : List Nat) (strd : List DWord) (fmt rank cursor : Nat) : Stream :=
  let x : Stream :=
    { defined := true, exh := false, rank := rank, fmt := fmt, cursor := cursor
      ext := (List.range 5).map fun k => if k < rank then BitVec.ofNat 32 (ext.getD k 0) else 0
      strd := (List.range 5).map fun k => if k < rank then strd.getD k 0 else 0
      base := base }
  { x with exh := decide (x.count ≤ cursor) }

/-- The conditions of `sdef` that its shape may break (R218). -/
def shapeBad (ext : List Nat) (fmt rank : Nat) : Bool :=
  rank == 0 || decide (5 < rank) || !(decide (fmt ≤ 5) || (decide (8 ≤ fmt) && decide (fmt ≤ 0x10))) ||
  (ext.take rank).contains 0 || decide (2 ^ 64 ≤ (ext.take rank).foldl (fun m e => m * e) 1)

/-- Writes the panel's copy of a stream register, unless the shape is illegal. -/
def putStream (c : Cur) (k : Nat) (base : Nat) (ext : List Nat) (strd : List DWord) (fmt rank cursor : Nat) (s : State) : Out :=
  if shapeBad ext fmt rank then illegal c s
  else finish c (s.setPanel c ((s.panel c).setStream k (defineStream base ext strd fmt rank cursor)))

/-- `sdef` (R218, R219). A base with origins that leaves the 57 bits of BASE (R53) is kept modulo 2^57: the spec names no other
end of it (assumption 105, DESIGN CHOICE). -/
def execSdef (k : Nat) (shape : Shape) (b : GSrc) (pfd : BitVec 2) (s : State) : Out :=
  issue (.sdef k shape b pfd) s fun c s =>
    let p := s.panel c
    let cursor := (p.gsrc b).toNat
    match shape with
    | .regs n =>
      let g := fun (i : Nat) => (p.greg (n + i)).toNat
      if bits 63 57 (g 0) ≠ 0 ∨ bits 63 43 (g 3) ≠ 0 then illegal c s
      else
        putStream c k (bits 56 0 (g 0))
          [bits 31 0 (g 1), bits 63 32 (g 1), bits 31 0 (g 2), bits 63 32 (g 2), bits 31 0 (g 3)]
          ((List.range 5).map fun i => p.greg (n + 4 + i)) (bits 39 32 (g 3)) (bits 42 40 (g 3)) cursor s
    | .record h =>
      withLayout (.sdef k shape b pfd) c (p.gsrc h).toNat s fun r s =>
        let past := (List.range r.rank).any fun i => decide (r.ext.getD i 0 < r.origin.getD i 0 + r.size.getD i 0)
        if r.kind ≠ 0 ∨ r.cmp ∨ r.sparse ∨ (r.mom ∧ r.fmt = 0) ∨ past then illegal c s
        else
          let base := (List.range r.rank).foldl (fun (x : Int) i => x + (r.origin.getD i 0 : Int) * r.strd.getD i 0) (r.base : Int)
          putStream c k (base % (2 ^ 57 : Int)).toNat r.size (r.strd.map (BitVec.ofInt 64))
            (if r.mom then 0x10 else r.fmt) r.rank cursor s

/-! ## Elements read one by one -/

/-- The access that reads element e of a stream (R53). -/
def Stream.access (x : Stream) (e : Nat) : Access := { lane := 0, va := x.addr e, n := fmtBytes x.fmt, write := false }

/-- Reads an element that has been checked. -/
def State.readElem (s : State) (a : Acc) (x : Stream) (e : Nat) : State × DWord :=
  let r := s.fetchBytes a (x.addr e) (fmtBytes x.fmt)
  (r.1, holdElem x.fmt r.2)

/-! ## sxi -/

/-- One step of SetIntersect (R220) on the keys at the cursors: the streams after it. -/
def intersect (a b : Stream) (x y : Nat) : Stream × Stream :=
  if x < y then ({ a with cursor := a.cursor + 1 }, b)
  else if y < x then (a, { b with cursor := b.cursor + 1 })
  else ({ a with cursor := a.cursor + 1 }, { b with cursor := b.cursor + 1 })

/-- The end of SetIntersect (R220): zero in the lanes without a match, the count, EXH and the predicates. -/
def endSxi (i : Instr) (c : Cur) (d : Dst) (sa sb : Nat) (cnt : GDst) (gpa gpb m : Nat) (s : State) : Out :=
  let w := s.wave c.wid
  let p := w.panel c.entry
  let act := p.active w
  let w := w.writeDst d 1 (act &&& waveLanes w.width &&& ~~~ (waveLanes m)) (fun _ _ => 0)
  let a := (p.stream sa).moveTo (p.stream sa).cursor
  let b := (p.stream sb).moveTo (p.stream sb).cursor
  let q := ((p.setStream sa a).setStream sb b).writeG cnt (BitVec.ofNat 64 m)
  let q := if gpa = gpb then q.setGp gpa (a.exh || b.exh) else (q.setGp gpa a.exh).setGp gpb b.exh
  finish c (s.setWave c.wid (w.setPanel c.entry ((q.setProgress 0).track i act (s.laneAcc c).gen s.cycle)))

/-- One step of `sxi` (R220, R221), `k` steps and `m` matches being done: the key of a match goes to lane m, and %px counts. -/
def sxiStep (i : Instr) (c : Cur) (d : Dst) (sa sb k m : Nat) (s : State) : Out :=
  let p := s.panel c
  let a := p.stream sa
  let b := p.stream sb
  whenClear i c s [a.access a.cursor, b.access b.cursor]
    (let acc := s.laneAcc c
     let x := s.readElem acc a a.cursor
     let y := x.1.readElem acc b b.cursor
     let t := intersect a b x.2.toNat y.2.toNat
     let w := y.1.wave c.wid
     let act := p.active w
     let w := if x.2 = y.2 then w.writeDst d 1 (act &&& BitVec.twoPow 64 m) (fun _ _ => x.2.setWidth 32) else w
     let m := if x.2 = y.2 then m + 1 else m
     let q := ((w.panel c.entry).setStream sa t.1).setStream sb t.2
     .next (y.1.setWave c.wid (w.setPanel c.entry (q.setProgress (BitVec.ofNat 32 (k + 1 + 128 * m))).nextStep)))

/-- `sxi` (R220, R221): one step a turn, from the progress in %px on. With an empty mask it reads nothing and matches
nothing. -/
def execSxi (d : Dst) (sa sb : Nat) (cnt : GDst) (gpa gpb : Nat) (steps : Nat) (s : State) : Out :=
  let i : Instr := .sxi d sa sb cnt gpa gpb steps
  issue i s fun c s =>
    let w := s.wave c.wid
    let p := w.panel c.entry
    let a := p.stream sa
    let b := p.stream sb
    let k := bits 6 0 p.progress.toNat
    let m := bits 13 7 p.progress.toNat
    if !a.defined || !b.defined || a.fmt != 0x0D || b.fmt != 0x0D then illegal c s
    else if p.active w = 0 then endSxi i c d sa sb cnt gpa gpb 0 s
    else if k < steps ∧ m < w.width ∧ a.cursor < a.count ∧ b.cursor < b.count then sxiStep i c d sa sb k m s
    else endSxi i c d sa sb cnt gpa gpb m s

/-! ## sadv -/

/-- Both forms of `sadv` end alike: CURSOR, EXH and the group predicate (R222). -/
def endAdvance (c : Cur) (gp k cursor : Nat) (s : State) : Out :=
  let p := s.panel c
  let x := (p.stream k).moveTo cursor
  finish c (s.setPanel c ((p.setStream k x).setGp gp x.exh))

/-- `sadv.skip` (R222): no memory is read, and it acts whatever the mask. -/
def execSadvSkip (gp k : Nat) (b : GSrc) (s : State) : Out :=
  issue (.sadvSkip gp k b) s fun c s =>
    let p := s.panel c
    if (p.stream k).defined = false then illegal c s
    else endAdvance c gp k ((p.stream k).cursor + (p.gsrc b).toNat) s

/-- A search that an access stops: one that fails, or that the home L2 rejects; with what it has read before. -/
abbrev Probed (α : Type) := Except (State × List (Nat × List Byte) × Access) (State × List (Nat × List Byte) × α)

/-- Reads one element to search by it, with what the search has read. -/
def State.probe (s : State) (a : Acc) (got : List (Nat × List Byte)) (x : Stream) (e : Nat) : Probed Nat :=
  let y := x.access e
  let a := { a with got := got }
  if a.has y || (s.judge a [y] == .clear && !s.rejects a y) then
    let r := s.fetchBytes a y.va y.n
    .ok (r.1, (y.va, r.2) :: got, (holdElem x.fmt r.2).toNat)
  else .error (s, got, y)

/-- The gallop of SkipGE (R222): the bounds lo and hi of the search. -/
def State.gallop (s : State) (a : Acc) (got : List (Nat × List Byte)) (x : Stream) (key : Nat) :
    Nat → Nat → Nat → Probed (Nat × Nat)
  | 0, _, lo => .ok (s, got, lo, lo)
  | fuel + 1, j, lo =>
    let q := x.cursor + 2 ^ j - 1
    if x.count ≤ q then .ok (s, got, lo, x.count)
    else
      match s.probe a got x q with
      | .error y => .error y
      | .ok (s', got, e) => if key ≤ e then .ok (s', got, lo, q) else s'.gallop a got x key fuel (j + 1) (q + 1)

/-- The binary search of SkipGE (R222). -/
def State.searchGe (s : State) (a : Acc) (got : List (Nat × List Byte)) (x : Stream) (key : Nat) :
    Nat → Nat → Nat → Probed Nat
  | 0, lo, _ => .ok (s, got, lo)
  | fuel + 1, lo, hi =>
    if lo < hi then
      let mid := (lo + hi) / 2
      match s.probe a got x mid with
      | .error y => .error y
      | .ok (s', got, e) => if key ≤ e then s'.searchGe a got x key fuel lo mid else s'.searchGe a got x key fuel (mid + 1) hi
    else .ok (s, got, lo)

/-- SkipGE (R222). -/
def State.skipGe (s : State) (a : Acc) (x : Stream) (key : Nat) : Probed Nat :=
  if x.count ≤ x.cursor then .ok (s, a.got, x.cursor)
  else
    match s.gallop a a.got x key 65 0 x.cursor with
    | .error y => .error y
    | .ok (s', got, lo, hi) => s'.searchGe a got x key 65 lo hi

/-- `sadv.ge` (R222): a fault on a probe leaves no effect, and a rejected probe holds it (R217); with an empty mask nothing is
read. -/
def execSadvGe (gp k : Nat) (b : GSrc) (s : State) : Out :=
  issue (.sadvGe gp k b) s fun c s =>
    let w := s.wave c.wid
    let p := w.panel c.entry
    let x := p.stream k
    if !x.defined || x.fmt != 0x0D then illegal c s
    else if p.active w = 0 then endAdvance c gp k x.cursor s
    else
      match s.skipGe (s.laneAcc c) x ((p.gsrc b).toNat % 2 ^ 32) with
      | .error (s', got, y) =>
        whenChecked c s [y] fun zs => holdIssue (.sadvGe gp k b) c (s'.setPanel c { s'.panel c with got := got }) [] zs
      | .ok (s', _, k') => endAdvance c gp k k' s'

/-! ## sread and swrite -/

/-- The element that a lane's source names, if the stream has it (R223). -/
def randomElem (x : Stream) (b : Word) : Option Nat :=
  let e := (x.cursor : Int) + b.toInt
  if 0 ≤ e ∧ e < x.count then some e.toNat else none

def randomAccesses (x : Stream) (l : Lanes) (b : Src) (write : Bool) : List Access :=
  (activeLanes l.act).filterMap fun j =>
    (randomElem x (l.a32 b j)).map fun e => { lane := j, va := x.addr e, n := fmtBytes x.fmt, write := write }

/-- A lane source of 64 bits: neither %lane nor %quad is one (R149). -/
def srcWide : Src → Bool
  | .lane => false
  | .quad => false
  | _ => true

/-- The stream of `sread` or `swrite` and the lane register that holds its elements (R217, R223): defined, and with a pair for
8-byte elements (R47; assumption 61, DEDUCED). -/
def randomOk (regs : Nat) (x : Stream) (r : Option Run) : Bool :=
  x.defined && (fmtBytes x.fmt != 8 || match r with
    | none => true
    | some r => r.first % 2 == 0 && r.fits regs)

/-- `sread` (R223). -/
def execSread (d : Dst) (k : Nat) (b : Src) (s : State) : Out :=
  issue (.sread d k b) s fun c s => withLanes (.sread d k b) c s fun l s =>
    let x := l.p.stream k
    let n := l.p.elemWords k
    if randomOk l.w.regs x (dstRun (d, n)) = false then illegal c s
    else
      loadLanes (.sread d k b) c l d n { s.laneAcc c with got := [] } (.elem x.fmt) 0
        (fun j => x.addr ((randomElem x (l.a32 b j)).getD 0)) (fun _ => fmtBytes x.fmt)
        ((randomAccesses x l b false).map (·.lane)) s

/-- The bytes of an element of a format that a lane's source of n words gives (R210, R223); of 8-byte types only i64 is signed
(R46). -/
def elemBytes (l : Lanes) (v : Src) (n fmt : Nat) (x : Access) : List Byte :=
  ((List.range n).flatMap fun k => toBytes 4 (srcGroup n l.w l.p l.pops v x.lane k (fmt == 0x0E)).toNat).take x.n

/-- `swrite` (R223). -/
def execSwrite (v : Src) (k : Nat) (b : Src) (s : State) : Out :=
  issue (.swrite v k b) s fun c s => withLanes (.swrite v k b) c s fun l s =>
    let x := l.p.stream k
    let n := l.p.elemWords k
    if randomOk l.w.regs x (srcRun (v, n)) = false ∨ (n = 2 ∧ srcWide v = false) then illegal c s
    else storeAt (.swrite v k b) c l (s.laneAcc c) ((randomAccesses x l b true).map fun e => (e, elemBytes l v n x.fmt e)) s

end Sys2Proof.Machine
end

