-- ==== Sys2Proof/Machine/Dispatch.lean ====
section
/-! DEFINITION. One arm for each instruction: its meaning. -/

namespace Sys2Proof.Machine

def exec (i : Instr) (s : State) : Host.Outcome State Fault Refusal :=
  match i with
  | .add d a b => Sys2Proof.Machine.execAdd d a b s
  | .addLong ty sat d a b => Sys2Proof.Machine.execAddLong ty sat d a b s
  | .sub d a b => Sys2Proof.Machine.execSub d a b s
  | .subLong ty sat d a b => Sys2Proof.Machine.execSubLong ty sat d a b s
  | .adds d a b => Sys2Proof.Machine.execAdds d a b s
  | .addsLong ty d a b => Sys2Proof.Machine.execAddsLong ty d a b s
  | .subs d a b => Sys2Proof.Machine.execSubs d a b s
  | .subsLong ty d a b => Sys2Proof.Machine.execSubsLong ty d a b s
  | .mul d a b => Sys2Proof.Machine.execMul d a b s
  | .mulLong ty sat d a b => Sys2Proof.Machine.execMulLong ty sat d a b s
  | .mulh d a b => Sys2Proof.Machine.execMulh d a b s
  | .mulhLong ty d a b => Sys2Proof.Machine.execMulhLong ty d a b s
  | .mad ty sat d a b c => Sys2Proof.Machine.execMad ty sat d a b c s
  | .and d a b => Sys2Proof.Machine.execAnd d a b s
  | .andLong ty d a b => Sys2Proof.Machine.execAndLong ty d a b s
  | .or d a b => Sys2Proof.Machine.execOr d a b s
  | .orLong ty d a b => Sys2Proof.Machine.execOrLong ty d a b s
  | .xor d a b => Sys2Proof.Machine.execXor d a b s
  | .xorLong ty d a b => Sys2Proof.Machine.execXorLong ty d a b s
  | .andn d a b => Sys2Proof.Machine.execAndn d a b s
  | .andnLong ty d a b => Sys2Proof.Machine.execAndnLong ty d a b s
  | .shl d a b => Sys2Proof.Machine.execShl d a b s
  | .shlLong ty d a b => Sys2Proof.Machine.execShlLong ty d a b s
  | .shr d a b => Sys2Proof.Machine.execShr d a b s
  | .shrLong ty d a b => Sys2Proof.Machine.execShrLong ty d a b s
  | .min d a b => Sys2Proof.Machine.execMin d a b s
  | .minLong ty d a b => Sys2Proof.Machine.execMinLong ty d a b s
  | .max d a b => Sys2Proof.Machine.execMax d a b s
  | .maxLong ty d a b => Sys2Proof.Machine.execMaxLong ty d a b s
  | .absd d a b => Sys2Proof.Machine.execAbsd d a b s
  | .absdLong ty d a b => Sys2Proof.Machine.execAbsdLong ty d a b s
  | .popc d a => Sys2Proof.Machine.execPopc d a s
  | .popcLong ty d a => Sys2Proof.Machine.execPopcLong ty d a s
  | .clz d a => Sys2Proof.Machine.execClz d a s
  | .clzLong ty d a => Sys2Proof.Machine.execClzLong ty d a s
  | .brev d a => Sys2Proof.Machine.execBrev d a s
  | .brevLong ty d a => Sys2Proof.Machine.execBrevLong ty d a s
  | .bfx ty d a pos width => Sys2Proof.Machine.execBfx ty d a pos width s
  | .bfi ty d a b pos width => Sys2Proof.Machine.execBfi ty d a b pos width s
  | .icmp cond ty p a b => Sys2Proof.Machine.execIcmp cond ty p a b s
  | .sel ty d a b p => Sys2Proof.Machine.execSel ty d a b p s
  | .mov d a => Sys2Proof.Machine.execMov d a s
  | .movLong ty d a => Sys2Proof.Machine.execMovLong ty d a s
  | .fadd d a b => Sys2Proof.Machine.execFadd d a b s
  | .faddLong rnd d a b => Sys2Proof.Machine.execFaddLong rnd d a b s
  | .fsub d a b => Sys2Proof.Machine.execFsub d a b s
  | .fsubLong rnd d a b => Sys2Proof.Machine.execFsubLong rnd d a b s
  | .fmul d a b => Sys2Proof.Machine.execFmul d a b s
  | .fmulLong rnd d a b => Sys2Proof.Machine.execFmulLong rnd d a b s
  | .ffma rnd d a b c => Sys2Proof.Machine.execFfma rnd d a b c s
  | .ffma3 rnd d a b c e => Sys2Proof.Machine.execFfma3 rnd d a b c e s
  | .fmin d a b => Sys2Proof.Machine.execFmin d a b s
  | .fminLong mx d a b => Sys2Proof.Machine.execFminLong mx d a b s
  | .fcmp cond p a b => Sys2Proof.Machine.execFcmp cond p a b s
  | .fdiv d a b => Sys2Proof.Machine.execFdiv d a b s
  | .fdivLong rnd d a b => Sys2Proof.Machine.execFdivLong rnd d a b s
  | .frcp d a => Sys2Proof.Machine.execFrcp d a s
  | .frcpLong rnd d a => Sys2Proof.Machine.execFrcpLong rnd d a s
  | .frsq d a => Sys2Proof.Machine.execFrsq d a s
  | .frsqLong rnd d a => Sys2Proof.Machine.execFrsqLong rnd d a s
  | .fsqrt d a => Sys2Proof.Machine.execFsqrt d a s
  | .fsqrtLong rnd d a => Sys2Proof.Machine.execFsqrtLong rnd d a s
  | .fexp2 d a => Sys2Proof.Machine.execFexp2 d a s
  | .fexp2Long rnd d a => Sys2Proof.Machine.execFexp2Long rnd d a s
  | .flog2 d a => Sys2Proof.Machine.execFlog2 d a s
  | .flog2Long rnd d a => Sys2Proof.Machine.execFlog2Long rnd d a s
  | .fsin d a => Sys2Proof.Machine.execFsin d a s
  | .fsinLong rnd cos d a => Sys2Proof.Machine.execFsinLong rnd cos d a s
  | .fclass d a => Sys2Proof.Machine.execFclass d a s
  | .fclassLong ty d a => Sys2Proof.Machine.execFclassLong ty d a s
  | .fsgn d a b => Sys2Proof.Machine.execFsgn d a b s
  | .fsgnLong wide sel d a b => Sys2Proof.Machine.execFsgnLong wide sel d a b s
  | .dadd d a b => Sys2Proof.Machine.execDadd d a b s
  | .daddLong rnd d a b => Sys2Proof.Machine.execDaddLong rnd d a b s
  | .dmul d a b => Sys2Proof.Machine.execDmul d a b s
  | .dmulLong rnd d a b => Sys2Proof.Machine.execDmulLong rnd d a b s
  | .dfma rnd d a b c => Sys2Proof.Machine.execDfma rnd d a b c s
  | .ddiv d a b => Sys2Proof.Machine.execDdiv d a b s
  | .ddivLong rnd d a b => Sys2Proof.Machine.execDdivLong rnd d a b s
  | .dsqrt d a => Sys2Proof.Machine.execDsqrt d a s
  | .dsqrtLong rnd d a => Sys2Proof.Machine.execDsqrtLong rnd d a s
  | .dcmp cond p a b => Sys2Proof.Machine.execDcmp cond p a b s
  | .dmin d a b => Sys2Proof.Machine.execDmin d a b s
  | .dminLong mx d a b => Sys2Proof.Machine.execDminLong mx d a b s
  | .hadd2 d a b => Sys2Proof.Machine.execHadd2 d a b s
  | .hadd2Long bf rnd d a b => Sys2Proof.Machine.execHadd2Long bf rnd d a b s
  | .hmul2 d a b => Sys2Proof.Machine.execHmul2 d a b s
  | .hmul2Long bf rnd d a b => Sys2Proof.Machine.execHmul2Long bf rnd d a b s
  | .hfma2 bf rnd d a b c => Sys2Proof.Machine.execHfma2 bf rnd d a b c s
  | .cvt dst src rnd d a => Sys2Proof.Machine.execCvt dst src rnd d a s
  | .pk sel rnd d a b c => Sys2Proof.Machine.execPk sel rnd d a b c s
  | .qswz d a sel => Sys2Proof.Machine.execQswz d a sel s
  | .shfl d a b => Sys2Proof.Machine.execShfl d a b s
  | .shflLong mode d a b => Sys2Proof.Machine.execShflLong mode d a b s
  | .vote mode p q => Sys2Proof.Machine.execVote mode p q s
  | .ballot d q => Sys2Proof.Machine.execBallot d q s
  | .wred op ty d a => Sys2Proof.Machine.execWred op ty d a s
  | .wscan op excl ty d a => Sys2Proof.Machine.execWscan op excl ty d a s
  | .gadd d a b => Sys2Proof.Machine.execGadd d a b s
  | .gsub d a b => Sys2Proof.Machine.execGsub d a b s
  | .gmul d a b => Sys2Proof.Machine.execGmul d a b s
  | .gand d a b => Sys2Proof.Machine.execGand d a b s
  | .gor d a b => Sys2Proof.Machine.execGor d a b s
  | .gxor d a b => Sys2Proof.Machine.execGxor d a b s
  | .gshLeft d a n => Sys2Proof.Machine.execGshLeft d a n s
  | .gshRight d a n => Sys2Proof.Machine.execGshRight d a n s
  | .gmov d a => Sys2Proof.Machine.execGmov d a s
  | .gmovCtl c a => Sys2Proof.Machine.execGmovCtl c a s
  | .gcmp cond uns gp a b => Sys2Proof.Machine.execGcmp cond uns gp a b s
  | .gread d c => Sys2Proof.Machine.execGread d c s
  | .plog grp d a b table => Sys2Proof.Machine.execPlog grp d a b table s
  | .pmask p a => Sys2Proof.Machine.execPmask p a s
  | .bra disp => Sys2Proof.Machine.execBra disp s
  | .brc neg q disp => Sys2Proof.Machine.execBrc neg q disp s
  | .brcSplit neg q disp => Sys2Proof.Machine.execBrcSplit neg q disp s
  | .call d disp => Sys2Proof.Machine.execCall d disp s
  | .ret a => Sys2Proof.Machine.execRet a s
  | .retTret => Sys2Proof.Machine.execRetTret s
  | .exit => Sys2Proof.Machine.execExit s
  | .seam ident k => Sys2Proof.Machine.execSeam ident k s
  | .seamTimeout wid e => Sys2Proof.Machine.execSeamTimeout wid e s
  | .yield => Sys2Proof.Machine.execYield s
  | .yieldExpiry wid e => Sys2Proof.Machine.execYieldExpiry wid e s
  | .trapf => Sys2Proof.Machine.execTrapf s
  | .trap code => Sys2Proof.Machine.execTrap code s
  | .bkpt code => Sys2Proof.Machine.execBkpt code s
  | .ld m d a => Sys2Proof.Machine.execLd m d a s
  | .st m a b => Sys2Proof.Machine.execSt m a b s
  | .lds m d a => Sys2Proof.Machine.execLds m d a s
  | .sts m a b => Sys2Proof.Machine.execSts m a b s
  | .ldp m d win b => Sys2Proof.Machine.execLdp m d win b s
  | .atom op ty ord scope loc d a b => Sys2Proof.Machine.execAtom op ty ord scope loc d a b s
  | .cas ty ord scope loc d a n c => Sys2Proof.Machine.execCas ty ord scope loc d a n c s
  | .fence kind scope => Sys2Proof.Machine.execFence kind scope s
  | .sdef k shape c pfd => Sys2Proof.Machine.execSdef k shape c pfd s
  | .sxi d sa sb cnt gpa gpb steps => Sys2Proof.Machine.execSxi d sa sb cnt gpa gpb steps s
  | .sadvSkip gp k b => Sys2Proof.Machine.execSadvSkip gp k b s
  | .sadvGe gp k b => Sys2Proof.Machine.execSadvGe gp k b s
  | .barr d h => Sys2Proof.Machine.execBarr d h s
  | .bwait d h ph => Sys2Proof.Machine.execBwait d h ph s
  | .barrierWaitDone wid e => Sys2Proof.Machine.execBarrierWaitDone wid e s
  | .bexp d h n => Sys2Proof.Machine.execBexp d h n s
  | .copy kind out evp evo bh l h gx => Sys2Proof.Machine.execCopy kind out evp evo bh l h gx s
  | .copyLanding tid => Sys2Proof.Machine.execCopyLanding tid s
  | .lflush dev h => Sys2Proof.Machine.execLflush dev h s
  | .lflushComplete wid e => Sys2Proof.Machine.execLflushComplete wid e s
  | .qpost db d q a => Sys2Proof.Machine.execQpost db d q a s
  | .sread d k b => Sys2Proof.Machine.execSread d k b s
  | .swrite v k b => Sys2Proof.Machine.execSwrite v k b s
  | .mloop areg g bh fb ksteps sat init tri tfill => Sys2Proof.Machine.execMloop areg g bh fb ksteps sat init tri tfill s
  | .mloopComplete tid => Sys2Proof.Machine.execMloopComplete tid s
  | .maccGet mom d c nreg str => Sys2Proof.Machine.execMaccGet mom d c nreg str s
  | .maccPut mom d c nreg str => Sys2Proof.Machine.execMaccPut mom d c nreg str s
  | .msoft pout g bh e4m3 tri first => Sys2Proof.Machine.execMsoft pout g bh e4m3 tri first s
  | .msoftComplete tid => Sys2Proof.Machine.execMsoftComplete tid s
  | .fbset k part a b => Sys2Proof.Machine.execFbset k part a b s
  | .madd d a b => Sys2Proof.Machine.execMadd d a b s
  | .maddLong sub cov d a b => Sys2Proof.Machine.execMaddLong sub cov d a b s
  | .mmul d a b => Sys2Proof.Machine.execMmul d a b s
  | .mmulLong cov d a b => Sys2Proof.Machine.execMmulLong cov d a b s
  | .mnl f d a => Sys2Proof.Machine.execMnl f d a s
  | .mcoll mode d a => Sys2Proof.Machine.execMcoll mode d a s
  | .mmq fmt init ksteps g => Sys2Proof.Machine.execMmq fmt init ksteps g s
  | .ldq m d a => Sys2Proof.Machine.execLdq m d a s
  | .sbar d h => Sys2Proof.Machine.execSbar d h s
  | .sample lodm pse d a h => Sys2Proof.Machine.execSample lodm pse d a h s
  | .gath ne pse d a h => Sys2Proof.Machine.execGath ne pse d a h s
  | .texqSize d h b => Sys2Proof.Machine.execTexqSize d h b s
  | .texqRes d h b => Sys2Proof.Machine.execTexqRes d h b s
  | .emit fault port va kn => Sys2Proof.Machine.execEmit fault port va kn s
  | .emitClose fault port => Sys2Proof.Machine.execEmitClose fault port s
  | .emitWake wid e => Sys2Proof.Machine.execEmitWake wid e s
  | .pull any d port nreg => Sys2Proof.Machine.execPull any d port nreg s
  | .pullWake wid e => Sys2Proof.Machine.execPullWake wid e s
  | .endOfStreamAppend sid => Sys2Proof.Machine.execEndOfStreamAppend sid s
  | .trace port rmask cullb first d a root => Sys2Proof.Machine.execTrace port rmask cullb first d a root s
  | .traceResume port d a t => Sys2Proof.Machine.execTraceResume port d a t s
  | .traversalComplete tid lane => Sys2Proof.Machine.execTraversalComplete tid lane s
  | .disc neg p => Sys2Proof.Machine.execDisc neg p s
  | .discAll => Sys2Proof.Machine.execDiscAll s
  | .mest g bh nbx cand range => Sys2Proof.Machine.execMest g bh nbx cand range s
  | .mestComplete tid => Sys2Proof.Machine.execMestComplete tid s
  | .ctxSkip => Sys2Proof.Machine.execCtxSkip s
  | .ctxFwd d => Sys2Proof.Machine.execCtxFwd d s
  | .ctxEnd a b => Sys2Proof.Machine.execCtxEnd a b s
  | .ctxFqpop d => Sys2Proof.Machine.execCtxFqpop d s
  | .ctxReply d a b => Sys2Proof.Machine.execCtxReply d a b s
  | .tlbi kind a b => Sys2Proof.Machine.execTlbi kind a b s
  | .tlbiComplete wid e => Sys2Proof.Machine.execTlbiComplete wid e s
  | .genInc d a => Sys2Proof.Machine.execGenInc d a s
  | .genChangeComplete wid e => Sys2Proof.Machine.execGenChangeComplete wid e s
  | .genRd d a => Sys2Proof.Machine.execGenRd d a s
  | .clauseHeader w => Sys2Proof.Machine.execClauseHeader w s
  | .stallHintExpiry wid e => Sys2Proof.Machine.execStallHintExpiry wid e s
  | .variableLatencyResult wid e idx quads => Sys2Proof.Machine.execVariableLatencyResult wid e idx quads s
  | .missSplit wid e => Sys2Proof.Machine.execMissSplit wid e s
  | .forcedFuseIssue wid e => Sys2Proof.Machine.execForcedFuseIssue wid e s
  | .storeDrain wid e => Sys2Proof.Machine.execStoreDrain wid e s
  | .reservedOpcode w => Sys2Proof.Machine.execReservedOpcode w s
  | .staleGenerationReject u => Sys2Proof.Machine.execStaleGenerationReject u s
  | .heldEngineFault u => Sys2Proof.Machine.execHeldEngineFault u s
  | .gangSave gid => Sys2Proof.Machine.execGangSave gid s
  | .gangSaveComplete gid => Sys2Proof.Machine.execGangSaveComplete gid s
  | .gangRestore gid => Sys2Proof.Machine.execGangRestore gid s
  | .nopPacket q => Sys2Proof.Machine.execNopPacket q s
  | .gridPacket q => Sys2Proof.Machine.execGridPacket q s
  | .patternPacket q => Sys2Proof.Machine.execPatternPacket q s
  | .waitPacket q => Sys2Proof.Machine.execWaitPacket q s
  | .waitPacketSatisfied q => Sys2Proof.Machine.execWaitPacketSatisfied q s
  | .illegalPacket q => Sys2Proof.Machine.execIllegalPacket q s
  | .patternPlacement lid => Sys2Proof.Machine.execPatternPlacement lid s
  | .gangPlacement die lid gang => Sys2Proof.Machine.execGangPlacement die lid gang s
  | .residencyReport die => Sys2Proof.Machine.execResidencyReport die s
  | .stealMessage thief victim lid => Sys2Proof.Machine.execStealMessage thief victim lid s
  | .stopComplete wid e => Sys2Proof.Machine.execStopComplete wid e s
  | .traceSample core => Sys2Proof.Machine.execTraceSample core s
  | .logGapEntry p => Sys2Proof.Machine.execLogGapEntry p s
  | .descriptorTake h => Sys2Proof.Machine.execDescriptorTake h s
  | .writebackFrameStart h => Sys2Proof.Machine.execWritebackFrameStart h s
  | .bandLaunch h b => Sys2Proof.Machine.execBandLaunch h b s
  | .bandDeadline h b => Sys2Proof.Machine.execBandDeadline h b s
  | .bandFixedFilter h b => Sys2Proof.Machine.execBandFixedFilter h b s
  | .bandScanout h b late => Sys2Proof.Machine.execBandScanout h b late s
  | .fallbackRecord h => Sys2Proof.Machine.execFallbackRecord h s
  | .rasterTriangle nid => Sys2Proof.Machine.execRasterTriangle nid s
  | .blendRecord nid => Sys2Proof.Machine.execBlendRecord nid s
  | .blendEndOfStream nid => Sys2Proof.Machine.execBlendEndOfStream nid s
  | .travRay nid => Sys2Proof.Machine.execTravRay nid s
  | .partSet p en clus kfirst kcnt gbase gsize => Sys2Proof.Machine.execPartSet p en clus kfirst kcnt gbase gsize s
  | .partReset who p => Sys2Proof.Machine.execPartReset who p s
  | .keyLoad who slot adr => Sys2Proof.Machine.execKeyLoad who slot adr s
  | .attest who nonce report => Sys2Proof.Machine.execAttest who nonce report s
  | .cert who buf size => Sys2Proof.Machine.execCert who buf size s
  | .imageLoad p image dest emul asn => Sys2Proof.Machine.execImageLoad p image dest emul asn s
  | .linkTrain who port => Sys2Proof.Machine.execLinkTrain who port s
  | .linkRetrain who port => Sys2Proof.Machine.execLinkRetrain who port s
  | .linkDisable who port => Sys2Proof.Machine.execLinkDisable who port s
  | .fwUpdate image => Sys2Proof.Machine.execFwUpdate image s
  | .bringupStage good => Sys2Proof.Machine.execBringupStage good s
  | .fqreply who p val => Sys2Proof.Machine.execFqreply who p val s
  | .savePoolBind who p val => Sys2Proof.Machine.execSavePoolBind who p val s
  | .savePoolUnbind who p val => Sys2Proof.Machine.execSavePoolUnbind who p val s
  | .preempt who p val => Sys2Proof.Machine.execPreempt who p val s
  | .uncorrectableError site => Sys2Proof.Machine.execUncorrectableError site s
  | .doorbellWrite q ofs val => Sys2Proof.Machine.execDoorbellWrite q ofs val s
  | .qcfgWrite who q val => Sys2Proof.Machine.execQcfgWrite who q val s
  | .dbgStop p cmd => Sys2Proof.Machine.execDbgStop p cmd s
  | .dbgResume p cmd => Sys2Proof.Machine.execDbgResume p cmd s
  | .dbgStep p cmd => Sys2Proof.Machine.execDbgStep p cmd s
  | .dbgRead p cmd => Sys2Proof.Machine.execDbgRead p cmd s
  | .dbgWrite p cmd => Sys2Proof.Machine.execDbgWrite p cmd s
  | .dbgReadpt p cmd => Sys2Proof.Machine.execDbgReadpt p cmd s
  | .dbgWrpc p cmd => Sys2Proof.Machine.execDbgWrpc p cmd s
  | .dbgReadcnt p cmd => Sys2Proof.Machine.execDbgReadcnt p cmd s
  | .mirrorStrobe p val => Sys2Proof.Machine.execMirrorStrobe p val s
  | .headEnable who h val => Sys2Proof.Machine.execHeadEnable who h val s
  | .headDisable who h val => Sys2Proof.Machine.execHeadDisable who h val s
  | .idle => Sys2Proof.Machine.execIdle s
  | .wake => Sys2Proof.Machine.execWake s
  | .moduleReset => Sys2Proof.Machine.execModuleReset s
  | .powerRemoval => Sys2Proof.Machine.execPowerRemoval s
  | .clockThrottle cclk => Sys2Proof.Machine.execClockThrottle cclk s
  | .thermalTrip => Sys2Proof.Machine.execThermalTrip s
  | .hostWindowAccess ofs data write => Sys2Proof.Machine.execHostWindowAccess ofs data write s
  | .ualinkLinkFailure port => Sys2Proof.Machine.execUalinkLinkFailure port s
  | .uetRemoteAccess asn va data write => Sys2Proof.Machine.execUetRemoteAccess asn va data write s
  | .registerWrite who ofs val => Sys2Proof.Machine.execRegisterWrite who ofs val s
  | .ualinkPeerAccess port pa data write => Sys2Proof.Machine.execUalinkPeerAccess port pa data write s

end Sys2Proof.Machine
end

