-- ==== Sys2Proof/Machine/Schedule.lean ====
section
/-! DEFINITION. One step of the machine: a core cycle. Who acts in it stands in `turns`; where it is empty, every event of the
module is tried in an order of the model's own (assumption 3, DESIGN CHOICE), and then every core issues by 17 R342. What each
cycle counts (16 R313, R314) comes last. -/

namespace Sys2Proof.Machine

/-- Goes on where an outcome is a next state. -/
def andThen (o : Out) (k : State → Out) : Out :=
  match o with
  | .next s => k s
  | r => r

/-! ## A panel's issue -/

/-- A rejected fill of a line of code: the panel waits for the reply, with no instruction of its own (R138, R349). -/
def holdCode (s : State) (c : Cur) (line : Nat) : Out :=
  let r := s.holdAccesses c (s.laneAcc c) (s.panel c).pc 0x12 0
    [{ lane := 0, va := 128 * line, n := 128, write := false, fid := 0, act := .code, evp := none }]
  .next (r.1.setPanel c
    { r.1.panel c with wait := some { instr := .mov .zero .zero, len := 0, since := s.cycle, aux := 0, held := r.2 } })

/-- What a fetch that stops does (R346, R364, R400): a miss fills the line and the TLBs; a fault is a precise trap. -/
def fetchStops (s : State) (c : Cur) : FetchStop → Out
  | .miss _ =>
    if s.codeRejected (s.laneAcc c) (c.wid / 64) (s.missedLine c) then holdCode s c (s.missedLine c) else .next (s.fetchFill c)
  | .dead => endCur c 0x11 s
  | .fail (.poison _) => endCur c 0x10 s
  | .fail (.dead _) => endCur c 0x11 s
  | .fail (.fail cause sub addr) => .next (s.takeTrap c { cause := cause, info := sub, fetch := true, addr := addr } false false)

/-- A panel does what its PC names (R140, R156, R353). -/
def issuePanel (s : State) (wid e : Nat) : Out :=
  let c : Cur := { wid := wid, entry := e, len := 1 }
  match s.fetch c with
  | .stop x => fetchStops s c x
  | .header w => exec (.clauseHeader w) { s with cur := some c }
  | .instr i len => exec i { s with cur := some { c with len := len } }
  | .bad len => .next (s.takeTrap { c with len := len } { cause := 0x01 })

/-- The panel takes up a clause or fills a miss in this cycle. -/
def State.fetches (s : State) (wid e : Nat) : Bool :=
  (s.frontHold wid e).isNone && match s.fetch { wid := wid, entry := e, len := 1 } with
    | .header _ => true
    | .stop (.miss _) => true
    | _ => false

/-- A panel is too narrow for the instruction that nothing else holds (R33). -/
def State.narrow (s : State) (wid e : Nat) : Bool :=
  let w := s.wave wid
  let p := w.panel e
  let c : Cur := { wid := wid, entry := e, len := 1 }
  (s.holdReason wid e).isNone && match s.fetch c, p.clause with
    | .instr i _, some cl => (decodeTrap w.regs w.width (s.privileged c) cl i).isNone && decide (p.effWidth w < s.needWidth c i)
    | _, _ => false

/-- The panels of a wave that enter FFW in this cycle, the lower entry first, so that of two at different addresses the higher one
traps (R33, R34). -/
def enterNarrow (wid : Nat) (s : State) : Out :=
  (List.range 8).foldl (fun o e => andThen o fun s => if s.narrow wid e then issuePanel s wid e else .next s) (.next s)

/-- Whether a panel's turn, from `u` to `t`, was the issue of an instruction, or else the reason that it counts (R313): entering a
handler 15, entering FFW 5, a copy under way 7 (R233), a `brc.split` that is not executed 11 (R26), an instruction that waits for an
earlier access held by the home L2 13 (R208). -/
def turnReason (u t : State) (x : Nat × Nat) : Option Nat :=
  let p := (u.wave x.1).panel x.2
  let q := (t.wave x.1).panel x.2
  if q.frame.isSome && p.frame.isNone then some 15
  else if q.valid && q.status == .ffw then some 5
  else if q = p then some (if p.heldAll.isEmpty then 11 else 13)
  else match u.fetch { wid := x.1, entry := x.2, len := 1 } with
    | .instr (.copy ..) _ => if p.progress = 0 then none else some 7
    | _ => none

/-- What an issue leaves for the next cycles: the extra cycles of bank conflicts (R45), and one of translation where the L1 TLB missed
(R313). -/
def Panel.issued (q : Panel) (n : Nat) (missed : Bool) (now : Nat) : Panel :=
  { q with
    iss := true, stall := 0
    pause := (if n = 0 then [] else [(1, now + 1 + n)]) ++ (if missed then [(13, now + 2)] else []) }

/-- A panel's turn is counted at its entry; the answer tells whether it issued. -/
def State.afterTurn (u t : State) (x : Nat × Nat) : State × Bool :=
  let w := t.wave x.1
  let q := w.panel x.2
  match turnReason u t x with
  | some r => (if q.valid then t.setWave x.1 (w.setPanel x.2 { q with iss := false, stall := BitVec.ofNat 4 r }) else t, false)
  | none =>
    let core := x.1 / 64
    let c : Cur := { wid := x.1, entry := x.2, len := 1 }
    let n := match u.fetch c with
      | .instr i _ => ((u.panel c).uses (u.shapeOf c i) i).conflicts
      | _ => 0
    let missed := (t.tlb.countP fun y => y.unit == core) != u.tlb.countP fun y => y.unit == core
    (if q.valid then t.setWave x.1 (w.setPanel x.2 (q.issued n missed t.cycle)) else t, true)

/-- Some panels issue, one after another, each unless one before it now holds it; with those that have issued. -/
def issueEach : List (Nat × Nat) → State → List (Nat × Nat) → Out × List (Nat × Nat)
  | [], s, d => (.next s, d)
  | x :: xs, s, d =>
    if (s.holdReason x.1 x.2).isSome then issueEach xs s d
    else match issuePanel s x.1 x.2 with
      | .next t =>
        let r := s.afterTurn t x
        issueEach xs r.1 (if r.2 then x :: d else d)
      | o => (o, d)

/-- Some panels take up clauses and fill misses. -/
def fetchEach : List (Nat × Nat) → State → Out
  | [], s => .next s
  | x :: xs, s =>
    andThen (issuePanel s x.1 x.2) fun t =>
      let q := (t.wave x.1).panel x.2
      fetchEach xs (if q.frame.isSome && ((s.wave x.1).panel x.2).frame.isNone then (s.afterTurn t x).1 else t)

/-! ## Who issues (R342) -/

/-- A panel was ready in the last cycle and lost the arbitration. -/
def Panel.wasReady (p : Panel) : Bool := !p.iss && p.stall == 11

/-- Since when a ready panel is ready. -/
def Panel.readySince (p : Panel) (now : Nat) : Nat := if p.wasReady then p.ready else now

/-- The rank of R342: urgent ones, realtime work, the earliest ready, the lower slot and entry (assumption 88, DEDUCED). -/
def State.rank (s : State) (x : Nat × Nat) : Nat :=
  let p := (s.wave x.1).panel x.2
  let since := p.readySince s.cycle
  let c : Cur := { wid := x.1, entry := x.2, len := 1 }
  let cls := match s.launch? (s.curWg c).lid with
    | none => 4
    | some l => l.cls
  (((if since + 192 ≤ s.cycle then 0 else 2) + (if cls = 0 then 0 else 1)) * 2 ^ 64 + since) * 2 ^ 32 + x.1 % 64 * 2 ^ 16 + x.1 / 64 * 8 + x.2

/-- The quad slices of its core that hold a panel's quads (R16). -/
def State.slicesOf (s : State) (x : Nat × Nat) : BitVec 16 := ((s.wave x.1).panel x.2).qmask <<< (s.wave x.1).base

/-- The panels that every slice of theirs has selected, given ready panels in the order of their rank and the slices that have
selected one. -/
def State.selected (s : State) : List (Nat × Nat) → BitVec 16 → List (Nat × Nat)
  | [], _ => []
  | x :: xs, taken =>
    let l := s.selected xs (taken ||| s.slicesOf x)
    if s.slicesOf x &&& taken = 0 then x :: l else l

/-- The panels that issue in a cycle, of those that are ready: each core selects for itself (R342); by wave and entry, so that the
lowest of a wave's panels splits (R26). -/
def State.arbitrate (s : State) (ready : List (Nat × Nat)) : List (Nat × Nat) :=
  let cores := (ready.map fun x => x.1 / 64).eraseDups
  sortBy (fun x => x.1 * 8 + x.2) (cores.flatMap fun k => s.selected (sortBy s.rank (ready.filter fun x => x.1 / 64 == k)) 0)

/-! ## What a cycle counts (R314, R342) -/

/-- A panel that does not issue: its STALL, and since when it is ready. -/
def Panel.stalls (p : Panel) (why : Option Nat) (now : Nat) : Panel :=
  { p with iss := false, stall := BitVec.ofNat 4 (why.getD 11), ready := if why.isNone then p.readySince now else p.ready }

/-- The panels of waves that were alive before the cycle, each with what holds it. -/
def State.reasons (s old : State) : List ((Nat × Nat) × Option Nat) :=
  s.waves.flatMap fun e =>
    if e.2.alive && (old.wave e.1).alive && (old.wave e.1).wg == e.2.wg && (old.wave e.1).idx == e.2.idx then
      e.2.entries.map fun k => ((e.1, k), s.holdReason e.1 k)
    else []

/-- Every panel counts as one that does not issue, until it does. -/
def State.mark (s : State) (rs : List ((Nat × Nat) × Option Nat)) : State :=
  rs.foldl (fun s r => s.setWave r.1.1 ((s.wave r.1.1).setPanel r.1.2 (((s.wave r.1.1).panel r.1.2).stalls r.2 s.cycle))) s

def satInc (x : Word) : Word := if x = BitVec.allOnes 32 then x else x + 1

/-- The counter of a wave none of whose panels has issued: that of its lowest valid entry's reason. -/
def Wave.countStall (w : Wave) : Wave :=
  match w.entries with
  | [] => w
  | e :: _ =>
    let k := (w.panel e).stall.toNat
    { w with stalls := Sparse.set 0 w.stalls k (satInc (Sparse.get 0 w.stalls k)) }

/-- The counters of some waves after a cycle. -/
def State.count (s : State) (wids : List Nat) (issued : List (Nat × Nat)) : State :=
  wids.foldl (fun s wid =>
    if (s.wave wid).alive && !(issued.any fun x => x.1 == wid) then s.setWave wid (s.wave wid).countStall else s) s

/-- Panels let go for one instruction (R311) that have come to their next boundary are asked to stop again. -/
def State.afterSteps (s t : State) : State :=
  t.waves.foldl (fun t e => e.2.entries.foldl (fun t k =>
    let p := (s.wave e.1).panel k
    let q := (t.wave e.1).panel k
    if p.stepping && q.stepping && p.moved q then t.setWave e.1 ((t.wave e.1).setPanel k (p.stepped q)) else t) t) t

/-! ## A cycle -/

/-- Who issues in a cycle: nobody, one panel, every core's choice, or that of the display cores. -/
inductive Issuers where
  | nobody
  | only (wid entry : Nat)
  | all
  | display
  deriving DecidableEq, Repr

/-- The wave of a display core. -/
def onDisplay (wid : Nat) : Bool := decide (384 ≤ wid / 64)

def Issuers.waves (s : State) : Issuers → List Nat
  | .nobody => []
  | .only wid _ => [wid]
  | .all => (s.waves.filter fun e => e.2.alive).map (·.1)
  | .display => (s.waves.filter fun e => e.2.alive && onDisplay e.1).map (·.1)

def Issuers.admits (x : Nat × Nat) : Issuers → Bool
  | .nobody => false
  | .only wid e => x == (wid, e)
  | .all => true
  | .display => onDisplay x.1

/-- Cores choose who issues. -/
def Issuers.chooses : Issuers → Bool
  | .all => true
  | .display => true
  | _ => false

/-- The panel of a wave has entered its handler between two states. -/
def tookTrap (v u : State) (x : Nat × Nat) : Bool :=
  ((u.wave x.1).panel x.2).frame.isSome && ((v.wave x.1).panel x.2).frame.isNone

/-- Every wave that may splits by miss (R25, R26). -/
def splitEach (s : State) : List Nat → Out
  | [] => .next s
  | wid :: l =>
    andThen (match s.missSplit wid with
      | none => .next s
      | some (e, _) => exec (.missSplit wid e) s) fun t => splitEach t l

/-- The rest of a cycle, after its events: panels enter FFW, fetch and issue, waves split by miss, and all is counted. `old` is the
state before the cycle: waves placed in it begin with the next. -/
def issueCycle (old : State) (who : Issuers) (u : State) : Out :=
  let wids := (who.waves u).filter fun k => (old.wave k).alive
  let v := old.afterSteps u
  andThen (wids.foldl (fun o k => andThen o (enterNarrow k)) (.next v)) fun u =>
    let u := v.afterSteps u
    let rs := ((u.reasons old).filter fun r => who ≠ .display || onDisplay r.1.1).map fun r =>
      if tookTrap v u r.1 then (r.1, some 15) else r
    let mine := rs.filter fun r => who.admits r.1
    let ready := (mine.filter fun r => r.2.isNone).map (·.1)
    let fetching := (mine.map (·.1)).filter fun x => u.fetches x.1 x.2 && !tookTrap v u x
    let m := u.mark rs
    let r := issueEach (if who.chooses then m.arbitrate ready else ready) m []
    andThen r.1 fun t =>
    andThen (fetchEach fetching t) fun t =>
    andThen (if who.chooses then splitEach t wids else .next t) fun t =>
    .next (u.afterSteps (t.count (rs.map fun x => x.1.1).eraseDups r.2))

/-! ## The display cores' clock (R11) -/

/-- A panel for which one cycle has passed more than for the compute cores. -/
def Panel.age (p : Panel) : Panel :=
  { p with
    since := p.since - 1, hold := p.hold - 1, ready := p.ready - 1, pause := p.pause.map fun x => (x.1, x.2 - 1)
    entered := p.entered - 1, hinted := p.hinted.map (· - 1), doneAt := p.doneAt - 1
    outst := p.outst.map fun x => { x with issued := x.issued - 1 }
    wait := p.wait.map fun x => { x with since := x.since - 1 } }

/-- The waves of the display cores, one cycle on. -/
def State.ageDisplay (s : State) : State :=
  { s with waves := s.waves.map fun e =>
      if e.2.alive && onDisplay e.1 then (e.1, { e.2.mapPanels Panel.age with splitAt := e.2.splitAt.map (· - 1) }) else e }

/-- The cycles that the display cores, always at 3.3 GHz, run beyond those of slower compute cores. -/
def displayCycles : Nat → State → Out
  | 0, s => .next s
  | n + 1, s => andThen (issueCycle s.ageDisplay .display s.ageDisplay) (displayCycles n)

/-! ## What may act (R392, R403, R404, R407) -/

/-- Events that begin only at stage 6: queues and heads are announced there. -/
def announced : Instr → Bool
  | .nopPacket .. => true
  | .gridPacket .. => true
  | .patternPacket .. => true
  | .waitPacket .. => true
  | .illegalPacket .. => true
  | .patternPlacement .. => true
  | .gangPlacement .. => true
  | .gangRestore .. => true
  | .descriptorTake .. => true
  | .writebackFrameStart .. => true
  | .bandLaunch .. => true
  | .bandScanout .. => true
  | .fallbackRecord .. => true
  | _ => false

/-- Writes of registers: none acts after a failure of stage 5. -/
def registerAct : Instr → Bool
  | .fqreply .. => true
  | .savePoolBind .. => true
  | .savePoolUnbind .. => true
  | .preempt .. => true
  | .doorbellWrite .. => true
  | .qcfgWrite .. => true
  | .dbgStop .. => true
  | .dbgResume .. => true
  | .dbgStep .. => true
  | .dbgRead .. => true
  | .dbgWrite .. => true
  | .dbgReadpt .. => true
  | .dbgWrpc .. => true
  | .dbgReadcnt .. => true
  | .mirrorStrobe .. => true
  | .headEnable .. => true
  | .headDisable .. => true
  | _ => false

/-- Events that act on a module whose clocks stand still. -/
def resets : Instr → Bool
  | .moduleReset => true
  | .powerRemoval => true
  | _ => false

/-- An event acts. A code form is no event: it has no panel of its own. -/
def actTurn (s : State) (i : Instr) : Out :=
  if (!s.powered || s.tripped) && !resets i then .next s
  else if announced i && s.stage != 6 then .next s
  else if registerAct i && s.locked then .next s
  else exec i { s with cur := none }

/-- Events act one after another. -/
def actEach : List Instr → State → Out
  | [], s => .next s
  | i :: l, s => andThen (actTurn s i) (actEach l)

/-! ## The model's own order (assumption 3, DESIGN CHOICE) -/

/-- The panels of live waves: wave and entry. -/
def State.panels (s : State) : List (Nat × Nat) :=
  s.waves.flatMap fun e => if e.2.alive then e.2.entries.map fun k => (e.1, k) else []

/-- Events of one result that a panel awaits. -/
def resultEvents (wid e k : Nat) : List Instr :=
  [.staleGenerationReject (.lane wid e k), .variableLatencyResult wid e k (BitVec.allOnes 16)]

/-- Events of one panel. -/
def panelEvents (wid e : Nat) : List Instr :=
  [.storeDrain wid e, .stallHintExpiry wid e, .yieldExpiry wid e, .stopComplete wid e, .barrierWaitDone wid e,
   .lflushComplete wid e, .tlbiComplete wid e, .genChangeComplete wid e, .emitWake wid e, .pullWake wid e,
   .forcedFuseIssue wid e, .seamTimeout wid e]

/-- The results come from the last on, so that none that has come moves another before it. -/
def State.eventsOf (s : State) (x : Nat × Nat) : List Instr :=
  List.append ((List.range ((s.wave x.1).panel x.2).outst.length).reverse.flatMap (resultEvents x.1 x.2)) (panelEvents x.1 x.2)

/-- What an engine thread does next. -/
def engineEvents (tid : Nat) : Engine → List Instr
  | .copy _ => [.copyLanding tid]
  | .mloop _ => [.mloopComplete tid]
  | .msoft _ => [.msoftComplete tid]
  | .mest _ => [.mestComplete tid]
  | .trace _ _ rays => rays.map fun r => .traversalComplete tid r.lane

def threadEvents (e : Nat × Thread) : List Instr :=
  .staleGenerationReject (.thread e.1) :: .heldEngineFault (.thread e.1) :: engineEvents e.1 e.2.engine

def nodeEvents (e : Nat × Node) : List Instr :=
  match e.2.kind with
  | .raster => [.heldEngineFault (.node e.1), .rasterTriangle e.1]
  | .blend => [.heldEngineFault (.node e.1), .blendRecord e.1, .blendEndOfStream e.1]
  | .trav => [.heldEngineFault (.node e.1), .travRay e.1]

/-- Events of a queue's next packet. -/
def packetEvents (q : Nat) : List Instr := [.nopPacket q, .gridPacket q, .patternPacket q, .waitPacket q, .illegalPacket q]
def queueEvents (e : Nat × Queue) : List Instr := [.waitPacketSatisfied e.1, .heldEngineFault (.queue e.1)]
/-- The dies whose steal would move a gang (R338). -/
def State.thieves (s : State) (l : Launch) : List Nat :=
  (List.range 4).filter fun d => !(stolen (s.readyGangs l (mostReady l.reports d))).isEmpty
def State.launchEvents (s : State) (e : Nat × Launch) : List Instr :=
  .patternPlacement e.1 :: .heldEngineFault (.launch e.1) ::
    (s.thieves e.2).map fun d => .stealMessage d (mostReady e.2.reports d) e.1
def gangEvents (e : Nat × Gang) : List Instr := [.gangSave e.1, .gangSaveComplete e.1, .gangRestore e.1]

/-- Events of a die's distributor. -/
def State.dieEvents (s : State) (d : Nat) : List Instr :=
  match s.nextPlacement d with
  | some (lid, i, _) => [.gangPlacement d lid i, .residencyReport d]
  | none => [.residencyReport d]

/-- The mailboxes with their commands in progress. -/
def State.commands (s : State) : List Instr := (Writer.platform :: (List.range 8).map Writer.owner).filterMap s.command

/-- Events of a partition's log and debug port. -/
def State.partEvents (s : State) (p : Nat) : List Instr := .logGapEntry p :: (s.part p).stops.map fun x => .stopComplete x.1 x.2

/-- Events of a head's band. -/
def bandEvents (h b : Nat) : List Instr := [.bandFixedFilter h b, .bandLaunch h b, .bandDeadline h b]

/-- The fabric cycles that a line takes at the pixel clock (R367), at least 1: the fabric's clock never changes (R11). -/
def Head.lineCycles (x : Head) : Nat := Nat.max 1 (x.htotal * 2200000 / bits 31 0 x.pclk.toNat)

/-- The current line of a head passes when its time has come. -/
def State.scanEvents (s : State) (h : Nat) : List Instr :=
  if s.fab % (s.head h).lineCycles < s.fabStep then [.bandScanout h ((s.head h).line / 32) none] else []

/-- Events of a running head. -/
def State.headEvents (s : State) (h : Nat) : List Instr :=
  if (s.head h).running = false then []
  else
    .descriptorTake h :: .writebackFrameStart h ::
      List.append ((List.range (s.head h).nbands).flatMap (bandEvents h)) (.fallbackRecord h :: s.scanEvents h)

def State.displayEvents (s : State) : List Instr := (List.range 8).flatMap s.headEvents

/-- The cores with a live wave. -/
def State.liveCores (s : State) : List Nat := (List.range 388).filter fun c => s.waves.any fun e => e.1 / 64 == c && e.2.alive

/-- Every event of the module. -/
def State.events (s : State) : List Instr := List.flatten
  [[.bringupStage true], s.commands, (List.range 8).flatMap s.partEvents, s.liveCores.map .traceSample,
   s.threads.flatMap threadEvents, s.panels.flatMap s.eventsOf, s.spools.flatMap fun e => [.heldEngineFault (.spool e.1), .endOfStreamAppend e.1],
   s.nodes.flatMap nodeEvents, s.nextQueue.toList.flatMap packetEvents, s.regs.queues.flatMap queueEvents,
   s.launches.flatMap s.launchEvents, s.gangs.flatMap gangEvents, (List.range 4).flatMap s.dieEvents, s.displayEvents]

/-! ## Steps -/

/-- The next cycle of the compute cores begins. The fabric makes 22 of its cycles, and the display cores 33 of theirs, in the time of
CCLK of the compute cores' (R11). -/
def State.tick (s : State) : State :=
  let n := s.fabPart + 22
  { s with cycle := s.cycle + 1, fab := s.fab + n / s.coreClock, fabPart := n % s.coreClock, dispPart := s.dispPart + 33 - s.coreClock }

/-- What the panels show of the cycle: one that issued shows no reason (R18). -/
def Panel.shown (p : Panel) : Panel := if p.iss then { p with stall := 0 } else p
def State.shown (s : State) : State :=
  { s with waves := s.waves.map fun e => if e.2.alive then (e.1, e.2.mapPanels Panel.shown) else e }

/-- A cycle with some events and some issuers. While the clocks stand still no panel issues. -/
def runCycle (acts : List Instr) (who : Issuers) (s : State) : Out :=
  andThen (actEach acts s) fun u =>
    andThen (if !u.powered || u.tripped then .next u else issueCycle s who u) fun t =>
    andThen (if !t.powered || t.tripped || !who.chooses then .next t else displayCycles (t.dispPart / t.coreClock) t) fun t =>
    .next { t.shown with dispPart := t.dispPart % t.coreClock }

/-- A step: the turn that is named, or every event and every core. -/
def nextTurn (s : State) : Out :=
  match s.turns with
  | .issue wid e :: ts => runCycle [] (.only wid e) { s.tick with turns := ts }
  | .act i :: ts => runCycle [i] .nobody { s.tick with turns := ts }
  | .cycle acts :: ts => runCycle acts .all { s.tick with turns := ts }
  | [] => runCycle s.tick.events .all s.tick

/-! ## A machine about to fetch a given instruction (assumption 9, DESIGN CHOICE) -/

/-- The address of the code, and of the trap handler in the same page. -/
def fetchVa : Nat := 0x10000
def fetchHandler : Nat := 0x10100
def fetchAst : Nat := 0x1000

/-- A wave of 64 lanes in the middle of a mixed clause. -/
def fetchWave (wg : Nat) : Wave :=
  { Wave.empty with
    alive := true, wg := wg, width := 64, regs := 192
    panels := [(0, { Panel.empty with
      valid := true, pc := fetchVa, qmask := BitVec.allOnes 16, mask := BitVec.allOnes 64
      clause := some { addr := fetchVa - 4, word := 0x1E001800, pos := 0, fresh := false } })] }

/-- A workgroup with every window as large as a core holds. -/
def fetchWg (gid lid : Nat) : Workgroup :=
  { gid := gid, lid := lid, index := 0, gwg := 0, core := 0, wbase := 0, wsize := 2 ^ 20, abase := 0, asize := 1536 * 1024
    cbase := 0, csize := 512 * 1024, handles := (List.range 16).map fun k => BitVec.ofNat 32 (2 ^ 31 + 16 * k), pw := []
    tba := fetchHandler, slots := [0], inPorts := [], outPorts := [], closed := [], node := 0, retired := false }

/-- Partition 0 with one address space, one cluster and all of memory. -/
def fetchPart (x : Partition) : Partition :=
  { x with astbase := BitVec.ofNat 64 fetchAst, astcnt := 1, en := true, clus := 1, kcnt := 1, gsize := 512 }

/-- The words of an instruction as they lie in memory. -/
def fetchBytes8 (nbits w : Nat) : List Byte := toBytes 8 (w % 2 ^ nbits)

/-- A launched grid of one wave whose panel fetches the instruction next. -/
def State.placeFetch (s : State) (nbits w : Nat) : State :=
  let k := s.serial
  let l := newLaunch .grid 0 0 0 2 0 k { emptySpec with width := 64, nwav := 1, gang := 1, regs := 192, ex := 1, ey := 1, ez := 1, asz := 768, wsz := 1024, csz := 512 }
  let g : Gang := { lid := k, index := 0, wgs := [k + 2], pre := .run, errors := 0, ended := none, done := false, saved := none
                    passed := false, inherited := [], cluster := 0, base := 0 }
  let t := s.setPart 0 (fetchPart (s.part 0))
  { t with
    mem := Sparse.setBytes (Sparse.setBytes t.mem fetchAst (toBytes 16 3)) fetchVa (fetchBytes8 nbits w)
    lineKey := (t.lineKey.filter fun e => e.1 != fetchVa / 128)
    poison := t.poison.filter fun e => e.1 != fetchAst / 128
    icache := Sparse.put t.icache (codeIndex 0 0 (fetchVa / 128))
      { since := t.cycle, data := Sparse.getBytes (Sparse.setBytes t.mem fetchVa (fetchBytes8 nbits w)) fetchVa 128 }
    tlb := { unit := 0, part := 0, asn := 0, page := 1, level := 1, bits := BitVec.ofNat 64 (fetchVa + 0xF) } :: t.tlb
    launches := Sparse.put t.launches k { l with chunks := [] }, gangs := Sparse.put t.gangs (k + 1) g
    wgs := Sparse.put t.wgs (k + 2) (fetchWg (k + 1) k), waves := Sparse.put t.waves 0 (fetchWave (k + 2)), serial := k + 3
    powered := true, tripped := false, stage := 6, good := true, idle := false, turns := Turn.issue 0 0 :: t.turns }

end Sys2Proof.Machine
end

