-- ==== Sys2Proof/Machine/Step.lean ====
section
/-! DEFINITION. The step of the machine, and a state whose next step runs a given instruction. -/

namespace Sys2Proof.Machine

/-- One step (assumption 86, DESIGN CHOICE). -/
def step (s : State) : Host.Outcome State Fault Refusal := nextTurn s

/-- The machine with an instruction where the next step fetches (assumption 9, DESIGN CHOICE): a grid's only wave, its panel in the middle
of a mixed clause, its code page translated. -/
def State.withFetchWord (s : State) (nbits w : Nat) : State := s.placeFetch nbits w

end Sys2Proof.Machine
end

