-- ==== Sys2Proof/Laws/Sparse.lean ====
section
/-! SUPPORT. Reading after writing in sparse maps, and that writing keeps their canonical form. -/

namespace Sys2Proof.Machine

@[simp] theorem toBytes_length (n x : Nat) : (toBytes n x).length = n := by
  induction n generalizing x <;> simp [toBytes, *]

variable {α : Type}

theorem Sparse.find?_filter_keep (l : List (Nat × α)) (k : Nat) (q : Nat → Bool) (h : q k = true) :
    (l.filter fun e => q e.1).find? (fun e => e.1 == k) = l.find? (fun e => e.1 == k) := by
  rw [List.find?_filter]
  congr 1
  funext e
  by_cases he : e.1 = k
  · simp [he, h]
  · simp [he]

theorem Sparse.find?_filter_drop (l : List (Nat × α)) (k : Nat) (q : Nat → Bool) (h : q k = false) :
    (l.filter fun e => q e.1).find? (fun e => e.1 == k) = none := by
  rw [List.find?_filter, List.find?_eq_none]
  intro e _
  by_cases he : e.1 = k
  · simp [he, h]
  · simp [he]

/-- What was written is read. -/
@[simp] theorem Sparse.get_set_same [DecidableEq α] (d : α) (l : List (Nat × α)) (k : Nat) (x : α) :
    Sparse.get d (Sparse.set d l k x) k = x := by
  unfold Sparse.get Sparse.set
  rw [List.append_assoc, List.find?_append,
    Sparse.find?_filter_drop l k (fun n => decide (n < k)) (by simp), List.find?_append,
    Sparse.find?_filter_drop l k (fun n => decide (k < n)) (by simp)]
  by_cases hx : x = d <;> simp [hx]

/-- Other keys keep their values. -/
theorem Sparse.get_set_other [DecidableEq α] (d : α) (l : List (Nat × α)) (k j : Nat) (x : α) (h : j ≠ k) :
    Sparse.get d (Sparse.set d l k x) j = Sparse.get d l j := by
  have hmid : (if x = d then ([] : List (Nat × α)) else [(k, x)]).find? (fun e => e.1 == j) = none := by
    split <;> simp [Ne.symm h]
  unfold Sparse.get Sparse.set
  rw [List.append_assoc, List.find?_append, List.find?_append, hmid, Option.none_or]
  rcases Nat.lt_or_gt_of_ne h with hl | hg
  · rw [Sparse.find?_filter_keep l j (fun n => decide (n < k)) (by simpa using hl),
      Sparse.find?_filter_drop l j (fun n => decide (k < n)) (by simp; omega)]
    simp
  · rw [Sparse.find?_filter_drop l j (fun n => decide (n < k)) (by simp; omega),
      Sparse.find?_filter_keep l j (fun n => decide (k < n)) (by simpa using hg)]
    simp

theorem Sparse.get_set [DecidableEq α] (d : α) (l : List (Nat × α)) (k j : Nat) (x : α) :
    Sparse.get d (Sparse.set d l k x) j = if j = k then x else Sparse.get d l j := by
  by_cases h : j = k
  · subst h; simp
  · simp [h, Sparse.get_set_other d l k j x h]

/-- The later of two writes to one key counts. -/
@[simp] theorem Sparse.set_set [DecidableEq α] (d : α) (l : List (Nat × α)) (k : Nat) (x y : α) :
    Sparse.set d (Sparse.set d l k x) k y = Sparse.set d l k y := by
  have hm : ∀ q : Nat → Bool, q k = false →
      (if x = d then ([] : List (Nat × α)) else [(k, x)]).filter (fun e => q e.1) = [] := by
    intro q hq; split <;> simp [hq]
  have hnone : ∀ q r : Nat → Bool, (∀ n, (q n && r n) = false) →
      (l.filter fun e => r e.1).filter (fun e => q e.1) = [] := by
    intro q r h
    rw [List.filter_filter, List.filter_eq_nil_iff]
    intro e _; simp [h]
  have hsame : ∀ q : Nat → Bool, (l.filter fun e => q e.1).filter (fun e => q e.1) = l.filter fun e => q e.1 := by
    intro q; rw [List.filter_filter]; simp
  have h1 : (Sparse.set d l k x).filter (fun e => decide (e.1 < k)) = l.filter fun e => decide (e.1 < k) := by
    unfold Sparse.set
    rw [List.filter_append, List.filter_append, hm (fun n => decide (n < k)) (by simp),
      hnone (fun n => decide (n < k)) (fun n => decide (k < n)) (by intro n; simp; omega), List.append_nil,
      List.append_nil, hsame fun n => decide (n < k)]
  have h2 : (Sparse.set d l k x).filter (fun e => decide (k < e.1)) = l.filter fun e => decide (k < e.1) := by
    unfold Sparse.set
    rw [List.filter_append, List.filter_append, hm (fun n => decide (k < n)) (by simp),
      hnone (fun n => decide (k < n)) (fun n => decide (n < k)) (by intro n; simp; omega), List.append_nil,
      List.nil_append, hsame fun n => decide (k < n)]
  unfold Sparse.set at h1 h2 ⊢
  rw [h1, h2]

@[simp] theorem Sparse.get_nil (d : α) (k : Nat) : Sparse.get d ([] : List (Nat × α)) k = d := rfl

/-- What was bound is found. -/
@[simp] theorem Sparse.find_put_same (l : List (Nat × α)) (k : Nat) (x : α) :
    Sparse.find (Sparse.put l k x) k = some x := by
  unfold Sparse.find Sparse.put
  rw [List.find?_append, Sparse.find?_filter_drop l k (fun n => decide (n < k)) (by simp)]
  simp

/-- Other keys keep their bindings. -/
theorem Sparse.find_put_other (l : List (Nat × α)) (k j : Nat) (x : α) (h : j ≠ k) :
    Sparse.find (Sparse.put l k x) j = Sparse.find l j := by
  unfold Sparse.find Sparse.put
  rw [List.find?_append, List.find?_cons_of_neg (by simp [Ne.symm h])]
  rcases Nat.lt_or_gt_of_ne h with hl | hg
  · rw [Sparse.find?_filter_keep l j (fun n => decide (n < k)) (by simpa using hl),
      Sparse.find?_filter_drop l j (fun n => decide (k < n)) (by simp; omega)]
    simp
  · rw [Sparse.find?_filter_drop l j (fun n => decide (n < k)) (by simp; omega),
      Sparse.find?_filter_keep l j (fun n => decide (k < n)) (by simpa using hg)]
    simp

theorem Sparse.wf_all [DecidableEq α] {d : α} {l : List (Nat × α)} (h : Sparse.wf d l = true) :
    ∀ e ∈ l, e.2 ≠ d := by
  induction l with
  | nil => simp
  | cons e l ih =>
    simp only [Sparse.wf, Bool.and_eq_true, Bool.not_eq_true', decide_eq_false_iff_not] at h
    intro e' he'
    rcases List.mem_cons.mp he' with rfl | hm
    · exact h.1.2
    · exact ih h.2 e' hm

theorem Sparse.wf_filter [DecidableEq α] {d : α} {l : List (Nat × α)} (q : Nat × α → Bool) (h : Sparse.wf d l = true) :
    Sparse.wf d (l.filter q) = true := by
  induction l with
  | nil => rfl
  | cons e l ih =>
    simp only [Sparse.wf, Bool.and_eq_true, List.all_eq_true] at h
    rw [List.filter_cons]
    split
    · simp only [Sparse.wf, Bool.and_eq_true, List.all_eq_true]
      exact ⟨⟨fun e' he' => h.1.1 e' (List.mem_filter.mp he').1, h.1.2⟩, ih h.2⟩
    · exact ih h.2

theorem Sparse.wf_append [DecidableEq α] {d : α} {a b : List (Nat × α)} (ha : Sparse.wf d a = true)
    (hb : Sparse.wf d b = true) (h : ∀ x ∈ a, ∀ y ∈ b, x.1 < y.1) : Sparse.wf d (a ++ b) = true := by
  induction a with
  | nil => simpa using hb
  | cons e a ih =>
    simp only [Sparse.wf, Bool.and_eq_true, List.all_eq_true] at ha
    simp only [List.cons_append, Sparse.wf, Bool.and_eq_true, List.all_eq_true]
    refine ⟨⟨fun e' he' => ?_, ha.1.2⟩, ih ha.2 fun x hx y hy => h x (List.mem_cons_of_mem _ hx) y hy⟩
    rcases List.mem_append.mp he' with h1 | h2
    · exact ha.1.1 e' h1
    · simpa using h e List.mem_cons_self e' h2

/-- A write keeps the canonical form. -/
theorem Sparse.wf_set [DecidableEq α] {d : α} {l : List (Nat × α)} (k : Nat) (x : α) (h : Sparse.wf d l = true) :
    Sparse.wf d (Sparse.set d l k x) = true := by
  unfold Sparse.set
  refine Sparse.wf_append (Sparse.wf_append (Sparse.wf_filter _ h) ?_ ?_) (Sparse.wf_filter _ h) ?_
  · split <;> simp [Sparse.wf, *]
  · intro a ha b hb
    have := (List.mem_filter.mp ha).2
    split at hb <;> simp_all
  · intro a ha b hb
    have hb' := (List.mem_filter.mp hb).2
    rcases List.mem_append.mp ha with h1 | h1
    · have := (List.mem_filter.mp h1).2
      simp at this hb'; omega
    · split at h1 <;> simp_all

/-- A write of several bytes keeps the canonical form. -/
theorem Sparse.wf_setBytes {l : List Host.Cell} (k : Nat) (bs : List Byte) (h : Sparse.wf 0 l = true) :
    Sparse.wf 0 (Sparse.setBytes l k bs) = true := by
  induction bs generalizing l k with
  | nil => exact h
  | cons b bs ih => exact ih (k + 1) (Sparse.wf_set k b h)

/-- A byte outside those written is unchanged. -/
theorem Sparse.get_setBytes_other (l : List Host.Cell) (k j : Nat) (bs : List Byte) (h : j < k ∨ k + bs.length ≤ j) :
    Sparse.get 0 (Sparse.setBytes l k bs) j = Sparse.get 0 l j := by
  induction bs generalizing l k with
  | nil => rfl
  | cons b bs ih =>
    simp only [List.length_cons] at h
    rw [Sparse.setBytes, ih _ _ (by omega), Sparse.get_set_other 0 l k j b (by omega)]

/-- A byte among those written is the one written. -/
theorem Sparse.get_setBytes_same (l : List Host.Cell) (k i : Nat) (bs : List Byte) (h : i < bs.length) :
    Sparse.get 0 (Sparse.setBytes l k bs) (k + i) = bs[i] := by
  induction bs generalizing l k i with
  | nil => simp at h
  | cons b bs ih =>
    cases i with
    | zero => rw [Sparse.setBytes, Nat.add_zero, Sparse.get_setBytes_other _ _ _ _ (by omega)]; simp
    | succ i =>
      have := ih (Sparse.set 0 l k b) (k + 1) i (by simpa using h)
      rw [Sparse.setBytes, show k + (i + 1) = k + 1 + i by omega]
      simpa using this

end Sys2Proof.Machine
end

