-- ==== Sys2Proof/Laws/State.lean ====
section
/-! SUPPORT. One lemma for each field of each update of State, Wave and Panel, and reading containers after writing. -/

namespace Sys2Proof.Machine

@[simp] theorem State.setWave_mem (s : State) (k : Nat) (x : Wave) : (s.setWave k x).mem = s.mem := rfl
@[simp] theorem State.setWave_lineKey (s : State) (k : Nat) (x : Wave) : (s.setWave k x).lineKey = s.lineKey := rfl
@[simp] theorem State.setWave_poison (s : State) (k : Nat) (x : Wave) : (s.setWave k x).poison = s.poison := rfl
@[simp] theorem State.setWave_wStore (s : State) (k : Nat) (x : Wave) : (s.setWave k x).wStore = s.wStore := rfl
@[simp] theorem State.setWave_aStore (s : State) (k : Nat) (x : Wave) : (s.setWave k x).aStore = s.aStore := rfl
@[simp] theorem State.setWave_cStore (s : State) (k : Nat) (x : Wave) : (s.setWave k x).cStore = s.cStore := rfl
@[simp] theorem State.setWave_shadow (s : State) (k : Nat) (x : Wave) : (s.setWave k x).shadow = s.shadow := rfl
@[simp] theorem State.setWave_l1 (s : State) (k : Nat) (x : Wave) : (s.setWave k x).l1 = s.l1 := rfl
@[simp] theorem State.setWave_icache (s : State) (k : Nat) (x : Wave) : (s.setWave k x).icache = s.icache := rfl
@[simp] theorem State.setWave_recCache (s : State) (k : Nat) (x : Wave) : (s.setWave k x).recCache = s.recCache := rfl
@[simp] theorem State.setWave_tlb (s : State) (k : Nat) (x : Wave) : (s.setWave k x).tlb = s.tlb := rfl
@[simp] theorem State.setWave_waves (s : State) (k : Nat) (x : Wave) : (s.setWave k x).waves = Sparse.set Wave.empty s.waves k x := rfl
@[simp] theorem State.setWave_chains (s : State) (k : Nat) (x : Wave) : (s.setWave k x).chains = s.chains := rfl
@[simp] theorem State.setWave_wgs (s : State) (k : Nat) (x : Wave) : (s.setWave k x).wgs = s.wgs := rfl
@[simp] theorem State.setWave_gangs (s : State) (k : Nat) (x : Wave) : (s.setWave k x).gangs = s.gangs := rfl
@[simp] theorem State.setWave_launches (s : State) (k : Nat) (x : Wave) : (s.setWave k x).launches = s.launches := rfl
@[simp] theorem State.setWave_spools (s : State) (k : Nat) (x : Wave) : (s.setWave k x).spools = s.spools := rfl
@[simp] theorem State.setWave_nodes (s : State) (k : Nat) (x : Wave) : (s.setWave k x).nodes = s.nodes := rfl
@[simp] theorem State.setWave_threads (s : State) (k : Nat) (x : Wave) : (s.setWave k x).threads = s.threads := rfl
@[simp] theorem State.setWave_serial (s : State) (k : Nat) (x : Wave) : (s.setWave k x).serial = s.serial := rfl
@[simp] theorem State.setWave_regs (s : State) (k : Nat) (x : Wave) : (s.setWave k x).regs = s.regs := rfl
@[simp] theorem State.setWave_mirror (s : State) (k : Nat) (x : Wave) : (s.setWave k x).mirror = s.mirror := rfl
@[simp] theorem State.setWave_keys (s : State) (k : Nat) (x : Wave) : (s.setWave k x).keys = s.keys := rfl
@[simp] theorem State.setWave_links (s : State) (k : Nat) (x : Wave) : (s.setWave k x).links = s.links := rfl
@[simp] theorem State.setWave_stage (s : State) (k : Nat) (x : Wave) : (s.setWave k x).stage = s.stage := rfl
@[simp] theorem State.setWave_good (s : State) (k : Nat) (x : Wave) : (s.setWave k x).good = s.good := rfl
@[simp] theorem State.setWave_idle (s : State) (k : Nat) (x : Wave) : (s.setWave k x).idle = s.idle := rfl
@[simp] theorem State.setWave_powered (s : State) (k : Nat) (x : Wave) : (s.setWave k x).powered = s.powered := rfl
@[simp] theorem State.setWave_tripped (s : State) (k : Nat) (x : Wave) : (s.setWave k x).tripped = s.tripped := rfl
@[simp] theorem State.setWave_hot (s : State) (k : Nat) (x : Wave) : (s.setWave k x).hot = s.hot := rfl
@[simp] theorem State.setWave_retired (s : State) (k : Nat) (x : Wave) : (s.setWave k x).retired = s.retired := rfl
@[simp] theorem State.setWave_coreErrors (s : State) (k : Nat) (x : Wave) : (s.setWave k x).coreErrors = s.coreErrors := rfl
@[simp] theorem State.setWave_owners (s : State) (k : Nat) (x : Wave) : (s.setWave k x).owners = s.owners := rfl
@[simp] theorem State.setWave_rollback (s : State) (k : Nat) (x : Wave) : (s.setWave k x).rollback = s.rollback := rfl
@[simp] theorem State.setWave_images (s : State) (k : Nat) (x : Wave) : (s.setWave k x).images = s.images := rfl
@[simp] theorem State.setWave_firmware (s : State) (k : Nat) (x : Wave) : (s.setWave k x).firmware = s.firmware := rfl
@[simp] theorem State.setWave_cycle (s : State) (k : Nat) (x : Wave) : (s.setWave k x).cycle = s.cycle := rfl
@[simp] theorem State.setWave_fab (s : State) (k : Nat) (x : Wave) : (s.setWave k x).fab = s.fab := rfl
@[simp] theorem State.setWave_fabPart (s : State) (k : Nat) (x : Wave) : (s.setWave k x).fabPart = s.fabPart := rfl
@[simp] theorem State.setWave_fabUp (s : State) (k : Nat) (x : Wave) : (s.setWave k x).fabUp = s.fabUp := rfl
@[simp] theorem State.setWave_dispPart (s : State) (k : Nat) (x : Wave) : (s.setWave k x).dispPart = s.dispPart := rfl
@[simp] theorem State.setWave_turns (s : State) (k : Nat) (x : Wave) : (s.setWave k x).turns = s.turns := rfl
@[simp] theorem State.setWave_cur (s : State) (k : Nat) (x : Wave) : (s.setWave k x).cur = s.cur := rfl
@[simp] theorem State.setWave_served (s : State) (k : Nat) (x : Wave) : (s.setWave k x).served = s.served := rfl
@[simp] theorem State.setWave_reported (s : State) (k : Nat) (x : Wave) : (s.setWave k x).reported = s.reported := rfl
@[simp] theorem State.setWave_samplers (s : State) (k : Nat) (x : Wave) : (s.setWave k x).samplers = s.samplers := rfl
@[simp] theorem State.setWave_freeCtr (s : State) (k : Nat) (x : Wave) : (s.setWave k x).freeCtr = s.freeCtr := rfl

@[simp] theorem State.setPanel_mem (s : State) (c : Cur) (x : Panel) : (s.setPanel c x).mem = s.mem := rfl
@[simp] theorem State.setPanel_lineKey (s : State) (c : Cur) (x : Panel) : (s.setPanel c x).lineKey = s.lineKey := rfl
@[simp] theorem State.setPanel_poison (s : State) (c : Cur) (x : Panel) : (s.setPanel c x).poison = s.poison := rfl
@[simp] theorem State.setPanel_wStore (s : State) (c : Cur) (x : Panel) : (s.setPanel c x).wStore = s.wStore := rfl
@[simp] theorem State.setPanel_aStore (s : State) (c : Cur) (x : Panel) : (s.setPanel c x).aStore = s.aStore := rfl
@[simp] theorem State.setPanel_cStore (s : State) (c : Cur) (x : Panel) : (s.setPanel c x).cStore = s.cStore := rfl
@[simp] theorem State.setPanel_shadow (s : State) (c : Cur) (x : Panel) : (s.setPanel c x).shadow = s.shadow := rfl
@[simp] theorem State.setPanel_l1 (s : State) (c : Cur) (x : Panel) : (s.setPanel c x).l1 = s.l1 := rfl
@[simp] theorem State.setPanel_icache (s : State) (c : Cur) (x : Panel) : (s.setPanel c x).icache = s.icache := rfl
@[simp] theorem State.setPanel_recCache (s : State) (c : Cur) (x : Panel) : (s.setPanel c x).recCache = s.recCache := rfl
@[simp] theorem State.setPanel_tlb (s : State) (c : Cur) (x : Panel) : (s.setPanel c x).tlb = s.tlb := rfl
@[simp] theorem State.setPanel_chains (s : State) (c : Cur) (x : Panel) : (s.setPanel c x).chains = s.chains := rfl
@[simp] theorem State.setPanel_wgs (s : State) (c : Cur) (x : Panel) : (s.setPanel c x).wgs = s.wgs := rfl
@[simp] theorem State.setPanel_gangs (s : State) (c : Cur) (x : Panel) : (s.setPanel c x).gangs = s.gangs := rfl
@[simp] theorem State.setPanel_launches (s : State) (c : Cur) (x : Panel) : (s.setPanel c x).launches = s.launches := rfl
@[simp] theorem State.setPanel_spools (s : State) (c : Cur) (x : Panel) : (s.setPanel c x).spools = s.spools := rfl
@[simp] theorem State.setPanel_nodes (s : State) (c : Cur) (x : Panel) : (s.setPanel c x).nodes = s.nodes := rfl
@[simp] theorem State.setPanel_threads (s : State) (c : Cur) (x : Panel) : (s.setPanel c x).threads = s.threads := rfl
@[simp] theorem State.setPanel_serial (s : State) (c : Cur) (x : Panel) : (s.setPanel c x).serial = s.serial := rfl
@[simp] theorem State.setPanel_regs (s : State) (c : Cur) (x : Panel) : (s.setPanel c x).regs = s.regs := rfl
@[simp] theorem State.setPanel_mirror (s : State) (c : Cur) (x : Panel) : (s.setPanel c x).mirror = s.mirror := rfl
@[simp] theorem State.setPanel_keys (s : State) (c : Cur) (x : Panel) : (s.setPanel c x).keys = s.keys := rfl
@[simp] theorem State.setPanel_links (s : State) (c : Cur) (x : Panel) : (s.setPanel c x).links = s.links := rfl
@[simp] theorem State.setPanel_stage (s : State) (c : Cur) (x : Panel) : (s.setPanel c x).stage = s.stage := rfl
@[simp] theorem State.setPanel_good (s : State) (c : Cur) (x : Panel) : (s.setPanel c x).good = s.good := rfl
@[simp] theorem State.setPanel_idle (s : State) (c : Cur) (x : Panel) : (s.setPanel c x).idle = s.idle := rfl
@[simp] theorem State.setPanel_powered (s : State) (c : Cur) (x : Panel) : (s.setPanel c x).powered = s.powered := rfl
@[simp] theorem State.setPanel_tripped (s : State) (c : Cur) (x : Panel) : (s.setPanel c x).tripped = s.tripped := rfl
@[simp] theorem State.setPanel_hot (s : State) (c : Cur) (x : Panel) : (s.setPanel c x).hot = s.hot := rfl
@[simp] theorem State.setPanel_retired (s : State) (c : Cur) (x : Panel) : (s.setPanel c x).retired = s.retired := rfl
@[simp] theorem State.setPanel_coreErrors (s : State) (c : Cur) (x : Panel) : (s.setPanel c x).coreErrors = s.coreErrors := rfl
@[simp] theorem State.setPanel_owners (s : State) (c : Cur) (x : Panel) : (s.setPanel c x).owners = s.owners := rfl
@[simp] theorem State.setPanel_rollback (s : State) (c : Cur) (x : Panel) : (s.setPanel c x).rollback = s.rollback := rfl
@[simp] theorem State.setPanel_images (s : State) (c : Cur) (x : Panel) : (s.setPanel c x).images = s.images := rfl
@[simp] theorem State.setPanel_firmware (s : State) (c : Cur) (x : Panel) : (s.setPanel c x).firmware = s.firmware := rfl
@[simp] theorem State.setPanel_cycle (s : State) (c : Cur) (x : Panel) : (s.setPanel c x).cycle = s.cycle := rfl
@[simp] theorem State.setPanel_fab (s : State) (c : Cur) (x : Panel) : (s.setPanel c x).fab = s.fab := rfl
@[simp] theorem State.setPanel_fabPart (s : State) (c : Cur) (x : Panel) : (s.setPanel c x).fabPart = s.fabPart := rfl
@[simp] theorem State.setPanel_fabUp (s : State) (c : Cur) (x : Panel) : (s.setPanel c x).fabUp = s.fabUp := rfl
@[simp] theorem State.setPanel_dispPart (s : State) (c : Cur) (x : Panel) : (s.setPanel c x).dispPart = s.dispPart := rfl
@[simp] theorem State.setPanel_turns (s : State) (c : Cur) (x : Panel) : (s.setPanel c x).turns = s.turns := rfl
@[simp] theorem State.setPanel_cur (s : State) (c : Cur) (x : Panel) : (s.setPanel c x).cur = s.cur := rfl
@[simp] theorem State.setPanel_served (s : State) (c : Cur) (x : Panel) : (s.setPanel c x).served = s.served := rfl
@[simp] theorem State.setPanel_reported (s : State) (c : Cur) (x : Panel) : (s.setPanel c x).reported = s.reported := rfl
@[simp] theorem State.setPanel_samplers (s : State) (c : Cur) (x : Panel) : (s.setPanel c x).samplers = s.samplers := rfl
@[simp] theorem State.setPanel_freeCtr (s : State) (c : Cur) (x : Panel) : (s.setPanel c x).freeCtr = s.freeCtr := rfl

@[simp] theorem State.setPart_mem (s : State) (k : Nat) (x : Partition) : (s.setPart k x).mem = s.mem := rfl
@[simp] theorem State.setPart_lineKey (s : State) (k : Nat) (x : Partition) : (s.setPart k x).lineKey = s.lineKey := rfl
@[simp] theorem State.setPart_poison (s : State) (k : Nat) (x : Partition) : (s.setPart k x).poison = s.poison := rfl
@[simp] theorem State.setPart_wStore (s : State) (k : Nat) (x : Partition) : (s.setPart k x).wStore = s.wStore := rfl
@[simp] theorem State.setPart_aStore (s : State) (k : Nat) (x : Partition) : (s.setPart k x).aStore = s.aStore := rfl
@[simp] theorem State.setPart_cStore (s : State) (k : Nat) (x : Partition) : (s.setPart k x).cStore = s.cStore := rfl
@[simp] theorem State.setPart_shadow (s : State) (k : Nat) (x : Partition) : (s.setPart k x).shadow = s.shadow := rfl
@[simp] theorem State.setPart_l1 (s : State) (k : Nat) (x : Partition) : (s.setPart k x).l1 = s.l1 := rfl
@[simp] theorem State.setPart_icache (s : State) (k : Nat) (x : Partition) : (s.setPart k x).icache = s.icache := rfl
@[simp] theorem State.setPart_recCache (s : State) (k : Nat) (x : Partition) : (s.setPart k x).recCache = s.recCache := rfl
@[simp] theorem State.setPart_tlb (s : State) (k : Nat) (x : Partition) : (s.setPart k x).tlb = s.tlb := rfl
@[simp] theorem State.setPart_waves (s : State) (k : Nat) (x : Partition) : (s.setPart k x).waves = s.waves := rfl
@[simp] theorem State.setPart_chains (s : State) (k : Nat) (x : Partition) : (s.setPart k x).chains = s.chains := rfl
@[simp] theorem State.setPart_wgs (s : State) (k : Nat) (x : Partition) : (s.setPart k x).wgs = s.wgs := rfl
@[simp] theorem State.setPart_gangs (s : State) (k : Nat) (x : Partition) : (s.setPart k x).gangs = s.gangs := rfl
@[simp] theorem State.setPart_launches (s : State) (k : Nat) (x : Partition) : (s.setPart k x).launches = s.launches := rfl
@[simp] theorem State.setPart_spools (s : State) (k : Nat) (x : Partition) : (s.setPart k x).spools = s.spools := rfl
@[simp] theorem State.setPart_nodes (s : State) (k : Nat) (x : Partition) : (s.setPart k x).nodes = s.nodes := rfl
@[simp] theorem State.setPart_threads (s : State) (k : Nat) (x : Partition) : (s.setPart k x).threads = s.threads := rfl
@[simp] theorem State.setPart_serial (s : State) (k : Nat) (x : Partition) : (s.setPart k x).serial = s.serial := rfl
@[simp] theorem State.setPart_regs (s : State) (k : Nat) (x : Partition) : (s.setPart k x).regs = { s.regs with parts := Sparse.set Partition.reset s.regs.parts k x } := rfl
@[simp] theorem State.setPart_mirror (s : State) (k : Nat) (x : Partition) : (s.setPart k x).mirror = s.mirror := rfl
@[simp] theorem State.setPart_keys (s : State) (k : Nat) (x : Partition) : (s.setPart k x).keys = s.keys := rfl
@[simp] theorem State.setPart_links (s : State) (k : Nat) (x : Partition) : (s.setPart k x).links = s.links := rfl
@[simp] theorem State.setPart_stage (s : State) (k : Nat) (x : Partition) : (s.setPart k x).stage = s.stage := rfl
@[simp] theorem State.setPart_good (s : State) (k : Nat) (x : Partition) : (s.setPart k x).good = s.good := rfl
@[simp] theorem State.setPart_idle (s : State) (k : Nat) (x : Partition) : (s.setPart k x).idle = s.idle := rfl
@[simp] theorem State.setPart_powered (s : State) (k : Nat) (x : Partition) : (s.setPart k x).powered = s.powered := rfl
@[simp] theorem State.setPart_tripped (s : State) (k : Nat) (x : Partition) : (s.setPart k x).tripped = s.tripped := rfl
@[simp] theorem State.setPart_hot (s : State) (k : Nat) (x : Partition) : (s.setPart k x).hot = s.hot := rfl
@[simp] theorem State.setPart_retired (s : State) (k : Nat) (x : Partition) : (s.setPart k x).retired = s.retired := rfl
@[simp] theorem State.setPart_coreErrors (s : State) (k : Nat) (x : Partition) : (s.setPart k x).coreErrors = s.coreErrors := rfl
@[simp] theorem State.setPart_owners (s : State) (k : Nat) (x : Partition) : (s.setPart k x).owners = s.owners := rfl
@[simp] theorem State.setPart_rollback (s : State) (k : Nat) (x : Partition) : (s.setPart k x).rollback = s.rollback := rfl
@[simp] theorem State.setPart_images (s : State) (k : Nat) (x : Partition) : (s.setPart k x).images = s.images := rfl
@[simp] theorem State.setPart_firmware (s : State) (k : Nat) (x : Partition) : (s.setPart k x).firmware = s.firmware := rfl
@[simp] theorem State.setPart_cycle (s : State) (k : Nat) (x : Partition) : (s.setPart k x).cycle = s.cycle := rfl
@[simp] theorem State.setPart_fab (s : State) (k : Nat) (x : Partition) : (s.setPart k x).fab = s.fab := rfl
@[simp] theorem State.setPart_fabPart (s : State) (k : Nat) (x : Partition) : (s.setPart k x).fabPart = s.fabPart := rfl
@[simp] theorem State.setPart_fabUp (s : State) (k : Nat) (x : Partition) : (s.setPart k x).fabUp = s.fabUp := rfl
@[simp] theorem State.setPart_dispPart (s : State) (k : Nat) (x : Partition) : (s.setPart k x).dispPart = s.dispPart := rfl
@[simp] theorem State.setPart_turns (s : State) (k : Nat) (x : Partition) : (s.setPart k x).turns = s.turns := rfl
@[simp] theorem State.setPart_cur (s : State) (k : Nat) (x : Partition) : (s.setPart k x).cur = s.cur := rfl
@[simp] theorem State.setPart_served (s : State) (k : Nat) (x : Partition) : (s.setPart k x).served = s.served := rfl
@[simp] theorem State.setPart_reported (s : State) (k : Nat) (x : Partition) : (s.setPart k x).reported = s.reported := rfl
@[simp] theorem State.setPart_samplers (s : State) (k : Nat) (x : Partition) : (s.setPart k x).samplers = s.samplers := rfl
@[simp] theorem State.setPart_freeCtr (s : State) (k : Nat) (x : Partition) : (s.setPart k x).freeCtr = s.freeCtr := rfl

@[simp] theorem State.setQueue_mem (s : State) (k : Nat) (x : Queue) : (s.setQueue k x).mem = s.mem := rfl
@[simp] theorem State.setQueue_lineKey (s : State) (k : Nat) (x : Queue) : (s.setQueue k x).lineKey = s.lineKey := rfl
@[simp] theorem State.setQueue_poison (s : State) (k : Nat) (x : Queue) : (s.setQueue k x).poison = s.poison := rfl
@[simp] theorem State.setQueue_wStore (s : State) (k : Nat) (x : Queue) : (s.setQueue k x).wStore = s.wStore := rfl
@[simp] theorem State.setQueue_aStore (s : State) (k : Nat) (x : Queue) : (s.setQueue k x).aStore = s.aStore := rfl
@[simp] theorem State.setQueue_cStore (s : State) (k : Nat) (x : Queue) : (s.setQueue k x).cStore = s.cStore := rfl
@[simp] theorem State.setQueue_shadow (s : State) (k : Nat) (x : Queue) : (s.setQueue k x).shadow = s.shadow := rfl
@[simp] theorem State.setQueue_l1 (s : State) (k : Nat) (x : Queue) : (s.setQueue k x).l1 = s.l1 := rfl
@[simp] theorem State.setQueue_icache (s : State) (k : Nat) (x : Queue) : (s.setQueue k x).icache = s.icache := rfl
@[simp] theorem State.setQueue_recCache (s : State) (k : Nat) (x : Queue) : (s.setQueue k x).recCache = s.recCache := rfl
@[simp] theorem State.setQueue_tlb (s : State) (k : Nat) (x : Queue) : (s.setQueue k x).tlb = s.tlb := rfl
@[simp] theorem State.setQueue_waves (s : State) (k : Nat) (x : Queue) : (s.setQueue k x).waves = s.waves := rfl
@[simp] theorem State.setQueue_chains (s : State) (k : Nat) (x : Queue) : (s.setQueue k x).chains = s.chains := rfl
@[simp] theorem State.setQueue_wgs (s : State) (k : Nat) (x : Queue) : (s.setQueue k x).wgs = s.wgs := rfl
@[simp] theorem State.setQueue_gangs (s : State) (k : Nat) (x : Queue) : (s.setQueue k x).gangs = s.gangs := rfl
@[simp] theorem State.setQueue_launches (s : State) (k : Nat) (x : Queue) : (s.setQueue k x).launches = s.launches := rfl
@[simp] theorem State.setQueue_spools (s : State) (k : Nat) (x : Queue) : (s.setQueue k x).spools = s.spools := rfl
@[simp] theorem State.setQueue_nodes (s : State) (k : Nat) (x : Queue) : (s.setQueue k x).nodes = s.nodes := rfl
@[simp] theorem State.setQueue_threads (s : State) (k : Nat) (x : Queue) : (s.setQueue k x).threads = s.threads := rfl
@[simp] theorem State.setQueue_serial (s : State) (k : Nat) (x : Queue) : (s.setQueue k x).serial = s.serial := rfl
@[simp] theorem State.setQueue_regs (s : State) (k : Nat) (x : Queue) : (s.setQueue k x).regs = { s.regs with queues := Sparse.set Queue.reset s.regs.queues k x } := rfl
@[simp] theorem State.setQueue_mirror (s : State) (k : Nat) (x : Queue) : (s.setQueue k x).mirror = s.mirror := rfl
@[simp] theorem State.setQueue_keys (s : State) (k : Nat) (x : Queue) : (s.setQueue k x).keys = s.keys := rfl
@[simp] theorem State.setQueue_links (s : State) (k : Nat) (x : Queue) : (s.setQueue k x).links = s.links := rfl
@[simp] theorem State.setQueue_stage (s : State) (k : Nat) (x : Queue) : (s.setQueue k x).stage = s.stage := rfl
@[simp] theorem State.setQueue_good (s : State) (k : Nat) (x : Queue) : (s.setQueue k x).good = s.good := rfl
@[simp] theorem State.setQueue_idle (s : State) (k : Nat) (x : Queue) : (s.setQueue k x).idle = s.idle := rfl
@[simp] theorem State.setQueue_powered (s : State) (k : Nat) (x : Queue) : (s.setQueue k x).powered = s.powered := rfl
@[simp] theorem State.setQueue_tripped (s : State) (k : Nat) (x : Queue) : (s.setQueue k x).tripped = s.tripped := rfl
@[simp] theorem State.setQueue_hot (s : State) (k : Nat) (x : Queue) : (s.setQueue k x).hot = s.hot := rfl
@[simp] theorem State.setQueue_retired (s : State) (k : Nat) (x : Queue) : (s.setQueue k x).retired = s.retired := rfl
@[simp] theorem State.setQueue_coreErrors (s : State) (k : Nat) (x : Queue) : (s.setQueue k x).coreErrors = s.coreErrors := rfl
@[simp] theorem State.setQueue_owners (s : State) (k : Nat) (x : Queue) : (s.setQueue k x).owners = s.owners := rfl
@[simp] theorem State.setQueue_rollback (s : State) (k : Nat) (x : Queue) : (s.setQueue k x).rollback = s.rollback := rfl
@[simp] theorem State.setQueue_images (s : State) (k : Nat) (x : Queue) : (s.setQueue k x).images = s.images := rfl
@[simp] theorem State.setQueue_firmware (s : State) (k : Nat) (x : Queue) : (s.setQueue k x).firmware = s.firmware := rfl
@[simp] theorem State.setQueue_cycle (s : State) (k : Nat) (x : Queue) : (s.setQueue k x).cycle = s.cycle := rfl
@[simp] theorem State.setQueue_fab (s : State) (k : Nat) (x : Queue) : (s.setQueue k x).fab = s.fab := rfl
@[simp] theorem State.setQueue_fabPart (s : State) (k : Nat) (x : Queue) : (s.setQueue k x).fabPart = s.fabPart := rfl
@[simp] theorem State.setQueue_fabUp (s : State) (k : Nat) (x : Queue) : (s.setQueue k x).fabUp = s.fabUp := rfl
@[simp] theorem State.setQueue_dispPart (s : State) (k : Nat) (x : Queue) : (s.setQueue k x).dispPart = s.dispPart := rfl
@[simp] theorem State.setQueue_turns (s : State) (k : Nat) (x : Queue) : (s.setQueue k x).turns = s.turns := rfl
@[simp] theorem State.setQueue_cur (s : State) (k : Nat) (x : Queue) : (s.setQueue k x).cur = s.cur := rfl
@[simp] theorem State.setQueue_served (s : State) (k : Nat) (x : Queue) : (s.setQueue k x).served = s.served := rfl
@[simp] theorem State.setQueue_reported (s : State) (k : Nat) (x : Queue) : (s.setQueue k x).reported = s.reported := rfl
@[simp] theorem State.setQueue_samplers (s : State) (k : Nat) (x : Queue) : (s.setQueue k x).samplers = s.samplers := rfl
@[simp] theorem State.setQueue_freeCtr (s : State) (k : Nat) (x : Queue) : (s.setQueue k x).freeCtr = s.freeCtr := rfl

@[simp] theorem State.setHead_mem (s : State) (k : Nat) (x : Head) : (s.setHead k x).mem = s.mem := rfl
@[simp] theorem State.setHead_lineKey (s : State) (k : Nat) (x : Head) : (s.setHead k x).lineKey = s.lineKey := rfl
@[simp] theorem State.setHead_poison (s : State) (k : Nat) (x : Head) : (s.setHead k x).poison = s.poison := rfl
@[simp] theorem State.setHead_wStore (s : State) (k : Nat) (x : Head) : (s.setHead k x).wStore = s.wStore := rfl
@[simp] theorem State.setHead_aStore (s : State) (k : Nat) (x : Head) : (s.setHead k x).aStore = s.aStore := rfl
@[simp] theorem State.setHead_cStore (s : State) (k : Nat) (x : Head) : (s.setHead k x).cStore = s.cStore := rfl
@[simp] theorem State.setHead_shadow (s : State) (k : Nat) (x : Head) : (s.setHead k x).shadow = s.shadow := rfl
@[simp] theorem State.setHead_l1 (s : State) (k : Nat) (x : Head) : (s.setHead k x).l1 = s.l1 := rfl
@[simp] theorem State.setHead_icache (s : State) (k : Nat) (x : Head) : (s.setHead k x).icache = s.icache := rfl
@[simp] theorem State.setHead_recCache (s : State) (k : Nat) (x : Head) : (s.setHead k x).recCache = s.recCache := rfl
@[simp] theorem State.setHead_tlb (s : State) (k : Nat) (x : Head) : (s.setHead k x).tlb = s.tlb := rfl
@[simp] theorem State.setHead_waves (s : State) (k : Nat) (x : Head) : (s.setHead k x).waves = s.waves := rfl
@[simp] theorem State.setHead_chains (s : State) (k : Nat) (x : Head) : (s.setHead k x).chains = s.chains := rfl
@[simp] theorem State.setHead_wgs (s : State) (k : Nat) (x : Head) : (s.setHead k x).wgs = s.wgs := rfl
@[simp] theorem State.setHead_gangs (s : State) (k : Nat) (x : Head) : (s.setHead k x).gangs = s.gangs := rfl
@[simp] theorem State.setHead_launches (s : State) (k : Nat) (x : Head) : (s.setHead k x).launches = s.launches := rfl
@[simp] theorem State.setHead_spools (s : State) (k : Nat) (x : Head) : (s.setHead k x).spools = s.spools := rfl
@[simp] theorem State.setHead_nodes (s : State) (k : Nat) (x : Head) : (s.setHead k x).nodes = s.nodes := rfl
@[simp] theorem State.setHead_threads (s : State) (k : Nat) (x : Head) : (s.setHead k x).threads = s.threads := rfl
@[simp] theorem State.setHead_serial (s : State) (k : Nat) (x : Head) : (s.setHead k x).serial = s.serial := rfl
@[simp] theorem State.setHead_regs (s : State) (k : Nat) (x : Head) : (s.setHead k x).regs = { s.regs with heads := Sparse.set Head.reset s.regs.heads k x } := rfl
@[simp] theorem State.setHead_mirror (s : State) (k : Nat) (x : Head) : (s.setHead k x).mirror = s.mirror := rfl
@[simp] theorem State.setHead_keys (s : State) (k : Nat) (x : Head) : (s.setHead k x).keys = s.keys := rfl
@[simp] theorem State.setHead_links (s : State) (k : Nat) (x : Head) : (s.setHead k x).links = s.links := rfl
@[simp] theorem State.setHead_stage (s : State) (k : Nat) (x : Head) : (s.setHead k x).stage = s.stage := rfl
@[simp] theorem State.setHead_good (s : State) (k : Nat) (x : Head) : (s.setHead k x).good = s.good := rfl
@[simp] theorem State.setHead_idle (s : State) (k : Nat) (x : Head) : (s.setHead k x).idle = s.idle := rfl
@[simp] theorem State.setHead_powered (s : State) (k : Nat) (x : Head) : (s.setHead k x).powered = s.powered := rfl
@[simp] theorem State.setHead_tripped (s : State) (k : Nat) (x : Head) : (s.setHead k x).tripped = s.tripped := rfl
@[simp] theorem State.setHead_hot (s : State) (k : Nat) (x : Head) : (s.setHead k x).hot = s.hot := rfl
@[simp] theorem State.setHead_retired (s : State) (k : Nat) (x : Head) : (s.setHead k x).retired = s.retired := rfl
@[simp] theorem State.setHead_coreErrors (s : State) (k : Nat) (x : Head) : (s.setHead k x).coreErrors = s.coreErrors := rfl
@[simp] theorem State.setHead_owners (s : State) (k : Nat) (x : Head) : (s.setHead k x).owners = s.owners := rfl
@[simp] theorem State.setHead_rollback (s : State) (k : Nat) (x : Head) : (s.setHead k x).rollback = s.rollback := rfl
@[simp] theorem State.setHead_images (s : State) (k : Nat) (x : Head) : (s.setHead k x).images = s.images := rfl
@[simp] theorem State.setHead_firmware (s : State) (k : Nat) (x : Head) : (s.setHead k x).firmware = s.firmware := rfl
@[simp] theorem State.setHead_cycle (s : State) (k : Nat) (x : Head) : (s.setHead k x).cycle = s.cycle := rfl
@[simp] theorem State.setHead_fab (s : State) (k : Nat) (x : Head) : (s.setHead k x).fab = s.fab := rfl
@[simp] theorem State.setHead_fabPart (s : State) (k : Nat) (x : Head) : (s.setHead k x).fabPart = s.fabPart := rfl
@[simp] theorem State.setHead_fabUp (s : State) (k : Nat) (x : Head) : (s.setHead k x).fabUp = s.fabUp := rfl
@[simp] theorem State.setHead_dispPart (s : State) (k : Nat) (x : Head) : (s.setHead k x).dispPart = s.dispPart := rfl
@[simp] theorem State.setHead_turns (s : State) (k : Nat) (x : Head) : (s.setHead k x).turns = s.turns := rfl
@[simp] theorem State.setHead_cur (s : State) (k : Nat) (x : Head) : (s.setHead k x).cur = s.cur := rfl
@[simp] theorem State.setHead_served (s : State) (k : Nat) (x : Head) : (s.setHead k x).served = s.served := rfl
@[simp] theorem State.setHead_reported (s : State) (k : Nat) (x : Head) : (s.setHead k x).reported = s.reported := rfl
@[simp] theorem State.setHead_samplers (s : State) (k : Nat) (x : Head) : (s.setHead k x).samplers = s.samplers := rfl
@[simp] theorem State.setHead_freeCtr (s : State) (k : Nat) (x : Head) : (s.setHead k x).freeCtr = s.freeCtr := rfl

@[simp] theorem State.putWg_mem (s : State) (k : Nat) (x : Workgroup) : (s.putWg k x).mem = s.mem := rfl
@[simp] theorem State.putWg_lineKey (s : State) (k : Nat) (x : Workgroup) : (s.putWg k x).lineKey = s.lineKey := rfl
@[simp] theorem State.putWg_poison (s : State) (k : Nat) (x : Workgroup) : (s.putWg k x).poison = s.poison := rfl
@[simp] theorem State.putWg_wStore (s : State) (k : Nat) (x : Workgroup) : (s.putWg k x).wStore = s.wStore := rfl
@[simp] theorem State.putWg_aStore (s : State) (k : Nat) (x : Workgroup) : (s.putWg k x).aStore = s.aStore := rfl
@[simp] theorem State.putWg_cStore (s : State) (k : Nat) (x : Workgroup) : (s.putWg k x).cStore = s.cStore := rfl
@[simp] theorem State.putWg_shadow (s : State) (k : Nat) (x : Workgroup) : (s.putWg k x).shadow = s.shadow := rfl
@[simp] theorem State.putWg_l1 (s : State) (k : Nat) (x : Workgroup) : (s.putWg k x).l1 = s.l1 := rfl
@[simp] theorem State.putWg_icache (s : State) (k : Nat) (x : Workgroup) : (s.putWg k x).icache = s.icache := rfl
@[simp] theorem State.putWg_recCache (s : State) (k : Nat) (x : Workgroup) : (s.putWg k x).recCache = s.recCache := rfl
@[simp] theorem State.putWg_tlb (s : State) (k : Nat) (x : Workgroup) : (s.putWg k x).tlb = s.tlb := rfl
@[simp] theorem State.putWg_waves (s : State) (k : Nat) (x : Workgroup) : (s.putWg k x).waves = s.waves := rfl
@[simp] theorem State.putWg_chains (s : State) (k : Nat) (x : Workgroup) : (s.putWg k x).chains = s.chains := rfl
@[simp] theorem State.putWg_wgs (s : State) (k : Nat) (x : Workgroup) : (s.putWg k x).wgs = Sparse.put s.wgs k x := rfl
@[simp] theorem State.putWg_gangs (s : State) (k : Nat) (x : Workgroup) : (s.putWg k x).gangs = s.gangs := rfl
@[simp] theorem State.putWg_launches (s : State) (k : Nat) (x : Workgroup) : (s.putWg k x).launches = s.launches := rfl
@[simp] theorem State.putWg_spools (s : State) (k : Nat) (x : Workgroup) : (s.putWg k x).spools = s.spools := rfl
@[simp] theorem State.putWg_nodes (s : State) (k : Nat) (x : Workgroup) : (s.putWg k x).nodes = s.nodes := rfl
@[simp] theorem State.putWg_threads (s : State) (k : Nat) (x : Workgroup) : (s.putWg k x).threads = s.threads := rfl
@[simp] theorem State.putWg_serial (s : State) (k : Nat) (x : Workgroup) : (s.putWg k x).serial = s.serial := rfl
@[simp] theorem State.putWg_regs (s : State) (k : Nat) (x : Workgroup) : (s.putWg k x).regs = s.regs := rfl
@[simp] theorem State.putWg_mirror (s : State) (k : Nat) (x : Workgroup) : (s.putWg k x).mirror = s.mirror := rfl
@[simp] theorem State.putWg_keys (s : State) (k : Nat) (x : Workgroup) : (s.putWg k x).keys = s.keys := rfl
@[simp] theorem State.putWg_links (s : State) (k : Nat) (x : Workgroup) : (s.putWg k x).links = s.links := rfl
@[simp] theorem State.putWg_stage (s : State) (k : Nat) (x : Workgroup) : (s.putWg k x).stage = s.stage := rfl
@[simp] theorem State.putWg_good (s : State) (k : Nat) (x : Workgroup) : (s.putWg k x).good = s.good := rfl
@[simp] theorem State.putWg_idle (s : State) (k : Nat) (x : Workgroup) : (s.putWg k x).idle = s.idle := rfl
@[simp] theorem State.putWg_powered (s : State) (k : Nat) (x : Workgroup) : (s.putWg k x).powered = s.powered := rfl
@[simp] theorem State.putWg_tripped (s : State) (k : Nat) (x : Workgroup) : (s.putWg k x).tripped = s.tripped := rfl
@[simp] theorem State.putWg_hot (s : State) (k : Nat) (x : Workgroup) : (s.putWg k x).hot = s.hot := rfl
@[simp] theorem State.putWg_retired (s : State) (k : Nat) (x : Workgroup) : (s.putWg k x).retired = s.retired := rfl
@[simp] theorem State.putWg_coreErrors (s : State) (k : Nat) (x : Workgroup) : (s.putWg k x).coreErrors = s.coreErrors := rfl
@[simp] theorem State.putWg_owners (s : State) (k : Nat) (x : Workgroup) : (s.putWg k x).owners = s.owners := rfl
@[simp] theorem State.putWg_rollback (s : State) (k : Nat) (x : Workgroup) : (s.putWg k x).rollback = s.rollback := rfl
@[simp] theorem State.putWg_images (s : State) (k : Nat) (x : Workgroup) : (s.putWg k x).images = s.images := rfl
@[simp] theorem State.putWg_firmware (s : State) (k : Nat) (x : Workgroup) : (s.putWg k x).firmware = s.firmware := rfl
@[simp] theorem State.putWg_cycle (s : State) (k : Nat) (x : Workgroup) : (s.putWg k x).cycle = s.cycle := rfl
@[simp] theorem State.putWg_fab (s : State) (k : Nat) (x : Workgroup) : (s.putWg k x).fab = s.fab := rfl
@[simp] theorem State.putWg_fabPart (s : State) (k : Nat) (x : Workgroup) : (s.putWg k x).fabPart = s.fabPart := rfl
@[simp] theorem State.putWg_fabUp (s : State) (k : Nat) (x : Workgroup) : (s.putWg k x).fabUp = s.fabUp := rfl
@[simp] theorem State.putWg_dispPart (s : State) (k : Nat) (x : Workgroup) : (s.putWg k x).dispPart = s.dispPart := rfl
@[simp] theorem State.putWg_turns (s : State) (k : Nat) (x : Workgroup) : (s.putWg k x).turns = s.turns := rfl
@[simp] theorem State.putWg_cur (s : State) (k : Nat) (x : Workgroup) : (s.putWg k x).cur = s.cur := rfl
@[simp] theorem State.putWg_served (s : State) (k : Nat) (x : Workgroup) : (s.putWg k x).served = s.served := rfl
@[simp] theorem State.putWg_reported (s : State) (k : Nat) (x : Workgroup) : (s.putWg k x).reported = s.reported := rfl
@[simp] theorem State.putWg_samplers (s : State) (k : Nat) (x : Workgroup) : (s.putWg k x).samplers = s.samplers := rfl
@[simp] theorem State.putWg_freeCtr (s : State) (k : Nat) (x : Workgroup) : (s.putWg k x).freeCtr = s.freeCtr := rfl

@[simp] theorem State.putGang_mem (s : State) (k : Nat) (x : Gang) : (s.putGang k x).mem = s.mem := rfl
@[simp] theorem State.putGang_lineKey (s : State) (k : Nat) (x : Gang) : (s.putGang k x).lineKey = s.lineKey := rfl
@[simp] theorem State.putGang_poison (s : State) (k : Nat) (x : Gang) : (s.putGang k x).poison = s.poison := rfl
@[simp] theorem State.putGang_wStore (s : State) (k : Nat) (x : Gang) : (s.putGang k x).wStore = s.wStore := rfl
@[simp] theorem State.putGang_aStore (s : State) (k : Nat) (x : Gang) : (s.putGang k x).aStore = s.aStore := rfl
@[simp] theorem State.putGang_cStore (s : State) (k : Nat) (x : Gang) : (s.putGang k x).cStore = s.cStore := rfl
@[simp] theorem State.putGang_shadow (s : State) (k : Nat) (x : Gang) : (s.putGang k x).shadow = s.shadow := rfl
@[simp] theorem State.putGang_l1 (s : State) (k : Nat) (x : Gang) : (s.putGang k x).l1 = s.l1 := rfl
@[simp] theorem State.putGang_icache (s : State) (k : Nat) (x : Gang) : (s.putGang k x).icache = s.icache := rfl
@[simp] theorem State.putGang_recCache (s : State) (k : Nat) (x : Gang) : (s.putGang k x).recCache = s.recCache := rfl
@[simp] theorem State.putGang_tlb (s : State) (k : Nat) (x : Gang) : (s.putGang k x).tlb = s.tlb := rfl
@[simp] theorem State.putGang_waves (s : State) (k : Nat) (x : Gang) : (s.putGang k x).waves = s.waves := rfl
@[simp] theorem State.putGang_chains (s : State) (k : Nat) (x : Gang) : (s.putGang k x).chains = s.chains := rfl
@[simp] theorem State.putGang_wgs (s : State) (k : Nat) (x : Gang) : (s.putGang k x).wgs = s.wgs := rfl
@[simp] theorem State.putGang_gangs (s : State) (k : Nat) (x : Gang) : (s.putGang k x).gangs = Sparse.put s.gangs k x := rfl
@[simp] theorem State.putGang_launches (s : State) (k : Nat) (x : Gang) : (s.putGang k x).launches = s.launches := rfl
@[simp] theorem State.putGang_spools (s : State) (k : Nat) (x : Gang) : (s.putGang k x).spools = s.spools := rfl
@[simp] theorem State.putGang_nodes (s : State) (k : Nat) (x : Gang) : (s.putGang k x).nodes = s.nodes := rfl
@[simp] theorem State.putGang_threads (s : State) (k : Nat) (x : Gang) : (s.putGang k x).threads = s.threads := rfl
@[simp] theorem State.putGang_serial (s : State) (k : Nat) (x : Gang) : (s.putGang k x).serial = s.serial := rfl
@[simp] theorem State.putGang_regs (s : State) (k : Nat) (x : Gang) : (s.putGang k x).regs = s.regs := rfl
@[simp] theorem State.putGang_mirror (s : State) (k : Nat) (x : Gang) : (s.putGang k x).mirror = s.mirror := rfl
@[simp] theorem State.putGang_keys (s : State) (k : Nat) (x : Gang) : (s.putGang k x).keys = s.keys := rfl
@[simp] theorem State.putGang_links (s : State) (k : Nat) (x : Gang) : (s.putGang k x).links = s.links := rfl
@[simp] theorem State.putGang_stage (s : State) (k : Nat) (x : Gang) : (s.putGang k x).stage = s.stage := rfl
@[simp] theorem State.putGang_good (s : State) (k : Nat) (x : Gang) : (s.putGang k x).good = s.good := rfl
@[simp] theorem State.putGang_idle (s : State) (k : Nat) (x : Gang) : (s.putGang k x).idle = s.idle := rfl
@[simp] theorem State.putGang_powered (s : State) (k : Nat) (x : Gang) : (s.putGang k x).powered = s.powered := rfl
@[simp] theorem State.putGang_tripped (s : State) (k : Nat) (x : Gang) : (s.putGang k x).tripped = s.tripped := rfl
@[simp] theorem State.putGang_hot (s : State) (k : Nat) (x : Gang) : (s.putGang k x).hot = s.hot := rfl
@[simp] theorem State.putGang_retired (s : State) (k : Nat) (x : Gang) : (s.putGang k x).retired = s.retired := rfl
@[simp] theorem State.putGang_coreErrors (s : State) (k : Nat) (x : Gang) : (s.putGang k x).coreErrors = s.coreErrors := rfl
@[simp] theorem State.putGang_owners (s : State) (k : Nat) (x : Gang) : (s.putGang k x).owners = s.owners := rfl
@[simp] theorem State.putGang_rollback (s : State) (k : Nat) (x : Gang) : (s.putGang k x).rollback = s.rollback := rfl
@[simp] theorem State.putGang_images (s : State) (k : Nat) (x : Gang) : (s.putGang k x).images = s.images := rfl
@[simp] theorem State.putGang_firmware (s : State) (k : Nat) (x : Gang) : (s.putGang k x).firmware = s.firmware := rfl
@[simp] theorem State.putGang_cycle (s : State) (k : Nat) (x : Gang) : (s.putGang k x).cycle = s.cycle := rfl
@[simp] theorem State.putGang_fab (s : State) (k : Nat) (x : Gang) : (s.putGang k x).fab = s.fab := rfl
@[simp] theorem State.putGang_fabPart (s : State) (k : Nat) (x : Gang) : (s.putGang k x).fabPart = s.fabPart := rfl
@[simp] theorem State.putGang_fabUp (s : State) (k : Nat) (x : Gang) : (s.putGang k x).fabUp = s.fabUp := rfl
@[simp] theorem State.putGang_dispPart (s : State) (k : Nat) (x : Gang) : (s.putGang k x).dispPart = s.dispPart := rfl
@[simp] theorem State.putGang_turns (s : State) (k : Nat) (x : Gang) : (s.putGang k x).turns = s.turns := rfl
@[simp] theorem State.putGang_cur (s : State) (k : Nat) (x : Gang) : (s.putGang k x).cur = s.cur := rfl
@[simp] theorem State.putGang_served (s : State) (k : Nat) (x : Gang) : (s.putGang k x).served = s.served := rfl
@[simp] theorem State.putGang_reported (s : State) (k : Nat) (x : Gang) : (s.putGang k x).reported = s.reported := rfl
@[simp] theorem State.putGang_samplers (s : State) (k : Nat) (x : Gang) : (s.putGang k x).samplers = s.samplers := rfl
@[simp] theorem State.putGang_freeCtr (s : State) (k : Nat) (x : Gang) : (s.putGang k x).freeCtr = s.freeCtr := rfl

@[simp] theorem State.putLaunch_mem (s : State) (k : Nat) (x : Launch) : (s.putLaunch k x).mem = s.mem := rfl
@[simp] theorem State.putLaunch_lineKey (s : State) (k : Nat) (x : Launch) : (s.putLaunch k x).lineKey = s.lineKey := rfl
@[simp] theorem State.putLaunch_poison (s : State) (k : Nat) (x : Launch) : (s.putLaunch k x).poison = s.poison := rfl
@[simp] theorem State.putLaunch_wStore (s : State) (k : Nat) (x : Launch) : (s.putLaunch k x).wStore = s.wStore := rfl
@[simp] theorem State.putLaunch_aStore (s : State) (k : Nat) (x : Launch) : (s.putLaunch k x).aStore = s.aStore := rfl
@[simp] theorem State.putLaunch_cStore (s : State) (k : Nat) (x : Launch) : (s.putLaunch k x).cStore = s.cStore := rfl
@[simp] theorem State.putLaunch_shadow (s : State) (k : Nat) (x : Launch) : (s.putLaunch k x).shadow = s.shadow := rfl
@[simp] theorem State.putLaunch_l1 (s : State) (k : Nat) (x : Launch) : (s.putLaunch k x).l1 = s.l1 := rfl
@[simp] theorem State.putLaunch_icache (s : State) (k : Nat) (x : Launch) : (s.putLaunch k x).icache = s.icache := rfl
@[simp] theorem State.putLaunch_recCache (s : State) (k : Nat) (x : Launch) : (s.putLaunch k x).recCache = s.recCache := rfl
@[simp] theorem State.putLaunch_tlb (s : State) (k : Nat) (x : Launch) : (s.putLaunch k x).tlb = s.tlb := rfl
@[simp] theorem State.putLaunch_waves (s : State) (k : Nat) (x : Launch) : (s.putLaunch k x).waves = s.waves := rfl
@[simp] theorem State.putLaunch_chains (s : State) (k : Nat) (x : Launch) : (s.putLaunch k x).chains = s.chains := rfl
@[simp] theorem State.putLaunch_wgs (s : State) (k : Nat) (x : Launch) : (s.putLaunch k x).wgs = s.wgs := rfl
@[simp] theorem State.putLaunch_gangs (s : State) (k : Nat) (x : Launch) : (s.putLaunch k x).gangs = s.gangs := rfl
@[simp] theorem State.putLaunch_launches (s : State) (k : Nat) (x : Launch) : (s.putLaunch k x).launches = Sparse.put s.launches k x := rfl
@[simp] theorem State.putLaunch_spools (s : State) (k : Nat) (x : Launch) : (s.putLaunch k x).spools = s.spools := rfl
@[simp] theorem State.putLaunch_nodes (s : State) (k : Nat) (x : Launch) : (s.putLaunch k x).nodes = s.nodes := rfl
@[simp] theorem State.putLaunch_threads (s : State) (k : Nat) (x : Launch) : (s.putLaunch k x).threads = s.threads := rfl
@[simp] theorem State.putLaunch_serial (s : State) (k : Nat) (x : Launch) : (s.putLaunch k x).serial = s.serial := rfl
@[simp] theorem State.putLaunch_regs (s : State) (k : Nat) (x : Launch) : (s.putLaunch k x).regs = s.regs := rfl
@[simp] theorem State.putLaunch_mirror (s : State) (k : Nat) (x : Launch) : (s.putLaunch k x).mirror = s.mirror := rfl
@[simp] theorem State.putLaunch_keys (s : State) (k : Nat) (x : Launch) : (s.putLaunch k x).keys = s.keys := rfl
@[simp] theorem State.putLaunch_links (s : State) (k : Nat) (x : Launch) : (s.putLaunch k x).links = s.links := rfl
@[simp] theorem State.putLaunch_stage (s : State) (k : Nat) (x : Launch) : (s.putLaunch k x).stage = s.stage := rfl
@[simp] theorem State.putLaunch_good (s : State) (k : Nat) (x : Launch) : (s.putLaunch k x).good = s.good := rfl
@[simp] theorem State.putLaunch_idle (s : State) (k : Nat) (x : Launch) : (s.putLaunch k x).idle = s.idle := rfl
@[simp] theorem State.putLaunch_powered (s : State) (k : Nat) (x : Launch) : (s.putLaunch k x).powered = s.powered := rfl
@[simp] theorem State.putLaunch_tripped (s : State) (k : Nat) (x : Launch) : (s.putLaunch k x).tripped = s.tripped := rfl
@[simp] theorem State.putLaunch_hot (s : State) (k : Nat) (x : Launch) : (s.putLaunch k x).hot = s.hot := rfl
@[simp] theorem State.putLaunch_retired (s : State) (k : Nat) (x : Launch) : (s.putLaunch k x).retired = s.retired := rfl
@[simp] theorem State.putLaunch_coreErrors (s : State) (k : Nat) (x : Launch) : (s.putLaunch k x).coreErrors = s.coreErrors := rfl
@[simp] theorem State.putLaunch_owners (s : State) (k : Nat) (x : Launch) : (s.putLaunch k x).owners = s.owners := rfl
@[simp] theorem State.putLaunch_rollback (s : State) (k : Nat) (x : Launch) : (s.putLaunch k x).rollback = s.rollback := rfl
@[simp] theorem State.putLaunch_images (s : State) (k : Nat) (x : Launch) : (s.putLaunch k x).images = s.images := rfl
@[simp] theorem State.putLaunch_firmware (s : State) (k : Nat) (x : Launch) : (s.putLaunch k x).firmware = s.firmware := rfl
@[simp] theorem State.putLaunch_cycle (s : State) (k : Nat) (x : Launch) : (s.putLaunch k x).cycle = s.cycle := rfl
@[simp] theorem State.putLaunch_fab (s : State) (k : Nat) (x : Launch) : (s.putLaunch k x).fab = s.fab := rfl
@[simp] theorem State.putLaunch_fabPart (s : State) (k : Nat) (x : Launch) : (s.putLaunch k x).fabPart = s.fabPart := rfl
@[simp] theorem State.putLaunch_fabUp (s : State) (k : Nat) (x : Launch) : (s.putLaunch k x).fabUp = s.fabUp := rfl
@[simp] theorem State.putLaunch_dispPart (s : State) (k : Nat) (x : Launch) : (s.putLaunch k x).dispPart = s.dispPart := rfl
@[simp] theorem State.putLaunch_turns (s : State) (k : Nat) (x : Launch) : (s.putLaunch k x).turns = s.turns := rfl
@[simp] theorem State.putLaunch_cur (s : State) (k : Nat) (x : Launch) : (s.putLaunch k x).cur = s.cur := rfl
@[simp] theorem State.putLaunch_served (s : State) (k : Nat) (x : Launch) : (s.putLaunch k x).served = s.served := rfl
@[simp] theorem State.putLaunch_reported (s : State) (k : Nat) (x : Launch) : (s.putLaunch k x).reported = s.reported := rfl
@[simp] theorem State.putLaunch_samplers (s : State) (k : Nat) (x : Launch) : (s.putLaunch k x).samplers = s.samplers := rfl
@[simp] theorem State.putLaunch_freeCtr (s : State) (k : Nat) (x : Launch) : (s.putLaunch k x).freeCtr = s.freeCtr := rfl

@[simp] theorem State.putUnit_mem (s : State) (k : Nat) (x : SpoolUnit) : (s.putUnit k x).mem = s.mem := rfl
@[simp] theorem State.putUnit_lineKey (s : State) (k : Nat) (x : SpoolUnit) : (s.putUnit k x).lineKey = s.lineKey := rfl
@[simp] theorem State.putUnit_poison (s : State) (k : Nat) (x : SpoolUnit) : (s.putUnit k x).poison = s.poison := rfl
@[simp] theorem State.putUnit_wStore (s : State) (k : Nat) (x : SpoolUnit) : (s.putUnit k x).wStore = s.wStore := rfl
@[simp] theorem State.putUnit_aStore (s : State) (k : Nat) (x : SpoolUnit) : (s.putUnit k x).aStore = s.aStore := rfl
@[simp] theorem State.putUnit_cStore (s : State) (k : Nat) (x : SpoolUnit) : (s.putUnit k x).cStore = s.cStore := rfl
@[simp] theorem State.putUnit_shadow (s : State) (k : Nat) (x : SpoolUnit) : (s.putUnit k x).shadow = s.shadow := rfl
@[simp] theorem State.putUnit_l1 (s : State) (k : Nat) (x : SpoolUnit) : (s.putUnit k x).l1 = s.l1 := rfl
@[simp] theorem State.putUnit_icache (s : State) (k : Nat) (x : SpoolUnit) : (s.putUnit k x).icache = s.icache := rfl
@[simp] theorem State.putUnit_recCache (s : State) (k : Nat) (x : SpoolUnit) : (s.putUnit k x).recCache = s.recCache := rfl
@[simp] theorem State.putUnit_tlb (s : State) (k : Nat) (x : SpoolUnit) : (s.putUnit k x).tlb = s.tlb := rfl
@[simp] theorem State.putUnit_waves (s : State) (k : Nat) (x : SpoolUnit) : (s.putUnit k x).waves = s.waves := rfl
@[simp] theorem State.putUnit_chains (s : State) (k : Nat) (x : SpoolUnit) : (s.putUnit k x).chains = s.chains := rfl
@[simp] theorem State.putUnit_wgs (s : State) (k : Nat) (x : SpoolUnit) : (s.putUnit k x).wgs = s.wgs := rfl
@[simp] theorem State.putUnit_gangs (s : State) (k : Nat) (x : SpoolUnit) : (s.putUnit k x).gangs = s.gangs := rfl
@[simp] theorem State.putUnit_launches (s : State) (k : Nat) (x : SpoolUnit) : (s.putUnit k x).launches = s.launches := rfl
@[simp] theorem State.putUnit_spools (s : State) (k : Nat) (x : SpoolUnit) : (s.putUnit k x).spools = Sparse.put s.spools k x := rfl
@[simp] theorem State.putUnit_nodes (s : State) (k : Nat) (x : SpoolUnit) : (s.putUnit k x).nodes = s.nodes := rfl
@[simp] theorem State.putUnit_threads (s : State) (k : Nat) (x : SpoolUnit) : (s.putUnit k x).threads = s.threads := rfl
@[simp] theorem State.putUnit_serial (s : State) (k : Nat) (x : SpoolUnit) : (s.putUnit k x).serial = s.serial := rfl
@[simp] theorem State.putUnit_regs (s : State) (k : Nat) (x : SpoolUnit) : (s.putUnit k x).regs = s.regs := rfl
@[simp] theorem State.putUnit_mirror (s : State) (k : Nat) (x : SpoolUnit) : (s.putUnit k x).mirror = s.mirror := rfl
@[simp] theorem State.putUnit_keys (s : State) (k : Nat) (x : SpoolUnit) : (s.putUnit k x).keys = s.keys := rfl
@[simp] theorem State.putUnit_links (s : State) (k : Nat) (x : SpoolUnit) : (s.putUnit k x).links = s.links := rfl
@[simp] theorem State.putUnit_stage (s : State) (k : Nat) (x : SpoolUnit) : (s.putUnit k x).stage = s.stage := rfl
@[simp] theorem State.putUnit_good (s : State) (k : Nat) (x : SpoolUnit) : (s.putUnit k x).good = s.good := rfl
@[simp] theorem State.putUnit_idle (s : State) (k : Nat) (x : SpoolUnit) : (s.putUnit k x).idle = s.idle := rfl
@[simp] theorem State.putUnit_powered (s : State) (k : Nat) (x : SpoolUnit) : (s.putUnit k x).powered = s.powered := rfl
@[simp] theorem State.putUnit_tripped (s : State) (k : Nat) (x : SpoolUnit) : (s.putUnit k x).tripped = s.tripped := rfl
@[simp] theorem State.putUnit_hot (s : State) (k : Nat) (x : SpoolUnit) : (s.putUnit k x).hot = s.hot := rfl
@[simp] theorem State.putUnit_retired (s : State) (k : Nat) (x : SpoolUnit) : (s.putUnit k x).retired = s.retired := rfl
@[simp] theorem State.putUnit_coreErrors (s : State) (k : Nat) (x : SpoolUnit) : (s.putUnit k x).coreErrors = s.coreErrors := rfl
@[simp] theorem State.putUnit_owners (s : State) (k : Nat) (x : SpoolUnit) : (s.putUnit k x).owners = s.owners := rfl
@[simp] theorem State.putUnit_rollback (s : State) (k : Nat) (x : SpoolUnit) : (s.putUnit k x).rollback = s.rollback := rfl
@[simp] theorem State.putUnit_images (s : State) (k : Nat) (x : SpoolUnit) : (s.putUnit k x).images = s.images := rfl
@[simp] theorem State.putUnit_firmware (s : State) (k : Nat) (x : SpoolUnit) : (s.putUnit k x).firmware = s.firmware := rfl
@[simp] theorem State.putUnit_cycle (s : State) (k : Nat) (x : SpoolUnit) : (s.putUnit k x).cycle = s.cycle := rfl
@[simp] theorem State.putUnit_fab (s : State) (k : Nat) (x : SpoolUnit) : (s.putUnit k x).fab = s.fab := rfl
@[simp] theorem State.putUnit_fabPart (s : State) (k : Nat) (x : SpoolUnit) : (s.putUnit k x).fabPart = s.fabPart := rfl
@[simp] theorem State.putUnit_fabUp (s : State) (k : Nat) (x : SpoolUnit) : (s.putUnit k x).fabUp = s.fabUp := rfl
@[simp] theorem State.putUnit_dispPart (s : State) (k : Nat) (x : SpoolUnit) : (s.putUnit k x).dispPart = s.dispPart := rfl
@[simp] theorem State.putUnit_turns (s : State) (k : Nat) (x : SpoolUnit) : (s.putUnit k x).turns = s.turns := rfl
@[simp] theorem State.putUnit_cur (s : State) (k : Nat) (x : SpoolUnit) : (s.putUnit k x).cur = s.cur := rfl
@[simp] theorem State.putUnit_served (s : State) (k : Nat) (x : SpoolUnit) : (s.putUnit k x).served = s.served := rfl
@[simp] theorem State.putUnit_reported (s : State) (k : Nat) (x : SpoolUnit) : (s.putUnit k x).reported = s.reported := rfl
@[simp] theorem State.putUnit_samplers (s : State) (k : Nat) (x : SpoolUnit) : (s.putUnit k x).samplers = s.samplers := rfl
@[simp] theorem State.putUnit_freeCtr (s : State) (k : Nat) (x : SpoolUnit) : (s.putUnit k x).freeCtr = s.freeCtr := rfl

@[simp] theorem State.putNode_mem (s : State) (k : Nat) (x : Node) : (s.putNode k x).mem = s.mem := rfl
@[simp] theorem State.putNode_lineKey (s : State) (k : Nat) (x : Node) : (s.putNode k x).lineKey = s.lineKey := rfl
@[simp] theorem State.putNode_poison (s : State) (k : Nat) (x : Node) : (s.putNode k x).poison = s.poison := rfl
@[simp] theorem State.putNode_wStore (s : State) (k : Nat) (x : Node) : (s.putNode k x).wStore = s.wStore := rfl
@[simp] theorem State.putNode_aStore (s : State) (k : Nat) (x : Node) : (s.putNode k x).aStore = s.aStore := rfl
@[simp] theorem State.putNode_cStore (s : State) (k : Nat) (x : Node) : (s.putNode k x).cStore = s.cStore := rfl
@[simp] theorem State.putNode_shadow (s : State) (k : Nat) (x : Node) : (s.putNode k x).shadow = s.shadow := rfl
@[simp] theorem State.putNode_l1 (s : State) (k : Nat) (x : Node) : (s.putNode k x).l1 = s.l1 := rfl
@[simp] theorem State.putNode_icache (s : State) (k : Nat) (x : Node) : (s.putNode k x).icache = s.icache := rfl
@[simp] theorem State.putNode_recCache (s : State) (k : Nat) (x : Node) : (s.putNode k x).recCache = s.recCache := rfl
@[simp] theorem State.putNode_tlb (s : State) (k : Nat) (x : Node) : (s.putNode k x).tlb = s.tlb := rfl
@[simp] theorem State.putNode_waves (s : State) (k : Nat) (x : Node) : (s.putNode k x).waves = s.waves := rfl
@[simp] theorem State.putNode_chains (s : State) (k : Nat) (x : Node) : (s.putNode k x).chains = s.chains := rfl
@[simp] theorem State.putNode_wgs (s : State) (k : Nat) (x : Node) : (s.putNode k x).wgs = s.wgs := rfl
@[simp] theorem State.putNode_gangs (s : State) (k : Nat) (x : Node) : (s.putNode k x).gangs = s.gangs := rfl
@[simp] theorem State.putNode_launches (s : State) (k : Nat) (x : Node) : (s.putNode k x).launches = s.launches := rfl
@[simp] theorem State.putNode_spools (s : State) (k : Nat) (x : Node) : (s.putNode k x).spools = s.spools := rfl
@[simp] theorem State.putNode_nodes (s : State) (k : Nat) (x : Node) : (s.putNode k x).nodes = Sparse.put s.nodes k x := rfl
@[simp] theorem State.putNode_threads (s : State) (k : Nat) (x : Node) : (s.putNode k x).threads = s.threads := rfl
@[simp] theorem State.putNode_serial (s : State) (k : Nat) (x : Node) : (s.putNode k x).serial = s.serial := rfl
@[simp] theorem State.putNode_regs (s : State) (k : Nat) (x : Node) : (s.putNode k x).regs = s.regs := rfl
@[simp] theorem State.putNode_mirror (s : State) (k : Nat) (x : Node) : (s.putNode k x).mirror = s.mirror := rfl
@[simp] theorem State.putNode_keys (s : State) (k : Nat) (x : Node) : (s.putNode k x).keys = s.keys := rfl
@[simp] theorem State.putNode_links (s : State) (k : Nat) (x : Node) : (s.putNode k x).links = s.links := rfl
@[simp] theorem State.putNode_stage (s : State) (k : Nat) (x : Node) : (s.putNode k x).stage = s.stage := rfl
@[simp] theorem State.putNode_good (s : State) (k : Nat) (x : Node) : (s.putNode k x).good = s.good := rfl
@[simp] theorem State.putNode_idle (s : State) (k : Nat) (x : Node) : (s.putNode k x).idle = s.idle := rfl
@[simp] theorem State.putNode_powered (s : State) (k : Nat) (x : Node) : (s.putNode k x).powered = s.powered := rfl
@[simp] theorem State.putNode_tripped (s : State) (k : Nat) (x : Node) : (s.putNode k x).tripped = s.tripped := rfl
@[simp] theorem State.putNode_hot (s : State) (k : Nat) (x : Node) : (s.putNode k x).hot = s.hot := rfl
@[simp] theorem State.putNode_retired (s : State) (k : Nat) (x : Node) : (s.putNode k x).retired = s.retired := rfl
@[simp] theorem State.putNode_coreErrors (s : State) (k : Nat) (x : Node) : (s.putNode k x).coreErrors = s.coreErrors := rfl
@[simp] theorem State.putNode_owners (s : State) (k : Nat) (x : Node) : (s.putNode k x).owners = s.owners := rfl
@[simp] theorem State.putNode_rollback (s : State) (k : Nat) (x : Node) : (s.putNode k x).rollback = s.rollback := rfl
@[simp] theorem State.putNode_images (s : State) (k : Nat) (x : Node) : (s.putNode k x).images = s.images := rfl
@[simp] theorem State.putNode_firmware (s : State) (k : Nat) (x : Node) : (s.putNode k x).firmware = s.firmware := rfl
@[simp] theorem State.putNode_cycle (s : State) (k : Nat) (x : Node) : (s.putNode k x).cycle = s.cycle := rfl
@[simp] theorem State.putNode_fab (s : State) (k : Nat) (x : Node) : (s.putNode k x).fab = s.fab := rfl
@[simp] theorem State.putNode_fabPart (s : State) (k : Nat) (x : Node) : (s.putNode k x).fabPart = s.fabPart := rfl
@[simp] theorem State.putNode_fabUp (s : State) (k : Nat) (x : Node) : (s.putNode k x).fabUp = s.fabUp := rfl
@[simp] theorem State.putNode_dispPart (s : State) (k : Nat) (x : Node) : (s.putNode k x).dispPart = s.dispPart := rfl
@[simp] theorem State.putNode_turns (s : State) (k : Nat) (x : Node) : (s.putNode k x).turns = s.turns := rfl
@[simp] theorem State.putNode_cur (s : State) (k : Nat) (x : Node) : (s.putNode k x).cur = s.cur := rfl
@[simp] theorem State.putNode_served (s : State) (k : Nat) (x : Node) : (s.putNode k x).served = s.served := rfl
@[simp] theorem State.putNode_reported (s : State) (k : Nat) (x : Node) : (s.putNode k x).reported = s.reported := rfl
@[simp] theorem State.putNode_samplers (s : State) (k : Nat) (x : Node) : (s.putNode k x).samplers = s.samplers := rfl
@[simp] theorem State.putNode_freeCtr (s : State) (k : Nat) (x : Node) : (s.putNode k x).freeCtr = s.freeCtr := rfl

@[simp] theorem State.putThread_mem (s : State) (k : Nat) (x : Thread) : (s.putThread k x).mem = s.mem := rfl
@[simp] theorem State.putThread_lineKey (s : State) (k : Nat) (x : Thread) : (s.putThread k x).lineKey = s.lineKey := rfl
@[simp] theorem State.putThread_poison (s : State) (k : Nat) (x : Thread) : (s.putThread k x).poison = s.poison := rfl
@[simp] theorem State.putThread_wStore (s : State) (k : Nat) (x : Thread) : (s.putThread k x).wStore = s.wStore := rfl
@[simp] theorem State.putThread_aStore (s : State) (k : Nat) (x : Thread) : (s.putThread k x).aStore = s.aStore := rfl
@[simp] theorem State.putThread_cStore (s : State) (k : Nat) (x : Thread) : (s.putThread k x).cStore = s.cStore := rfl
@[simp] theorem State.putThread_shadow (s : State) (k : Nat) (x : Thread) : (s.putThread k x).shadow = s.shadow := rfl
@[simp] theorem State.putThread_l1 (s : State) (k : Nat) (x : Thread) : (s.putThread k x).l1 = s.l1 := rfl
@[simp] theorem State.putThread_icache (s : State) (k : Nat) (x : Thread) : (s.putThread k x).icache = s.icache := rfl
@[simp] theorem State.putThread_recCache (s : State) (k : Nat) (x : Thread) : (s.putThread k x).recCache = s.recCache := rfl
@[simp] theorem State.putThread_tlb (s : State) (k : Nat) (x : Thread) : (s.putThread k x).tlb = s.tlb := rfl
@[simp] theorem State.putThread_waves (s : State) (k : Nat) (x : Thread) : (s.putThread k x).waves = s.waves := rfl
@[simp] theorem State.putThread_chains (s : State) (k : Nat) (x : Thread) : (s.putThread k x).chains = s.chains := rfl
@[simp] theorem State.putThread_wgs (s : State) (k : Nat) (x : Thread) : (s.putThread k x).wgs = s.wgs := rfl
@[simp] theorem State.putThread_gangs (s : State) (k : Nat) (x : Thread) : (s.putThread k x).gangs = s.gangs := rfl
@[simp] theorem State.putThread_launches (s : State) (k : Nat) (x : Thread) : (s.putThread k x).launches = s.launches := rfl
@[simp] theorem State.putThread_spools (s : State) (k : Nat) (x : Thread) : (s.putThread k x).spools = s.spools := rfl
@[simp] theorem State.putThread_nodes (s : State) (k : Nat) (x : Thread) : (s.putThread k x).nodes = s.nodes := rfl
@[simp] theorem State.putThread_threads (s : State) (k : Nat) (x : Thread) : (s.putThread k x).threads = Sparse.put s.threads k x := rfl
@[simp] theorem State.putThread_serial (s : State) (k : Nat) (x : Thread) : (s.putThread k x).serial = s.serial := rfl
@[simp] theorem State.putThread_regs (s : State) (k : Nat) (x : Thread) : (s.putThread k x).regs = s.regs := rfl
@[simp] theorem State.putThread_mirror (s : State) (k : Nat) (x : Thread) : (s.putThread k x).mirror = s.mirror := rfl
@[simp] theorem State.putThread_keys (s : State) (k : Nat) (x : Thread) : (s.putThread k x).keys = s.keys := rfl
@[simp] theorem State.putThread_links (s : State) (k : Nat) (x : Thread) : (s.putThread k x).links = s.links := rfl
@[simp] theorem State.putThread_stage (s : State) (k : Nat) (x : Thread) : (s.putThread k x).stage = s.stage := rfl
@[simp] theorem State.putThread_good (s : State) (k : Nat) (x : Thread) : (s.putThread k x).good = s.good := rfl
@[simp] theorem State.putThread_idle (s : State) (k : Nat) (x : Thread) : (s.putThread k x).idle = s.idle := rfl
@[simp] theorem State.putThread_powered (s : State) (k : Nat) (x : Thread) : (s.putThread k x).powered = s.powered := rfl
@[simp] theorem State.putThread_tripped (s : State) (k : Nat) (x : Thread) : (s.putThread k x).tripped = s.tripped := rfl
@[simp] theorem State.putThread_hot (s : State) (k : Nat) (x : Thread) : (s.putThread k x).hot = s.hot := rfl
@[simp] theorem State.putThread_retired (s : State) (k : Nat) (x : Thread) : (s.putThread k x).retired = s.retired := rfl
@[simp] theorem State.putThread_coreErrors (s : State) (k : Nat) (x : Thread) : (s.putThread k x).coreErrors = s.coreErrors := rfl
@[simp] theorem State.putThread_owners (s : State) (k : Nat) (x : Thread) : (s.putThread k x).owners = s.owners := rfl
@[simp] theorem State.putThread_rollback (s : State) (k : Nat) (x : Thread) : (s.putThread k x).rollback = s.rollback := rfl
@[simp] theorem State.putThread_images (s : State) (k : Nat) (x : Thread) : (s.putThread k x).images = s.images := rfl
@[simp] theorem State.putThread_firmware (s : State) (k : Nat) (x : Thread) : (s.putThread k x).firmware = s.firmware := rfl
@[simp] theorem State.putThread_cycle (s : State) (k : Nat) (x : Thread) : (s.putThread k x).cycle = s.cycle := rfl
@[simp] theorem State.putThread_fab (s : State) (k : Nat) (x : Thread) : (s.putThread k x).fab = s.fab := rfl
@[simp] theorem State.putThread_fabPart (s : State) (k : Nat) (x : Thread) : (s.putThread k x).fabPart = s.fabPart := rfl
@[simp] theorem State.putThread_fabUp (s : State) (k : Nat) (x : Thread) : (s.putThread k x).fabUp = s.fabUp := rfl
@[simp] theorem State.putThread_dispPart (s : State) (k : Nat) (x : Thread) : (s.putThread k x).dispPart = s.dispPart := rfl
@[simp] theorem State.putThread_turns (s : State) (k : Nat) (x : Thread) : (s.putThread k x).turns = s.turns := rfl
@[simp] theorem State.putThread_cur (s : State) (k : Nat) (x : Thread) : (s.putThread k x).cur = s.cur := rfl
@[simp] theorem State.putThread_served (s : State) (k : Nat) (x : Thread) : (s.putThread k x).served = s.served := rfl
@[simp] theorem State.putThread_reported (s : State) (k : Nat) (x : Thread) : (s.putThread k x).reported = s.reported := rfl
@[simp] theorem State.putThread_samplers (s : State) (k : Nat) (x : Thread) : (s.putThread k x).samplers = s.samplers := rfl
@[simp] theorem State.putThread_freeCtr (s : State) (k : Nat) (x : Thread) : (s.putThread k x).freeCtr = s.freeCtr := rfl

@[simp] theorem Wave.setPanel_alive (w : Wave) (e : Nat) (x : Panel) : (w.setPanel e x).alive = w.alive := rfl
@[simp] theorem Wave.setPanel_wg (w : Wave) (e : Nat) (x : Panel) : (w.setPanel e x).wg = w.wg := rfl
@[simp] theorem Wave.setPanel_idx (w : Wave) (e : Nat) (x : Panel) : (w.setPanel e x).idx = w.idx := rfl
@[simp] theorem Wave.setPanel_width (w : Wave) (e : Nat) (x : Panel) : (w.setPanel e x).width = w.width := rfl
@[simp] theorem Wave.setPanel_base (w : Wave) (e : Nat) (x : Panel) : (w.setPanel e x).base = w.base := rfl
@[simp] theorem Wave.setPanel_regs (w : Wave) (e : Nat) (x : Panel) : (w.setPanel e x).regs = w.regs := rfl
@[simp] theorem Wave.setPanel_v (w : Wave) (e : Nat) (x : Panel) : (w.setPanel e x).v = w.v := rfl
@[simp] theorem Wave.setPanel_o (w : Wave) (e : Nat) (x : Panel) : (w.setPanel e x).o = w.o := rfl
@[simp] theorem Wave.setPanel_latch (w : Wave) (e : Nat) (x : Panel) : (w.setPanel e x).latch = w.latch := rfl
@[simp] theorem Wave.setPanel_p (w : Wave) (e : Nat) (x : Panel) : (w.setPanel e x).p = w.p := rfl
@[simp] theorem Wave.setPanel_exited (w : Wave) (e : Nat) (x : Panel) : (w.setPanel e x).exited = w.exited := rfl
@[simp] theorem Wave.setPanel_panels (w : Wave) (e : Nat) (x : Panel) : (w.setPanel e x).panels = Sparse.set Panel.empty w.panels e x := rfl
@[simp] theorem Wave.setPanel_tickets (w : Wave) (e : Nat) (x : Panel) : (w.setPanel e x).tickets = w.tickets := rfl
@[simp] theorem Wave.setPanel_stalls (w : Wave) (e : Nat) (x : Panel) : (w.setPanel e x).stalls = w.stalls := rfl
@[simp] theorem Wave.setPanel_matrix (w : Wave) (e : Nat) (x : Panel) : (w.setPanel e x).matrix = w.matrix := rfl
@[simp] theorem Wave.setPanel_owed (w : Wave) (e : Nat) (x : Panel) : (w.setPanel e x).owed = w.owed := rfl
@[simp] theorem Wave.setPanel_releasing (w : Wave) (e : Nat) (x : Panel) : (w.setPanel e x).releasing = w.releasing := rfl
@[simp] theorem Wave.setPanel_splitAt (w : Wave) (e : Nat) (x : Panel) : (w.setPanel e x).splitAt = w.splitAt := rfl

@[simp] theorem Wave.setV_alive (w : Wave) (n : Nat) (m : Mask) (f : Nat → Word) : (w.setV n m f).alive = w.alive := rfl
@[simp] theorem Wave.setV_wg (w : Wave) (n : Nat) (m : Mask) (f : Nat → Word) : (w.setV n m f).wg = w.wg := rfl
@[simp] theorem Wave.setV_idx (w : Wave) (n : Nat) (m : Mask) (f : Nat → Word) : (w.setV n m f).idx = w.idx := rfl
@[simp] theorem Wave.setV_width (w : Wave) (n : Nat) (m : Mask) (f : Nat → Word) : (w.setV n m f).width = w.width := rfl
@[simp] theorem Wave.setV_base (w : Wave) (n : Nat) (m : Mask) (f : Nat → Word) : (w.setV n m f).base = w.base := rfl
@[simp] theorem Wave.setV_regs (w : Wave) (n : Nat) (m : Mask) (f : Nat → Word) : (w.setV n m f).regs = w.regs := rfl
@[simp] theorem Wave.setV_o (w : Wave) (n : Nat) (m : Mask) (f : Nat → Word) : (w.setV n m f).o = w.o := rfl
@[simp] theorem Wave.setV_latch (w : Wave) (n : Nat) (m : Mask) (f : Nat → Word) : (w.setV n m f).latch = w.latch := rfl
@[simp] theorem Wave.setV_p (w : Wave) (n : Nat) (m : Mask) (f : Nat → Word) : (w.setV n m f).p = w.p := rfl
@[simp] theorem Wave.setV_exited (w : Wave) (n : Nat) (m : Mask) (f : Nat → Word) : (w.setV n m f).exited = w.exited := rfl
@[simp] theorem Wave.setV_panels (w : Wave) (n : Nat) (m : Mask) (f : Nat → Word) : (w.setV n m f).panels = w.panels := rfl
@[simp] theorem Wave.setV_tickets (w : Wave) (n : Nat) (m : Mask) (f : Nat → Word) : (w.setV n m f).tickets = w.tickets := rfl
@[simp] theorem Wave.setV_stalls (w : Wave) (n : Nat) (m : Mask) (f : Nat → Word) : (w.setV n m f).stalls = w.stalls := rfl
@[simp] theorem Wave.setV_matrix (w : Wave) (n : Nat) (m : Mask) (f : Nat → Word) : (w.setV n m f).matrix = w.matrix := rfl
@[simp] theorem Wave.setV_owed (w : Wave) (n : Nat) (m : Mask) (f : Nat → Word) : (w.setV n m f).owed = w.owed := rfl
@[simp] theorem Wave.setV_releasing (w : Wave) (n : Nat) (m : Mask) (f : Nat → Word) : (w.setV n m f).releasing = w.releasing := rfl
@[simp] theorem Wave.setV_splitAt (w : Wave) (n : Nat) (m : Mask) (f : Nat → Word) : (w.setV n m f).splitAt = w.splitAt := rfl

@[simp] theorem Wave.setO_alive (w : Wave) (n : Nat) (m : Mask) (f : Nat → Word) : (w.setO n m f).alive = w.alive := rfl
@[simp] theorem Wave.setO_wg (w : Wave) (n : Nat) (m : Mask) (f : Nat → Word) : (w.setO n m f).wg = w.wg := rfl
@[simp] theorem Wave.setO_idx (w : Wave) (n : Nat) (m : Mask) (f : Nat → Word) : (w.setO n m f).idx = w.idx := rfl
@[simp] theorem Wave.setO_width (w : Wave) (n : Nat) (m : Mask) (f : Nat → Word) : (w.setO n m f).width = w.width := rfl
@[simp] theorem Wave.setO_base (w : Wave) (n : Nat) (m : Mask) (f : Nat → Word) : (w.setO n m f).base = w.base := rfl
@[simp] theorem Wave.setO_regs (w : Wave) (n : Nat) (m : Mask) (f : Nat → Word) : (w.setO n m f).regs = w.regs := rfl
@[simp] theorem Wave.setO_v (w : Wave) (n : Nat) (m : Mask) (f : Nat → Word) : (w.setO n m f).v = w.v := rfl
@[simp] theorem Wave.setO_latch (w : Wave) (n : Nat) (m : Mask) (f : Nat → Word) : (w.setO n m f).latch = w.latch := rfl
@[simp] theorem Wave.setO_p (w : Wave) (n : Nat) (m : Mask) (f : Nat → Word) : (w.setO n m f).p = w.p := rfl
@[simp] theorem Wave.setO_exited (w : Wave) (n : Nat) (m : Mask) (f : Nat → Word) : (w.setO n m f).exited = w.exited := rfl
@[simp] theorem Wave.setO_panels (w : Wave) (n : Nat) (m : Mask) (f : Nat → Word) : (w.setO n m f).panels = w.panels := rfl
@[simp] theorem Wave.setO_tickets (w : Wave) (n : Nat) (m : Mask) (f : Nat → Word) : (w.setO n m f).tickets = w.tickets := rfl
@[simp] theorem Wave.setO_stalls (w : Wave) (n : Nat) (m : Mask) (f : Nat → Word) : (w.setO n m f).stalls = w.stalls := rfl
@[simp] theorem Wave.setO_matrix (w : Wave) (n : Nat) (m : Mask) (f : Nat → Word) : (w.setO n m f).matrix = w.matrix := rfl
@[simp] theorem Wave.setO_owed (w : Wave) (n : Nat) (m : Mask) (f : Nat → Word) : (w.setO n m f).owed = w.owed := rfl
@[simp] theorem Wave.setO_releasing (w : Wave) (n : Nat) (m : Mask) (f : Nat → Word) : (w.setO n m f).releasing = w.releasing := rfl
@[simp] theorem Wave.setO_splitAt (w : Wave) (n : Nat) (m : Mask) (f : Nat → Word) : (w.setO n m f).splitAt = w.splitAt := rfl

@[simp] theorem Wave.setLatch_alive (w : Wave) (n : Nat) (m : Mask) (f : Nat → DWord) : (w.setLatch n m f).alive = w.alive := rfl
@[simp] theorem Wave.setLatch_wg (w : Wave) (n : Nat) (m : Mask) (f : Nat → DWord) : (w.setLatch n m f).wg = w.wg := rfl
@[simp] theorem Wave.setLatch_idx (w : Wave) (n : Nat) (m : Mask) (f : Nat → DWord) : (w.setLatch n m f).idx = w.idx := rfl
@[simp] theorem Wave.setLatch_width (w : Wave) (n : Nat) (m : Mask) (f : Nat → DWord) : (w.setLatch n m f).width = w.width := rfl
@[simp] theorem Wave.setLatch_base (w : Wave) (n : Nat) (m : Mask) (f : Nat → DWord) : (w.setLatch n m f).base = w.base := rfl
@[simp] theorem Wave.setLatch_regs (w : Wave) (n : Nat) (m : Mask) (f : Nat → DWord) : (w.setLatch n m f).regs = w.regs := rfl
@[simp] theorem Wave.setLatch_v (w : Wave) (n : Nat) (m : Mask) (f : Nat → DWord) : (w.setLatch n m f).v = w.v := rfl
@[simp] theorem Wave.setLatch_o (w : Wave) (n : Nat) (m : Mask) (f : Nat → DWord) : (w.setLatch n m f).o = w.o := rfl
@[simp] theorem Wave.setLatch_p (w : Wave) (n : Nat) (m : Mask) (f : Nat → DWord) : (w.setLatch n m f).p = w.p := rfl
@[simp] theorem Wave.setLatch_exited (w : Wave) (n : Nat) (m : Mask) (f : Nat → DWord) : (w.setLatch n m f).exited = w.exited := rfl
@[simp] theorem Wave.setLatch_panels (w : Wave) (n : Nat) (m : Mask) (f : Nat → DWord) : (w.setLatch n m f).panels = w.panels := rfl
@[simp] theorem Wave.setLatch_tickets (w : Wave) (n : Nat) (m : Mask) (f : Nat → DWord) : (w.setLatch n m f).tickets = w.tickets := rfl
@[simp] theorem Wave.setLatch_stalls (w : Wave) (n : Nat) (m : Mask) (f : Nat → DWord) : (w.setLatch n m f).stalls = w.stalls := rfl
@[simp] theorem Wave.setLatch_matrix (w : Wave) (n : Nat) (m : Mask) (f : Nat → DWord) : (w.setLatch n m f).matrix = w.matrix := rfl
@[simp] theorem Wave.setLatch_owed (w : Wave) (n : Nat) (m : Mask) (f : Nat → DWord) : (w.setLatch n m f).owed = w.owed := rfl
@[simp] theorem Wave.setLatch_releasing (w : Wave) (n : Nat) (m : Mask) (f : Nat → DWord) : (w.setLatch n m f).releasing = w.releasing := rfl
@[simp] theorem Wave.setLatch_splitAt (w : Wave) (n : Nat) (m : Mask) (f : Nat → DWord) : (w.setLatch n m f).splitAt = w.splitAt := rfl

@[simp] theorem Wave.setPred_alive (w : Wave) (n : Nat) (m : Mask) (f : Nat → Bool) : (w.setPred n m f).alive = w.alive := rfl
@[simp] theorem Wave.setPred_wg (w : Wave) (n : Nat) (m : Mask) (f : Nat → Bool) : (w.setPred n m f).wg = w.wg := rfl
@[simp] theorem Wave.setPred_idx (w : Wave) (n : Nat) (m : Mask) (f : Nat → Bool) : (w.setPred n m f).idx = w.idx := rfl
@[simp] theorem Wave.setPred_width (w : Wave) (n : Nat) (m : Mask) (f : Nat → Bool) : (w.setPred n m f).width = w.width := rfl
@[simp] theorem Wave.setPred_base (w : Wave) (n : Nat) (m : Mask) (f : Nat → Bool) : (w.setPred n m f).base = w.base := rfl
@[simp] theorem Wave.setPred_regs (w : Wave) (n : Nat) (m : Mask) (f : Nat → Bool) : (w.setPred n m f).regs = w.regs := rfl
@[simp] theorem Wave.setPred_v (w : Wave) (n : Nat) (m : Mask) (f : Nat → Bool) : (w.setPred n m f).v = w.v := rfl
@[simp] theorem Wave.setPred_o (w : Wave) (n : Nat) (m : Mask) (f : Nat → Bool) : (w.setPred n m f).o = w.o := rfl
@[simp] theorem Wave.setPred_latch (w : Wave) (n : Nat) (m : Mask) (f : Nat → Bool) : (w.setPred n m f).latch = w.latch := rfl
@[simp] theorem Wave.setPred_exited (w : Wave) (n : Nat) (m : Mask) (f : Nat → Bool) : (w.setPred n m f).exited = w.exited := rfl
@[simp] theorem Wave.setPred_panels (w : Wave) (n : Nat) (m : Mask) (f : Nat → Bool) : (w.setPred n m f).panels = w.panels := rfl
@[simp] theorem Wave.setPred_tickets (w : Wave) (n : Nat) (m : Mask) (f : Nat → Bool) : (w.setPred n m f).tickets = w.tickets := rfl
@[simp] theorem Wave.setPred_stalls (w : Wave) (n : Nat) (m : Mask) (f : Nat → Bool) : (w.setPred n m f).stalls = w.stalls := rfl
@[simp] theorem Wave.setPred_matrix (w : Wave) (n : Nat) (m : Mask) (f : Nat → Bool) : (w.setPred n m f).matrix = w.matrix := rfl
@[simp] theorem Wave.setPred_owed (w : Wave) (n : Nat) (m : Mask) (f : Nat → Bool) : (w.setPred n m f).owed = w.owed := rfl
@[simp] theorem Wave.setPred_releasing (w : Wave) (n : Nat) (m : Mask) (f : Nat → Bool) : (w.setPred n m f).releasing = w.releasing := rfl
@[simp] theorem Wave.setPred_splitAt (w : Wave) (n : Nat) (m : Mask) (f : Nat → Bool) : (w.setPred n m f).splitAt = w.splitAt := rfl

@[simp] theorem Panel.setG_valid (p : Panel) (n : Nat) (x : DWord) : (p.setG n x).valid = p.valid := rfl
@[simp] theorem Panel.setG_pc (p : Panel) (n : Nat) (x : DWord) : (p.setG n x).pc = p.pc := rfl
@[simp] theorem Panel.setG_qmask (p : Panel) (n : Nat) (x : DWord) : (p.setG n x).qmask = p.qmask := rfl
@[simp] theorem Panel.setG_status (p : Panel) (n : Nat) (x : DWord) : (p.setG n x).status = p.status := rfl
@[simp] theorem Panel.setG_under (p : Panel) (n : Nat) (x : DWord) : (p.setG n x).under = p.under := rfl
@[simp] theorem Panel.setG_frame (p : Panel) (n : Nat) (x : DWord) : (p.setG n x).frame = p.frame := rfl
@[simp] theorem Panel.setG_seamk (p : Panel) (n : Nat) (x : DWord) : (p.setG n x).seamk = p.seamk := rfl
@[simp] theorem Panel.setG_seamid (p : Panel) (n : Nat) (x : DWord) : (p.setG n x).seamid = p.seamid := rfl
@[simp] theorem Panel.setG_since (p : Panel) (n : Nat) (x : DWord) : (p.setG n x).since = p.since := rfl
@[simp] theorem Panel.setG_waitct (p : Panel) (n : Nat) (x : DWord) : (p.setG n x).waitct = p.waitct := rfl
@[simp] theorem Panel.setG_origin (p : Panel) (n : Nat) (x : DWord) : (p.setG n x).origin = p.origin := rfl
@[simp] theorem Panel.setG_stall (p : Panel) (n : Nat) (x : DWord) : (p.setG n x).stall = p.stall := rfl
@[simp] theorem Panel.setG_iss (p : Panel) (n : Nat) (x : DWord) : (p.setG n x).iss = p.iss := rfl
@[simp] theorem Panel.setG_mask (p : Panel) (n : Nat) (x : DWord) : (p.setG n x).mask = p.mask := rfl
@[simp] theorem Panel.setG_discarded (p : Panel) (n : Nat) (x : DWord) : (p.setG n x).discarded = p.discarded := rfl
@[simp] theorem Panel.setG_stack (p : Panel) (n : Nat) (x : DWord) : (p.setG n x).stack = p.stack := rfl
@[simp] theorem Panel.setG_clause (p : Panel) (n : Nat) (x : DWord) : (p.setG n x).clause = p.clause := rfl
@[simp] theorem Panel.setG_g (p : Panel) (n : Nat) (x : DWord) : (p.setG n x).g = Sparse.set 0 p.g n x := rfl
@[simp] theorem Panel.setG_gp (p : Panel) (n : Nat) (x : DWord) : (p.setG n x).gp = p.gp := rfl
@[simp] theorem Panel.setG_s (p : Panel) (n : Nat) (x : DWord) : (p.setG n x).s = p.s := rfl
@[simp] theorem Panel.setG_fb (p : Panel) (n : Nat) (x : DWord) : (p.setG n x).fb = p.fb := rfl
@[simp] theorem Panel.setG_fpc (p : Panel) (n : Nat) (x : DWord) : (p.setG n x).fpc = p.fpc := rfl
@[simp] theorem Panel.setG_mcr (p : Panel) (n : Nat) (x : DWord) : (p.setG n x).mcr = p.mcr := rfl
@[simp] theorem Panel.setG_px (p : Panel) (n : Nat) (x : DWord) : (p.setG n x).px = p.px := rfl
@[simp] theorem Panel.setG_hpx (p : Panel) (n : Nat) (x : DWord) : (p.setG n x).hpx = p.hpx := rfl
@[simp] theorem Panel.setG_mmq (p : Panel) (n : Nat) (x : DWord) : (p.setG n x).mmq = p.mmq := rfl
@[simp] theorem Panel.setG_xcause (p : Panel) (n : Nat) (x : DWord) : (p.setG n x).xcause = p.xcause := rfl
@[simp] theorem Panel.setG_xpc (p : Panel) (n : Nat) (x : DWord) : (p.setG n x).xpc = p.xpc := rfl
@[simp] theorem Panel.setG_xaddr (p : Panel) (n : Nat) (x : DWord) : (p.setG n x).xaddr = p.xaddr := rfl
@[simp] theorem Panel.setG_outst (p : Panel) (n : Nat) (x : DWord) : (p.setG n x).outst = p.outst := rfl
@[simp] theorem Panel.setG_undrained (p : Panel) (n : Nat) (x : DWord) : (p.setG n x).undrained = p.undrained := rfl
@[simp] theorem Panel.setG_wait (p : Panel) (n : Nat) (x : DWord) : (p.setG n x).wait = p.wait := rfl
@[simp] theorem Panel.setG_hold (p : Panel) (n : Nat) (x : DWord) : (p.setG n x).hold = p.hold := rfl
@[simp] theorem Panel.setG_ready (p : Panel) (n : Nat) (x : DWord) : (p.setG n x).ready = p.ready := rfl
@[simp] theorem Panel.setG_yielded (p : Panel) (n : Nat) (x : DWord) : (p.setG n x).yielded = p.yielded := rfl
@[simp] theorem Panel.setG_pause (p : Panel) (n : Nat) (x : DWord) : (p.setG n x).pause = p.pause := rfl
@[simp] theorem Panel.setG_entered (p : Panel) (n : Nat) (x : DWord) : (p.setG n x).entered = p.entered := rfl
@[simp] theorem Panel.setG_hinted (p : Panel) (n : Nat) (x : DWord) : (p.setG n x).hinted = p.hinted := rfl
@[simp] theorem Panel.setG_doneAt (p : Panel) (n : Nat) (x : DWord) : (p.setG n x).doneAt = p.doneAt := rfl
@[simp] theorem Panel.setG_got (p : Panel) (n : Nat) (x : DWord) : (p.setG n x).got = p.got := rfl
@[simp] theorem Panel.setG_stopAsked (p : Panel) (n : Nat) (x : DWord) : (p.setG n x).stopAsked = p.stopAsked := rfl
@[simp] theorem Panel.setG_stepping (p : Panel) (n : Nat) (x : DWord) : (p.setG n x).stepping = p.stepping := rfl

@[simp] theorem Panel.setGp_valid (p : Panel) (n : Nat) (b : Bool) : (p.setGp n b).valid = p.valid := rfl
@[simp] theorem Panel.setGp_pc (p : Panel) (n : Nat) (b : Bool) : (p.setGp n b).pc = p.pc := rfl
@[simp] theorem Panel.setGp_qmask (p : Panel) (n : Nat) (b : Bool) : (p.setGp n b).qmask = p.qmask := rfl
@[simp] theorem Panel.setGp_status (p : Panel) (n : Nat) (b : Bool) : (p.setGp n b).status = p.status := rfl
@[simp] theorem Panel.setGp_under (p : Panel) (n : Nat) (b : Bool) : (p.setGp n b).under = p.under := rfl
@[simp] theorem Panel.setGp_frame (p : Panel) (n : Nat) (b : Bool) : (p.setGp n b).frame = p.frame := rfl
@[simp] theorem Panel.setGp_seamk (p : Panel) (n : Nat) (b : Bool) : (p.setGp n b).seamk = p.seamk := rfl
@[simp] theorem Panel.setGp_seamid (p : Panel) (n : Nat) (b : Bool) : (p.setGp n b).seamid = p.seamid := rfl
@[simp] theorem Panel.setGp_since (p : Panel) (n : Nat) (b : Bool) : (p.setGp n b).since = p.since := rfl
@[simp] theorem Panel.setGp_waitct (p : Panel) (n : Nat) (b : Bool) : (p.setGp n b).waitct = p.waitct := rfl
@[simp] theorem Panel.setGp_origin (p : Panel) (n : Nat) (b : Bool) : (p.setGp n b).origin = p.origin := rfl
@[simp] theorem Panel.setGp_stall (p : Panel) (n : Nat) (b : Bool) : (p.setGp n b).stall = p.stall := rfl
@[simp] theorem Panel.setGp_iss (p : Panel) (n : Nat) (b : Bool) : (p.setGp n b).iss = p.iss := rfl
@[simp] theorem Panel.setGp_mask (p : Panel) (n : Nat) (b : Bool) : (p.setGp n b).mask = p.mask := rfl
@[simp] theorem Panel.setGp_discarded (p : Panel) (n : Nat) (b : Bool) : (p.setGp n b).discarded = p.discarded := rfl
@[simp] theorem Panel.setGp_stack (p : Panel) (n : Nat) (b : Bool) : (p.setGp n b).stack = p.stack := rfl
@[simp] theorem Panel.setGp_clause (p : Panel) (n : Nat) (b : Bool) : (p.setGp n b).clause = p.clause := rfl
@[simp] theorem Panel.setGp_g (p : Panel) (n : Nat) (b : Bool) : (p.setGp n b).g = p.g := rfl
@[simp] theorem Panel.setGp_s (p : Panel) (n : Nat) (b : Bool) : (p.setGp n b).s = p.s := rfl
@[simp] theorem Panel.setGp_fb (p : Panel) (n : Nat) (b : Bool) : (p.setGp n b).fb = p.fb := rfl
@[simp] theorem Panel.setGp_fpc (p : Panel) (n : Nat) (b : Bool) : (p.setGp n b).fpc = p.fpc := rfl
@[simp] theorem Panel.setGp_mcr (p : Panel) (n : Nat) (b : Bool) : (p.setGp n b).mcr = p.mcr := rfl
@[simp] theorem Panel.setGp_px (p : Panel) (n : Nat) (b : Bool) : (p.setGp n b).px = p.px := rfl
@[simp] theorem Panel.setGp_hpx (p : Panel) (n : Nat) (b : Bool) : (p.setGp n b).hpx = p.hpx := rfl
@[simp] theorem Panel.setGp_mmq (p : Panel) (n : Nat) (b : Bool) : (p.setGp n b).mmq = p.mmq := rfl
@[simp] theorem Panel.setGp_xcause (p : Panel) (n : Nat) (b : Bool) : (p.setGp n b).xcause = p.xcause := rfl
@[simp] theorem Panel.setGp_xpc (p : Panel) (n : Nat) (b : Bool) : (p.setGp n b).xpc = p.xpc := rfl
@[simp] theorem Panel.setGp_xaddr (p : Panel) (n : Nat) (b : Bool) : (p.setGp n b).xaddr = p.xaddr := rfl
@[simp] theorem Panel.setGp_outst (p : Panel) (n : Nat) (b : Bool) : (p.setGp n b).outst = p.outst := rfl
@[simp] theorem Panel.setGp_undrained (p : Panel) (n : Nat) (b : Bool) : (p.setGp n b).undrained = p.undrained := rfl
@[simp] theorem Panel.setGp_wait (p : Panel) (n : Nat) (b : Bool) : (p.setGp n b).wait = p.wait := rfl
@[simp] theorem Panel.setGp_hold (p : Panel) (n : Nat) (b : Bool) : (p.setGp n b).hold = p.hold := rfl
@[simp] theorem Panel.setGp_ready (p : Panel) (n : Nat) (b : Bool) : (p.setGp n b).ready = p.ready := rfl
@[simp] theorem Panel.setGp_yielded (p : Panel) (n : Nat) (b : Bool) : (p.setGp n b).yielded = p.yielded := rfl
@[simp] theorem Panel.setGp_pause (p : Panel) (n : Nat) (b : Bool) : (p.setGp n b).pause = p.pause := rfl
@[simp] theorem Panel.setGp_entered (p : Panel) (n : Nat) (b : Bool) : (p.setGp n b).entered = p.entered := rfl
@[simp] theorem Panel.setGp_hinted (p : Panel) (n : Nat) (b : Bool) : (p.setGp n b).hinted = p.hinted := rfl
@[simp] theorem Panel.setGp_doneAt (p : Panel) (n : Nat) (b : Bool) : (p.setGp n b).doneAt = p.doneAt := rfl
@[simp] theorem Panel.setGp_got (p : Panel) (n : Nat) (b : Bool) : (p.setGp n b).got = p.got := rfl
@[simp] theorem Panel.setGp_stopAsked (p : Panel) (n : Nat) (b : Bool) : (p.setGp n b).stopAsked = p.stopAsked := rfl
@[simp] theorem Panel.setGp_stepping (p : Panel) (n : Nat) (b : Bool) : (p.setGp n b).stepping = p.stepping := rfl

@[simp] theorem Panel.setStream_valid (p : Panel) (k : Nat) (x : Stream) : (p.setStream k x).valid = p.valid := rfl
@[simp] theorem Panel.setStream_pc (p : Panel) (k : Nat) (x : Stream) : (p.setStream k x).pc = p.pc := rfl
@[simp] theorem Panel.setStream_qmask (p : Panel) (k : Nat) (x : Stream) : (p.setStream k x).qmask = p.qmask := rfl
@[simp] theorem Panel.setStream_status (p : Panel) (k : Nat) (x : Stream) : (p.setStream k x).status = p.status := rfl
@[simp] theorem Panel.setStream_under (p : Panel) (k : Nat) (x : Stream) : (p.setStream k x).under = p.under := rfl
@[simp] theorem Panel.setStream_frame (p : Panel) (k : Nat) (x : Stream) : (p.setStream k x).frame = p.frame := rfl
@[simp] theorem Panel.setStream_seamk (p : Panel) (k : Nat) (x : Stream) : (p.setStream k x).seamk = p.seamk := rfl
@[simp] theorem Panel.setStream_seamid (p : Panel) (k : Nat) (x : Stream) : (p.setStream k x).seamid = p.seamid := rfl
@[simp] theorem Panel.setStream_since (p : Panel) (k : Nat) (x : Stream) : (p.setStream k x).since = p.since := rfl
@[simp] theorem Panel.setStream_waitct (p : Panel) (k : Nat) (x : Stream) : (p.setStream k x).waitct = p.waitct := rfl
@[simp] theorem Panel.setStream_origin (p : Panel) (k : Nat) (x : Stream) : (p.setStream k x).origin = p.origin := rfl
@[simp] theorem Panel.setStream_stall (p : Panel) (k : Nat) (x : Stream) : (p.setStream k x).stall = p.stall := rfl
@[simp] theorem Panel.setStream_iss (p : Panel) (k : Nat) (x : Stream) : (p.setStream k x).iss = p.iss := rfl
@[simp] theorem Panel.setStream_mask (p : Panel) (k : Nat) (x : Stream) : (p.setStream k x).mask = p.mask := rfl
@[simp] theorem Panel.setStream_discarded (p : Panel) (k : Nat) (x : Stream) : (p.setStream k x).discarded = p.discarded := rfl
@[simp] theorem Panel.setStream_stack (p : Panel) (k : Nat) (x : Stream) : (p.setStream k x).stack = p.stack := rfl
@[simp] theorem Panel.setStream_clause (p : Panel) (k : Nat) (x : Stream) : (p.setStream k x).clause = p.clause := rfl
@[simp] theorem Panel.setStream_g (p : Panel) (k : Nat) (x : Stream) : (p.setStream k x).g = p.g := rfl
@[simp] theorem Panel.setStream_gp (p : Panel) (k : Nat) (x : Stream) : (p.setStream k x).gp = p.gp := rfl
@[simp] theorem Panel.setStream_s (p : Panel) (k : Nat) (x : Stream) : (p.setStream k x).s = Sparse.set Stream.zero p.s k x := rfl
@[simp] theorem Panel.setStream_fb (p : Panel) (k : Nat) (x : Stream) : (p.setStream k x).fb = p.fb := rfl
@[simp] theorem Panel.setStream_fpc (p : Panel) (k : Nat) (x : Stream) : (p.setStream k x).fpc = p.fpc := rfl
@[simp] theorem Panel.setStream_mcr (p : Panel) (k : Nat) (x : Stream) : (p.setStream k x).mcr = p.mcr := rfl
@[simp] theorem Panel.setStream_px (p : Panel) (k : Nat) (x : Stream) : (p.setStream k x).px = p.px := rfl
@[simp] theorem Panel.setStream_hpx (p : Panel) (k : Nat) (x : Stream) : (p.setStream k x).hpx = p.hpx := rfl
@[simp] theorem Panel.setStream_mmq (p : Panel) (k : Nat) (x : Stream) : (p.setStream k x).mmq = p.mmq := rfl
@[simp] theorem Panel.setStream_xcause (p : Panel) (k : Nat) (x : Stream) : (p.setStream k x).xcause = p.xcause := rfl
@[simp] theorem Panel.setStream_xpc (p : Panel) (k : Nat) (x : Stream) : (p.setStream k x).xpc = p.xpc := rfl
@[simp] theorem Panel.setStream_xaddr (p : Panel) (k : Nat) (x : Stream) : (p.setStream k x).xaddr = p.xaddr := rfl
@[simp] theorem Panel.setStream_outst (p : Panel) (k : Nat) (x : Stream) : (p.setStream k x).outst = p.outst := rfl
@[simp] theorem Panel.setStream_undrained (p : Panel) (k : Nat) (x : Stream) : (p.setStream k x).undrained = p.undrained := rfl
@[simp] theorem Panel.setStream_wait (p : Panel) (k : Nat) (x : Stream) : (p.setStream k x).wait = p.wait := rfl
@[simp] theorem Panel.setStream_hold (p : Panel) (k : Nat) (x : Stream) : (p.setStream k x).hold = p.hold := rfl
@[simp] theorem Panel.setStream_ready (p : Panel) (k : Nat) (x : Stream) : (p.setStream k x).ready = p.ready := rfl
@[simp] theorem Panel.setStream_yielded (p : Panel) (k : Nat) (x : Stream) : (p.setStream k x).yielded = p.yielded := rfl
@[simp] theorem Panel.setStream_pause (p : Panel) (k : Nat) (x : Stream) : (p.setStream k x).pause = p.pause := rfl
@[simp] theorem Panel.setStream_entered (p : Panel) (k : Nat) (x : Stream) : (p.setStream k x).entered = p.entered := rfl
@[simp] theorem Panel.setStream_hinted (p : Panel) (k : Nat) (x : Stream) : (p.setStream k x).hinted = p.hinted := rfl
@[simp] theorem Panel.setStream_doneAt (p : Panel) (k : Nat) (x : Stream) : (p.setStream k x).doneAt = p.doneAt := rfl
@[simp] theorem Panel.setStream_got (p : Panel) (k : Nat) (x : Stream) : (p.setStream k x).got = p.got := rfl
@[simp] theorem Panel.setStream_stopAsked (p : Panel) (k : Nat) (x : Stream) : (p.setStream k x).stopAsked = p.stopAsked := rfl
@[simp] theorem Panel.setStream_stepping (p : Panel) (k : Nat) (x : Stream) : (p.setStream k x).stepping = p.stepping := rfl

@[simp] theorem Panel.setFormat_valid (p : Panel) (k : Nat) (x : BitVec 128) : (p.setFormat k x).valid = p.valid := rfl
@[simp] theorem Panel.setFormat_pc (p : Panel) (k : Nat) (x : BitVec 128) : (p.setFormat k x).pc = p.pc := rfl
@[simp] theorem Panel.setFormat_qmask (p : Panel) (k : Nat) (x : BitVec 128) : (p.setFormat k x).qmask = p.qmask := rfl
@[simp] theorem Panel.setFormat_status (p : Panel) (k : Nat) (x : BitVec 128) : (p.setFormat k x).status = p.status := rfl
@[simp] theorem Panel.setFormat_under (p : Panel) (k : Nat) (x : BitVec 128) : (p.setFormat k x).under = p.under := rfl
@[simp] theorem Panel.setFormat_frame (p : Panel) (k : Nat) (x : BitVec 128) : (p.setFormat k x).frame = p.frame := rfl
@[simp] theorem Panel.setFormat_seamk (p : Panel) (k : Nat) (x : BitVec 128) : (p.setFormat k x).seamk = p.seamk := rfl
@[simp] theorem Panel.setFormat_seamid (p : Panel) (k : Nat) (x : BitVec 128) : (p.setFormat k x).seamid = p.seamid := rfl
@[simp] theorem Panel.setFormat_since (p : Panel) (k : Nat) (x : BitVec 128) : (p.setFormat k x).since = p.since := rfl
@[simp] theorem Panel.setFormat_waitct (p : Panel) (k : Nat) (x : BitVec 128) : (p.setFormat k x).waitct = p.waitct := rfl
@[simp] theorem Panel.setFormat_origin (p : Panel) (k : Nat) (x : BitVec 128) : (p.setFormat k x).origin = p.origin := rfl
@[simp] theorem Panel.setFormat_stall (p : Panel) (k : Nat) (x : BitVec 128) : (p.setFormat k x).stall = p.stall := rfl
@[simp] theorem Panel.setFormat_iss (p : Panel) (k : Nat) (x : BitVec 128) : (p.setFormat k x).iss = p.iss := rfl
@[simp] theorem Panel.setFormat_mask (p : Panel) (k : Nat) (x : BitVec 128) : (p.setFormat k x).mask = p.mask := rfl
@[simp] theorem Panel.setFormat_discarded (p : Panel) (k : Nat) (x : BitVec 128) : (p.setFormat k x).discarded = p.discarded := rfl
@[simp] theorem Panel.setFormat_stack (p : Panel) (k : Nat) (x : BitVec 128) : (p.setFormat k x).stack = p.stack := rfl
@[simp] theorem Panel.setFormat_clause (p : Panel) (k : Nat) (x : BitVec 128) : (p.setFormat k x).clause = p.clause := rfl
@[simp] theorem Panel.setFormat_g (p : Panel) (k : Nat) (x : BitVec 128) : (p.setFormat k x).g = p.g := rfl
@[simp] theorem Panel.setFormat_gp (p : Panel) (k : Nat) (x : BitVec 128) : (p.setFormat k x).gp = p.gp := rfl
@[simp] theorem Panel.setFormat_s (p : Panel) (k : Nat) (x : BitVec 128) : (p.setFormat k x).s = p.s := rfl
@[simp] theorem Panel.setFormat_fb (p : Panel) (k : Nat) (x : BitVec 128) : (p.setFormat k x).fb = Sparse.set 0 p.fb k x := rfl
@[simp] theorem Panel.setFormat_fpc (p : Panel) (k : Nat) (x : BitVec 128) : (p.setFormat k x).fpc = p.fpc := rfl
@[simp] theorem Panel.setFormat_mcr (p : Panel) (k : Nat) (x : BitVec 128) : (p.setFormat k x).mcr = p.mcr := rfl
@[simp] theorem Panel.setFormat_px (p : Panel) (k : Nat) (x : BitVec 128) : (p.setFormat k x).px = p.px := rfl
@[simp] theorem Panel.setFormat_hpx (p : Panel) (k : Nat) (x : BitVec 128) : (p.setFormat k x).hpx = p.hpx := rfl
@[simp] theorem Panel.setFormat_mmq (p : Panel) (k : Nat) (x : BitVec 128) : (p.setFormat k x).mmq = p.mmq := rfl
@[simp] theorem Panel.setFormat_xcause (p : Panel) (k : Nat) (x : BitVec 128) : (p.setFormat k x).xcause = p.xcause := rfl
@[simp] theorem Panel.setFormat_xpc (p : Panel) (k : Nat) (x : BitVec 128) : (p.setFormat k x).xpc = p.xpc := rfl
@[simp] theorem Panel.setFormat_xaddr (p : Panel) (k : Nat) (x : BitVec 128) : (p.setFormat k x).xaddr = p.xaddr := rfl
@[simp] theorem Panel.setFormat_outst (p : Panel) (k : Nat) (x : BitVec 128) : (p.setFormat k x).outst = p.outst := rfl
@[simp] theorem Panel.setFormat_undrained (p : Panel) (k : Nat) (x : BitVec 128) : (p.setFormat k x).undrained = p.undrained := rfl
@[simp] theorem Panel.setFormat_wait (p : Panel) (k : Nat) (x : BitVec 128) : (p.setFormat k x).wait = p.wait := rfl
@[simp] theorem Panel.setFormat_hold (p : Panel) (k : Nat) (x : BitVec 128) : (p.setFormat k x).hold = p.hold := rfl
@[simp] theorem Panel.setFormat_ready (p : Panel) (k : Nat) (x : BitVec 128) : (p.setFormat k x).ready = p.ready := rfl
@[simp] theorem Panel.setFormat_yielded (p : Panel) (k : Nat) (x : BitVec 128) : (p.setFormat k x).yielded = p.yielded := rfl
@[simp] theorem Panel.setFormat_pause (p : Panel) (k : Nat) (x : BitVec 128) : (p.setFormat k x).pause = p.pause := rfl
@[simp] theorem Panel.setFormat_entered (p : Panel) (k : Nat) (x : BitVec 128) : (p.setFormat k x).entered = p.entered := rfl
@[simp] theorem Panel.setFormat_hinted (p : Panel) (k : Nat) (x : BitVec 128) : (p.setFormat k x).hinted = p.hinted := rfl
@[simp] theorem Panel.setFormat_doneAt (p : Panel) (k : Nat) (x : BitVec 128) : (p.setFormat k x).doneAt = p.doneAt := rfl
@[simp] theorem Panel.setFormat_got (p : Panel) (k : Nat) (x : BitVec 128) : (p.setFormat k x).got = p.got := rfl
@[simp] theorem Panel.setFormat_stopAsked (p : Panel) (k : Nat) (x : BitVec 128) : (p.setFormat k x).stopAsked = p.stopAsked := rfl
@[simp] theorem Panel.setFormat_stepping (p : Panel) (k : Nat) (x : BitVec 128) : (p.setFormat k x).stepping = p.stepping := rfl

@[simp] theorem Panel.raise_valid (p : Panel) (x : Word) : (p.raise x).valid = p.valid := rfl
@[simp] theorem Panel.raise_pc (p : Panel) (x : Word) : (p.raise x).pc = p.pc := rfl
@[simp] theorem Panel.raise_qmask (p : Panel) (x : Word) : (p.raise x).qmask = p.qmask := rfl
@[simp] theorem Panel.raise_status (p : Panel) (x : Word) : (p.raise x).status = p.status := rfl
@[simp] theorem Panel.raise_under (p : Panel) (x : Word) : (p.raise x).under = p.under := rfl
@[simp] theorem Panel.raise_frame (p : Panel) (x : Word) : (p.raise x).frame = p.frame := rfl
@[simp] theorem Panel.raise_seamk (p : Panel) (x : Word) : (p.raise x).seamk = p.seamk := rfl
@[simp] theorem Panel.raise_seamid (p : Panel) (x : Word) : (p.raise x).seamid = p.seamid := rfl
@[simp] theorem Panel.raise_since (p : Panel) (x : Word) : (p.raise x).since = p.since := rfl
@[simp] theorem Panel.raise_waitct (p : Panel) (x : Word) : (p.raise x).waitct = p.waitct := rfl
@[simp] theorem Panel.raise_origin (p : Panel) (x : Word) : (p.raise x).origin = p.origin := rfl
@[simp] theorem Panel.raise_stall (p : Panel) (x : Word) : (p.raise x).stall = p.stall := rfl
@[simp] theorem Panel.raise_iss (p : Panel) (x : Word) : (p.raise x).iss = p.iss := rfl
@[simp] theorem Panel.raise_mask (p : Panel) (x : Word) : (p.raise x).mask = p.mask := rfl
@[simp] theorem Panel.raise_discarded (p : Panel) (x : Word) : (p.raise x).discarded = p.discarded := rfl
@[simp] theorem Panel.raise_stack (p : Panel) (x : Word) : (p.raise x).stack = p.stack := rfl
@[simp] theorem Panel.raise_clause (p : Panel) (x : Word) : (p.raise x).clause = p.clause := rfl
@[simp] theorem Panel.raise_g (p : Panel) (x : Word) : (p.raise x).g = p.g := rfl
@[simp] theorem Panel.raise_gp (p : Panel) (x : Word) : (p.raise x).gp = p.gp := rfl
@[simp] theorem Panel.raise_s (p : Panel) (x : Word) : (p.raise x).s = p.s := rfl
@[simp] theorem Panel.raise_fb (p : Panel) (x : Word) : (p.raise x).fb = p.fb := rfl
@[simp] theorem Panel.raise_fpc (p : Panel) (x : Word) : (p.raise x).fpc = p.fpc ||| (x &&& 0xFF) := rfl
@[simp] theorem Panel.raise_mcr (p : Panel) (x : Word) : (p.raise x).mcr = p.mcr := rfl
@[simp] theorem Panel.raise_px (p : Panel) (x : Word) : (p.raise x).px = p.px := rfl
@[simp] theorem Panel.raise_hpx (p : Panel) (x : Word) : (p.raise x).hpx = p.hpx := rfl
@[simp] theorem Panel.raise_mmq (p : Panel) (x : Word) : (p.raise x).mmq = p.mmq := rfl
@[simp] theorem Panel.raise_xcause (p : Panel) (x : Word) : (p.raise x).xcause = p.xcause := rfl
@[simp] theorem Panel.raise_xpc (p : Panel) (x : Word) : (p.raise x).xpc = p.xpc := rfl
@[simp] theorem Panel.raise_xaddr (p : Panel) (x : Word) : (p.raise x).xaddr = p.xaddr := rfl
@[simp] theorem Panel.raise_outst (p : Panel) (x : Word) : (p.raise x).outst = p.outst := rfl
@[simp] theorem Panel.raise_undrained (p : Panel) (x : Word) : (p.raise x).undrained = p.undrained := rfl
@[simp] theorem Panel.raise_wait (p : Panel) (x : Word) : (p.raise x).wait = p.wait := rfl
@[simp] theorem Panel.raise_hold (p : Panel) (x : Word) : (p.raise x).hold = p.hold := rfl
@[simp] theorem Panel.raise_ready (p : Panel) (x : Word) : (p.raise x).ready = p.ready := rfl
@[simp] theorem Panel.raise_yielded (p : Panel) (x : Word) : (p.raise x).yielded = p.yielded := rfl
@[simp] theorem Panel.raise_pause (p : Panel) (x : Word) : (p.raise x).pause = p.pause := rfl
@[simp] theorem Panel.raise_entered (p : Panel) (x : Word) : (p.raise x).entered = p.entered := rfl
@[simp] theorem Panel.raise_hinted (p : Panel) (x : Word) : (p.raise x).hinted = p.hinted := rfl
@[simp] theorem Panel.raise_doneAt (p : Panel) (x : Word) : (p.raise x).doneAt = p.doneAt := rfl
@[simp] theorem Panel.raise_got (p : Panel) (x : Word) : (p.raise x).got = p.got := rfl
@[simp] theorem Panel.raise_stopAsked (p : Panel) (x : Word) : (p.raise x).stopAsked = p.stopAsked := rfl
@[simp] theorem Panel.raise_stepping (p : Panel) (x : Word) : (p.raise x).stepping = p.stepping := rfl

@[simp] theorem Panel.advance_valid (p : Panel) (n t : Nat) : (p.advance n t).valid = p.valid := by
  unfold Panel.advance; split <;> [rfl; (split <;> rfl)]
@[simp] theorem Panel.advance_pc (p : Panel) (n t : Nat) : (p.advance n t).pc = (p.pc + 4 * n) % 2 ^ 57 := by
  unfold Panel.advance; split <;> [rfl; (split <;> rfl)]
@[simp] theorem Panel.advance_qmask (p : Panel) (n t : Nat) : (p.advance n t).qmask = p.qmask := by
  unfold Panel.advance; split <;> [rfl; (split <;> rfl)]
@[simp] theorem Panel.advance_status (p : Panel) (n t : Nat) : (p.advance n t).status = p.status := by
  unfold Panel.advance; split <;> [rfl; (split <;> rfl)]
@[simp] theorem Panel.advance_under (p : Panel) (n t : Nat) : (p.advance n t).under = p.under := by
  unfold Panel.advance; split <;> [rfl; (split <;> rfl)]
@[simp] theorem Panel.advance_frame (p : Panel) (n t : Nat) : (p.advance n t).frame = p.frame := by
  unfold Panel.advance; split <;> [rfl; (split <;> rfl)]
@[simp] theorem Panel.advance_seamk (p : Panel) (n t : Nat) : (p.advance n t).seamk = p.seamk := by
  unfold Panel.advance; split <;> [rfl; (split <;> rfl)]
@[simp] theorem Panel.advance_seamid (p : Panel) (n t : Nat) : (p.advance n t).seamid = p.seamid := by
  unfold Panel.advance; split <;> [rfl; (split <;> rfl)]
@[simp] theorem Panel.advance_since (p : Panel) (n t : Nat) : (p.advance n t).since = p.since := by
  unfold Panel.advance; split <;> [rfl; (split <;> rfl)]
@[simp] theorem Panel.advance_waitct (p : Panel) (n t : Nat) : (p.advance n t).waitct = p.waitct := by
  unfold Panel.advance; split <;> [rfl; (split <;> rfl)]
@[simp] theorem Panel.advance_origin (p : Panel) (n t : Nat) : (p.advance n t).origin = p.origin := by
  unfold Panel.advance; split <;> [rfl; (split <;> rfl)]
@[simp] theorem Panel.advance_stall (p : Panel) (n t : Nat) : (p.advance n t).stall = p.stall := by
  unfold Panel.advance; split <;> [rfl; (split <;> rfl)]
@[simp] theorem Panel.advance_iss (p : Panel) (n t : Nat) : (p.advance n t).iss = p.iss := by
  unfold Panel.advance; split <;> [rfl; (split <;> rfl)]
@[simp] theorem Panel.advance_mask (p : Panel) (n t : Nat) : (p.advance n t).mask = p.mask := by
  unfold Panel.advance; split <;> [rfl; (split <;> rfl)]
@[simp] theorem Panel.advance_discarded (p : Panel) (n t : Nat) : (p.advance n t).discarded = p.discarded := by
  unfold Panel.advance; split <;> [rfl; (split <;> rfl)]
@[simp] theorem Panel.advance_stack (p : Panel) (n t : Nat) : (p.advance n t).stack = p.stack := by
  unfold Panel.advance; split <;> [rfl; (split <;> rfl)]
@[simp] theorem Panel.advance_g (p : Panel) (n t : Nat) : (p.advance n t).g = p.g := by
  unfold Panel.advance; split <;> [rfl; (split <;> rfl)]
@[simp] theorem Panel.advance_gp (p : Panel) (n t : Nat) : (p.advance n t).gp = p.gp := by
  unfold Panel.advance; split <;> [rfl; (split <;> rfl)]
@[simp] theorem Panel.advance_s (p : Panel) (n t : Nat) : (p.advance n t).s = p.s := by
  unfold Panel.advance; split <;> [rfl; (split <;> rfl)]
@[simp] theorem Panel.advance_fb (p : Panel) (n t : Nat) : (p.advance n t).fb = p.fb := by
  unfold Panel.advance; split <;> [rfl; (split <;> rfl)]
@[simp] theorem Panel.advance_fpc (p : Panel) (n t : Nat) : (p.advance n t).fpc = p.fpc := by
  unfold Panel.advance; split <;> [rfl; (split <;> rfl)]
@[simp] theorem Panel.advance_mcr (p : Panel) (n t : Nat) : (p.advance n t).mcr = p.mcr := by
  unfold Panel.advance; split <;> [rfl; (split <;> rfl)]
@[simp] theorem Panel.advance_px (p : Panel) (n t : Nat) : (p.advance n t).px = p.px := by
  unfold Panel.advance; split <;> [rfl; (split <;> rfl)]
@[simp] theorem Panel.advance_hpx (p : Panel) (n t : Nat) : (p.advance n t).hpx = p.hpx := by
  unfold Panel.advance; split <;> [rfl; (split <;> rfl)]
@[simp] theorem Panel.advance_mmq (p : Panel) (n t : Nat) : (p.advance n t).mmq = p.mmq := by
  unfold Panel.advance; split <;> [rfl; (split <;> rfl)]
@[simp] theorem Panel.advance_xcause (p : Panel) (n t : Nat) : (p.advance n t).xcause = p.xcause := by
  unfold Panel.advance; split <;> [rfl; (split <;> rfl)]
@[simp] theorem Panel.advance_xpc (p : Panel) (n t : Nat) : (p.advance n t).xpc = p.xpc := by
  unfold Panel.advance; split <;> [rfl; (split <;> rfl)]
@[simp] theorem Panel.advance_xaddr (p : Panel) (n t : Nat) : (p.advance n t).xaddr = p.xaddr := by
  unfold Panel.advance; split <;> [rfl; (split <;> rfl)]
@[simp] theorem Panel.advance_outst (p : Panel) (n t : Nat) : (p.advance n t).outst = p.outst := by
  unfold Panel.advance; split <;> [rfl; (split <;> rfl)]
@[simp] theorem Panel.advance_undrained (p : Panel) (n t : Nat) : (p.advance n t).undrained = p.undrained := by
  unfold Panel.advance; split <;> [rfl; (split <;> rfl)]
@[simp] theorem Panel.advance_wait (p : Panel) (n t : Nat) : (p.advance n t).wait = p.wait := by
  unfold Panel.advance; split <;> [rfl; (split <;> rfl)]
@[simp] theorem Panel.advance_ready (p : Panel) (n t : Nat) : (p.advance n t).ready = p.ready := by
  unfold Panel.advance; split <;> [rfl; (split <;> rfl)]
@[simp] theorem Panel.advance_yielded (p : Panel) (n t : Nat) : (p.advance n t).yielded = p.yielded := by
  unfold Panel.advance; split <;> [rfl; (split <;> rfl)]
@[simp] theorem Panel.advance_pause (p : Panel) (n t : Nat) : (p.advance n t).pause = p.pause := by
  unfold Panel.advance; split <;> [rfl; (split <;> rfl)]
@[simp] theorem Panel.advance_entered (p : Panel) (n t : Nat) : (p.advance n t).entered = p.entered := by
  unfold Panel.advance; split <;> [rfl; (split <;> rfl)]
@[simp] theorem Panel.advance_doneAt (p : Panel) (n t : Nat) : (p.advance n t).doneAt = t := by
  unfold Panel.advance; split <;> [rfl; (split <;> rfl)]
@[simp] theorem Panel.advance_got (p : Panel) (n t : Nat) : (p.advance n t).got = [] := by
  unfold Panel.advance; split <;> [rfl; (split <;> rfl)]
@[simp] theorem Panel.advance_stopAsked (p : Panel) (n t : Nat) : (p.advance n t).stopAsked = p.stopAsked := by
  unfold Panel.advance; split <;> [rfl; (split <;> rfl)]
@[simp] theorem Panel.advance_stepping (p : Panel) (n t : Nat) : (p.advance n t).stepping = p.stepping := by
  unfold Panel.advance; split <;> [rfl; (split <;> rfl)]

@[simp] theorem Panel.writeG_valid (p : Panel) (d : GDst) (x : DWord) : (p.writeG d x).valid = p.valid := by
  cases d <;> rfl
@[simp] theorem Panel.writeG_pc (p : Panel) (d : GDst) (x : DWord) : (p.writeG d x).pc = p.pc := by
  cases d <;> rfl
@[simp] theorem Panel.writeG_qmask (p : Panel) (d : GDst) (x : DWord) : (p.writeG d x).qmask = p.qmask := by
  cases d <;> rfl
@[simp] theorem Panel.writeG_status (p : Panel) (d : GDst) (x : DWord) : (p.writeG d x).status = p.status := by
  cases d <;> rfl
@[simp] theorem Panel.writeG_under (p : Panel) (d : GDst) (x : DWord) : (p.writeG d x).under = p.under := by
  cases d <;> rfl
@[simp] theorem Panel.writeG_frame (p : Panel) (d : GDst) (x : DWord) : (p.writeG d x).frame = p.frame := by
  cases d <;> rfl
@[simp] theorem Panel.writeG_seamk (p : Panel) (d : GDst) (x : DWord) : (p.writeG d x).seamk = p.seamk := by
  cases d <;> rfl
@[simp] theorem Panel.writeG_seamid (p : Panel) (d : GDst) (x : DWord) : (p.writeG d x).seamid = p.seamid := by
  cases d <;> rfl
@[simp] theorem Panel.writeG_since (p : Panel) (d : GDst) (x : DWord) : (p.writeG d x).since = p.since := by
  cases d <;> rfl
@[simp] theorem Panel.writeG_waitct (p : Panel) (d : GDst) (x : DWord) : (p.writeG d x).waitct = p.waitct := by
  cases d <;> rfl
@[simp] theorem Panel.writeG_origin (p : Panel) (d : GDst) (x : DWord) : (p.writeG d x).origin = p.origin := by
  cases d <;> rfl
@[simp] theorem Panel.writeG_stall (p : Panel) (d : GDst) (x : DWord) : (p.writeG d x).stall = p.stall := by
  cases d <;> rfl
@[simp] theorem Panel.writeG_iss (p : Panel) (d : GDst) (x : DWord) : (p.writeG d x).iss = p.iss := by
  cases d <;> rfl
@[simp] theorem Panel.writeG_mask (p : Panel) (d : GDst) (x : DWord) : (p.writeG d x).mask = p.mask := by
  cases d <;> rfl
@[simp] theorem Panel.writeG_discarded (p : Panel) (d : GDst) (x : DWord) : (p.writeG d x).discarded = p.discarded := by
  cases d <;> rfl
@[simp] theorem Panel.writeG_stack (p : Panel) (d : GDst) (x : DWord) : (p.writeG d x).stack = p.stack := by
  cases d <;> rfl
@[simp] theorem Panel.writeG_clause (p : Panel) (d : GDst) (x : DWord) : (p.writeG d x).clause = p.clause := by
  cases d <;> rfl
@[simp] theorem Panel.writeG_gp (p : Panel) (d : GDst) (x : DWord) : (p.writeG d x).gp = p.gp := by
  cases d <;> rfl
@[simp] theorem Panel.writeG_s (p : Panel) (d : GDst) (x : DWord) : (p.writeG d x).s = p.s := by
  cases d <;> rfl
@[simp] theorem Panel.writeG_fb (p : Panel) (d : GDst) (x : DWord) : (p.writeG d x).fb = p.fb := by
  cases d <;> rfl
@[simp] theorem Panel.writeG_fpc (p : Panel) (d : GDst) (x : DWord) : (p.writeG d x).fpc = p.fpc := by
  cases d <;> rfl
@[simp] theorem Panel.writeG_mcr (p : Panel) (d : GDst) (x : DWord) : (p.writeG d x).mcr = p.mcr := by
  cases d <;> rfl
@[simp] theorem Panel.writeG_px (p : Panel) (d : GDst) (x : DWord) : (p.writeG d x).px = p.px := by
  cases d <;> rfl
@[simp] theorem Panel.writeG_hpx (p : Panel) (d : GDst) (x : DWord) : (p.writeG d x).hpx = p.hpx := by
  cases d <;> rfl
@[simp] theorem Panel.writeG_mmq (p : Panel) (d : GDst) (x : DWord) : (p.writeG d x).mmq = p.mmq := by
  cases d <;> rfl
@[simp] theorem Panel.writeG_xcause (p : Panel) (d : GDst) (x : DWord) : (p.writeG d x).xcause = p.xcause := by
  cases d <;> rfl
@[simp] theorem Panel.writeG_xpc (p : Panel) (d : GDst) (x : DWord) : (p.writeG d x).xpc = p.xpc := by
  cases d <;> rfl
@[simp] theorem Panel.writeG_xaddr (p : Panel) (d : GDst) (x : DWord) : (p.writeG d x).xaddr = p.xaddr := by
  cases d <;> rfl
@[simp] theorem Panel.writeG_outst (p : Panel) (d : GDst) (x : DWord) : (p.writeG d x).outst = p.outst := by
  cases d <;> rfl
@[simp] theorem Panel.writeG_undrained (p : Panel) (d : GDst) (x : DWord) : (p.writeG d x).undrained = p.undrained := by
  cases d <;> rfl
@[simp] theorem Panel.writeG_wait (p : Panel) (d : GDst) (x : DWord) : (p.writeG d x).wait = p.wait := by
  cases d <;> rfl
@[simp] theorem Panel.writeG_hold (p : Panel) (d : GDst) (x : DWord) : (p.writeG d x).hold = p.hold := by
  cases d <;> rfl
@[simp] theorem Panel.writeG_ready (p : Panel) (d : GDst) (x : DWord) : (p.writeG d x).ready = p.ready := by
  cases d <;> rfl
@[simp] theorem Panel.writeG_yielded (p : Panel) (d : GDst) (x : DWord) : (p.writeG d x).yielded = p.yielded := by
  cases d <;> rfl
@[simp] theorem Panel.writeG_pause (p : Panel) (d : GDst) (x : DWord) : (p.writeG d x).pause = p.pause := by
  cases d <;> rfl
@[simp] theorem Panel.writeG_entered (p : Panel) (d : GDst) (x : DWord) : (p.writeG d x).entered = p.entered := by
  cases d <;> rfl
@[simp] theorem Panel.writeG_hinted (p : Panel) (d : GDst) (x : DWord) : (p.writeG d x).hinted = p.hinted := by
  cases d <;> rfl
@[simp] theorem Panel.writeG_doneAt (p : Panel) (d : GDst) (x : DWord) : (p.writeG d x).doneAt = p.doneAt := by
  cases d <;> rfl
@[simp] theorem Panel.writeG_got (p : Panel) (d : GDst) (x : DWord) : (p.writeG d x).got = p.got := by
  cases d <;> rfl
@[simp] theorem Panel.writeG_stopAsked (p : Panel) (d : GDst) (x : DWord) : (p.writeG d x).stopAsked = p.stopAsked := by
  cases d <;> rfl
@[simp] theorem Panel.writeG_stepping (p : Panel) (d : GDst) (x : DWord) : (p.writeG d x).stepping = p.stepping := by
  cases d <;> rfl

/-! ## Containers -/

@[simp] theorem State.wave_setWave (s : State) (k : Nat) (x : Wave) : (s.setWave k x).wave k = x := by
  simp [State.wave]

theorem State.wave_setWave_other (s : State) (k j : Nat) (x : Wave) (h : j ≠ k) : (s.setWave k x).wave j = s.wave j := by
  simp [State.wave, Sparse.get_set_other _ _ _ _ _ h]

@[simp] theorem State.setWave_setWave (s : State) (k : Nat) (x y : Wave) :
    (s.setWave k x).setWave k y = s.setWave k y := by
  simp [State.setWave]

@[simp] theorem Wave.setPanel_setPanel (w : Wave) (e : Nat) (x y : Panel) :
    (w.setPanel e x).setPanel e y = w.setPanel e y := by
  simp [Wave.setPanel]

@[simp] theorem Wave.panel_setPanel (w : Wave) (e : Nat) (x : Panel) : (w.setPanel e x).panel e = x := by
  simp [Wave.panel]

theorem Wave.panel_setPanel_other (w : Wave) (e j : Nat) (x : Panel) (h : j ≠ e) :
    (w.setPanel e x).panel j = w.panel j := by
  simp [Wave.panel, Sparse.get_set_other _ _ _ _ _ h]

@[simp] theorem State.curWave_setPanel (s : State) (c : Cur) (x : Panel) :
    (s.setPanel c x).curWave c = (s.curWave c).setPanel c.entry x := by
  simp [State.setPanel, State.curWave]

@[simp] theorem State.wave_setPanel (s : State) (c : Cur) (x : Panel) :
    (s.setPanel c x).wave c.wid = (s.wave c.wid).setPanel c.entry x := by
  simp [State.setPanel]

theorem State.wave_setPanel_other (s : State) (c : Cur) (x : Panel) (k : Nat) (h : k ≠ c.wid) :
    (s.setPanel c x).wave k = s.wave k := by
  simp [State.setPanel, State.wave_setWave_other _ _ _ _ h]

@[simp] theorem State.panel_setPanel (s : State) (c : Cur) (x : Panel) : (s.setPanel c x).panel c = x := by
  simp [State.panel]

@[simp] theorem State.setPanel_setPanel (s : State) (c : Cur) (x y : Panel) :
    (s.setPanel c x).setPanel c y = s.setPanel c y := by
  simp [State.setPanel]

@[simp] theorem State.setPanel_setWave (s : State) (c : Cur) (w : Wave) (x : Panel) :
    (s.setWave c.wid w).setPanel c x = s.setWave c.wid (w.setPanel c.entry x) := by
  simp [State.setPanel]

@[simp] theorem State.panel_setWave (s : State) (c : Cur) (w : Wave) : (s.setWave c.wid w).panel c = w.panel c.entry := by
  simp [State.panel]

@[simp] theorem State.curWave_setWave (s : State) (c : Cur) (w : Wave) : (s.setWave c.wid w).curWave c = w := by
  simp [State.curWave]

@[simp] theorem State.part_setPart (s : State) (p : Nat) (x : Partition) : (s.setPart p x).part p = x := by
  simp [State.part]

theorem State.part_setPart_other (s : State) (p q : Nat) (x : Partition) (h : q ≠ p) :
    (s.setPart p x).part q = s.part q := by
  simp [State.part, Sparse.get_set_other _ _ _ _ _ h]

@[simp] theorem State.queue_setQueue (s : State) (q : Nat) (x : Queue) : (s.setQueue q x).queue q = x := by
  simp [State.queue]

theorem State.queue_setQueue_other (s : State) (q r : Nat) (x : Queue) (h : r ≠ q) :
    (s.setQueue q x).queue r = s.queue r := by
  simp [State.queue, Sparse.get_set_other _ _ _ _ _ h]

@[simp] theorem State.head_setHead (s : State) (h : Nat) (x : Head) : (s.setHead h x).head h = x := by
  simp [State.head]

theorem State.head_setHead_other (s : State) (h k : Nat) (x : Head) (hk : k ≠ h) :
    (s.setHead h x).head k = s.head k := by
  simp [State.head, Sparse.get_set_other _ _ _ _ _ hk]

@[simp] theorem State.wg_putWg (s : State) (k : Nat) (x : Workgroup) : (s.putWg k x).wg? k = some x := by
  simp [State.wg?]

@[simp] theorem State.gang_putGang (s : State) (k : Nat) (x : Gang) : (s.putGang k x).gang? k = some x := by
  simp [State.gang?]

@[simp] theorem State.launch_putLaunch (s : State) (k : Nat) (x : Launch) : (s.putLaunch k x).launch? k = some x := by
  simp [State.launch?]

@[simp] theorem State.unit_putUnit (s : State) (k : Nat) (x : SpoolUnit) : (s.putUnit k x).unit? k = some x := by
  simp [State.unit?]

@[simp] theorem State.node_putNode (s : State) (k : Nat) (x : Node) : (s.putNode k x).node? k = some x := by
  simp [State.node?]

@[simp] theorem State.thread_putThread (s : State) (k : Nat) (x : Thread) : (s.putThread k x).thread? k = some x := by
  simp [State.thread?]

@[simp] theorem Panel.greg_setG (p : Panel) (n : Nat) (x : DWord) : (p.setG n x).greg n = x := by
  simp [Panel.greg]

theorem Panel.greg_setG_other (p : Panel) (n m : Nat) (x : DWord) (h : m ≠ n) : (p.setG n x).greg m = p.greg m := by
  simp [Panel.greg, Sparse.get_set_other _ _ _ _ _ h]

@[simp] theorem Panel.stream_setStream (p : Panel) (k : Nat) (x : Stream) : (p.setStream k x).stream k = x := by
  simp [Panel.stream]

theorem Panel.stream_setStream_other (p : Panel) (k j : Nat) (x : Stream) (h : j ≠ k) :
    (p.setStream k x).stream j = p.stream j := by
  simp [Panel.stream, Sparse.get_set_other _ _ _ _ _ h]

@[simp] theorem Panel.format_setFormat (p : Panel) (k : Nat) (x : BitVec 128) : (p.setFormat k x).format k = x := by
  simp [Panel.format]

/-- The panel's operand registers do not depend on where it stands. -/
theorem Panel.advance_eq (p : Panel) (n t : Nat) :
    p.advance n t = { p with
      pc := (p.pc + 4 * n) % 2 ^ 57, clause := (p.advance n t).clause, hold := (p.advance n t).hold
      hinted := (p.advance n t).hinted, doneAt := t, got := [] } := by
  unfold Panel.advance; split <;> [rfl; (split <;> rfl)]

end Sys2Proof.Machine
end

