-- ==== Sys2Proof/Safety.lean ====
section
/-! DEFINITION. What a safe run is, and the terms in which claims speak of an instruction's effect. -/

namespace Sys2Proof

/-- The machine takes `n` steps from a state without stopping. -/
def RunsSafely (n : Nat) (s : Machine.State) : Prop :=
  match core.run n s with
  | .next _ => True
  | _ => False

end Sys2Proof

namespace Sys2Proof.Machine

/-- The panel of `c` stands at instruction `i`, the checks of decode find nothing (R158) and the panel is as wide as
the instruction needs (R33). -/
structure Issues (i : Instr) (s : State) (c : Cur) : Prop where
  cur : s.cur = some c
  alive : (s.curWave c).alive = true
  valid : (s.panel c).valid = true
  checked : ∃ cl, (s.panel c).clause = some cl ∧
    decodeTrap (s.curWave c).regs (s.curWave c).width (s.privileged c) cl i = none
  wide : s.needWidth c i ≤ (s.panel c).effWidth (s.curWave c)

/-- No operand of the instruction is a stream register. -/
def NoStreams (i : Instr) : Prop := (usesOf i).srcStreams = [] ∧ (usesOf i).dstStreams = []

/-- The lanes that an instruction of the panel acts in (R166). -/
def State.active (s : State) (c : Cur) : Mask := (s.panel c).active (s.curWave c)

/-- What the lanes of the panel's next instruction read, where no operand is a stream. -/
def State.lanes (s : State) (c : Cur) : Lanes :=
  { w := s.curWave c, p := s.panel c, pops := [], act := s.active c }

/-- Which word of an n-word destination a register of the main file is, if any. -/
def vWordOf (d : Dst) (n r : Nat) : Option Nat :=
  match d with
  | .v first => if first ≤ r ∧ r < first + n then some (r - first) else none
  | _ => none

/-- Which word of an n-word destination a register of the operand file is, if any. -/
def oWordOf (d : Dst) (n r : Nat) : Option Nat :=
  match d with
  | .o first => if first ≤ r ∧ r < first + n then some (r - first) else none
  | _ => none

/-- The flags raised by the lanes of a mask (R72). -/
def raisedIn (m : Mask) (g : Nat → Word) : Word := orFlags ((List.range 64).map fun j => if m.getLsbD j then g j else 0)

/-- The panel after an instruction that raises flags and moves on: nothing else of it changes but the clause that it is in, and what the
model keeps of the instruction's time and reads. -/
def MovedOn (p q : Panel) (len : Nat) (fl : Word) : Prop :=
  q = { p with
    pc := (p.pc + 4 * len) % 2 ^ 57, clause := q.clause, hold := q.hold, hinted := q.hinted, doneAt := q.doneAt, got := []
    fpc := p.fpc ||| (fl &&& 0xFF) }

/-- The lane registers of the wave after `n` words of lane results `f` have been written to `d` and to the latch of `i`
in the active lanes; every other lane register, lane, predicate, wave and panel is as before (R47, R49, R166). -/
structure LaneRegs (i : Instr) (s t : State) (c : Cur) (d : Dst) (n : Nat) (f : Nat → Nat → Word) : Prop where
  waves : ∀ k, k ≠ c.wid → t.wave k = s.wave k
  wave : t.curWave c = { s.curWave c with
    v := (t.curWave c).v, o := (t.curWave c).o, latch := (t.curWave c).latch, panels := (t.curWave c).panels }
  vregs : ∀ r j, j < 64 → ((t.curWave c).vreg r).getD j 0 =
    (match vWordOf d n r with
      | some k => if (s.active c).getLsbD j then f j k else ((s.curWave c).vreg r).getD j 0
      | none => ((s.curWave c).vreg r).getD j 0)
  oregs : ∀ r j, j < 64 → ((t.curWave c).oreg r).getD j 0 =
    (match oWordOf d n r with
      | some k => if (s.active c).getLsbD j then f j k else ((s.curWave c).oreg r).getD j 0
      | none => ((s.curWave c).oreg r).getD j 0)
  latches : ∀ l j, j < 64 → ((t.curWave c).latchVec (latchNo l)).getD j 0 =
    if latchOf i = some l ∧ (s.active c).getLsbD j = true then latchValue n (f j)
    else ((s.curWave c).latchVec (latchNo l)).getD j 0
  panels : ∀ e, e ≠ c.entry → (t.curWave c).panel e = (s.curWave c).panel e

/-- A lane instruction of fixed latency: it writes its results, raises flags and moves on; all the rest of the machine is
as before. -/
structure LaneEffect (i : Instr) (s t : State) (c : Cur) (d : Dst) (n : Nat) (x : Nat → DWord) (fl : Word) : Prop where
  rest : t = { s with waves := t.waves }
  regs : LaneRegs i s t c d n fun j k => dwordWord (x j) k
  panel : MovedOn (s.panel c) (t.panel c) c.len fl

/-- The panel after an instruction of variable latency: as `MovedOn`, with the result added to those outstanding where a
lane is active (R143). -/
def Awaits (p q : Panel) (len : Nat) (fl : Word) (active : Mask) : Prop :=
  ∃ r, q = { p with
    pc := (p.pc + 4 * len) % 2 ^ 57, clause := q.clause, hold := q.hold, hinted := q.hinted, doneAt := q.doneAt, got := []
    fpc := p.fpc ||| (fl &&& 0xFF)
    outst := p.outst ++ (if active = 0 then [] else [r]) }

/-- An instruction that writes predicate `k` in the active lanes and moves on; all else is as before (R52, R166). -/
structure PredEffect (s t : State) (c : Cur) (k : Nat) (b : Nat → Bool) : Prop where
  rest : t = { s with waves := t.waves }
  waves : ∀ w, w ≠ c.wid → t.wave w = s.wave w
  wave : t.curWave c = { s.curWave c with p := (t.curWave c).p, panels := (t.curWave c).panels }
  preds : ∀ r j, j < 64 → ((t.curWave c).pred r).getLsbD j =
    if r = k ∧ (s.active c).getLsbD j = true then b j else ((s.curWave c).pred r).getLsbD j
  panels : ∀ e, e ≠ c.entry → (t.curWave c).panel e = (s.curWave c).panel e
  panel : MovedOn (s.panel c) (t.panel c) c.len 0

/-- The machine is as before but for the panel of `c`. -/
structure PanelOnly (s t : State) (c : Cur) : Prop where
  rest : t = { s with waves := t.waves }
  waves : ∀ w, w ≠ c.wid → t.wave w = s.wave w
  wave : t.curWave c = { s.curWave c with panels := (t.curWave c).panels }
  panels : ∀ e, e ≠ c.entry → (t.curWave c).panel e = (s.curWave c).panel e

/-- A group-wide instruction that writes `x` to `d` and moves on (R192): a panel's own copies, and nothing else. -/
structure GroupEffect (s t : State) (c : Cur) (d : GDst) (x : DWord) : Prop where
  only : PanelOnly s t c
  panel : t.panel c = { s.panel c with
    pc := ((s.panel c).pc + 4 * c.len) % 2 ^ 57, clause := (t.panel c).clause, hold := (t.panel c).hold
    hinted := (t.panel c).hinted, doneAt := (t.panel c).doneAt, got := [], g := (t.panel c).g }
  regs : ∀ n, (t.panel c).greg n = if d = .g n then x else (s.panel c).greg n

/-- The panel continues at a clause header at `target` (R140): its fields are those of `p` otherwise. -/
def GoesTo (p q : Panel) (target : Nat) : Prop :=
  q = { p with pc := target, clause := none, hold := q.hold, hinted := q.hinted, doneAt := q.doneAt, got := [] }

end Sys2Proof.Machine
end

