-- ==== Sys2Proof/Laws/Lanes.lean ====
section
/-! SUPPORT. What the shared operations of an issuing instruction do: issue, reading operands, writing results. -/

namespace Sys2Proof.Machine

/-- An instruction that issues has its own effect. -/
theorem issue_eq {i : Instr} {s : State} {c : Cur} (h : Issues i s c) (body : Cur → State → Out) :
    issue i s body = body c s := by
  obtain ⟨hc, ha, hv, ⟨cl, hcl, hd⟩, hw⟩ := h
  have hp : ((s.curWave c).panel c.entry) = s.panel c := rfl
  have hw' : (s.wave c.wid) = s.curWave c := rfl
  unfold issue
  simp only [hc, hw', hp, ha, hv, hcl, hd, Bool.and_self]
  rw [if_neg (by omega)]

/-- A check of decode that finds something is a trap. -/
theorem issue_trap {i : Instr} {s : State} {c : Cur} {cl : Clause} {cause : Nat} (hc : s.cur = some c)
    (ha : (s.curWave c).alive = true) (hv : (s.panel c).valid = true) (hcl : (s.panel c).clause = some cl)
    (hd : decodeTrap (s.curWave c).regs (s.curWave c).width (s.privileged c) cl i = some cause)
    (body : Cur → State → Out) : issue i s body = .next (s.takeTrap c { cause := cause }) := by
  have hp : ((s.curWave c).panel c.entry) = s.panel c := rfl
  have hw' : (s.wave c.wid) = s.curWave c := rfl
  unfold issue
  simp only [hc, hw', hp, ha, hv, hcl, hd, Bool.and_self]
  rfl

/-- Which operands are streams does not depend on the panel. -/
theorem Panel.uses_srcStreams (p : Panel) (sh : GathShape) (i : Instr) : (p.uses sh i).srcStreams = (usesOf i).srcStreams := by
  cases i with
  | sread d k b => cases d <;> cases b <;> rfl
  | swrite v k b => cases v <;> cases b <;> rfl
  | emit f port va kn => cases kn <;> cases va <;> rfl
  | gath ne pse d a h => cases d <;> rfl
  | _ => rfl

theorem Panel.uses_dstStreams (p : Panel) (sh : GathShape) (i : Instr) : (p.uses sh i).dstStreams = (usesOf i).dstStreams := by
  cases i with
  | sread d k b => cases d <;> cases b <;> rfl
  | swrite v k b => cases v <;> cases b <;> rfl
  | emit f port va kn => cases kn <;> cases va <;> rfl
  | gath ne pse d a h => cases d <;> rfl
  | _ => rfl

/-- With no stream operand the lanes read the state as it is. -/
theorem withLanes_eq {i : Instr} {s : State} {c : Cur} (h : NoStreams i) (k : Lanes → State → Out) :
    withLanes i c s k = k (s.lanes c) s := by
  unfold withLanes
  simp only [Panel.uses_srcStreams, Panel.uses_dstStreams, h.1, h.2, List.isEmpty_nil, Bool.and_self, if_true]
  rfl

/-- A change of the panel alone. -/
theorem panelOnly_setPanel (s : State) (c : Cur) (q : Panel) : PanelOnly s (s.setPanel c q) c := by
  constructor
  · rfl
  · intro w hw; exact State.wave_setPanel_other _ _ _ _ hw
  · rw [State.curWave_setPanel]; rfl
  · intro e he; rw [State.curWave_setPanel, Wave.panel_setPanel_other _ _ _ _ he]

/-! ## Lane registers -/

theorem getD_mergeLanes (m : Mask) (old : LaneVec) (f : Nat → Word) (j : Nat) (h : j < 64) :
    (mergeLanes m old f).getD j 0 = if m.getLsbD j then f j else old.getD j 0 := by
  unfold mergeLanes
  rw [List.getD_eq_getElem?_getD, List.getElem?_map, List.getElem?_range h]
  rfl

theorem getD_mergeLatch (m : Mask) (old : LatchVec) (f : Nat → DWord) (j : Nat) (h : j < 64) :
    (mergeLatch m old f).getD j 0 = if m.getLsbD j then f j else old.getD j 0 := by
  unfold mergeLatch
  rw [List.getD_eq_getElem?_getD, List.getElem?_map, List.getElem?_range h]
  rfl

theorem getLsbD_mergeMask (m old : Mask) (f : Nat → Bool) (j : Nat) (h : j < 64) :
    (mergeMask m old f).getLsbD j = if m.getLsbD j then f j else old.getLsbD j := by
  refine (BitVec.getLsbD_ofBoolListLE (bs := (List.range 64).map _)).trans ?_
  rw [List.getD_eq_getElem?_getD, List.getElem?_map, List.getElem?_range h]
  rfl

theorem getLsbD_maskOf (f : Nat → Bool) (j : Nat) (h : j < 64) : (maskOf f).getLsbD j = f j := by
  refine (BitVec.getLsbD_ofBoolListLE (bs := (List.range 64).map f)).trans ?_
  rw [List.getD_eq_getElem?_getD, List.getElem?_map, List.getElem?_range h]
  rfl

theorem Wave.vreg_setV (w : Wave) (n : Nat) (m : Mask) (f : Nat → Word) (r : Nat) :
    (w.setV n m f).vreg r = if r = n then mergeLanes m (w.vreg n) f else w.vreg r := by
  unfold Wave.vreg Wave.setV
  rw [Sparse.get_set]; rfl

theorem Wave.oreg_setO (w : Wave) (n : Nat) (m : Mask) (f : Nat → Word) (r : Nat) :
    (w.setO n m f).oreg r = if r = n then mergeLanes m (w.oreg n) f else w.oreg r := by
  unfold Wave.oreg Wave.setO
  rw [Sparse.get_set]; rfl

theorem Wave.latchVec_setLatch (w : Wave) (n : Nat) (m : Mask) (f : Nat → DWord) (r : Nat) :
    (w.setLatch n m f).latchVec r = if r = n then mergeLatch m (w.latchVec n) f else w.latchVec r := by
  unfold Wave.latchVec Wave.setLatch
  rw [Sparse.get_set]; rfl

theorem Wave.pred_setPred (w : Wave) (n : Nat) (m : Mask) (f : Nat → Bool) (r : Nat) :
    (w.setPred n m f).pred r = if r = n then mergeMask m (w.pred n) f else w.pred r := by
  unfold Wave.pred Wave.setPred
  rw [Sparse.get_set]; rfl

@[simp] theorem Wave.oreg_setV (w : Wave) (n : Nat) (m : Mask) (f : Nat → Word) (r : Nat) :
    (w.setV n m f).oreg r = w.oreg r := rfl
@[simp] theorem Wave.vreg_setO (w : Wave) (n : Nat) (m : Mask) (f : Nat → Word) (r : Nat) :
    (w.setO n m f).vreg r = w.vreg r := rfl
@[simp] theorem Wave.vreg_setLatch (w : Wave) (n : Nat) (m : Mask) (f : Nat → DWord) (r : Nat) :
    (w.setLatch n m f).vreg r = w.vreg r := rfl
@[simp] theorem Wave.oreg_setLatch (w : Wave) (n : Nat) (m : Mask) (f : Nat → DWord) (r : Nat) :
    (w.setLatch n m f).oreg r = w.oreg r := rfl
@[simp] theorem Wave.vreg_setPanel (w : Wave) (e : Nat) (p : Panel) (r : Nat) : (w.setPanel e p).vreg r = w.vreg r := rfl
@[simp] theorem Wave.oreg_setPanel (w : Wave) (e : Nat) (p : Panel) (r : Nat) : (w.setPanel e p).oreg r = w.oreg r := rfl
@[simp] theorem Wave.latchVec_setPanel (w : Wave) (e : Nat) (p : Panel) (r : Nat) :
    (w.setPanel e p).latchVec r = w.latchVec r := rfl
@[simp] theorem Wave.pred_setPanel (w : Wave) (e : Nat) (p : Panel) (r : Nat) : (w.setPanel e p).pred r = w.pred r := rfl

/-- What writing a run of main registers leaves. -/
theorem Wave.writeRun_v (w : Wave) (first : Nat) (m : Mask) (f : Nat → Nat → Word) (n r j : Nat) (hj : j < 64) :
    ((w.writeRun false first m f n).vreg r).getD j 0 =
      if first ≤ r ∧ r < first + n ∧ m.getLsbD j = true then f j (r - first) else (w.vreg r).getD j 0 := by
  induction n with
  | zero => simp [Wave.writeRun]; intros; omega
  | succ n ih =>
    simp only [Wave.writeRun, Bool.false_eq_true, if_false]
    rw [Wave.vreg_setV]
    by_cases hr : r = first + n
    · subst hr
      rw [if_pos rfl, getD_mergeLanes _ _ _ _ hj, ih]
      by_cases hm : m.getLsbD j = true <;> simp [hm]
    · rw [if_neg hr, ih]
      by_cases h1 : first ≤ r ∧ r < first + n ∧ m.getLsbD j = true
      · rw [if_pos h1, if_pos ⟨h1.1, by omega, h1.2.2⟩]
      · rw [if_neg h1, if_neg (fun h => h1 ⟨h.1, by omega, h.2.2⟩)]

theorem Wave.writeRun_o (w : Wave) (first : Nat) (m : Mask) (f : Nat → Nat → Word) (n r j : Nat) (hj : j < 64) :
    ((w.writeRun true first m f n).oreg r).getD j 0 =
      if first ≤ r ∧ r < first + n ∧ m.getLsbD j = true then f j (r - first) else (w.oreg r).getD j 0 := by
  induction n with
  | zero => simp [Wave.writeRun]; intros; omega
  | succ n ih =>
    simp only [Wave.writeRun, if_true]
    rw [Wave.oreg_setO]
    by_cases hr : r = first + n
    · subst hr
      rw [if_pos rfl, getD_mergeLanes _ _ _ _ hj, ih]
      by_cases hm : m.getLsbD j = true <;> simp [hm]
    · rw [if_neg hr, ih]
      by_cases h1 : first ≤ r ∧ r < first + n ∧ m.getLsbD j = true
      · rw [if_pos h1, if_pos ⟨h1.1, by omega, h1.2.2⟩]
      · rw [if_neg h1, if_neg (fun h => h1 ⟨h.1, by omega, h.2.2⟩)]

/-- A run of one file leaves all but that file. -/
theorem Wave.writeRun_v_frame (w : Wave) (first : Nat) (m : Mask) (f : Nat → Nat → Word) (n : Nat) :
    w.writeRun false first m f n = { w with v := (w.writeRun false first m f n).v } := by
  induction n with
  | zero => rfl
  | succ n ih =>
    simp only [Wave.writeRun, Bool.false_eq_true, if_false]
    unfold Wave.setV
    rw [ih]

theorem Wave.writeRun_o_frame (w : Wave) (first : Nat) (m : Mask) (f : Nat → Nat → Word) (n : Nat) :
    w.writeRun true first m f n = { w with o := (w.writeRun true first m f n).o } := by
  induction n with
  | zero => rfl
  | succ n ih =>
    simp only [Wave.writeRun, if_true]
    unfold Wave.setO
    rw [ih]

/-- What a destination write leaves, and what it changes. -/
theorem Wave.writeDst_frame (w : Wave) (d : Dst) (n : Nat) (m : Mask) (f : Nat → Nat → Word) :
    w.writeDst d n m f = { w with v := (w.writeDst d n m f).v, o := (w.writeDst d n m f).o } := by
  cases d with
  | v r =>
    have h := w.writeRun_v_frame r m f n
    have ho : (w.writeRun false r m f n).o = w.o := by rw [h]
    simp only [Wave.writeDst]
    rw [ho]; exact h
  | o r =>
    have h := w.writeRun_o_frame r m f n
    have ho : (w.writeRun true r m f n).v = w.v := by rw [h]
    simp only [Wave.writeDst]
    rw [ho]; exact h
  | s k => rfl
  | zero => rfl

theorem Wave.writeDst_v (w : Wave) (d : Dst) (n : Nat) (m : Mask) (f : Nat → Nat → Word) (r j : Nat) (hj : j < 64) :
    ((w.writeDst d n m f).vreg r).getD j 0 = (match vWordOf d n r with
      | some k => if m.getLsbD j then f j k else (w.vreg r).getD j 0
      | none => (w.vreg r).getD j 0) := by
  cases d with
  | v first =>
    simp only [Wave.writeDst, vWordOf]
    rw [Wave.writeRun_v _ _ _ _ _ _ _ hj]
    by_cases h1 : first ≤ r ∧ r < first + n
    · simp [h1]
    · rw [if_neg (fun h => h1 ⟨h.1, h.2.1⟩)]; simp [h1]
  | o first =>
    have h := w.writeRun_o_frame first m f n
    have hv : (w.writeRun true first m f n).vreg r = w.vreg r := by unfold Wave.vreg; rw [h]
    simp [Wave.writeDst, vWordOf, hv]
  | s k => rfl
  | zero => rfl

theorem Wave.writeDst_o (w : Wave) (d : Dst) (n : Nat) (m : Mask) (f : Nat → Nat → Word) (r j : Nat) (hj : j < 64) :
    ((w.writeDst d n m f).oreg r).getD j 0 = (match oWordOf d n r with
      | some k => if m.getLsbD j then f j k else (w.oreg r).getD j 0
      | none => (w.oreg r).getD j 0) := by
  cases d with
  | o first =>
    simp only [Wave.writeDst, oWordOf]
    rw [Wave.writeRun_o _ _ _ _ _ _ _ hj]
    by_cases h1 : first ≤ r ∧ r < first + n
    · simp [h1]
    · rw [if_neg (fun h => h1 ⟨h.1, h.2.1⟩)]; simp [h1]
  | v first =>
    have h := w.writeRun_v_frame first m f n
    have hv : (w.writeRun false first m f n).oreg r = w.oreg r := by unfold Wave.oreg; rw [h]
    simp [Wave.writeDst, oWordOf, hv]
  | s k => rfl
  | zero => rfl

/-! ## Results -/

theorem movedOn_advance (p : Panel) (fl : Word) (len now : Nat) :
    MovedOn p ((p.raise fl).advance len now) len fl := by
  unfold MovedOn
  rw [Panel.advance_eq]
  rfl

/-- With no rejected access every active lane acts now. -/
@[simp] theorem State.lanes_now (s : State) (c : Cur) : (s.lanes c).now = s.active c := by
  show s.active c &&& ~~~ 0#64 = s.active c
  rw [BitVec.not_zero, BitVec.and_allOnes]

/-- With no rejected store nothing is noted. -/
@[simp] theorem noteStores_nil (i : Instr) (c : Cur) (pc gen : Nat) (o : Out) : noteStores i c pc gen [] o = o := by
  cases o <;> rfl

/-- A fixed-latency instruction without held accesses leaves no result outstanding (R143). -/
theorem Panel.track_fixed (p : Panel) {i : Instr} (hv : variableLatency i = false) (act : Mask) (gen now : Nat) (sh : GathShape) :
    p.track i act gen now sh [] [] = p := by
  simp [Panel.track, hv]

/-- Writing results where nothing is a stream and no result stays outstanding (R47, R49, R166). -/
theorem writeLanes_effect {i : Instr} {s : State} {c : Cur} {n : Nat} (ns : NoStreams i)
    (hv : variableLatency i = false) (d : Dst) (hds : ∀ k, d ≠ .s k) (x : Nat → DWord) (fl : Word) :
    ∃ t, writeLanes i c (s.lanes c) d n (fun j k => dwordWord (x j) k) fl s = .next t ∧ LaneEffect i s t c d n x fl := by
  obtain ⟨w', hw'⟩ : ∃ w', w' = (s.curWave c).writeDst d n (s.active c) (fun j k => dwordWord (x j) k) := ⟨_, rfl⟩
  obtain ⟨w2, hw2⟩ : ∃ w2, w2 = (match latchOf i with
    | none => w'
    | some y => w'.setLatch (latchNo y) (s.active c) (fun j => latchValue n (fun k => dwordWord (x j) k))) := ⟨_, rfl⟩
  have hwf := (s.curWave c).writeDst_frame d n (s.active c) (fun j k => dwordWord (x j) k)
  rw [← hw'] at hwf
  have hv2 : w2.v = w'.v ∧ w2.o = w'.o := by rw [hw2]; split <;> exact ⟨rfl, rfl⟩
  have hw2f : w2 = { s.curWave c with v := w2.v, o := w2.o, latch := w2.latch } := by
    rw [hw2]; split
    · rw [hwf]
    · unfold Wave.setLatch; rw [hwf]
  have hpan : w2.panels = (s.curWave c).panels := by rw [hw2f]
  have hpe : ∀ e, w2.panel e = (s.curWave c).panel e := by intro e; unfold Wave.panel; rw [hpan]
  refine ⟨s.setWave c.wid (w2.setPanel c.entry (((s.panel c).raise fl).advance c.len s.cycle)), ?_, ?_, ?_, ?_⟩
  · unfold writeLanes finish State.advance
    simp only [Panel.uses_srcStreams, Panel.uses_dstStreams, ns.1, ns.2, List.append_nil, List.eraseDups_nil, Panel.advanceStreams,
      noteStores_nil, State.lanes_now, show (s.lanes c).asked = [] from rfl, show (s.lanes c).held = [] from rfl,
      Panel.track_fixed _ hv, show s.wave c.wid = s.curWave c from rfl, ← hw',
      State.setPanel_setWave, State.panel_setWave, Wave.panel_setPanel, Wave.setPanel_setPanel, State.setWave_cycle]
    have hp' := hpe c.entry
    rw [hw2] at hp' ⊢
    cases hlo : latchOf i <;> simp only [hlo] at hp' ⊢ <;> simp only [hp'] <;> rfl
  · rfl
  · constructor
    · intro k hk; exact State.wave_setWave_other _ _ _ _ hk
    · rw [State.curWave_setWave]
      unfold Wave.setPanel
      rw [hpan]
      conv_lhs => rw [hw2f]
    · intro r j hj
      rw [State.curWave_setWave, Wave.vreg_setPanel]
      have : w2.vreg r = w'.vreg r := by unfold Wave.vreg; rw [hv2.1]
      rw [this, hw']
      exact Wave.writeDst_v _ _ _ _ _ _ _ hj
    · intro r j hj
      rw [State.curWave_setWave, Wave.oreg_setPanel]
      have : w2.oreg r = w'.oreg r := by unfold Wave.oreg; rw [hv2.2]
      rw [this, hw']
      exact Wave.writeDst_o _ _ _ _ _ _ _ hj
    · intro l j hj
      rw [State.curWave_setWave, Wave.latchVec_setPanel]
      have hl0 : ∀ r, w'.latchVec r = (s.curWave c).latchVec r := by intro r; rw [hwf]; rfl
      rw [hw2]
      cases hlo : latchOf i with
      | none => simp [hl0]
      | some y =>
        simp only
        rw [Wave.latchVec_setLatch, hl0, hl0]
        have hno : (latchNo l = latchNo y) ↔ y = l := by cases l <;> cases y <;> simp [latchNo]
        by_cases h : y = l
        · subst h
          rw [if_pos rfl, getD_mergeLatch _ _ _ _ hj]
          simp
        · rw [if_neg (fun h' => h (hno.mp h')), if_neg (fun h' => h (by simpa using h'.1))]
    · intro e he
      rw [State.curWave_setWave, Wave.panel_setPanel_other _ _ _ _ he, hpe]
  · rw [State.panel_setWave, Wave.panel_setPanel]
    exact movedOn_advance _ _ _ _

/-- A lane instruction of fixed latency on registers (R166): every active lane's result and flags. -/
theorem laneOp_effect {i : Instr} {s : State} {c : Cur} {d : Dst} {n : Nat} (h : Issues i s c) (ns : NoStreams i)
    (hv : variableLatency i = false) (hds : ∀ k, d ≠ .s k) (f : Lanes → Nat → Nat × Word) :
    ∃ t, laneOp i d n s f = .next t ∧
      LaneEffect i s t c d n (fun j => BitVec.ofNat 64 ((laneValues (s.active c) (0, 0) (f (s.lanes c))).getD j (0, 0)).1)
        (orFlags ((laneValues (s.active c) (0, 0) (f (s.lanes c))).map (·.2))) := by
  unfold laneOp
  rw [issue_eq h, withLanes_eq ns]
  exact writeLanes_effect ns hv d hds _ _

theorem getD_laneValues {α : Type} (m : Mask) (z : α) (f : Nat → α) (j : Nat) (h : j < 64) :
    (laneValues m z f).getD j z = if m.getLsbD j then f j else z := by
  unfold laneValues
  rw [List.getD_eq_getElem?_getD, List.getElem?_map, List.getElem?_range h]
  rfl

/-- Results that agree in the active lanes are one result. -/
theorem LaneRegs.congr {i : Instr} {s t : State} {c : Cur} {d : Dst} {n : Nat} {x y : Nat → Nat → Word}
    (h : LaneRegs i s t c d n x) (e : ∀ j, j < 64 → (s.active c).getLsbD j = true → x j = y j) :
    LaneRegs i s t c d n y := by
  refine { h with vregs := ?_, oregs := ?_, latches := ?_ }
  · intro r j hj
    rw [h.vregs r j hj]
    split
    · split
      · rw [e j hj ‹_›]
      · rfl
    · rfl
  · intro r j hj
    rw [h.oregs r j hj]
    split
    · split
      · rw [e j hj ‹_›]
      · rfl
    · rfl
  · intro l j hj
    rw [h.latches l j hj]
    split
    · rename_i hl; rw [e j hj hl.2]
    · rfl

/-- The same, with each active lane's value and flags named. -/
theorem laneOp_values {i : Instr} {s : State} {c : Cur} {d : Dst} {n : Nat} (h : Issues i s c) (ns : NoStreams i)
    (hv : variableLatency i = false) (hds : ∀ k, d ≠ .s k) (f : Lanes → Nat → Nat × Word) :
    ∃ t, laneOp i d n s f = .next t ∧
      LaneEffect i s t c d n (fun j => BitVec.ofNat 64 (f (s.lanes c) j).1)
        (raisedIn (s.active c) fun j => (f (s.lanes c) j).2) := by
  obtain ⟨t, ht, hr, hw, hp⟩ := laneOp_effect h ns hv hds f
  refine ⟨t, ht, hr, hw.congr ?_, ?_⟩
  · intro j hj ha
    simp only [getD_laneValues _ _ _ _ hj, if_pos ha]
  · have : (laneValues (s.active c) ((0 : Nat), (0 : Word)) (f (s.lanes c))).map (·.2) =
        (List.range 64).map fun j => if (s.active c).getLsbD j then (f (s.lanes c) j).2 else 0 := by
      unfold laneValues
      rw [List.map_map]
      congr 1
      funext j
      simp only [Function.comp]
      split <;> rfl
    rw [this] at hp
    exact hp

/-- A lane instruction with a predicate destination (R52, R166). -/
theorem lanePred_effect {i : Instr} {s : State} {c : Cur} {k : Nat} (h : Issues i s c) (ns : NoStreams i)
    (hv : variableLatency i = false) (f : Lanes → Nat → Bool) :
    ∃ t, lanePred i k s f = .next t ∧ PredEffect s t c k (f (s.lanes c)) := by
  have hz : (s.panel c).raise 0 = s.panel c := by unfold Panel.raise; simp
  have hp0 : ∀ m g, ((s.curWave c).setPred k m g).panel c.entry = s.panel c := fun _ _ => rfl
  refine ⟨s.setWave c.wid (((s.curWave c).setPred k (s.active c)
    (fun j => (laneValues (s.active c) false (f (s.lanes c))).getD j false)).setPanel c.entry
      ((s.panel c).advance c.len s.cycle)), ?_, ?_⟩
  · unfold lanePred
    rw [issue_eq h, withLanes_eq ns]
    unfold finish State.advance
    simp only [ns.1, Panel.advanceStreams, show (s.lanes c).act = s.active c from rfl,
      show s.wave c.wid = s.curWave c from rfl, Panel.track_fixed _ hv, hp0, State.setPanel_setWave, State.panel_setWave,
      Wave.panel_setPanel, Wave.setPanel_setPanel, State.setWave_cycle]
  · constructor
    · rfl
    · intro w hw; exact State.wave_setWave_other _ _ _ _ hw
    · rw [State.curWave_setWave]; rfl
    · intro r j hj
      rw [State.curWave_setWave, Wave.pred_setPanel, Wave.pred_setPred]
      by_cases hr : r = k
      · subst hr
        rw [if_pos rfl, getLsbD_mergeMask _ _ _ _ hj, getD_laneValues _ _ _ _ hj]
        by_cases ha : (s.active c).getLsbD j = true <;> simp [ha]
      · simp [hr]
    · intro e he
      rw [State.curWave_setWave, Wave.panel_setPanel_other _ _ _ _ he]; rfl
    · rw [State.panel_setWave, Wave.panel_setPanel]
      have := movedOn_advance (s.panel c) 0 c.len s.cycle
      rwa [hz] at this

end Sys2Proof.Machine
end

