-- ==== Sys2Proof/Certificates/Slice0/Obligations.lean ====
section
/-! DEFINITION. The statements for the provers, with the tables of the spec that they are stated by. -/

open Sys2Proof Sys2Proof.Machine

namespace Sys2Proof.Claim

/-- An integer form that delivers an exact value: destination, type, saturation, and the value, given what the type reads
of each source (R169-R171). -/
structure IntForm where
  d : Dst
  ty : IntTy
  sat : Bool
  value : (Src → Int) → Int

/-- The exact values of the arithmetic forms (R169-R171). -/
def intForm : Instr → Option IntForm
  | .add d a b => some ⟨d, .i32, false, fun v => v a + v b⟩
  | .addLong ty sat d a b => some ⟨d, ty, sat, fun v => v a + v b⟩
  | .sub d a b => some ⟨d, .i32, false, fun v => v a - v b⟩
  | .subLong ty sat d a b => some ⟨d, ty, sat, fun v => v a - v b⟩
  | .adds d a b => some ⟨d, .i32, true, fun v => v a + v b⟩
  | .addsLong ty d a b => some ⟨d, ty, true, fun v => v a + v b⟩
  | .subs d a b => some ⟨d, .i32, true, fun v => v a - v b⟩
  | .subsLong ty d a b => some ⟨d, ty, true, fun v => v a - v b⟩
  | .mul d a b => some ⟨d, .i32, false, fun v => v a * v b⟩
  | .mulLong ty sat d a b => some ⟨d, ty, sat, fun v => v a * v b⟩
  | .mulh d a b => some ⟨d, .i32, false, fun v => Int.fdiv (v a * v b) (2 ^ 32)⟩
  | .mulhLong ty d a b => some ⟨d, ty, false, fun v => Int.fdiv (v a * v b) (2 ^ ty.width)⟩
  | .mad ty sat d a b c => some ⟨d, ty, sat, fun v => v a * v b + v c⟩
  | .min d a b => some ⟨d, .i32, false, fun v => Min.min (v a) (v b)⟩
  | .minLong ty d a b => some ⟨d, ty, false, fun v => Min.min (v a) (v b)⟩
  | .max d a b => some ⟨d, .i32, false, fun v => Max.max (v a) (v b)⟩
  | .maxLong ty d a b => some ⟨d, ty, false, fun v => Max.max (v a) (v b)⟩
  | .absd d a b => some ⟨d, .i32, false, fun v => |v a - v b|⟩
  | .absdLong ty d a b => some ⟨d, ty, false, fun v => |v a - v b|⟩
  | _ => none

/-- The least and the greatest value of an integer type (R65). -/
def least (ty : IntTy) : Int := if ty.signed then -2 ^ (ty.width - 1) else 0
def greatest (ty : IntTy) : Int := if ty.signed then 2 ^ (ty.width - 1) - 1 else 2 ^ ty.width - 1

/-- What is delivered of an exact value (R65): the value modulo 2^w, or the nearest value of the type. -/
def delivered (ty : IntTy) (sat : Bool) (x : Int) : Int :=
  if sat then (if x < least ty then least ty else if greatest ty < x then greatest ty else x) else x

def outside (ty : IntTy) (x : Int) : Bool := decide (x < least ty) || decide (greatest ty < x)

end Sys2Proof.Claim

/-- R169, R170, R171: every integer form that computes a number writes, in each active lane, the pattern of the value
that its row gives, wrapped or saturated, and sets SAT exactly when a saturating form clamps in an active lane; nothing
else of the machine changes but the latch, the PC and the clause. -/
def Obligations.IntegerArithmetic : Prop :=
  ∀ (i : Instr) (f : Claim.IntForm) (s : State) (c : Cur), Claim.intForm i = some f → Issues i s c → NoStreams i →
    ∃ t, exec i s = .next t ∧
      let e : Nat → Int := fun j => f.value fun a => (s.lanes c).int f.ty a j
      LaneEffect i s t c f.d (if f.ty.wide then 2 else 1)
        (fun j => BitVec.ofInt 64 (Claim.delivered f.ty f.sat (e j) % 2 ^ f.ty.width))
        (raisedIn (s.active c) fun j => if f.sat && Claim.outside f.ty (e j) then fSAT else 0)

namespace Sys2Proof.Claim

/-- The bits that a source delivers to a lane, at the width of a type (R46, R167). -/
def bitsOf (s : State) (c : Cur) (ty : IntTy) (a : Src) (j : Nat) : BitVec ty.width :=
  BitVec.ofNat ty.width ((s.lanes c).bits ty.wide ty.signed a j)

/-- A form that delivers bits: destination, type, and the bits, given those of each source and a predicate's bit in the
lane (R171-R174). -/
structure BitForm where
  d : Dst
  ty : IntTy
  value : (Src → BitVec ty.width) → (Nat → Bool) → BitVec ty.width

/-- Shifts by a count of any size (R171). -/
def shiftLeftOf {n : Nat} (a b : BitVec n) : BitVec n := if b.toNat < n then a <<< b.toNat else 0
def shiftRightOf (ty : IntTy) (a b : BitVec ty.width) : BitVec ty.width :=
  if ty.signed then a.sshiftRight (Min.min b.toNat (ty.width - 1)) else if b.toNat < ty.width then a >>> b.toNat else 0

/-- How many bits are set, and how many bits are clear above the highest that is set (R172). -/
def setBits {n : Nat} (a : BitVec n) : Nat := ((List.range n).filter fun k => a.getLsbD k).length
def clearAbove {n : Nat} (a : BitVec n) : Nat := ((List.range n).takeWhile fun k => !a.getMsbD k).length

/-- Bits pos to pos + width − 1 of a, extended as the type is signed (R173). -/
def field (ty : IntTy) (pos width : Nat) (a : BitVec ty.width) : BitVec ty.width :=
  if ty.signed then (a.extractLsb' pos width).signExtend ty.width else (a.extractLsb' pos width).setWidth ty.width

/-- b with `width` bits from pos replaced by the low bits of a (R173): bit k is bit k − pos of a inside the field. -/
def inserted {n : Nat} (pos width : Nat) (a b : BitVec n) : BitVec n :=
  BitVec.ofFnLE fun k : Fin n => if pos ≤ k.val ∧ k.val < pos + width then a.getLsbD (k.val - pos) else b.getLsbD k.val

/-- The bits of the logical, shift, count, field, select and move forms (R171-R174). -/
def bitForm : Instr → Option BitForm
  | .and d a b => some ⟨d, .i32, fun v _ => v a &&& v b⟩
  | .andLong ty d a b => some ⟨d, ty, fun v _ => v a &&& v b⟩
  | .or d a b => some ⟨d, .i32, fun v _ => v a ||| v b⟩
  | .orLong ty d a b => some ⟨d, ty, fun v _ => v a ||| v b⟩
  | .xor d a b => some ⟨d, .i32, fun v _ => v a ^^^ v b⟩
  | .xorLong ty d a b => some ⟨d, ty, fun v _ => v a ^^^ v b⟩
  | .andn d a b => some ⟨d, .i32, fun v _ => v a &&& ~~~ v b⟩
  | .andnLong ty d a b => some ⟨d, ty, fun v _ => v a &&& ~~~ v b⟩
  | .shl d a b => some ⟨d, .i32, fun v _ => shiftLeftOf (v a) (v b)⟩
  | .shlLong ty d a b => some ⟨d, ty, fun v _ => shiftLeftOf (v a) (v b)⟩
  | .shr d a b => some ⟨d, .i32, fun v _ => shiftRightOf .i32 (v a) (v b)⟩
  | .shrLong ty d a b => some ⟨d, ty, fun v _ => shiftRightOf ty (v a) (v b)⟩
  | .popc d a => some ⟨d, .i32, fun v _ => BitVec.ofNat _ (setBits (v a))⟩
  | .popcLong ty d a => some ⟨d, ty, fun v _ => BitVec.ofNat _ (setBits (v a))⟩
  | .clz d a => some ⟨d, .i32, fun v _ => BitVec.ofNat _ (clearAbove (v a))⟩
  | .clzLong ty d a => some ⟨d, ty, fun v _ => BitVec.ofNat _ (clearAbove (v a))⟩
  | .brev d a => some ⟨d, .i32, fun v _ => (v a).reverse⟩
  | .brevLong ty d a => some ⟨d, ty, fun v _ => (v a).reverse⟩
  | .bfx ty d a pos width => some ⟨d, ty, fun v _ => field ty pos width (v a)⟩
  | .bfi ty d a b pos width => some ⟨d, ty, fun v _ => inserted pos width (v a) (v b)⟩
  | .sel ty d a b p => some ⟨d, ty, fun v q => if q p then v a else v b⟩
  | .mov d a => some ⟨d, .i32, fun v _ => v a⟩
  | .movLong ty d a => some ⟨d, ty, fun v _ => v a⟩
  | _ => none

end Sys2Proof.Claim

/-- R171, R172, R173, R174: every integer form that delivers bits writes them in each active lane, sets no flag, and
changes nothing else but the latch, the PC and the clause. -/
def Obligations.IntegerBits : Prop :=
  ∀ (i : Instr) (f : Claim.BitForm) (s : State) (c : Cur), Claim.bitForm i = some f → i.WellFormed = true →
    Issues i s c → NoStreams i →
    ∃ t, exec i s = .next t ∧
      LaneEffect i s t c f.d (if f.ty.wide then 2 else 1)
        (fun j => (f.value (fun a => Claim.bitsOf s c f.ty a j)
          (fun p => ((s.curWave c).pred p).getLsbD j)).setWidth 64) 0
namespace Sys2Proof.Claim

/-! ### Numbers of the floating-point formats (R66, R67), from their fields alone -/

def expBits (f : FloatFmt) : Nat := f.width - 1 - f.frac
def negative (f : FloatFmt) (code : Nat) : Bool := code.testBit (f.width - 1)
def expField (f : FloatFmt) (code : Nat) : Nat := code / 2 ^ f.frac % 2 ^ expBits f
def fracField (f : FloatFmt) (code : Nat) : Nat := code % 2 ^ f.frac
def allOnes (f : FloatFmt) (code : Nat) : Bool := expField f code == 2 ^ expBits f - 1

/-- e4m3 has no infinity, and only the fraction 0b111 of the all-ones exponent is NaN (R67). -/
def isNan (f : FloatFmt) (code : Nat) : Bool :=
  allOnes f code && (if f = e4m3 then fracField f code == 7 else fracField f code != 0)
def isInf (f : FloatFmt) (code : Nat) : Bool := allOnes f code && f != e4m3 && fracField f code == 0
def isFinite (f : FloatFmt) (code : Nat) : Bool := !isNan f code && !isInf f code

/-- The value of a finite code (R66). -/
def value (f : FloatFmt) (code : Nat) : ℚ :=
  (if negative f code then -1 else 1) *
    (if expField f code = 0 then (2 : ℚ) ^ (1 - f.bias : ℤ) * (fracField f code / 2 ^ f.frac)
     else (2 : ℚ) ^ ((expField f code : ℤ) - f.bias) * (1 + fracField f code / 2 ^ f.frac))

/-- Where a code that is no NaN stands among all of them: −∞, a number, +∞. -/
def place (f : FloatFmt) (code : Nat) : WithBot (WithTop ℚ) :=
  if isInf f code then (if negative f code then ⊥ else some ⊤) else some (some (value f code))

def isSubnormal (f : FloatFmt) (code : Nat) : Bool := expField f code == 0 && fracField f code != 0

/-- A subnormal code as the zero of its sign, under FTZ (R70). -/
def flush (f : FloatFmt) (ftz : Bool) (code : Nat) : Nat :=
  if ftz && isSubnormal f code then code - fracField f code else code

/-- The code that a lane reads from an f32 or f64 source (R70, R176, R182). -/
def read32 (s : State) (c : Cur) (a : Src) (j : Nat) : Nat :=
  flush f32 (fpcFtz (s.panel c).fpc) ((s.lanes c).a32 a j).toNat
def read64 (s : State) (c : Cur) (a : Src) (j : Nat) : Nat := ((s.lanes c).a64 a j).toNat

/-- The number midway between the largest finite value and the number after it: from there on `.rne` overflows (R69). -/
def limit (f : FloatFmt) : ℚ := value f f.largest + (value f f.largest - value f (f.largest - 1)) / 2

/-- R69: `code` is what the exact number x rounds to in a mode, for the formats with infinities. -/
def IsRounding (f : FloatFmt) (mode : Mode) (x : ℝ) (code : Nat) : Prop :=
  code < 2 ^ f.width ∧ (x ≠ 0 → (negative f code = true ↔ x < 0)) ∧
  (if isInf f code then
    (match mode with
      | .rne => (limit f : ℝ) ≤ |x|
      | .rtz => False
      | .rup => (value f f.largest : ℝ) < x
      | .rdn => x < -(value f f.largest : ℝ))
  else isNan f code = false ∧
    (match mode with
      | .rne => |x| < limit f ∧ ∀ y, y < 2 ^ f.width → isFinite f y = true →
          |x - value f code| ≤ |x - value f y| ∧
          (|x - value f code| = |x - value f y| → value f y ≠ value f code → code % 2 = 0)
      | .rtz => |(value f code : ℝ)| ≤ |x| ∧ ∀ y, y < 2 ^ f.width → isFinite f y = true →
          |(value f y : ℝ)| ≤ |x| → |value f y| ≤ |value f code|
      | .rup => x ≤ value f code ∧ ∀ y, y < 2 ^ f.width → isFinite f y = true → x ≤ value f y → value f code ≤ value f y
      | .rdn => (value f code : ℝ) ≤ x ∧
          ∀ y, y < 2 ^ f.width → isFinite f y = true → (value f y : ℝ) ≤ x → value f y ≤ value f code))

/-! ### Predicate forms -/

def holdsInt (cond : Cond) (x y : Int) : Bool :=
  match cond with
  | .eq => x = y
  | .ne => x ≠ y
  | .lt => x < y
  | .le => x ≤ y
  | .gt => x > y
  | .ge => x ≥ y
  | .un => false
  | .ord => true

/-- R179: a comparison of two codes of a format. -/
def holdsFloat (f : FloatFmt) (cond : Cond) (x y : Nat) : Bool :=
  if isNan f x || isNan f y then cond = .ne ∨ cond = .un
  else match cond with
    | .eq => place f x = place f y
    | .ne => place f x ≠ place f y
    | .lt => place f x < place f y
    | .le => place f x ≤ place f y
    | .gt => place f y < place f x
    | .ge => place f y ≤ place f x
    | .un => false
    | .ord => true

/-- R188: what a vote finds of a predicate in the active lanes. -/
def voted (s : State) (c : Cur) (mode : VoteMode) (q : Nat) : Bool :=
  let bit := fun j => ((s.curWave c).pred q).getLsbD j
  let lanes := (List.range 64).filter fun j => (s.active c).getLsbD j
  match mode with
  | .all => lanes.all bit
  | .any => lanes.any bit
  | .uni => lanes.all bit || lanes.all fun j => !bit j

/-- The predicate that a form writes and the bit in each lane (R174, R179, R188, R197, R198). -/
def predForm (s : State) (c : Cur) : Instr → Option (Nat × (Nat → Bool))
  | .icmp cond ty p a b => some (p, fun j => holdsInt cond ((s.lanes c).int ty a j) ((s.lanes c).int ty b j))
  | .fcmp cond p a b => some (p, fun j => holdsFloat f32 cond (read32 s c a j) (read32 s c b j))
  | .dcmp cond p a b => some (p, fun j => holdsFloat f64 cond (read64 s c a j) (read64 s c b j))
  | .vote mode p q => some (p, fun _ => voted s c mode q)
  | .plog false d a b table => some (d, fun j =>
      table.getLsbD (2 * (((s.curWave c).pred a).getLsbD j).toNat + (((s.curWave c).pred b).getLsbD j).toNat))
  | .pmask p a => some (p, fun j => ((s.panel c).gsrc a).getLsbD j)
  | _ => none

end Sys2Proof.Claim

/-- R174, R179, R188, R197, R198: each instruction with a lane predicate as its destination writes the bit that its rule
gives in each active lane, raises no flag, writes no latch and changes nothing else but the PC and the clause. -/
def Obligations.PredicateResults : Prop :=
  ∀ (i : Instr) (s : State) (c : Cur) (p : Nat) (b : Nat → Bool), Claim.predForm s c i = some (p, b) →
    Issues i s c → NoStreams i → ∃ t, exec i s = .next t ∧ PredEffect s t c p b

namespace Sys2Proof.Claim

/-- The destination of each float form and whether it is a pair (R176-R185). -/
def floatDst : Instr → Option (Dst × Bool)
  | .fadd d _ _ => some (d, false)
  | .faddLong _ d _ _ => some (d, false)
  | .fsub d _ _ => some (d, false)
  | .fsubLong _ d _ _ => some (d, false)
  | .fmul d _ _ => some (d, false)
  | .fmulLong _ d _ _ => some (d, false)
  | .ffma _ d _ _ _ => some (d, false)
  | .ffma3 _ d _ _ _ _ => some (d, false)
  | .fmin d _ _ => some (d, false)
  | .fminLong _ d _ _ => some (d, false)
  | .fdiv d _ _ => some (d, false)
  | .fdivLong _ d _ _ => some (d, false)
  | .frcp d _ => some (d, false)
  | .frcpLong _ d _ => some (d, false)
  | .frsq d _ => some (d, false)
  | .frsqLong _ d _ => some (d, false)
  | .fsqrt d _ => some (d, false)
  | .fsqrtLong _ d _ => some (d, false)
  | .fexp2 d _ => some (d, false)
  | .fexp2Long _ d _ => some (d, false)
  | .flog2 d _ => some (d, false)
  | .flog2Long _ d _ => some (d, false)
  | .fsin d _ => some (d, false)
  | .fsinLong _ _ d _ => some (d, false)
  | .fclass d _ => some (d, false)
  | .fclassLong _ d _ => some (d, false)
  | .fsgn d _ _ => some (d, false)
  | .fsgnLong wide _ d _ _ => some (d, wide)
  | .dadd d _ _ => some (d, true)
  | .daddLong _ d _ _ => some (d, true)
  | .dmul d _ _ => some (d, true)
  | .dmulLong _ d _ _ => some (d, true)
  | .dfma _ d _ _ _ => some (d, true)
  | .ddiv d _ _ => some (d, true)
  | .ddivLong _ d _ _ => some (d, true)
  | .dsqrt d _ => some (d, true)
  | .dsqrtLong _ d _ => some (d, true)
  | .dmin d _ _ => some (d, true)
  | .dminLong _ d _ _ => some (d, true)
  | .hadd2 d _ _ => some (d, false)
  | .hadd2Long _ _ d _ _ => some (d, false)
  | .hmul2 d _ _ => some (d, false)
  | .hmul2Long _ _ d _ _ => some (d, false)
  | .hfma2 _ _ d _ _ _ => some (d, false)
  | .cvt dst _ _ d _ => some (d, dst.wide)
  | .pk _ _ d _ _ _ => some (d, false)
  | _ => none

end Sys2Proof.Claim

/-- R166, R176-R185: every float form completes: it writes some result in each active lane and to its latch, raises some
flags among INV, DZ, OVF, UNF and INX, and changes nothing else but the PC and the clause. -/
def Claim.FloatCompletion : Prop :=
  ∀ (i : Instr) (d : Dst) (wide : Bool) (s : State) (c : Cur), Claim.floatDst i = some (d, wide) →
    Issues i s c → NoStreams i →
    ∃ t x fl, exec i s = .next t ∧ LaneEffect i s t c d (if wide then 2 else 1) x fl ∧ fl &&& ~~~ 0x1F#32 = 0

namespace Sys2Proof.Claim

/-- A form whose result is one exact number rounded once: the format, the mode, the sources, and the number (R176,
R182). -/
structure ExactForm where
  d : Dst
  wide : Bool
  rnd : Rnd
  srcs : List Src
  value : (Src → ℝ) → ℝ

def exactForm : Instr → Option ExactForm
  | .fadd d a b => some ⟨d, false, .dflt, [a, b], fun v => v a + v b⟩
  | .faddLong r d a b => some ⟨d, false, r, [a, b], fun v => v a + v b⟩
  | .fsub d a b => some ⟨d, false, .dflt, [a, b], fun v => v a - v b⟩
  | .fsubLong r d a b => some ⟨d, false, r, [a, b], fun v => v a - v b⟩
  | .fmul d a b => some ⟨d, false, .dflt, [a, b], fun v => v a * v b⟩
  | .fmulLong r d a b => some ⟨d, false, r, [a, b], fun v => v a * v b⟩
  | .ffma r d a b e => some ⟨d, false, r, [a, b, e], fun v => v a * v b + v e⟩
  | .ffma3 r d a b e f => some ⟨d, false, r, [a, b, e, f], fun v => v a * v b + v e * v f⟩
  | .dadd d a b => some ⟨d, true, .dflt, [a, b], fun v => v a + v b⟩
  | .daddLong r d a b => some ⟨d, true, r, [a, b], fun v => v a + v b⟩
  | .dmul d a b => some ⟨d, true, .dflt, [a, b], fun v => v a * v b⟩
  | .dmulLong r d a b => some ⟨d, true, r, [a, b], fun v => v a * v b⟩
  | .dfma r d a b e => some ⟨d, true, r, [a, b, e], fun v => v a * v b + v e⟩
  | _ => none

/-- The code of a source of either width. -/
def readOf (wide : Bool) (s : State) (c : Cur) (a : Src) (j : Nat) : Nat :=
  if wide then read64 s c a j else read32 s c a j

def fmtOf (wide : Bool) : FloatFmt := if wide then f64 else f32

end Sys2Proof.Claim

/-- R69, R70, R176, R177, R182: a sum, product or fused form of finite sources delivers its exact value rounded once in
its mode (flushed under FTZ), and sets INX exactly when the delivered number differs from it. -/
def Obligations.FloatRounding : Prop :=
  ∀ (i : Instr) (f : Claim.ExactForm) (s : State) (c : Cur), Claim.exactForm i = some f → Issues i s c → NoStreams i →
    ∃ t x g, exec i s = .next t ∧ LaneEffect i s t c f.d (if f.wide then 2 else 1) x (raisedIn (s.active c) g) ∧
      ∀ j, j < 64 → (s.active c).getLsbD j = true →
        (∀ a ∈ f.srcs, Claim.isFinite (Claim.fmtOf f.wide) (Claim.readOf f.wide s c a j) = true) →
        let fmt := Claim.fmtOf f.wide
        let e := f.value fun a => (Claim.value fmt (Claim.readOf f.wide s c a j) : ℝ)
        (∃ code, Claim.IsRounding fmt (modeOf f.rnd (s.panel c).fpc) e code ∧
          (x j).toNat = Claim.flush fmt (!f.wide && fpcFtz (s.panel c).fpc) code) ∧
        (g j &&& fINX = 0 ↔
          Claim.isFinite fmt (x j).toNat = true ∧ (Claim.value fmt (x j).toNat : ℝ) = e)

namespace Sys2Proof.Claim

/-- The arithmetic forms of f32 and f64, with their sources and whether they are f64. -/
def arithmetic : Instr → Option (Dst × Bool × List Src)
  | .fadd d a b => some (d, false, [a, b])
  | .faddLong _ d a b => some (d, false, [a, b])
  | .fsub d a b => some (d, false, [a, b])
  | .fsubLong _ d a b => some (d, false, [a, b])
  | .fmul d a b => some (d, false, [a, b])
  | .fmulLong _ d a b => some (d, false, [a, b])
  | .ffma _ d a b e => some (d, false, [a, b, e])
  | .ffma3 _ d a b e f => some (d, false, [a, b, e, f])
  | .fdiv d a b => some (d, false, [a, b])
  | .fdivLong _ d a b => some (d, false, [a, b])
  | .frcp d a => some (d, false, [a])
  | .frcpLong _ d a => some (d, false, [a])
  | .frsq d a => some (d, false, [a])
  | .frsqLong _ d a => some (d, false, [a])
  | .fsqrt d a => some (d, false, [a])
  | .fsqrtLong _ d a => some (d, false, [a])
  | .fexp2 d a => some (d, false, [a])
  | .fexp2Long _ d a => some (d, false, [a])
  | .flog2 d a => some (d, false, [a])
  | .flog2Long _ d a => some (d, false, [a])
  | .fsin d a => some (d, false, [a])
  | .fsinLong _ _ d a => some (d, false, [a])
  | .dadd d a b => some (d, true, [a, b])
  | .daddLong _ d a b => some (d, true, [a, b])
  | .dmul d a b => some (d, true, [a, b])
  | .dmulLong _ d a b => some (d, true, [a, b])
  | .dfma _ d a b e => some (d, true, [a, b, e])
  | .ddiv d a b => some (d, true, [a, b])
  | .ddivLong _ d a b => some (d, true, [a, b])
  | .dsqrt d a => some (d, true, [a])
  | .dsqrtLong _ d a => some (d, true, [a])
  | _ => none

/-- The canonical NaN (R68). -/
def canonicalNan (wide : Bool) : DWord := if wide then 0x7FF8000000000000 else 0x7FC00000

end Sys2Proof.Claim

/-- R68: an arithmetic form of f32 or f64 with a NaN among a lane's sources delivers the canonical NaN there and raises no
flag in that lane, whatever the other sources. -/
def Claim.NanOperands : Prop :=
  ∀ (i : Instr) (d : Dst) (wide : Bool) (srcs : List Src) (s : State) (c : Cur),
    Claim.arithmetic i = some (d, wide, srcs) → Issues i s c → NoStreams i →
    ∃ t x g, exec i s = .next t ∧ LaneEffect i s t c d (if wide then 2 else 1) x (raisedIn (s.active c) g) ∧
      ∀ j, j < 64 → (s.active c).getLsbD j = true →
        (∃ a ∈ srcs, Claim.isNan (Claim.fmtOf wide) (Claim.readOf wide s c a j) = true) →
        x j = Claim.canonicalNan wide ∧ g j = 0

namespace Sys2Proof.Claim

/-- R178: minimum and maximum; −0 lies below +0. -/
def below (f : FloatFmt) (x y : Nat) : Bool :=
  place f x < place f y ∨ (place f x = place f y ∧ negative f x = true ∧ negative f y = false)

def selected (f : FloatFmt) (mx : Bool) (x y : Nat) : Nat :=
  if isNan f x && isNan f y then f.nan
  else if isNan f x then y
  else if isNan f y then x
  else if mx then (if below f x y then y else x) else (if below f y x then y else x)

/-- R180: the class of a code, as the number of its bit. -/
def classOf (f : FloatFmt) (x : Nat) : Nat :=
  if isNan f x then 0
  else if isInf f x then (if negative f x then 1 else 8)
  else if expField f x ≠ 0 then (if negative f x then 2 else 7)
  else if fracField f x ≠ 0 then (if negative f x then 3 else 6)
  else if negative f x then 4 else 5

/-- R181: the sign that `fsgn` gives. -/
def signGiven (sel : SgnSel) (a b : Bool) : Bool :=
  match sel with
  | .copy => b
  | .neg => !a
  | .abs => false
  | .xsgn => a ^^ b

def signed (f : FloatFmt) (sel : SgnSel) (x y : Nat) : Nat :=
  if isNan f x then f.nan
  else x % 2 ^ (f.width - 1) + (if signGiven sel (negative f x) (negative f y) then 2 ^ (f.width - 1) else 0)

/-- The source of a class form, as its type's code. -/
def readClass (ty : FloatTy) (s : State) (c : Cur) (a : Src) (j : Nat) : FloatFmt × Nat :=
  match ty with
  | .f64 => (f64, ((s.lanes c).a64 a j).toNat)
  | .f32 => (f32, ((s.lanes c).a32 a j).toNat)
  | .f16 => (f16, ((s.lanes c).a32 a j).toNat % 2 ^ 16)
  | .bf16 => (bf16, ((s.lanes c).a32 a j).toNat % 2 ^ 16)

/-- The forms that select, classify or change a sign (R178, R180, R181): destination, width and code. -/
def codeForm (s : State) (c : Cur) : Instr → Option (Dst × Bool × (Nat → Nat))
  | .fmin d a b => some (d, false, fun j => selected f32 false (read32 s c a j) (read32 s c b j))
  | .fminLong mx d a b => some (d, false, fun j => selected f32 mx (read32 s c a j) (read32 s c b j))
  | .dmin d a b => some (d, true, fun j => selected f64 false (read64 s c a j) (read64 s c b j))
  | .dminLong mx d a b => some (d, true, fun j => selected f64 mx (read64 s c a j) (read64 s c b j))
  | .fclass d a => some (d, false, fun j => 2 ^ classOf f32 (readClass .f32 s c a j).2)
  | .fclassLong ty d a => some (d, false, fun j => 2 ^ classOf (readClass ty s c a j).1 (readClass ty s c a j).2)
  | .fsgn d a b => some (d, false, fun j => signed f32 .copy ((s.lanes c).a32 a j).toNat ((s.lanes c).a32 b j).toNat)
  | .fsgnLong false sel d a b =>
    some (d, false, fun j => signed f32 sel ((s.lanes c).a32 a j).toNat ((s.lanes c).a32 b j).toNat)
  | .fsgnLong true sel d a b => some (d, true, fun j => signed f64 sel (read64 s c a j) (read64 s c b j))
  | _ => none

end Sys2Proof.Claim

/-- R178, R180, R181: minimum, maximum, class and sign forms deliver the code that their rule selects, and set no flag. -/
def Obligations.FloatSelections : Prop :=
  ∀ (i : Instr) (s : State) (c : Cur) (d : Dst) (wide : Bool) (f : Nat → Nat), Claim.codeForm s c i = some (d, wide, f) →
    Issues i s c → NoStreams i →
    ∃ t, exec i s = .next t ∧ LaneEffect i s t c d (if wide then 2 else 1) (fun j => BitVec.ofNat 64 (f j)) 0

namespace Sys2Proof.Claim

/-- Rounding a number to an integer (R69, R83). -/
def RoundsToInt (mode : Mode) (x : ℚ) (k : ℤ) : Prop :=
  match mode with
  | .rne => |x - k| ≤ 1 / 2 ∧ (|x - k| = 1 / 2 → k % 2 = 0)
  | .rtz => |(k : ℚ)| ≤ |x| ∧ |x - k| < 1
  | .rup => x ≤ k ∧ (k : ℚ) < x + 1
  | .rdn => (k : ℚ) ≤ x ∧ x - 1 < k

/-- The f32 or f64 of a conversion from one of the two. -/
def srcFmt : Fmt → Option (Bool × FloatFmt)
  | .f32 => some (false, f32)
  | .f64 => some (true, f64)
  | _ => none

/-- The integer types of 32 and 64 bits among the formats. -/
def intOf : Fmt → Option IntTy
  | .i32 => some .i32
  | .n32 => some .n32
  | .i64 => some .i64
  | .n64 => some .n64
  | _ => none

/-- The code of a conversion's source, which FTZ does not touch (R70). -/
def readRaw (wide : Bool) (s : State) (c : Cur) (a : Src) (j : Nat) : Nat :=
  if wide then read64 s c a j else ((s.lanes c).a32 a j).toNat

/-- R83: what a conversion to an integer delivers of a code, and its flags. -/
def ToInteger (f : FloatFmt) (ty : IntTy) (mode : Mode) (code : Nat) (x : DWord) (fl : Word) : Prop :=
  if isNan f code then x = 0 ∧ fl = fINV
  else if isInf f code then
    x = BitVec.ofInt 64 ((if negative f code then least ty else greatest ty) % 2 ^ ty.width) ∧ fl = fINV
  else ∃ k, RoundsToInt mode (value f code) k ∧
    x = BitVec.ofInt 64 (delivered ty true k % 2 ^ ty.width) ∧
    fl = if outside ty k then fINV else if (k : ℚ) = value f code then 0 else fINX

end Sys2Proof.Claim

/-- R83, R184: `cvt` from f32 or f64 to a 32- or 64-bit integer rounds in its mode; a number outside the range becomes the
nearest limit and sets INV, a NaN gives 0 and sets INV, and INX tells a rounded value that differs. -/
def Obligations.FloatToInteger : Prop :=
  ∀ (dst src : Fmt) (r : Rnd) (d : Dst) (a : Src) (ty : IntTy) (wide : Bool) (f : FloatFmt) (s : State) (c : Cur),
    Claim.srcFmt src = some (wide, f) → Claim.intOf dst = some ty →
    Issues (.cvt dst src r d a) s c → NoStreams (.cvt dst src r d a) →
    ∃ t x g, exec (.cvt dst src r d a) s = .next t ∧
      LaneEffect (.cvt dst src r d a) s t c d (if ty.wide then 2 else 1) x (raisedIn (s.active c) g) ∧
      ∀ j, j < 64 → (s.active c).getLsbD j = true →
        Claim.ToInteger f ty (modeOf r (s.panel c).fpc) (Claim.readRaw wide s c a j) (x j) (g j)

namespace Sys2Proof.Claim

/-- R187: the source lane of `shfl`. -/
def fromLane (mode : ShflMode) (width j b : Nat) : Nat :=
  match mode with
  | .idx => b % width
  | .up => if b ≤ j then j - b else j
  | .down => if j + b < width then j + b else j
  | .xor => j ^^^ (b % width)

/-- Two bits of a quad selector (R186). -/
def swizzle (sel : Byte) (j : Nat) : Nat := (sel.extractLsb' (2 * (j % 4)) 2).toNat

/-- The lane-to-lane forms: destination and 32-bit value of each lane (R186, R187). -/
def moveForm (s : State) (c : Cur) : Instr → Option (Dst × (Nat → Word))
  | .qswz d a sel => some (d, fun j => (s.lanes c).a32 a (j - j % 4 + swizzle sel j))
  | .shfl d a b => some (d, fun j =>
      (s.lanes c).a32 a (fromLane .idx (s.curWave c).width j ((s.lanes c).a32 b j).toNat))
  | .shflLong mode d a b => some (d, fun j =>
      (s.lanes c).a32 a (fromLane mode (s.curWave c).width j ((s.lanes c).a32 b j).toNat))
  | _ => none

end Sys2Proof.Claim

/-- R186, R187: `qswz` and `shfl` deliver the source's value in the lane that they name, active or not, and set no flag. -/
def Obligations.LaneMoves : Prop :=
  ∀ (i : Instr) (s : State) (c : Cur) (d : Dst) (x : Nat → Word), Claim.moveForm s c i = some (d, x) →
    Issues i s c → NoStreams i →
    ∃ t, exec i s = .next t ∧ LaneEffect i s t c d 1 (fun j => (x j).setWidth 64) 0

namespace Sys2Proof.Claim

/-- R190: an integer reduction of a list of values of a type, as a number of the type's width. -/
def reduced (op : RedOp) (ty : IntTy) (l : List Int) : Int :=
  match op with
  | .add => l.sum % 2 ^ ty.width
  | .min => l.foldr Min.min (greatest ty) % 2 ^ ty.width
  | .max => l.foldr Max.max (least ty) % 2 ^ ty.width
  | .and => (l.foldr (fun x y => BitVec.ofInt ty.width x &&& y) (BitVec.allOnes ty.width)).toNat
  | .or => (l.foldr (fun x y => BitVec.ofInt ty.width x ||| y) (0 : BitVec ty.width)).toNat
  | .xor => (l.foldr (fun x y => BitVec.ofInt ty.width x ^^^ y) (0 : BitVec ty.width)).toNat

/-- The values of a source in the active lanes that a reduction for lane j covers (R190, R191). -/
def covered (s : State) (c : Cur) (ty : IntTy) (a : Src) (p : Nat → Bool) : List Int :=
  ((List.range 64).filter fun k => (s.active c).getLsbD k && p k).map fun k => (s.lanes c).int ty a k

/-- The integer reductions to lanes: destination, type, and each lane's value. -/
def reduceForm (s : State) (c : Cur) : Instr → Option (Dst × IntTy × (Nat → Int))
  | .wred op (.int ty) (.lane d) a => some (d, ty, fun _ => reduced op ty (covered s c ty a fun _ => true))
  | .wscan op excl (.int ty) d a => some (d, ty, fun j =>
      reduced op ty (covered s c ty a fun k => if excl then k < j else k ≤ j))
  | _ => none

end Sys2Proof.Claim

/-- R190, R191: an integer reduction or scan delivers the reduction of the active lanes' values (those up to its own lane,
or below it, for a scan), the identity of none, and sets no flag. -/
def Claim.IntegerReductions : Prop :=
  ∀ (i : Instr) (s : State) (c : Cur) (d : Dst) (ty : IntTy) (x : Nat → Int),
    Claim.reduceForm s c i = some (d, ty, x) → Issues i s c → NoStreams i →
    ∃ t, exec i s = .next t ∧ LaneEffect i s t c d (if ty.wide then 2 else 1) (fun j => BitVec.ofInt 64 (x j)) 0

namespace Sys2Proof.Claim

/-- The codes of an f32 source in the active lanes that a reduction for lane j covers. -/
def coveredCodes (s : State) (c : Cur) (a : Src) (p : Nat → Bool) : List Nat :=
  ((List.range 64).filter fun k => (s.active c).getLsbD k && p k).map fun k => read32 s c a k

/-- R190: an f32 minimum or maximum of codes. -/
def extreme (mx : Bool) : List Nat → Nat
  | [] => if mx then 0xFF800000 else 0x7F800000
  | x :: xs =>
    let r := xs.foldl (selected f32 mx) x
    if isNan f32 r then 0x7FC00000 else r

/-- R190: what a reduction in f32 delivers of some codes. -/
def FloatReduced (op : RedOp) (mode : Mode) (ftz : Bool) (l : List Nat) (x : Nat) : Prop :=
  match op with
  | .min => x = extreme false l
  | .max => x = extreme true l
  | _ =>
    (l = [] → x = 0) ∧
    (l.any (isNan f32) = true → x = 0x7FC00000) ∧
    (l.all (isFinite f32) = true → l ≠ [] →
      ∃ code, IsRounding f32 mode (l.map fun k => (value f32 k : ℝ)).sum code ∧ x = flush f32 ftz code)

/-- The f32 reductions to lanes, with the lanes that each lane's value covers. -/
def floatReduceForm : Instr → Option (RedOp × Dst × Src × (Nat → Nat → Bool))
  | .wred op .f32 (.lane d) a => some (op, d, a, fun _ _ => true)
  | .wscan op excl .f32 d a => some (op, d, a, fun j k => if excl then k < j else k ≤ j)
  | _ => none

end Sys2Proof.Claim

/-- R190, R191: an f32 reduction or scan delivers the exact sum of the covered lanes rounded once, or their minimum or
maximum, and the identity where it covers none. -/
def Claim.FloatReductions : Prop :=
  ∀ (i : Instr) (op : RedOp) (d : Dst) (a : Src) (p : Nat → Nat → Bool) (s : State) (c : Cur),
    Claim.floatReduceForm i = some (op, d, a, p) → i.WellFormed = true → Issues i s c → NoStreams i →
    ∃ t x fl, exec i s = .next t ∧ LaneEffect i s t c d 1 x fl ∧
      ∀ j, j < 64 → (s.active c).getLsbD j = true →
        Claim.FloatReduced op (fpcMode (s.panel c).fpc) (fpcFtz (s.panel c).fpc) (Claim.coveredCodes s c a (p j)) (x j).toNat

/-- R68, R166, R176-R185: every float form completes, and a NaN operand gives the canonical NaN. -/
def Obligations.FloatForms : Prop := Claim.FloatCompletion ∧ Claim.NanOperands

/-- R190, R191: `wred` to lanes and `wscan`. -/
def Obligations.Reductions : Prop := Claim.IntegerReductions ∧ Claim.FloatReductions
namespace Sys2Proof.Claim

/-- R58: what a control register holds. -/
def control (s : State) (c : Cur) (k : Nat) : DWord :=
  let p := s.panel c
  match k with
  | 0 => p.fpc.setWidth 64
  | 1 => p.mcr.setWidth 64
  | 2 => p.px.setWidth 64
  | 3 => BitVec.ofNat 64 (s.curWg c).tba
  | 4 => p.xcause.setWidth 64
  | 5 => p.xpc
  | 6 => p.xaddr
  | _ => 0

/-- A 32-bit result in a g register (R190). -/
def widened (ty : IntTy) (x : Int) : DWord :=
  if ty.wide then BitVec.ofInt 64 x
  else if ty.signed then (BitVec.ofInt 32 x).signExtend 64 else (BitVec.ofInt 32 x).setWidth 64

/-- The group-wide forms that write a g register, with the value (R189, R190, R192-R194). -/
def groupForm (s : State) (c : Cur) : Instr → Option (GDst × DWord)
  | .gadd d a b => some (d, (s.panel c).gsrc a + (s.panel c).gsrc b)
  | .gsub d a b => some (d, (s.panel c).gsrc a - (s.panel c).gsrc b)
  | .gmul d a b => some (d, (s.panel c).gsrc a * (s.panel c).gsrc b)
  | .gand d a b => some (d, (s.panel c).gsrc a &&& (s.panel c).gsrc b)
  | .gor d a b => some (d, (s.panel c).gsrc a ||| (s.panel c).gsrc b)
  | .gxor d a b => some (d, (s.panel c).gsrc a ^^^ (s.panel c).gsrc b)
  | .gshLeft d a n => some (d, shiftLeftOf ((s.panel c).gsrc a) ((s.panel c).gsrc n))
  | .gshRight d a n => some (d, shiftRightOf .n64 ((s.panel c).gsrc a) ((s.panel c).gsrc n))
  | .gmov d a => some (d, (s.panel c).gsrc a)
  | .gread d k => some (d, control s c k)
  | .ballot d q => some (d, BitVec.ofFnLE fun k : Fin 64 =>
      (s.active c).getLsbD k && ((s.curWave c).pred q).getLsbD k && decide (k.val < (s.curWave c).width))
  | .wred op (.int ty) (.g n) a => some (.g n, widened ty (reduced op ty (covered s c ty a fun _ => true)))
  | _ => none

end Sys2Proof.Claim

/-- R190, R192: `wred` in f32 to a g register writes the reduction of the active lanes, zero-extended, to the panel's copy, whatever
the mask, raises the flags of its rounding and changes nothing else. -/
def Claim.FloatGroups : Prop :=
  ∀ (op : RedOp) (n : Nat) (a : Src) (s : State) (c : Cur), let i : Instr := .wred op .f32 (.g n) a
    i.WellFormed = true → Issues i s c → NoStreams i →
    ∃ (t : State) (x fl : Word), exec i s = .next t ∧ PanelOnly s t c ∧
      t.panel c = { s.panel c with
        pc := ((s.panel c).pc + 4 * c.len) % 2 ^ 57, clause := (t.panel c).clause, hold := (t.panel c).hold
        hinted := (t.panel c).hinted, doneAt := (t.panel c).doneAt, got := [], g := (t.panel c).g
        fpc := (s.panel c).fpc ||| (fl &&& 0xFF) } ∧
      (∀ k, (t.panel c).greg k = if k = n then x.setWidth 64 else (s.panel c).greg k) ∧
      Claim.FloatReduced op (fpcMode (s.panel c).fpc) (fpcFtz (s.panel c).fpc) (Claim.coveredCodes s c a fun _ => true) x.toNat

/-- R189, R190, R192, R193, R194: a group-wide form writes the 64 bits that its rule gives to the panel's own copy of its
g register, whatever the guard and the mask, and changes nothing else; it raises no flag, but for those of a rounded `wred` in f32. -/
def Obligations.GroupValues : Prop :=
  (∀ (i : Instr) (s : State) (c : Cur) (d : GDst) (x : DWord), Claim.groupForm s c i = some (d, x) →
    Issues i s c → NoStreams i → ∃ t, exec i s = .next t ∧ GroupEffect s t c d x) ∧ Claim.FloatGroups

namespace Sys2Proof.Claim

/-- R196, R197: the group predicate that a form writes, and its bit. -/
def groupPred (s : State) (c : Cur) : Instr → Option (Nat × Bool)
  | .gcmp cond true gp a b =>
    some (gp, holdsInt cond ((s.panel c).gsrc a).toNat ((s.panel c).gsrc b).toNat)
  | .gcmp cond false gp a b =>
    some (gp, holdsInt cond ((s.panel c).gsrc a).toInt ((s.panel c).gsrc b).toInt)
  | .plog true d a b table =>
    some (d, table.getLsbD (2 * ((s.panel c).gp.getLsbD a).toNat + ((s.panel c).gp.getLsbD b).toNat))
  | _ => none

end Sys2Proof.Claim

/-- R196, R197: `gcmp` and `plog` on group predicates write the panel's copy of one group predicate and change nothing
else. -/
def Claim.GroupPredicates : Prop :=
  ∀ (i : Instr) (s : State) (c : Cur) (k : Nat) (b : Bool), Claim.groupPred s c i = some (k, b) →
    i.WellFormed = true → Issues i s c →
    ∃ t, exec i s = .next t ∧ PanelOnly s t c ∧
      t.panel c = { s.panel c with
        pc := ((s.panel c).pc + 4 * c.len) % 2 ^ 57, clause := (t.panel c).clause, hold := (t.panel c).hold
        hinted := (t.panel c).hinted, doneAt := (t.panel c).doneAt, got := []
        gp := (t.panel c).gp } ∧
      ∀ n, n < 4 → (t.panel c).gp.getLsbD n = if n = k then b else (s.panel c).gp.getLsbD n

/-- R58, R59, R60, R194: `gmov` to a control register writes %fpc but for its reserved bits, or %mcr but for its reserved
bits; COV = 3 leaves COV and sets INV; a write of a read-only register is ignored. -/
def Claim.ControlRegisterWrites : Prop :=
  ∀ (k : Nat) (a : GSrc) (s : State) (c : Cur), Issues (.gmovCtl k a) s c →
    let x : Word := ((s.panel c).gsrc a).setWidth 32
    let p := s.panel c
    ∃ t, exec (.gmovCtl k a) s = .next t ∧ PanelOnly s t c ∧
      t.panel c = { p with
        pc := (p.pc + 4 * c.len) % 2 ^ 57, clause := (t.panel c).clause, hold := (t.panel c).hold
        hinted := (t.panel c).hinted, doneAt := (t.panel c).doneAt, got := []
        fpc := if k = 0 then x &&& 0x0007FFFF else if k = 1 ∧ x &&& 3 = 3 then p.fpc ||| fINV else p.fpc
        mcr := if k = 1 then (if x &&& 3 = 3 then (x &&& 0x10C) ||| (p.mcr &&& 3) else x &&& 0x10F) else p.mcr }

namespace Sys2Proof.Claim

/-- R200: the branches, with the lanes of the active mask that take them. -/
def branchForm (s : State) (c : Cur) : Instr → Option (BitVec 30 × Mask)
  | .bra disp => some (disp, (s.panel c).mask &&& (s.panel c).guard (s.curWave c))
  | .brc neg q disp => some (disp, (s.panel c).mask &&& (s.panel c).guard (s.curWave c) &&&
      (if neg then ~~~ (s.curWave c).pred q else (s.curWave c).pred q))
  | .brcSplit neg q disp => some (disp, (s.panel c).mask &&& (s.panel c).guard (s.curWave c) &&&
      (if neg then ~~~ (s.curWave c).pred q else (s.curWave c).pred q))
  | _ => none

def isBra : Instr → Bool
  | .bra _ => true
  | _ => false

def isSplit : Instr → Bool
  | .brcSplit _ _ _ => true
  | _ => false

/-- R153: a target, modulo the 57 bits of an address. -/
def target (p : Panel) (disp : BitVec 30) : Nat := ((p.pc + 4 * disp.toInt) % 2 ^ 57).toNat

end Sys2Proof.Claim

/-- R200: with every active lane of one mind a branch goes to its target or falls through; with no active lane `bra` goes
and `brc` falls through. Nothing is pushed, and nothing else changes. -/
def Claim.UniformBranches : Prop :=
  ∀ (i : Instr) (s : State) (c : Cur) (disp : BitVec 30) (taken : Mask), Claim.branchForm s c i = some (disp, taken) →
    Issues i s c → taken = 0 ∨ taken = (s.panel c).mask →
    ∃ t, exec i s = .next t ∧ PanelOnly s t c ∧
      if (s.panel c).mask ≠ 0 ∧ taken ≠ 0 ∨ (s.panel c).mask = 0 ∧ Claim.isBra i = true then
        GoesTo (s.panel c) (t.panel c) (Claim.target (s.panel c) disp)
      else MovedOn (s.panel c) (t.panel c) c.len 0

namespace Sys2Proof.Claim

/-- R24: each quad with an active lane is of one mind. -/
def quadsAgree (mask taken : Mask) : Bool :=
  (List.range 16).all fun q =>
    let lanes := (List.range 4).filter fun k => mask.getLsbD (4 * q + k)
    lanes.all (fun k => taken.getLsbD (4 * q + k)) || lanes.all fun k => !taken.getLsbD (4 * q + k)

/-- The quads with a lane in a mask, as a mask of quads. -/
def quadsOf (m : Mask) : BitVec 16 :=
  BitVec.ofFnLE fun q : Fin 16 => (List.range 4).any fun k => m.getLsbD (4 * q.val + k)

end Sys2Proof.Claim

/-- R21, R24, R200: a divergent branch that does not split pushes the lanes that do not take it, with the fall-through address,
and goes to its target with those that do; with sixteen entries on the stack it raises the divergence-depth trap. -/
def Claim.DivergentBranches : Prop :=
  ∀ (i : Instr) (s : State) (c : Cur) (disp : BitVec 30) (taken : Mask), Claim.branchForm s c i = some (disp, taken) →
    Issues i s c → taken ≠ 0 → taken ≠ (s.panel c).mask →
    (Claim.isSplit i = true →
      Claim.quadsAgree (s.panel c).mask taken = false ∨
      (s.curWave c).splitAt ≠ some s.cycle ∧ ∀ e, e < 8 → ((s.curWave c).panel e).valid = true) →
    if (s.panel c).stack.length < 16 then
      ∃ t, exec i s = .next t ∧ PanelOnly s t c ∧
        t.panel c = { s.panel c with
          pc := Claim.target (s.panel c) disp, clause := none, hold := (t.panel c).hold, mask := taken
          hinted := (t.panel c).hinted, doneAt := (t.panel c).doneAt, got := []
          stack := { mask := (s.panel c).mask &&& ~~~ taken, pc := ((s.panel c).pc + 4 * c.len) % 2 ^ 57,
                     waiting := false, clause := none } :: (s.panel c).stack }
    else exec i s = .next (s.takeTrap c { cause := 0x07 })

/-- R24, R26: a `brc.split` whose quads are each of one mind, with some that take it and some that do not and an invalid
entry, splits: the taken quads get the lowest invalid entry, with ORIGIN 1, at the target; the others fall through. In a cycle in which
its wave has split already it is not executed (assumption 55, DEDUCED). -/
def Claim.SplitBranches : Prop :=
  ∀ (neg : Bool) (q : Nat) (disp : BitVec 30) (taken : Mask) (s : State) (c : Cur),
    Claim.branchForm s c (.brcSplit neg q disp) = some (disp, taken) → Issues (.brcSplit neg q disp) s c →
    taken ≠ 0 → taken ≠ (s.panel c).mask → Claim.quadsAgree (s.panel c).mask taken = true →
    ((s.curWave c).splitAt = some s.cycle → exec (.brcSplit neg q disp) s = .next s) ∧
    ∀ n, (s.curWave c).splitAt ≠ some s.cycle → n < 8 → ((s.curWave c).panel n).valid = false →
      (∀ e, e < n → ((s.curWave c).panel e).valid = true) →
      ∃ t, exec (.brcSplit neg q disp) s = .next t ∧
        let p := s.panel c
        let a := t.panel c
        let b := (t.curWave c).panel n
        a.pc = (p.pc + 4 * c.len) % 2 ^ 57 ∧ b.pc = Claim.target p disp ∧ b.valid = true ∧ b.origin = 1 ∧
        a.qmask = p.qmask &&& ~~~ Claim.quadsOf taken ∧ b.qmask = p.qmask &&& Claim.quadsOf taken ∧
        (∀ j, j < 64 → a.mask.getLsbD j = (p.mask.getLsbD j && !(Claim.quadsOf taken).getLsbD (j / 4))) ∧
        (∀ j, j < 64 → b.mask.getLsbD j = (p.mask.getLsbD j && (Claim.quadsOf taken).getLsbD (j / 4))) ∧
        a.g = p.g ∧ b.g = p.g ∧ a.gp = p.gp ∧ b.gp = p.gp ∧ a.s = p.s ∧ b.s = p.s ∧ a.fpc = p.fpc ∧ b.fpc = p.fpc ∧
        (∀ w, w ≠ c.wid → t.wave w = s.wave w) ∧
        ∀ e, e ≠ c.entry → e ≠ n → (t.curWave c).panel e = (s.curWave c).panel e

/-- R201, R202: `call` writes the address after it to its g register and goes to its target; `ret` goes to the address in
its source, and one that is no word address of the 57 bits is an illegal trap. -/
def Obligations.CallsAndReturns : Prop :=
  (∀ (d : GDst) (disp : BitVec 30) (s : State) (c : Cur), Issues (.call d disp) s c →
    ∃ t, exec (.call d disp) s = .next t ∧ PanelOnly s t c ∧
      t.panel c = { s.panel c with
        pc := Claim.target (s.panel c) disp, clause := none, hold := (t.panel c).hold, g := (t.panel c).g
        hinted := (t.panel c).hinted, doneAt := (t.panel c).doneAt, got := [] } ∧
      ∀ n, (t.panel c).greg n =
        if d = .g n then BitVec.ofNat 64 (((s.panel c).pc + 4 * c.len) % 2 ^ 57) else (s.panel c).greg n) ∧
  ∀ (a : GSrc) (s : State) (c : Cur), Issues (.ret a) s c →
    let x := ((s.panel c).gsrc a).toNat
    if x % 4 = 0 ∧ x < 2 ^ 57 then
      ∃ t, exec (.ret a) s = .next t ∧ PanelOnly s t c ∧ GoesTo (s.panel c) (t.panel c) x
    else exec (.ret a) s = .next (s.takeTrap c { cause := 0x01 })

/-- R202, R354, R146: `ret.tret` in a handler restores the frame, and %xcause, %xpc and %xaddr read zero again; WAIT and DRN
of a clause that is resumed in its middle are waited for again. Outside a handler it is an illegal trap. -/
def Obligations.TrapReturn : Prop :=
  ∀ (s : State) (c : Cur), Issues .retTret s c →
    match (s.panel c).frame with
    | none => exec .retTret s = .next (s.takeTrap c { cause := 0x01 })
    | some f => ∃ t, exec .retTret s = .next t ∧ PanelOnly s t c ∧
        t.panel c = { s.panel c with
          pc := f.pc, clause := f.clause.map fun x => { x with fresh := true }, frame := none, status := .run
          xcause := 0, xpc := 0, xaddr := 0, hold := (t.panel c).hold
          hinted := (t.panel c).hinted, doneAt := (t.panel c).doneAt, got := [] }

/-- R17, R204: `exit` with no active lane under the guard only moves on; otherwise the lanes that exit are added to the
wave's exited lanes, and every lane register keeps its value, as long as the panel keeps a lane; the panel then goes on behind the
`exit` with the lanes that are left. -/
def Claim.ExitLanes : Prop :=
  ∀ (s : State) (c : Cur), Issues .exit s c →
    (s.active c = 0 → ∃ t, exec .exit s = .next t ∧ PanelOnly s t c ∧ MovedOn (s.panel c) (t.panel c) c.len 0) ∧
    (s.active c ≠ 0 → (s.panel c).mask &&& ~~~ s.active c ≠ 0 →
      (∃ j, j < (s.curWave c).width ∧ j < 64 ∧ ((s.curWave c).exited ||| s.active c).getLsbD j = false) →
      ∃ t, exec .exit s = .next t ∧ (t.curWave c).alive = true ∧
        (t.curWave c).exited = (s.curWave c).exited ||| s.active c ∧
        (t.curWave c).v = (s.curWave c).v ∧ (t.curWave c).o = (s.curWave c).o ∧ (t.curWave c).p = (s.curWave c).p ∧
        (c.entry < 8 → (s.panel c).status = .run →
          (t.panel c).mask = (s.panel c).mask &&& ~~~ s.active c ∧ (t.panel c).pc = ((s.panel c).pc + 4 * c.len) % 2 ^ 57 ∧
          (t.panel c).valid = true ∧ (t.panel c).g = (s.panel c).g))

/-- R23: when `exit` leaves a running panel with no active lane, the panel takes up the top entry of its stack: its lanes
are active and it continues at its address. -/
def Claim.ExitPops : Prop :=
  ∀ (s : State) (c : Cur) (top : StackEntry) (rest : List StackEntry), Issues .exit s c → c.entry < 8 →
    s.active c ≠ 0 → s.active c = (s.panel c).mask → (s.panel c).status = .run → (s.panel c).stack = top :: rest →
    (∀ x ∈ (s.panel c).stack, x.mask ≠ 0 ∧ x.mask &&& (s.panel c).mask = 0) →
    (∃ j, j < (s.curWave c).width ∧ j < 64 ∧ ((s.curWave c).exited ||| s.active c).getLsbD j = false) →
    ∃ t, exec .exit s = .next t ∧ (t.panel c).mask = top.mask ∧ (t.panel c).pc = top.pc % 2 ^ 57 ∧
      (t.panel c).stack = rest ∧ (t.panel c).g = (s.panel c).g

/-- R17, R38: the `exit` of the last lanes of a wave ends the wave: its slot is free. -/
def Claim.ExitEndsWave : Prop :=
  ∀ (s : State) (c : Cur) (wg : Workgroup) (l : Launch), Issues .exit s c → s.active c ≠ 0 →
    s.wg? (s.curWave c).wg = some wg → s.launch? wg.lid = some l →
    (∀ j, j < 64 → j < (s.curWave c).width → ((s.curWave c).exited ||| s.active c).getLsbD j = true) →
    ∃ t, exec .exit s = .next t ∧ t.wave c.wid = Wave.empty

/-- R22, R28, R29, R30: a `seam` whose top stack entry is pending runs that entry's lanes at its address and leaves its own
lanes waiting at the seam; with an empty stack it is passed where the wave has no other panel, and waits in SEAMW where
every other panel of the wave runs and the class is not 0. -/
def Claim.SeamArrivals : Prop :=
  ∀ (ident : BitVec 12) (k : BitVec 3) (s : State) (c : Cur), Issues (.seam ident k) s c →
    (∀ top rest, (s.panel c).stack = top :: rest → top.waiting = false →
      ∃ t, exec (.seam ident k) s = .next t ∧ PanelOnly s t c ∧
        t.panel c = { s.panel c with
          pc := top.pc % 2 ^ 57, clause := none, hold := (t.panel c).hold, mask := top.mask
          hinted := (t.panel c).hinted, doneAt := (t.panel c).doneAt, got := []
          stack := { mask := (s.panel c).mask, pc := (s.panel c).pc, waiting := true,
                     clause := (s.panel c).clause } :: rest }) ∧
    ((s.panel c).stack = [] → (∀ e, e < 8 → e ≠ c.entry → ((s.curWave c).panel e).valid = false) →
      ∃ t, exec (.seam ident k) s = .next t ∧ PanelOnly s t c ∧
        t.panel c = { s.panel c with
          pc := ((s.panel c).pc + 4) % 2 ^ 57, clause := (t.panel c).clause, hold := (t.panel c).hold
          hinted := (t.panel c).hinted, doneAt := (t.panel c).doneAt, got := []
          status := .run, waitct := 0, seamk := k, seamid := ident }) ∧
    ((s.panel c).stack = [] → c.entry < 8 → k ≠ 0 →
      (∃ e, e < 8 ∧ e ≠ c.entry ∧ ((s.curWave c).panel e).valid = true) →
      (∀ e, e < 8 → e ≠ c.entry → ((s.curWave c).panel e).status = .run) →
      ∃ t, exec (.seam ident k) s = .next t ∧ PanelOnly s t c ∧
        t.panel c = { s.panel c with status := .seamw, since := s.cycle, waitct := 0, seamk := k, seamid := ident })

/-- R28, R30: the panel that has waited at a seam for the limit of its class, with no other panel of the wave waiting in
SEAMW there, passes it. -/
def Claim.SeamTimeouts : Prop :=
  ∀ (s : State) (w e : Nat), let p := (s.wave w).panel e
    e < 8 → p.valid = true → p.status = .seamw → s.waveRuns w = true → p.seamk ≠ 0 → p.seamk ≠ 7 →
    p.since ≤ s.cycle → p.since + 64 * 4 ^ p.seamk.toNat ≤ s.cycle →
    (∀ x, x < 8 → x ≠ e → ((s.wave w).panel x).status ≠ .seamw) →
    ∃ t, exec (.seamTimeout w e) s = .next t ∧ PanelOnly s t { wid := w, entry := e, len := 1 } ∧
      (t.wave w).panel e = { p with
        pc := (p.pc + 4) % 2 ^ 57, clause := ((t.wave w).panel e).clause, hold := ((t.wave w).panel e).hold
        hinted := ((t.wave w).panel e).hinted, doneAt := ((t.wave w).panel e).doneAt, got := []
        status := .run, waitct := 0 }

namespace Sys2Proof.Claim

/-- Two panels' copies of the group-wide state differ in a register, a group predicate or a control field (R26, R35). -/
def CopiesDiffer (p q : Panel) : Prop :=
  (∃ n, p.greg n ≠ q.greg n) ∨ p.gp ≠ q.gp ∨ (∃ n, p.stream n ≠ q.stream n) ∨ (∃ n, p.format n ≠ q.format n) ∨
  p.fpc &&& 0x0007FF00 ≠ q.fpc &&& 0x0007FF00 ∨ p.mcr &&& 0xF ≠ q.mcr &&& 0xF

/-- R27, R35: panel `r` is `p` and `q` fused: their quads, lanes and stacks are joined, and so are their sticky flags; its copies are
those of the one that holds the lowest quad, and GDIV tells that they differed. -/
def Fused (p q r : Panel) : Prop :=
  r.valid = true ∧ r.origin = 3 ∧ r.qmask = p.qmask ||| q.qmask ∧ r.mask = p.mask ||| q.mask ∧
  r.discarded = p.discarded ||| q.discarded ∧ r.outst = p.outst ++ q.outst ∧
  r.stack = (p.stack.zip q.stack).map (fun x => { x.1 with mask := x.1.mask ||| x.2.mask }) ∧
  (∀ k, k < 7 → r.fpc.getLsbD k = (p.fpc.getLsbD k || q.fpc.getLsbD k)) ∧
  r.mcr.getLsbD 8 = (p.mcr.getLsbD 8 || q.mcr.getLsbD 8) ∧
  ((p.fpc.getLsbD 7 || q.fpc.getLsbD 7) = true ∨ CopiesDiffer p q → r.fpc.getLsbD 7 = true) ∧
  (p.g = q.g ∧ p.gp = q.gp ∧ p.s = q.s ∧ p.fb = q.fb ∧ p.fpc = q.fpc ∧ p.mcr = q.mcr → r.fpc.getLsbD 7 = p.fpc.getLsbD 7) ∧
  ∀ k, k < 16 → (p.qmask ||| q.qmask).getLsbD k = true → (∀ i, i < k → (p.qmask ||| q.qmask).getLsbD i = false) →
    let lead := if p.qmask.getLsbD k then p else q
    r.g = lead.g ∧ r.gp = lead.gp ∧ r.s = lead.s ∧ r.fb = lead.fb ∧ r.fpc &&& 0x0007FF00 = lead.fpc &&& 0x0007FF00 ∧
    r.mcr &&& 0xF = lead.mcr &&& 0xF

end Sys2Proof.Claim

/-- R27, R29, R30, R35: a `seam` at which the wave's only other panel waits, with a stack compatible with the arriving panel's, is passed
by both as one panel in the lower of their entries; the other entry is empty. -/
def Claim.SeamFuses : Prop :=
  ∀ (ident : BitVec 12) (k : BitVec 3) (s : State) (c : Cur) (e : Nat), Issues (.seam ident k) s c →
    c.entry < 8 → e < 8 → e ≠ c.entry →
    let p := s.panel c
    let q := (s.curWave c).panel e
    p.stack = [] → q.stack = [] → p.frame = none → q.frame = none → q.valid = true → q.status = .seamw → q.pc = p.pc →
    (∀ x, x < 8 → x ≠ e → x ≠ c.entry → ((s.curWave c).panel x).valid = false) →
    ∃ t, exec (.seam ident k) s = .next t ∧
      let lo := Nat.min c.entry e
      let r := (t.curWave c).panel lo
      Claim.Fused ((s.curWave c).panel lo) ((s.curWave c).panel (Nat.max c.entry e)) r ∧ r.status = .run ∧
      r.pc = (p.pc + 4) % 2 ^ 57 ∧ r.waitct = 0 ∧ (t.curWave c).panel (Nat.max c.entry e) = Panel.empty ∧
      (t.curWave c).v = (s.curWave c).v ∧ (t.curWave c).p = (s.curWave c).p

/-- R205: `yield` keeps the panel from issuing for eight cycles and changes no other state; when they are over the panel
competes as one that has just become ready. -/
def Obligations.Yields : Prop :=
  (∀ (s : State) (c : Cur), Issues .yield s c →
    ∃ t, exec .yield s = .next t ∧ PanelOnly s t c ∧ s.cycle + 9 ≤ (t.panel c).hold ∧
      t.panel c = { s.panel c with
        pc := ((s.panel c).pc + 4 * c.len) % 2 ^ 57, clause := (t.panel c).clause, hold := (t.panel c).hold
        hinted := (t.panel c).hinted, doneAt := (t.panel c).doneAt, got := []
        yielded := true }) ∧
  ∀ (s : State) (w e : Nat), let p := (s.wave w).panel e
    p.valid = true → p.yielded = true → p.hold ≤ s.cycle →
    exec (.yieldExpiry w e) s =
      .next (s.setWave w ((s.wave w).setPanel e { p with yielded := false, hold := 0, ready := s.cycle }))

namespace Sys2Proof.Claim

/-- R352, R353: panel `q` is panel `p` at the entry of a handler at `tba` for cause `x`: %xcause, %xpc and %xaddr are
written, the frame keeps where to resume, and masks, stack, registers and group-wide copies are unchanged. -/
def AtHandler (p q : Panel) (tba : Nat) (x : Word) (addr : Nat) (f : Frame) : Prop :=
  q = { p with
    pc := tba, clause := none, frame := some f, status := .run, xcause := x, xpc := BitVec.ofNat 64 p.pc
    xaddr := BitVec.ofNat 64 addr, wait := none, waitct := 0, hold := q.hold, hpx := 0, got := [] }

/-- A handler is there to be entered (R353, R354). -/
def HasHandler (s : State) (c : Cur) (tba : Nat) : Prop :=
  (s.panel c).frame = none ∧ tba ≠ 0 ∧ ∃ wg, s.wg? (s.curWave c).wg = some wg ∧ wg.tba = tba

end Sys2Proof.Claim

/-- R202, R206, R207, R352, R353: `trap n`, and `bkpt n` without capture, with a lane active after the guard enter the
handler with cause 0x21 or 0x22 and INFO n, and resume behind the instruction; `trapf` does so with cause 0x20 when an
enabled flag is set, with the flags in %xaddr. -/
def Claim.SoftwareTraps : Prop :=
  ∀ (i : Instr) (cause : Nat) (code : Byte) (s : State) (c : Cur) (tba : Nat),
    (i = .trap code ∧ cause = 0x21 ∨ i = .bkpt code ∧ cause = 0x22 ∧ (s.part (s.laneAcc c).part).dbgctl.getLsbD 1 = false) →
    Issues i s c → s.active c ≠ 0 → Claim.HasHandler s c tba →
    ∃ t f, exec i s = .next t ∧
      Claim.AtHandler (s.panel c) (t.panel c) tba (BitVec.ofNat 32 (cause + code.toNat * 2 ^ 16)) 0 f ∧
      f.pc = ((s.panel c).pc + 4 * c.len) % 2 ^ 57 ∧ t.waves = (s.setPanel c (t.panel c)).waves

/-- R199, R206, R207, R309: with no lane active after the guard `trap` and `bkpt` only move on, and so does `trapf` with no
enabled flag set; a captured `bkpt` asks the panel to stop, and nothing else. -/
def Obligations.TrapsNotTaken : Prop :=
  (∀ (i : Instr) (code : Byte) (s : State) (c : Cur), (i = .trap code ∨ i = .bkpt code) → Issues i s c →
    s.active c = 0 → ∃ t, exec i s = .next t ∧ PanelOnly s t c ∧ MovedOn (s.panel c) (t.panel c) c.len 0) ∧
  (∀ (s : State) (c : Cur), Issues .trapf s c →
    (∀ k, k < 8 → ((s.panel c).fpc.getLsbD k && (s.panel c).fpc.getLsbD (k + 8)) = false) →
    ((s.panel c).mcr.getLsbD 8 && (s.panel c).mcr.getLsbD 3) = false →
    ∃ t, exec .trapf s = .next t ∧ PanelOnly s t c ∧ MovedOn (s.panel c) (t.panel c) c.len 0) ∧
  ∀ (code : Byte) (s : State) (c : Cur), Issues (.bkpt code) s c → s.active c ≠ 0 →
    (s.part (s.laneAcc c).part).dbgctl.getLsbD 1 = true →
    exec (.bkpt code) s = .next (s.setPanel c { s.panel c with stopAsked := some (some code) })

/-- R206, R352: `trapf` with an enabled flag set enters the handler with cause 0x20. -/
def Claim.ArithmeticTraps : Prop :=
  ∀ (s : State) (c : Cur) (tba : Nat), Issues .trapf s c → Claim.HasHandler s c tba →
    ((∃ k, k < 8 ∧ (s.panel c).fpc.getLsbD k = true ∧ (s.panel c).fpc.getLsbD (k + 8) = true) ∨
      (s.panel c).mcr.getLsbD 8 = true ∧ (s.panel c).mcr.getLsbD 3 = true) →
    ∃ t f addr, exec .trapf s = .next t ∧ Claim.AtHandler (s.panel c) (t.panel c) tba 0x20 addr f ∧
      f.pc = ((s.panel c).pc + 4 * c.len) % 2 ^ 57 ∧
      (∀ k, k < 8 → addr.testBit k = ((s.panel c).fpc.getLsbD k && (s.panel c).fpc.getLsbD (k + 8))) ∧
      addr.testBit 8 = ((s.panel c).mcr.getLsbD 8 && (s.panel c).mcr.getLsbD 3)

/-- R156, R158, R352, R353: what decode finds wrong is a precise trap with its cause, at the instruction: the handler is
entered, %xpc and the resume address are the instruction's own, and nothing of the instruction has happened. A reserved
opcode is always one. -/
def Claim.HandlerEntry : Prop :=
  ∀ (i : Instr) (s : State) (c : Cur) (cl : Clause) (cause tba : Nat), i.coded = true → s.cur = some c →
    (s.curWave c).alive = true → (s.panel c).valid = true → (s.panel c).clause = some cl →
    decodeTrap (s.curWave c).regs (s.curWave c).width (s.privileged c) cl i = some cause → Claim.HasHandler s c tba →
    ∃ t f, exec i s = .next t ∧ Claim.AtHandler (s.panel c) (t.panel c) tba (BitVec.ofNat 32 cause) 0 f ∧
      f.pc = (s.panel c).pc ∧ f.clause = some cl ∧ f.onInstr = true ∧ f.len = c.len ∧
      t.waves = (s.setPanel c (t.panel c)).waves ∧ ((∃ w, i = .reservedOpcode w) → cause = 0x02)

/-- R353, R354: a trap in a handler, or with no trap base, ends the gang with error 0x12. -/
def Claim.TrapInHandler : Prop :=
  ∀ (i : Instr) (s : State) (c : Cur) (cl : Clause) (cause : Nat) (wg : Workgroup) (g : Gang) (l : Launch),
    i.coded = true → s.cur = some c →
    (s.curWave c).alive = true → (s.panel c).valid = true → (s.panel c).clause = some cl →
    decodeTrap (s.curWave c).regs (s.curWave c).width (s.privileged c) cl i = some cause →
    s.wg? (s.curWave c).wg = some wg → s.launch? wg.lid = some l → s.gang? wg.gid = some g → g.done = false →
    (s.panel c).frame ≠ none ∨ wg.tba = 0 →
    ∃ t h, exec i s = .next t ∧ t.gang? wg.gid = some h ∧ h.done = true ∧ h.ended = some 0x12

/-- R58-R60, R194, R196, R197: writes of group predicates and of control registers. -/
def Obligations.GroupState : Prop := Claim.GroupPredicates ∧ Claim.ControlRegisterWrites

/-- R200: a branch that every active lane takes, or none, and a branch with no active lane. -/
def Obligations.Branches : Prop := Claim.UniformBranches

/-- R24: a `brc.split` whose quads are each of one mind, with some that take it and some that do not and an invalid entry,
splits the wave; where its quads are not of one mind, or no entry is invalid, and where a branch that splits nothing
diverges, the lanes that do not take it are pushed (R21, R200). -/
def Obligations.BranchSplit : Prop := Claim.SplitBranches ∧ Claim.DivergentBranches

/-- R17, R23, R38, R204: the exit of lanes and the end of a wave. -/
def Obligations.Exits : Prop := Claim.ExitLanes ∧ Claim.ExitPops ∧ Claim.ExitEndsWave

/-- R22, R27-R30, R35: arriving at a seam, fusing with a panel that waits there, and the end of a wait. -/
def Obligations.Seams : Prop := Claim.SeamArrivals ∧ Claim.SeamFuses ∧ Claim.SeamTimeouts

/-- R202, R206, R207, R352, R353: `trap`, `bkpt` and `trapf` enter the handler and resume behind themselves. -/
def Obligations.TrapsTaken : Prop := Claim.SoftwareTraps ∧ Claim.ArithmeticTraps

/-- R156, R158, R352-R354: a trap of decode enters the handler, or ends the gang where it cannot. -/
def Obligations.DecodeTraps : Prop := Claim.HandlerEntry ∧ Claim.TrapInHandler
/-- R140, R146: a clause header with N, SLOT and its reserved bits in order is taken up: the PC passes it and the clause
stands at its first instruction, WAIT and DRN still to be waited for. Any other header is an illegal trap with %xpc at
the header. -/
def Obligations.ClauseHeaders : Prop :=
  ∀ (w : Word) (s : State) (c : Cur), s.cur = some c → (s.curWave c).alive = true → (s.panel c).valid = true →
    if hdrN w ≠ 0 ∧ hdrSlot w ≠ 7 ∧ w &&& 0xF = 0 then
      exec (.clauseHeader w) s = .next (s.setPanel c { s.panel c with
        pc := ((s.panel c).pc + 4) % 2 ^ 57
        clause := some { addr := (s.panel c).pc, word := w, pos := 0, fresh := true }
        entered := s.cycle })
    else exec (.clauseHeader w) s = .next (s.takeTrap c { cause := 0x01 } false false)

namespace Sys2Proof.Claim

/-- One result of a panel delivered for some quads: it stays outstanding for the others, and goes when there are none. -/
def afterDelivery (l : List Outstanding) (k : Nat) (x : Outstanding) (q : BitVec 16) : List Outstanding :=
  l.take k ++ (if x.quads &&& ~~~ q = 0 then [] else [{ x with quads := x.quads &&& ~~~ q }]) ++ l.drop (k + 1)

end Sys2Proof.Claim

/-- R20, R142, R143, R144: between issues, a stall hint that is over lets its panel go, an accepted store is no longer
counted as not drained, and a result that arrives for some quads stays outstanding for the others only. -/
def Obligations.BetweenIssues : Prop :=
  (∀ (s : State) (w e : Nat), let p := (s.wave w).panel e
    p.valid = true → p.hold ≠ 0 → p.yielded = false → p.hold ≤ s.cycle →
    exec (.stallHintExpiry w e) s = .next (s.setWave w ((s.wave w).setPanel e { p with hold := 0 }))) ∧
  (∀ (s : State) (w e : Nat), let p := (s.wave w).panel e
    p.valid = true → p.undrained ≠ 0 →
    exec (.storeDrain w e) s = .next (s.setWave w ((s.wave w).setPanel e { p with undrained := p.undrained - 1 }))) ∧
  ∀ (s : State) (w e k : Nat) (q : BitVec 16) (x : Outstanding), let p := (s.wave w).panel e
    p.valid = true → p.outst[k]? = some x → x.quads &&& q ≠ 0 → x.ofRays = false → x.held = [] →
    (∀ y ∈ p.outst, y.quads ≠ 0) →
    exec (.variableLatencyResult w e k q) s =
      .next (s.setWave w ((s.wave w).setPanel e { p with outst := Claim.afterDelivery p.outst k x q }))

/-- R25, R26: where the launch enables it and the scoreboard alone holds a panel, the quads whose results have all arrived split off
it where the other quads' results are late: into the lowest invalid entry, with ORIGIN 2, at the same PC and with the same
copies of the group-wide state. Of several such panels the lowest splits, and a wave splits once a cycle. -/
def Claim.MissSplits : Prop :=
  ∀ (s : State) (w e n len : Nat) (cl : Clause) (g : GridSpec) (i : Instr) (q : BitVec 16),
    let c : Cur := { wid := w, entry := e, len := 1 }
    let p := s.panel c
    e < 8 → s.frontHold w e = none → p.clause = some cl → s.curSpec c = some g → g.missSplits = true →
    s.fetch c = .instr i len → s.onlyScoreboard { c with len := len } (s.wave w) p cl i = true →
    p.missQuads (s.wave w) g (s.shapeOf c i) cl i s.cycle = some q → (∀ k, k < e → s.missSplitOf w k = none) →
    n < 8 → ((s.wave w).panel n).valid = false → (∀ k, k < n → ((s.wave w).panel k).valid = true) →
    ((s.wave w).splitAt = some s.cycle → exec (.missSplit w e) s = .next s) ∧
    ((s.wave w).splitAt ≠ some s.cycle →
      ∃ t, exec (.missSplit w e) s = .next t ∧
        let a := (t.wave w).panel e
        let b := (t.wave w).panel n
        a.pc = p.pc ∧ b.pc = p.pc ∧ a.clause = some cl ∧ b.clause = some cl ∧ b.valid = true ∧ b.origin = 2 ∧
        a.qmask = p.qmask &&& ~~~ q ∧ b.qmask = p.qmask &&& q ∧ a.g = p.g ∧ b.g = p.g ∧ a.fpc = p.fpc ∧ b.fpc = p.fpc ∧
        (t.wave w).splitAt = some s.cycle ∧ ∀ k, k ≠ e → k ≠ n → (t.wave w).panel k = (s.wave w).panel k)

/-- R33: a panel in FFW that is as wide as the instruction it waits to issue runs again. -/
def Claim.ForcedFuseEnds : Prop :=
  ∀ (s : State) (w e : Nat) (x : Waiting), let p := (s.wave w).panel e
    p.valid = true → p.status = .ffw → s.waveRuns w = true → p.wait = some x →
    s.needWidth { wid := w, entry := e, len := x.len } x.instr ≤ p.effWidth (s.wave w) →
    exec (.forcedFuseIssue w e) s =
      .next (s.setWave w ((s.wave w).setPanel e { p with status := .run, wait := none, waitct := 0 }))

/-- R33, R34: a panel narrower than its instruction needs does not execute it. With no sibling in FFW it waits in FFW, whatever else its
siblings do, and nothing else changes where they all run; with one in FFW at its address and a compatible stack it fuses with that one
and they wait on; with one in FFW at another address, or with a stack that is not compatible, it takes the fuse-conflict trap. -/
def Claim.NarrowPanels : Prop :=
  ∀ (i : Instr) (s : State) (c : Cur) (cl : Clause), i.coded = true → s.cur = some c → (s.curWave c).alive = true →
    (s.panel c).valid = true → (s.panel c).clause = some cl →
    decodeTrap (s.curWave c).regs (s.curWave c).width (s.privileged c) cl i = none →
    (s.panel c).effWidth (s.curWave c) < s.needWidth c i →
    let waiting : Panel := { s.panel c with
      status := .ffw, since := s.cycle, waitct := 0, wait := some { instr := i, len := c.len, since := s.cycle, aux := 0 } }
    ((∀ e, e < 8 → e ≠ c.entry → ((s.curWave c).panel e).status = .run) → exec i s = .next (s.setPanel c waiting)) ∧
    ((∀ e, e < 8 → e ≠ c.entry → ((s.curWave c).panel e).valid = true → ((s.curWave c).panel e).status ≠ .ffw) →
      ∃ t, exec i s = .next t ∧ t.panel c = waiting) ∧
    (∀ e, c.entry < 8 → e < 8 → e ≠ c.entry → ((s.curWave c).panel e).valid = true → ((s.curWave c).panel e).status = .ffw →
      ((s.curWave c).panel e).pc = (s.panel c).pc → stackCompatible (s.panel c) ((s.curWave c).panel e) = true →
      (∀ x, x < 8 → x ≠ c.entry → x ≠ e → ((s.curWave c).panel x).valid = true → ((s.curWave c).panel x).status ≠ .ffw) →
      ∃ t, exec i s = .next t ∧
        let lo := Nat.min c.entry e
        let before := fun k => if k = c.entry then waiting else (s.curWave c).panel k
        Claim.Fused (before lo) (before (Nat.max c.entry e)) ((t.curWave c).panel lo) ∧ ((t.curWave c).panel lo).status = .ffw ∧
        ((t.curWave c).panel lo).pc = (s.panel c).pc ∧ (t.curWave c).panel (Nat.max c.entry e) = Panel.empty) ∧
    ((∃ e, e < 8 ∧ e ≠ c.entry ∧ ((s.curWave c).panel e).valid = true ∧ ((s.curWave c).panel e).status = .ffw ∧
        (((s.curWave c).panel e).pc ≠ (s.panel c).pc ∨ stackCompatible (s.panel c) ((s.curWave c).panel e) = false)) →
      exec i s = .next (s.takeTrap c { cause := 0x06 }))

namespace Sys2Proof.Claim

/-! ### Memory -/

/-- The lanes that act, ascending. -/
def lanesOf (s : State) (c : Cur) : List Nat := (List.range 64).filter fun j => (s.active c).getLsbD j

/-- The accesses of the active lanes, n bytes each. -/
def accesses (s : State) (c : Cur) (addr : Nat → Nat) (n : Nat) (write : Bool) : List Access :=
  (lanesOf s c).map fun j => { lane := j, va := addr j, n := n, write := write }

/-- R65, R209: word k of what a load delivers of its bytes. -/
def loaded (sz : Size) (bs : List Byte) (k : Nat) : Word :=
  let b := fun i => bs.getD i 0
  match sz with
  | .n8 => (b 0).setWidth 32
  | .i8 => (b 0).signExtend 32
  | .n16 => (b 1 ++ b 0).setWidth 32
  | .i16 => (b 1 ++ b 0).signExtend 32
  | _ => b (4 * k + 3) ++ b (4 * k + 2) ++ b (4 * k + 1) ++ b (4 * k)

def words : Size → Nat
  | .b64 => 2
  | .b128 => 4
  | _ => 1

/-- No check of the accesses of an instruction finds anything (R208, R347), the home L2 rejects none of them (R138), and none meets
one of its lane that is still held (R124). -/
def Granted (s : State) (c : Cur) (xs : List Access) : Prop :=
  s.judge (s.laneAcc c) xs = .clear ∧ (∀ x ∈ xs, s.rejects (s.laneAcc c) x = false) ∧ s.mustWait c xs = false

/-- No line of the core's L1 holds written bytes. -/
def Clean (s : State) (c : Cur) : Prop :=
  (s.laneAcc c).asn < 2 ^ 16 ∧ ∀ ix, ixCore ix = c.wid / 64 → (s.l1At ix).written = 0

/-- The written lines of the core's L1 are of the context's address space and generation, and all those that the lanes of one
instruction fill or write find room beside them. -/
def Roomy (s : State) (c : Cur) : Prop :=
  (s.laneAcc c).asn < 2 ^ 16 ∧ (s.l1Lines (c.wid / 64)).length + 256 ≤ l1Capacity ∧
  ∀ ix, ixCore ix = c.wid / 64 → (s.l1At ix).written = 0 ∨ ixAsn ix = (s.laneAcc c).asn ∧ (s.l1At ix).gen = (s.laneAcc c).gen

/-- Nothing of memory differs. -/
def SameMemory (s t : State) : Prop := t.mem = s.mem ∧ t.lineKey = s.lineKey ∧ t.poison = s.poison

/-- Of the lines of memory, only those differ of which the core's L1 holds written bytes: it may send them there to make room. -/
def OnlyWritten (s t : State) (c : Cur) : Prop :=
  (s.laneAcc c).asn < 2 ^ 16 → ∀ line, (∀ ix, ixCore ix = c.wid / 64 → ixLine ix = line → (s.l1At ix).written = 0) →
    Sparse.get 0 t.lineKey line = Sparse.get 0 s.lineKey line ∧ Sparse.get false t.poison line = Sparse.get false s.poison line ∧
    ∀ k, k < 128 → Sparse.get 0 t.mem (128 * line + k) = Sparse.get 0 s.mem (128 * line + k)

/-- What reads may change besides the registers: the core's L1 and the lines that it gives up for others, the TLBs, and the count
of free values. -/
def ReadsOnly (s t : State) : Prop :=
  t = { s with waves := t.waves, l1 := t.l1, tlb := t.tlb, freeCtr := t.freeCtr, mem := t.mem, lineKey := t.lineKey,
               poison := t.poison }

/-- The same, for the reads of one instruction of a panel: a byte of memory changes only in a line of which the core's L1 holds
written bytes. -/
def ReadFrame (s t : State) (c : Cur) : Prop := ReadsOnly s t ∧ (Clean s c → SameMemory s t) ∧ OnlyWritten s t c

end Sys2Proof.Claim

/-- R151, R208, R209: where no active lane's access fails, `ld` reads SZ bytes at each active lane's address and writes
them extended to D and to lm; no byte of memory changes but in lines of which the core's L1 holds written bytes, which it may send
there. -/
def Obligations.GlobalLoads : Prop :=
  ∀ (m : MemWord) (d : Dst) (a : Src) (s : State) (c : Cur),
    let i : Instr := .ld m d a
    let addr := globalAddr (s.lanes c) m a
    Issues i s c → NoStreams i → Claim.Granted s c (Claim.accesses s c addr m.sz.bytes false) →
    ∃ t, exec i s = .next t ∧ Claim.ReadFrame s t c ∧
      LaneRegs i s t c d (Claim.words m.sz) (fun j k => Claim.loaded m.sz
        (laneBytes (s.readLanes (s.memAcc c m) addr (fun _ => m.sz.bytes) (Claim.lanesOf s c)).2 j) k) ∧
      Awaits (s.panel c) (t.panel c) c.len 0 (s.active c)

namespace Sys2Proof.Claim

/-- A byte on a page of this module that a store changes in the core's L1 alone (R113). -/
def writeBack : Place → Bool
  | .leaf e pa => !ptePeer e && pteCache e == 0 && !pteWt e && decide (pa < memorySize)
  | .sparse => false

/-- Where some lanes' accesses store their bytes. -/
def storedAt (s : State) (c : Cur) (lanes : List Nat) (addr : Nat → Nat) (n : Nat) (x : Place) : Prop :=
  ∃ j k, j ∈ lanes ∧ k < n ∧ s.translate (s.laneAcc c) ((addr j + k) % 2 ^ 64) .write = .ok x

/-- The byte that a load of the panel finds at a place. -/
def seen (s : State) (c : Cur) (x : Place) : Byte := ((s.touchPlaces (s.laneAcc c) [x]).readPlace (s.laneAcc c) x).2

/-- R111, R113: what the panel reads after some lanes have stored n bytes each on write-back pages: the bytes of one lane where it
alone stores, and every byte that is not stored as before (where the core's L1 TLB holds the pages). -/
def Stored (s t : State) (c : Cur) (lanes : List Nat) (addr : Nat → Nat) (n : Nat) (byte : Nat → Nat → Byte) : Prop :=
  Roomy s c → (s.curWave c).releasing &&& s.active c = 0 → (∀ x, storedAt s c lanes addr n x → writeBack x = true) →
  ((∀ j ∈ lanes, ∀ k, k < n →
      (s.tlbIn (s.laneAcc c).tlb1 (s.laneAcc c).part (s.laneAcc c).asn ((addr j + k) % 2 ^ 64)).isSome = true) →
    ∀ e pa, writeBack (.leaf e pa) = true → (∀ e', ¬ storedAt s c lanes addr n (.leaf e' pa)) →
      seen t c (.leaf e pa) = seen s c (.leaf e pa)) ∧
  ∀ j k e pa, lanes = [j] → k < n → s.translate (s.laneAcc c) ((addr j + k) % 2 ^ 64) .write = .ok (.leaf e pa) →
    (∀ k' e', k < k' → k' < n → s.translate (s.laneAcc c) ((addr j + k') % 2 ^ 64) .write ≠ .ok (.leaf e' pa)) →
    seen t c (.leaf e pa) = byte j k

/-- Byte k of what a lane's source of n words gives (R46, R210). -/
def sourceByte (s : State) (c : Cur) (n : Nat) (b : Src) (j k : Nat) (signed : Bool := true) : Byte :=
  ((srcGroup n (s.lanes c).w (s.lanes c).p [] b j (k / 4) signed) >>> (8 * (k % 4))).setWidth 8

end Sys2Proof.Claim

/-- R111, R151, R208, R210: where no active lane's access fails, `st` stores the low SZ bytes of each active lane's data at its address.
On write-back pages, with no `fence.rel` before it, the core reads a stored byte back (shown for one active lane), and reads every
byte that is not stored as before (where the TLBs hold the pages); no register changes. -/
def Obligations.GlobalStores : Prop :=
  ∀ (m : MemWord) (a b : Src) (s : State) (c : Cur),
    let i : Instr := .st m a b
    let addr := globalAddr (s.lanes c) m a
    Issues i s c → NoStreams i → Claim.Granted s c (Claim.accesses s c addr m.sz.bytes true) →
    (s.curWave c).releasing &&& s.active c = 0 →
    ∃ t, exec i s = .next t ∧
      t = { s with waves := t.waves, l1 := t.l1, tlb := t.tlb, mem := t.mem, lineKey := t.lineKey, poison := t.poison } ∧
      (∀ k, k ≠ c.wid → t.wave k = s.wave k) ∧ t.curWave c = { s.curWave c with panels := (t.curWave c).panels } ∧
      (∀ e, e ≠ c.entry → (t.curWave c).panel e = (s.curWave c).panel e) ∧
      t.panel c = { s.panel c with
        pc := ((s.panel c).pc + 4 * c.len) % 2 ^ 57, clause := (t.panel c).clause, hold := (t.panel c).hold
        hinted := (t.panel c).hinted, doneAt := (t.panel c).doneAt, got := []
        undrained := (s.panel c).undrained + if s.active c = 0 then 0 else 1 } ∧
      Claim.Stored s t c (Claim.lanesOf s c) addr m.sz.bytes (Claim.sourceByte s c (Claim.words m.sz) b)

/-- R208, R347, R352: where the first failing access of `ld` or `st` does not translate or is not permitted, the
instruction raises that failure as a precise fault, with its address, and no lane has performed its access. -/
def Claim.GlobalFaults : Prop :=
  ∀ (i : Instr) (m : MemWord) (a : Src) (write : Bool) (s : State) (c : Cur) (cause sub addr : Nat),
    ((∃ d, i = .ld m d a ∧ write = false) ∨ ∃ b, i = .st m a b ∧ write = true) → Issues i s c → NoStreams i →
    s.judge (s.laneAcc c) (Claim.accesses s c (globalAddr (s.lanes c) m a) m.sz.bytes write) =
      .trap write (.fail cause sub addr) →
    exec i s = .next (s.takeTrap c { cause := cause, info := sub, write := write, addr := addr })

namespace Sys2Proof.Claim

/-- The bytes of a local store that some lanes' accesses of n bytes cover. -/
def covers (xs : List (Nat × LocalPlace)) (n : Nat) (k : Store) (index : Nat) : Bool :=
  xs.any fun x => x.2.store == k && decide (storeIndex x.2.core x.2.ofs ≤ index) &&
    decide (index < storeIndex x.2.core x.2.ofs + n)

end Sys2Proof.Claim

/-- R106, R211: where the checks of all active lanes pass, `lds` reads each lane's bytes at its bank and writes them
extended; nothing but registers changes. -/
def Claim.LocalLoads : Prop :=
  ∀ (m : MemWord) (d : Dst) (a : Src) (s : State) (c : Cur) (xs : List (Nat × LocalPlace)),
    let i : Instr := .lds m d a
    Issues i s c → NoStreams i →
    s.checkLocals c (s.raceMode c) (localAddr (s.lanes c) m a) m.sz.bytes (Claim.lanesOf s c) = .ok xs →
    ∃ t, exec i s = .next t ∧ t = { s with waves := t.waves } ∧
      LaneRegs i s t c d (Claim.words m.sz) (fun j k => Claim.loaded m.sz
        (match Sparse.find xs j with
          | some x => Sparse.getBytes (s.store x.store) (storeIndex x.core x.ofs) m.sz.bytes
          | none => []) k) ∧
      Awaits (s.panel c) (t.panel c) c.len 0 (s.active c)

namespace Sys2Proof.Claim

/-- R307: the WID of a wave within its cluster; the display cores form one cluster (R14). -/
def clusterWave (wid : Nat) : Nat := (if wid / 64 < 384 then wid / 64 % 48 else wid / 64 - 384) * 64 + wid % 64

/-- A word of the A stores that an access of n bytes at a place touches. -/
def touches (n q : Nat) (x : LocalPlace) : Bool :=
  x.store == .a && decide (storeIndex x.core x.ofs / 4 ≤ q) && decide (q ≤ (storeIndex x.core x.ofs + n - 1) / 4)

/-- R319: the shadow word of a checked write. -/
def shadowOf (gen wid : Nat) : Word := BitVec.ofNat 32 (gen * 2 ^ 16 + 2 ^ 15 + clusterWave wid)

end Sys2Proof.Claim

/-- R106, R124, R211, R320: where the checks of all active lanes pass, `sts` stores each lane's bytes at its bank: every byte
that no lane stores is as before, and a byte that some lanes store is the highest such lane's. No register changes. In
race-detection mode the shadow words of the A-store words that it touches take VAL, the wave's cluster WID and the GEN of its b0
record, and no other shadow word changes; outside that mode none does. -/
def Claim.LocalStores : Prop :=
  ∀ (m : MemWord) (a b : Src) (s : State) (c : Cur) (xs : List (Nat × LocalPlace)),
    let i : Instr := .sts m a b
    Issues i s c → NoStreams i → (s.curWave c).releasing &&& s.active c = 0 →
    s.checkLocals c (s.raceMode c) (localAddr (s.lanes c) m a) m.sz.bytes (Claim.lanesOf s c) = .ok xs →
    ∃ t, exec i s = .next t ∧
      t = { s with waves := t.waves, wStore := t.wStore, aStore := t.aStore, cStore := t.cStore, shadow := t.shadow } ∧
      (∀ k, k ≠ c.wid → t.wave k = s.wave k) ∧ t.curWave c = { s.curWave c with panels := (t.curWave c).panels } ∧
      t.panel c = { s.panel c with
        pc := ((s.panel c).pc + 4 * c.len) % 2 ^ 57, clause := (t.panel c).clause, hold := (t.panel c).hold
        hinted := (t.panel c).hinted, doneAt := (t.panel c).doneAt, got := []
        undrained := (s.panel c).undrained + if s.active c = 0 then 0 else 1 } ∧
      (∀ k index, Claim.covers xs m.sz.bytes k index = false →
        Sparse.get 0 (t.store k) index = Sparse.get 0 (s.store k) index) ∧
      (s.raceMode c = false → t.shadow = s.shadow) ∧
      (s.raceMode c = true → ∀ q, Sparse.get 0 t.shadow q =
        if xs.any fun y => Claim.touches m.sz.bytes q y.2 then Claim.shadowOf (s.raceGen (s.curWg c)) c.wid
        else Sparse.get 0 s.shadow q) ∧
      ∀ j x k, (j, x) ∈ xs → k < m.sz.bytes →
        Claim.covers (xs.filter fun y => j < y.1) m.sz.bytes x.store (storeIndex x.core x.ofs + k) = false →
        Sparse.get 0 (t.store x.store) (storeIndex x.core x.ofs + k) = Claim.sourceByte s c (Claim.words m.sz) b j k

/-- R102, R106, R208: the first active lane whose local access breaks a rule gives the fault of its first failure: a
local-range, store-access or alignment fault with LOC set and its address, and no lane has performed its access. -/
def Claim.LocalFaults : Prop :=
  ∀ (i : Instr) (m : MemWord) (a : Src) (write : Bool) (s : State) (c : Cur) (addr : Nat) (e : LFail),
    ((∃ d, i = .lds m d a ∧ write = false) ∨ ∃ b, i = .sts m a b ∧ write = true) → Issues i s c → NoStreams i →
    s.checkLocals c (s.raceMode c) (localAddr (s.lanes c) m a) m.sz.bytes (Claim.lanesOf s c) = .error (addr, .fail e) →
    exec i s = .next (s.takeTrap c
      { cause := (match e with
          | .range => 0x14
          | .access => 0x15
          | .align => 0x13), write := write, loc := true, addr := addr })

/-- R208, R320: a local access of race-detection mode conflicts exactly where a word of an A store that it touches has a shadow word
with VAL, a WRT that is not the wave's cluster WID, and the GEN that the wave's b0 record has now. The first lane that conflicts, no
lane before it failing, raises the debug-race trap with LOC set and its address, with a record of the shadow word read, and no lane
has performed its access. -/
def Claim.RaceTraps : Prop :=
  (∀ (s : State) (c : Cur) (addr n : Nat) (x b : LocalPlace), 0 < n →
    s.findLocal (s.curWg c) admitLane n addr n = .ok x → s.handlePlace (s.curWg c) 0 = some b →
    let gen := ofBytes (Sparse.getBytes (s.store b.store) (storeIndex b.core (b.ofs + 12)) 2)
    let bad := fun (q : Nat) (v : Word) => Claim.touches n q x = true ∧ v = Sparse.get 0 s.shadow q ∧ v.getLsbD 15 = true ∧
      v.toNat % 2 ^ 12 ≠ Claim.clusterWave c.wid ∧ v.toNat / 2 ^ 16 = gen
    (∀ v, s.checkLocal c true addr n = .race v → ∃ q, bad q v) ∧
    ((∃ q v, bad q v) → ∃ v, s.checkLocal c true addr n = .race v)) ∧
  ∀ (i : Instr) (m : MemWord) (a : Src) (write : Bool) (s : State) (c : Cur) (addr : Nat) (v : Word),
    ((∃ d, i = .lds m d a ∧ write = false) ∨ ∃ b, i = .sts m a b ∧ write = true) → Issues i s c → NoStreams i →
    s.checkLocals c (s.raceMode c) (localAddr (s.lanes c) m a) m.sz.bytes (Claim.lanesOf s c) = .error (addr, .race v) →
    ∃ u, exec i s = .next (u.takeTrap c { cause := 0x18, write := write, loc := true, addr := addr }) ∧
      u = s.traceRecord (s.laneAcc c).part 0x09 0 (dieByte (c.wid / 64))
        (panelBlock c.wid c.entry (s.panel c).stateCode (s.panel c).qmask.toNat (s.panel c).pc ++ toBytes 4 addr ++
          toBytes 4 v.toNat ++ toBytes 1 write.toNat ++ toBytes 23 0) 2 ∧
      u.waves = s.waves ∧ u.aStore = s.aStore ∧ u.wStore = s.wStore ∧ u.cStore = s.cStore ∧ u.shadow = s.shadow

/-- R319, R320: a write that is not checked clears VAL in the words it touches and leaves every other shadow word; a launch in
race-detection mode clears those of its windows. -/
def Claim.ShadowsCleared : Prop :=
  (∀ (s : State) (core ofs : Nat) (bs : List Byte) (q : Nat), bs ≠ [] →
    (Sparse.get 0 (s.writeUnchecked core ofs bs).shadow q) =
      if Claim.touches bs.length q { store := .a, core := core, ofs := ofs } then 0 else Sparse.get 0 s.shadow q) ∧
  ∀ (s : State) (g : GridSpec) (w : Workgroup) (q : Nat), g.race = true → 0 < w.asize →
    Sparse.get 0 (s.clearShadows g w).shadow q =
      if Claim.touches w.asize q { store := .a, core := w.core, ofs := w.abase } then 0 else Sparse.get 0 s.shadow q

/-- R57, R208, R212, R352: `ldp` with no active lane reads nothing, also through an unbound window (the model's choice: assumption
92); through a bound window, at aligned offsets, with no access that fails, it reads the bytes below the window's size and takes
zeros for the others, and sets PWB exactly when some byte lies at or beyond it; through an unbound window it raises the
unbound-window fault, with the first lane's address in %xaddr (the model's reading: assumption 63). -/
def Obligations.WindowLoads : Prop :=
  ∀ (m : MemWord) (d : Dst) (win : Nat) (b : Src) (s : State) (c : Cur),
    let i : Instr := .ldp m d win b
    let size := ((s.curWg c).pw.getD win (0, 0)).2
    let base := ((s.curWg c).pw.getD win (0, 0)).1
    let ofs := localAddr (s.lanes c) m b
    let below := fun j => Nat.min m.sz.bytes (size - ofs j)
    Issues i s c → NoStreams i →
    (∀ j js, Claim.lanesOf s c = j :: js → size = 0 →
      exec i s = .next (s.takeTrap c { cause := 0x16, addr := (base + ofs j) % 2 ^ 64 })) ∧
    (s.active c = 0 ∨ size ≠ 0 ∧ (∀ j ∈ Claim.lanesOf s c, ofs j % m.sz.bytes = 0) ∧
        Claim.Granted s c (((Claim.lanesOf s c).filter fun j => ofs j < size).map fun j =>
          { lane := j, va := (base + ofs j) % 2 ^ 64, n := below j, write := false }) →
      ∃ t, exec i s = .next t ∧ Claim.ReadFrame s t c ∧
        LaneRegs i s t c d (Claim.words m.sz) (fun j k => Claim.loaded m.sz
          (laneBytes (s.readLanes (s.memAcc c m) (fun j => (base + ofs j) % 2 ^ 64) below (Claim.lanesOf s c)).2 j ++
            List.replicate (m.sz.bytes - below j) 0) k) ∧
        Awaits (s.panel c) (t.panel c) c.len
          (if ∃ j ∈ Claim.lanesOf s c, size < ofs j + m.sz.bytes then fPWB else 0) (s.active c))

namespace Sys2Proof.Claim

/-- The atomic forms: order, scope, local, destination, address source, integer type of the operands (R213, R215). -/
def atomicForm : Instr → Option (Order × Scope × Bool × Dst × Src × IntTy)
  | .atom _ ty ord scope loc d a _ => some (ord, scope, loc, d, a, atomInt ty)
  | .cas ty ord scope loc d a _ _ => some (ord, scope, loc, d, a, ty)
  | _ => none

/-- R213, R215: the new value that a lane writes for an old one, if any; a 64-bit `fadd` adds the low words (assumption 23). -/
def atomicNew (s : State) (c : Cur) (j : Nat) : Instr → Nat → Option Nat
  | .atom op ty _ _ _ _ _ b => fun m => some (match op with
      | .add => (m + (s.lanes c).bits (atomInt ty).wide (atomInt ty).signed b j) % 2 ^ (atomInt ty).width
      | .min => if (s.lanes c).int (atomInt ty) b j < (if (atomInt ty).signed then signedOf (atomInt ty).width m else m) then
            (s.lanes c).bits (atomInt ty).wide (atomInt ty).signed b j else m
      | .max => if (if (atomInt ty).signed then signedOf (atomInt ty).width m else m) < (s.lanes c).int (atomInt ty) b j then
            (s.lanes c).bits (atomInt ty).wide (atomInt ty).signed b j else m
      | .and => m &&& (s.lanes c).bits (atomInt ty).wide (atomInt ty).signed b j
      | .or => m ||| (s.lanes c).bits (atomInt ty).wide (atomInt ty).signed b j
      | .xor => m ^^^ (s.lanes c).bits (atomInt ty).wide (atomInt ty).signed b j
      | .exch => (s.lanes c).bits (atomInt ty).wide (atomInt ty).signed b j
      | .fadd => (f32.fused .rne false []
          [f32.decode (m % 2 ^ 32), f32.decode ((s.lanes c).bits (atomInt ty).wide (atomInt ty).signed b j % 2 ^ 32)]).1)
  | .cas ty _ _ _ _ _ n x => fun m =>
    if m = (s.lanes c).bits ty.wide ty.signed x j then some ((s.lanes c).bits ty.wide ty.signed n j) else none
  | _ => fun _ => none

/-- R214: read-modify-writes of n bytes one after another, each at an index of a store: the store after them, and the old
values by lane. -/
def serial (n : Nat) (f : Nat → Nat → Option Nat) : List (Nat × Nat) → List Host.Cell → List Host.Cell × List (Nat × Nat)
  | [], l => (l, [])
  | (j, k) :: xs, l =>
    let m := ofBytes (Sparse.getBytes l k n)
    let r := serial n f xs (match f j m with
      | none => l
      | some v => Sparse.setBytes l k (toBytes n v))
    (r.1, (j, m) :: r.2)

end Sys2Proof.Claim

/-- R106, R213, R214, R215, R320: a local `atom` or `cas` whose active lanes all reach aligned locations of A stores completes. Outside
replay the lanes' read-modify-writes take effect one after another, ascending: D and lm get each lane's old value, the A
stores the new ones, and no other local store changes. VAL is cleared in the shadow words of the words that some lane writes. -/
def Claim.LocalAtomics : Prop :=
  ∀ (i : Instr) (ord : Order) (scope : Scope) (d : Dst) (a : Src) (ty : IntTy) (s : State) (c : Cur),
    Claim.atomicForm i = some (ord, scope, true, d, a, ty) → Issues i s c → NoStreams i →
    (s.curWave c).releasing &&& s.active c = 0 → s.replaying c = false →
    let n := ty.width / 8
    let spot := fun j => s.findLocal (s.curWg c) admitAtomic n ((s.lanes c).a32 a j).toNat n
    (∀ j ∈ Claim.lanesOf s c, ∃ x, spot j = .ok x) →
    let places := (Claim.lanesOf s c).filterMap fun j => (spot j).toOption.map fun x => (j, storeIndex x.core x.ofs)
    let r := Claim.serial n (fun j => Claim.atomicNew s c j i) places s.aStore
    ∃ t, exec i s = .next t ∧
      LaneRegs i s t c d (if ty.wide then 2 else 1)
        (fun j k => dwordWord (BitVec.ofNat 64 ((Sparse.find r.2 j).getD 0)) k) ∧
      t.aStore = r.1 ∧ t.wStore = s.wStore ∧ t.cStore = s.cStore ∧
      ∀ q, Sparse.get 0 t.shadow q =
        if places.any fun y => (Claim.atomicNew s c y.1 i ((Sparse.find r.2 y.1).getD 0)).isSome &&
            decide (y.2 / 4 ≤ q) && decide (q ≤ (y.2 + n - 1) / 4) then 0
        else Sparse.get 0 s.shadow q

/-- R321, R322: a local `atom` or `cas` of one lane gives the lane the outcome that the log has of it where the launch replays it, and
else the old value; the location takes what the actual old value gives, and the log goes on as `LoggedOutcomes` says. -/
def Claim.LoggedAtomics : Prop :=
  ∀ (i : Instr) (ord : Order) (scope : Scope) (d : Dst) (a : Src) (ty : IntTy) (s : State) (c : Cur) (j : Nat) (x : LocalPlace),
    Claim.atomicForm i = some (ord, scope, true, d, a, ty) → Issues i s c → NoStreams i →
    (s.curWave c).releasing &&& s.active c = 0 → Claim.lanesOf s c = [j] →
    let n := ty.width / 8
    let at' := storeIndex x.core x.ofs
    s.findLocal (s.curWg c) admitAtomic n ((s.lanes c).a32 a j).toNat n = .ok x →
    let m := ofBytes (Sparse.getBytes s.aStore at' n)
    let u := s.rmwLocal c n (if ordReleases ord then some scope else none) (Claim.atomicNew s c j i) x
    let o := u.1.outcome c j 1 (BitVec.ofNat 64 m)
    ∃ t, exec i s = .next t ∧ LaneRegs i s t c d (if ty.wide then 2 else 1) (fun _ k => dwordWord o.2 k) ∧
      (∀ p, t.part p = o.1.part p) ∧
      t.aStore = (match Claim.atomicNew s c j i m with
        | none => s.aStore
        | some v => Sparse.setBytes s.aStore at' (toBytes n v))

/-- R102, R110, R208, R213, R215: a global `atom` or `cas` whose active lanes' addresses are aligned, translate, may be written
and lie on no poisoned line completes: D and lm get the old values that the lanes' read-modify-writes find one after another
at the home L2, and the local stores are as before. With one
active lane, relaxed order, no record log and no bytes of the line written in the core's L1, they get the old value at the home
L2, the location there the new one where one is written, every other byte under its key reads as before, and the core's L1
gives its copies of the line up. -/
def Claim.GlobalAtomics : Prop :=
  ∀ (i : Instr) (ord : Order) (scope : Scope) (d : Dst) (a : Src) (ty : IntTy) (s : State) (c : Cur),
    Claim.atomicForm i = some (ord, scope, false, d, a, ty) → Issues i s c → NoStreams i →
    (s.curWave c).releasing &&& s.active c = 0 →
    let n := ty.width / 8
    let acc := s.laneAcc c
    let addr := fun j => ((s.lanes c).a64 a j).toNat
    (∀ j ∈ Claim.lanesOf s c, addr j % n = 0) → Claim.Granted s c (Claim.accesses s c addr n true) →
    (∀ j ∈ Claim.lanesOf s c, ∀ x, s.translate acc (addr j) .write = .ok x → s.poisonPlace x = false) →
    let places := (Claim.lanesOf s c).filterMap fun j => (s.translate acc (addr j) .write).toOption.map fun x => (j, x)
    let r := (s.cacheLeaves acc ((Claim.lanesOf s c).map addr)).rmwLanes c
      (fun s g x => s.rmwHome c n (if ordReleases ord then some scope else none) g x) (fun j => Claim.atomicNew s c j i) places
    let f := fun j k => dwordWord (BitVec.ofNat 64 ((Sparse.find r.2 j).getD 0)) k
    ∃ t, exec i s = .next t ∧ LaneRegs i s t c d (if ty.wide then 2 else 1) f ∧
      t.wStore = s.wStore ∧ t.aStore = s.aStore ∧ t.cStore = s.cStore ∧
      ∀ j e pa, Claim.lanesOf s c = [j] → ord = .rlx → s.replaying c = false →
        (s.part acc.part).dbgctl.getLsbD 9 = false → s.translate acc (addr j) .write = .ok (.leaf e pa) → ptePeer e = false →
        (∀ ix, ixCore ix = c.wid / 64 → ixKey ix = pteKey e → ixLine ix = pa / 128 → (s.l1At ix).written = 0) →
        let m := ofBytes (s.readKeyedBytes (pteKey e) pa n)
        (∀ k, k < 2 → f j k = dwordWord (BitVec.ofNat 64 m) k) ∧
        t.readKeyedBytes (pteKey e) pa n = (match Claim.atomicNew s c j i m with
          | none => s.readKeyedBytes (pteKey e) pa n
          | some v => toBytes n v) ∧
        (∀ b, b < pa ∨ pa + n ≤ b → t.readKeyed (pteKey e) b = s.readKeyed (pteKey e) b) ∧
        ∀ ix, ixCore ix = c.wid / 64 → ixKey ix = pteKey e → ixLine ix = pa / 128 → t.l1At ix = L1Line.empty

/-- R112, R126, R216: `fence` moves on and changes no register; at `.core` scope it touches no L1; a release at a wider scope
leaves no written byte in the core's L1, and an acquire no valid word there that is not written. Other cores' L1s are as
before. -/
def Obligations.Fences : Prop :=
  ∀ (kind : FenceKind) (scope : Scope) (s : State) (c : Cur), Issues (.fence kind scope) s c →
    ∃ t, exec (.fence kind scope) s = .next t ∧
      t = { s with waves := t.waves, l1 := t.l1, mem := t.mem, lineKey := t.lineKey, poison := t.poison } ∧
      (∀ k, k ≠ c.wid → t.wave k = s.wave k) ∧
      t.curWave c = { s.curWave c with panels := (t.curWave c).panels, releasing := (t.curWave c).releasing } ∧
      MovedOn (s.panel c) (t.panel c) c.len 0 ∧
      (scope = .core → t.l1 = s.l1 ∧ t.mem = s.mem) ∧
      (∀ ix, ixCore ix ≠ c.wid / 64 → t.l1At ix = s.l1At ix) ∧
      (scope ≠ .core → kind ≠ .acq → ∀ ix, ixCore ix = c.wid / 64 → (t.l1At ix).written = 0) ∧
      (scope ≠ .core → kind ≠ .rel → ∀ ix k, ixCore ix = c.wid / 64 → k < 32 → (t.l1At ix).valid.getLsbD k = true →
        ∀ b, b < 4 → (t.l1At ix).written.getLsbD (4 * k + b) = true)

namespace Sys2Proof.Claim

/-- Register k of a group. -/
def groupDst (d : VReg) (k : Nat) : Dst :=
  match d with
  | .v n => .v (n + k)
  | .o n => .o (n + k)

/-- The word of a lane in register k of a group. -/
def groupWord (s : State) (c : Cur) (d : VReg) (k j : Nat) : Word :=
  match d with
  | .v n => ((s.curWave c).vreg (n + k)).getD j 0
  | .o n => ((s.curWave c).oreg (n + k)).getD j 0

end Sys2Proof.Claim

/-- R253, R255: where the address is a multiple of 4 and no active lane's access fails, micro-step k of `ldq` loads the word at its
address + 4 k into register k of its group, and changes no byte of memory but in lines of which the core's L1 holds written bytes;
%px then names the next step, and after the fourth lm has the first two registers, %px is zero and the instruction is complete. A
fault of a step leaves the registers of the steps before it and names the step. -/
def Claim.QuadLoads : Prop :=
  ∀ (m : MemWord) (d : VReg) (a : Src) (step : Nat) (s : State) (c : Cur),
    let i : Instr := .ldq m d a
    let addr := fun j => (globalAddr (s.lanes c) m a j + 4 * step) % 2 ^ 64
    let acc : Acc := { s.memAcc c m with got := (s.panel c).got }
    let word := fun j => Claim.loaded .b32 (laneBytes (s.readLanes acc addr (fun _ => 4) (Claim.lanesOf s c)).2 j) 0
    let unread := (Claim.accesses s c addr 4 false).filter fun x => !(s.laneAcc c).has x
    Issues i s c → NoStreams i → step < 4 → (s.panel c).progress.toNat % 4 = step →
    ((∀ j ∈ Claim.lanesOf s c, addr j % 4 = 0) → Claim.Granted s c unread →
      ∃ t, exec i s = .next t ∧ Claim.ReadFrame s t c ∧
        if step < 3 then
          LaneRegs .yield s t c (Claim.groupDst d step) 1 (fun j _ => word j) ∧
          t.panel c = { (s.panel c).setProgress (BitVec.ofNat 32 (step + 1)) with got := (t.panel c).got }
        else
          LaneRegs i s t c (VReg.dst d) 4 (fun j k => if k = 3 then word j else Claim.groupWord s c d k j) ∧
          Awaits ((s.panel c).setProgress 0) (t.panel c) c.len 0 (s.active c)) ∧
    ∀ cause sub va, (∀ j ∈ Claim.lanesOf s c, addr j % 4 = 0) →
      s.judge (s.laneAcc c) unread = .trap false (.fail cause sub va) →
      exec i s = .next ((s.setProgress c step).takeTrap c { cause := cause, info := sub, addr := va, mcode := true })

/-- R46, R53, R149, R208, R217, R223: `sread` and `swrite` on a defined stream complete where no access fails; CURSOR and EXH stay.
`sread` delivers each lane's element, and zero where it lies outside the stream; `swrite` stores the elements that lie inside it
(shown for one accessing lane, on write-back pages with room in the L1), and changes no register. On an undefined stream, or with
registers that do not fit an 8-byte element (the model's reading of R47 and of the order of the checks: assumption 61), they are
illegal traps; so is `swrite` of %lane or %quad to a stream of 8-byte elements. -/
def Claim.RandomElements : Prop :=
  (∀ (d : Dst) (k : Nat) (b : Src) (s : State) (c : Cur),
    let i : Instr := .sread d k b
    let x := (s.panel c).stream k
    let n := (s.panel c).elemWords k
    let xs := randomAccesses x (s.lanes c) b false
    Issues i s c → NoStreams i →
    if randomOk (s.curWave c).regs x (dstRun (d, n)) then
      Claim.Granted s c xs →
      ∃ t, exec i s = .next t ∧ Claim.ReadFrame s t c ∧ MovedOn (s.panel c) (t.panel c) c.len 0 ∧
        let r := (s.readLanes { s.laneAcc c with got := [] }
          (fun j => x.addr ((randomElem x ((s.lanes c).a32 b j)).getD 0)) (fun _ => fmtBytes x.fmt) (xs.map (·.lane))).2
        LaneRegs i s t c d n fun j w =>
          if (x.cursor : Int) + ((s.lanes c).a32 b j).toInt < 0 ∨ (x.count : Int) ≤ x.cursor + ((s.lanes c).a32 b j).toInt then 0
          else dwordWord (holdElem x.fmt (laneBytes r j)) w
    else exec i s = .next (s.takeTrap c { cause := 0x01 })) ∧
  ∀ (v : Src) (k : Nat) (b : Src) (s : State) (c : Cur),
    let i : Instr := .swrite v k b
    let x := (s.panel c).stream k
    let n := (s.panel c).elemWords k
    let xs := randomAccesses x (s.lanes c) b true
    Issues i s c → NoStreams i →
    if randomOk (s.curWave c).regs x (srcRun (v, n)) ∧ ¬ (n = 2 ∧ (v = .lane ∨ v = .quad)) then
      Claim.Granted s c xs →
      ∃ t, exec i s = .next t ∧ (∀ w, w ≠ c.wid → t.wave w = s.wave w) ∧ (t.curWave c).v = (s.curWave c).v ∧
        (t.curWave c).o = (s.curWave c).o ∧ (t.curWave c).latch = (s.curWave c).latch ∧
        (t.panel c).s = (s.panel c).s ∧ (t.panel c).pc = ((s.panel c).pc + 4 * c.len) % 2 ^ 57 ∧
        Claim.Stored s t c (xs.map (·.lane)) (fun j => x.addr ((randomElem x ((s.lanes c).a32 b j)).getD 0)) (fmtBytes x.fmt)
          (fun j k => Claim.sourceByte s c n v j k (x.fmt == 0x0E))
    else exec i s = .next (s.takeTrap c { cause := 0x01 })

namespace Sys2Proof.Claim

/-- The lane forms that may name streams, but for those that access memory. -/
def laneForm (i : Instr) : Bool :=
  (intForm i).isSome || (bitForm i).isSome || (floatDst i).isSome ||
  match i with
  | .icmp .. | .fcmp .. | .dcmp .. | .qswz .. | .shfl .. | .shflLong .. | .wred .. | .wscan .. | .mcoll .. => true
  | _ => false

/-- The memory forms that may name streams. -/
def memoryForm : Instr → Bool
  | .ld .. | .st .. | .lds .. | .sts .. | .ldp .. | .atom .. | .cas .. | .sread .. | .swrite .. | .ldq .. => true
  | _ => false

/-- The stream registers that an instruction names. -/
def streamsOf (i : Instr) : List Nat := (usesOf i).srcStreams ++ (usesOf i).dstStreams

/-- R54, R217: an operand that is a stream register is defined and has elements of the operand's width. -/
def streamsOk (p : Panel) (i : Instr) : Bool :=
  (usesOf i).src.all (fun x => match x.1 with
    | .s k => (p.stream k).operandOk x.2
    | _ => true) &&
  (usesOf i).dst.all fun x => match x.1 with
    | .s k => (p.stream k).operandOk x.2
    | _ => true

end Sys2Proof.Claim

/-- R54, R208, R217: a lane or memory form with stream operands traps as illegal where one is undefined or of the wrong
width; a lane form whose streams fit completes where no element's access fails: every stream that it names moves by the wave width, up
to 2^64 − 1 (the model's reading: assumption 61), its EXH follows, and no other stream changes. -/
def Claim.StreamForms : Prop :=
  ∀ (i : Instr) (s : State) (c : Cur), Issues i s c → Claim.streamsOf i ≠ [] →
    (Claim.laneForm i = true ∨ Claim.memoryForm i = true → Claim.streamsOk (s.panel c) i = false →
      exec i s = .next (s.takeTrap c { cause := 0x01 })) ∧
    (Claim.laneForm i = true → Claim.streamsOk (s.panel c) i = true →
      Claim.Granted s c (streamAccesses (s.panel c) (s.active c) (usesOf i).srcStreams (usesOf i).dstStreams) →
      ∃ t, exec i s = .next t ∧ ∀ k,
        if k ∈ Claim.streamsOf i then
          let x := (s.panel c).stream k
          let e := Nat.min (x.cursor + (s.curWave c).width) (2 ^ 64 - 1)
          (t.panel c).stream k = { x with cursor := e, exh := decide (x.count ≤ e) }
        else (t.panel c).stream k = (s.panel c).stream k)

/-- R54, R217: what a stream of elements of up to 4 bytes delivers as a source and takes as a destination, shown on `mov`: lane j
gets element CURSOR + j, held as the format says, and zero at or past the count; and it stores its value to that element, where the
stream has it (shown for one accessing lane, on write-back pages with room in the L1). -/
def Claim.StreamValues : Prop :=
  ∀ (k : Nat) (s : State) (c : Cur),
    let x := (s.panel c).stream k
    let addr := fun j => x.addr (x.cursor + j)
    let lanes := (Claim.lanesOf s c).filter fun j => decide (x.cursor + j < x.count)
    let xs := fun (write : Bool) => lanes.map fun j => ({ lane := j, va := addr j, n := fmtBytes x.fmt, write := write } : Access)
    x.operandOk 1 = true →
    (∀ d, let i : Instr := .mov d (.s k)
      Issues i s c → (usesOf i).dstStreams = [] → Claim.Granted s c (xs false) →
      let r := (s.readLanes (s.laneAcc c) addr (fun _ => fmtBytes x.fmt) lanes).2
      ∃ t, exec i s = .next t ∧ Claim.ReadFrame s t c ∧ LaneRegs i s t c d 1 fun j _ =>
        if x.cursor + j < x.count then (holdElem x.fmt (laneBytes r j)).setWidth 32 else 0) ∧
    ∀ a, let i : Instr := .mov (.s k) a
      Issues i s c → (usesOf i).srcStreams = [] → Claim.Granted s c (xs true) →
      ∃ t, exec i s = .next t ∧ (t.curWave c).v = (s.curWave c).v ∧ (t.curWave c).o = (s.curWave c).o ∧
        Claim.Stored s t c lanes addr (fmtBytes x.fmt) (fun j n => ((s.lanes c).a32 a j >>> (8 * n)).setWidth 8)

/-- R54, R208, R217: instructions that name streams as operands. -/
def Obligations.StreamOperands : Prop := Claim.StreamForms ∧ Claim.StreamValues

/-- R25, R26, R33, R34: splits by miss, and what becomes of a panel narrower than its instruction needs. -/
def Obligations.WidthChanges : Prop := Claim.MissSplits ∧ Claim.ForcedFuseEnds ∧ Claim.NarrowPanels

/-- R106, R124, R211: `lds` and `sts` where every active lane's checks pass. -/
def Obligations.LocalAccesses : Prop := Claim.LocalLoads ∧ Claim.LocalStores ∧ Claim.ShadowsCleared

/-- R102, R106, R208, R347, R352: the first failing lane's fault is raised, and no lane has performed its access. -/
def Obligations.AccessFaults : Prop := Claim.GlobalFaults ∧ Claim.LocalFaults ∧ Claim.RaceTraps

/-- R106, R208, R213, R214, R215: `atom` and `cas` on A stores and on global memory. -/
def Obligations.Atomics : Prop := Claim.LocalAtomics ∧ Claim.LoggedAtomics ∧ Claim.GlobalAtomics

/-- R208, R217, R223, R253, R255: `ldq`, `sread` and `swrite`. -/
def Obligations.ElementAccesses : Prop := Claim.QuadLoads ∧ Claim.RandomElements

namespace Sys2Proof.Claim

/-- R218: a shape that `sdef` takes. -/
def legalShape (ext : List Nat) (fmt rank : Nat) : Prop :=
  1 ≤ rank ∧ rank ≤ 5 ∧ (fmt ≤ 5 ∨ 8 ≤ fmt ∧ fmt ≤ 0x10) ∧ (∀ k, k < rank → ext.getD k 0 ≠ 0) ∧
  (ext.take rank).prod < 2 ^ 64

/-- R53, R218: a stream register after its definition: extents and strides at RANK and above zero, EXH as CURSOR says. -/
def IsDefined (x : Stream) (base : Nat) (ext : List Nat) (strd : Nat → DWord) (fmt rank cursor : Nat) : Prop :=
  x.defined = true ∧ x.rank = rank ∧ x.fmt = fmt ∧ x.cursor = cursor ∧ x.base = base ∧
  x.ext.length = 5 ∧ x.strd.length = 5 ∧
  (∀ k, k < 5 → x.ext.getD k 0 = if k < rank then BitVec.ofNat 32 (ext.getD k 0) else 0) ∧
  (∀ k, k < 5 → x.strd.getD k 0 = if k < rank then strd k else 0) ∧ x.exh = decide (x.count ≤ cursor)

/-- Only stream register `k` of a panel differs, and the panel has moved on. -/
def StreamOnly (p q : Panel) (len k : Nat) : Prop :=
  q = { p with
    pc := (p.pc + 4 * len) % 2 ^ 57, clause := q.clause, hold := q.hold, hinted := q.hinted, doneAt := q.doneAt, got := []
    s := q.s } ∧
  ∀ j, j ≠ k → q.stream j = p.stream j

end Sys2Proof.Claim

/-- R53, R218: `sdef` from g registers: BASE from the first, five extents from the next three, with FMT, RANK and five
strides; CURSOR from its operand. A shape out of its limits is an illegal trap. -/
def Claim.RegisterShapes : Prop :=
  ∀ (k n : Nat) (b : GSrc) (pfd : BitVec 2) (s : State) (c : Cur), Issues (.sdef k (.regs n) b pfd) s c →
    let g := fun i => ((s.panel c).greg (n + i)).toNat
    let ext := [g 1 % 2 ^ 32, g 1 / 2 ^ 32, g 2 % 2 ^ 32, g 2 / 2 ^ 32, g 3 % 2 ^ 32]
    let fmt := g 3 / 2 ^ 32 % 2 ^ 8
    let rank := g 3 / 2 ^ 40 % 2 ^ 3
    (g 0 < 2 ^ 57 ∧ g 3 < 2 ^ 43 ∧ Claim.legalShape ext fmt rank →
      ∃ t, exec (.sdef k (.regs n) b pfd) s = .next t ∧ PanelOnly s t c ∧
        Claim.StreamOnly (s.panel c) (t.panel c) c.len k ∧
        Claim.IsDefined ((t.panel c).stream k) (g 0) ext (fun i => (s.panel c).greg (n + 4 + i)) fmt rank
          ((s.panel c).gsrc b).toNat) ∧
    (¬ (g 0 < 2 ^ 57 ∧ g 3 < 2 ^ 43 ∧ Claim.legalShape ext fmt rank) →
      exec (.sdef k (.regs n) b pfd) s = .next (s.takeTrap c { cause := 0x01 }))

/-- R119, R219: `sdef` from a layout record takes the record's tile: BASE moved by ORIGIN along the strides, modulo 2^57
(assumption 105, the model's choice), SIZE for the extents. A record that is no strided one, compressed, sparse, a moment record with FMT 0, or whose tile runs past the
extents is an illegal trap. -/
def Claim.RecordShapes : Prop :=
  ∀ (k : Nat) (h b : GSrc) (pfd : BitVec 2) (s u : State) (c : Cur) (r : Layout),
    Issues (.sdef k (.record h) b pfd) s c →
    s.layoutFor (clusterOf (c.wid / 64)) (s.laneAcc c) ((s.panel c).gsrc h).toNat = (u, .ok r) →
    let ok := r.kind = 0 ∧ r.cmp = false ∧ r.sparse = false ∧ (r.mom = true → r.fmt ≠ 0) ∧
      ∀ i, i < r.rank → r.origin.getD i 0 + r.size.getD i 0 ≤ r.ext.getD i 0
    let fmt := if r.mom then 0x10 else r.fmt
    (ok → Claim.legalShape r.size fmt r.rank →
      ∃ t, exec (.sdef k (.record h) b pfd) s = .next t ∧ t = { u with waves := t.waves } ∧
        (∀ w, w ≠ c.wid → t.wave w = u.wave w) ∧
        Claim.StreamOnly (u.panel c) (t.panel c) c.len k ∧
        Claim.IsDefined ((t.panel c).stream k)
          (((r.base : Int) + ((List.range r.rank).map fun i => (r.origin.getD i 0 : Int) * r.strd.getD i 0).sum) % 2 ^ 57).toNat
          r.size (fun i => BitVec.ofInt 64 (r.strd.getD i 0)) fmt r.rank ((s.panel c).gsrc b).toNat) ∧
    (¬ (ok ∧ Claim.legalShape r.size fmt r.rank) → exec (.sdef k (.record h) b pfd) s = .next (u.takeTrap c { cause := 0x01 }))

/-- R53, R222: `sadv.skip` adds its operand to the cursor, up to 2^64 − 1, whatever the mask, and sets EXH and its group
predicate as the new cursor says; an undefined stream is an illegal trap. -/
def Claim.Skips : Prop :=
  ∀ (gp k : Nat) (b : GSrc) (s : State) (c : Cur), gp < 4 → Issues (.sadvSkip gp k b) s c →
    let x := (s.panel c).stream k
    if x.defined = false then exec (.sadvSkip gp k b) s = .next (s.takeTrap c { cause := 0x01 })
    else
      let e := Nat.min (x.cursor + ((s.panel c).gsrc b).toNat) (2 ^ 64 - 1)
      ∃ t, exec (.sadvSkip gp k b) s = .next t ∧ PanelOnly s t c ∧
        t.panel c = { s.panel c with
          pc := ((s.panel c).pc + 4 * c.len) % 2 ^ 57, clause := (t.panel c).clause, hold := (t.panel c).hold
          hinted := (t.panel c).hinted, doneAt := (t.panel c).doneAt, got := []
          s := (t.panel c).s, gp := (t.panel c).gp } ∧
        (t.panel c).stream k = { x with cursor := e, exh := decide (x.count ≤ e) } ∧
        (∀ j, j ≠ k → (t.panel c).stream j = (s.panel c).stream j) ∧
        ∀ n, n < 4 → (t.panel c).gp.getLsbD n = if n = gp then decide (x.count ≤ e) else (s.panel c).gp.getLsbD n

namespace Sys2Proof.Claim

/-- R221, R222: the key in element e of a stream of 32-bit unsigned elements, as the panel reads it. -/
def key (s : State) (c : Cur) (x : Stream) (e : Nat) : Nat :=
  ofBytes ((s.fetchBytes (s.laneAcc c) (x.addr e) 4).2)

/-- Every element of a stream from its cursor on can be read, its access is rejected by no generation, and it reads on its own as
it does after any others: its leaf is in the TLBs, and its page passes the L1, or its words are there and touched in this cycle. -/
def Readable (s : State) (c : Cur) (x : Stream) : Prop :=
  ∀ e, x.cursor ≤ e → e < x.count → Granted s c [{ lane := 0, va := x.addr e, n := 4, write := false }] ∧
    s.fetchBytes (s.laneAcc c) (x.addr e) 4 = (s, (s.fetchBytes (s.laneAcc c) (x.addr e) 4).2)

end Sys2Proof.Claim

/-- R222: `sadv.ge` over keys that ascend moves the cursor to the first element from the cursor on whose key is at least
its operand's low 32 bits, or to the count where there is none; with no active lane it stays. -/
def Claim.SkipsToKey : Prop :=
  ∀ (gp k : Nat) (b : GSrc) (s : State) (c : Cur), gp < 4 → Issues (.sadvGe gp k b) s c →
    let x := (s.panel c).stream k
    let key := ((s.panel c).gsrc b).toNat % 2 ^ 32
    x.defined = true → x.fmt = 0x0D → x.cursor < 2 ^ 64 → x.count < 2 ^ 64 →
    (s.active c ≠ 0 → Claim.Readable s c x ∧
      ∀ e f, x.cursor ≤ e → e ≤ f → f < x.count → Claim.key s c x e ≤ Claim.key s c x f) →
    ∃ t e, exec (.sadvGe gp k b) s = .next t ∧ PanelOnly s t c ∧
      t.panel c = { s.panel c with
        pc := ((s.panel c).pc + 4 * c.len) % 2 ^ 57, clause := (t.panel c).clause, hold := (t.panel c).hold
        hinted := (t.panel c).hinted, doneAt := (t.panel c).doneAt, got := []
        s := (t.panel c).s, gp := (t.panel c).gp } ∧
      (t.panel c).stream k = { x with cursor := e, exh := decide (x.count ≤ e) } ∧
      (∀ j, j ≠ k → (t.panel c).stream j = (s.panel c).stream j) ∧
      (t.panel c).gp.getLsbD gp = decide (x.count ≤ e) ∧
      (if s.active c = 0 ∨ x.count ≤ x.cursor then e = x.cursor
       else x.cursor ≤ e ∧ e ≤ x.count ∧ (∀ f, x.cursor ≤ f → f < e → Claim.key s c x f < key) ∧
        (e < x.count → key ≤ Claim.key s c x e))

/-- R220, R221: `sxi` on two streams of keys. While steps are left, a lane is without a match and both streams have a key at
their cursors, a step compares the two keys: the cursor of the lower one moves on, or both do where they are equal, and then the
key goes to the next lane, if it is active; %px counts steps and matches. At the end the lanes without a match get zero, the count
of matches its g register, and the predicates EXH of the streams; %px is zero. With no active lane nothing is consumed. -/
def Claim.Intersections : Prop :=
  ∀ (d : Dst) (sa sb : Nat) (cnt : GDst) (gpa gpb steps : Nat) (s : State) (c : Cur),
    let i : Instr := .sxi d sa sb cnt gpa gpb steps
    let p := s.panel c
    let x := p.stream sa
    let y := p.stream sb
    let acc := s.laneAcc c
    let done := p.progress.toNat % 2 ^ 7
    let m := if s.active c = 0 then 0 else p.progress.toNat / 2 ^ 7 % 2 ^ 7
    let more := s.active c ≠ 0 ∧ done < steps ∧ m < (s.curWave c).width ∧ x.cursor < x.count ∧ y.cursor < y.count
    Issues i s c → NoStreams i → sa ≠ sb → x.defined = true → y.defined = true → x.fmt = 0x0D → y.fmt = 0x0D →
    x.cursor < 2 ^ 64 → y.cursor < 2 ^ 64 → m ≤ 64 →
    (more → Claim.Granted s c [{ lane := 0, va := x.addr x.cursor, n := 4, write := false },
        { lane := 0, va := y.addr y.cursor, n := 4, write := false }] →
      let u := s.fetchBytes acc (x.addr x.cursor) 4
      let v := u.1.fetchBytes acc (y.addr y.cursor) 4
      let ka := ofBytes u.2
      let kb := ofBytes v.2
      ∃ t, exec i s = .next t ∧ Claim.ReadFrame s t c ∧ (∀ w, w ≠ c.wid → t.wave w = s.wave w) ∧
        t.curWave c = { s.curWave c with v := (t.curWave c).v, o := (t.curWave c).o, panels := (t.curWave c).panels } ∧
        (∀ r j, j < 64 → ((t.curWave c).vreg r).getD j 0 =
          if ka = kb ∧ j = m ∧ vWordOf d 1 r = some 0 ∧ (s.active c).getLsbD j = true then BitVec.ofNat 32 ka
          else ((s.curWave c).vreg r).getD j 0) ∧
        (∀ r j, j < 64 → ((t.curWave c).oreg r).getD j 0 =
          if ka = kb ∧ j = m ∧ oWordOf d 1 r = some 0 ∧ (s.active c).getLsbD j = true then BitVec.ofNat 32 ka
          else ((s.curWave c).oreg r).getD j 0) ∧
        t.panel c = { p.setProgress (BitVec.ofNat 32 (done + 1 + 128 * (if ka = kb then m + 1 else m))) with
          s := (t.panel c).s, got := (t.panel c).got } ∧
        (t.panel c).stream sa = { x with cursor := if ka ≤ kb then x.cursor + 1 else x.cursor } ∧
        (t.panel c).stream sb = { y with cursor := if kb ≤ ka then y.cursor + 1 else y.cursor } ∧
        ∀ k, k ≠ sa → k ≠ sb → (t.panel c).stream k = p.stream k) ∧
    (¬ more →
      ∃ t, exec i s = .next t ∧ t = { s with waves := t.waves } ∧ (∀ w, w ≠ c.wid → t.wave w = s.wave w) ∧
        t.curWave c = { s.curWave c with v := (t.curWave c).v, o := (t.curWave c).o, panels := (t.curWave c).panels } ∧
        (∀ r j, j < 64 → ((t.curWave c).vreg r).getD j 0 =
          if m ≤ j ∧ j < (s.curWave c).width ∧ vWordOf d 1 r = some 0 ∧ (s.active c).getLsbD j = true then 0
          else ((s.curWave c).vreg r).getD j 0) ∧
        (t.panel c).progress = 0 ∧ (t.panel c).pc = (p.pc + 4 * c.len) % 2 ^ 57 ∧
        (t.panel c).stream sa = { x with exh := decide (x.count ≤ x.cursor) } ∧
        (t.panel c).stream sb = { y with exh := decide (y.count ≤ y.cursor) } ∧
        (∀ k, k ≠ sa → k ≠ sb → (t.panel c).stream k = p.stream k) ∧
        (∀ n, (t.panel c).greg n = if cnt = .g n then BitVec.ofNat 64 m else p.greg n) ∧
        ∀ n, n < 4 → (t.panel c).gp.getLsbD n =
          if n = gpa ∨ n = gpb then
            (decide (n = gpa) && decide (x.count ≤ x.cursor)) || (decide (n = gpb) && decide (y.count ≤ y.cursor))
          else p.gp.getLsbD n)

/-- R53, R119, R218-R222: `sdef` in both forms, and `sadv` and `sxi` over streams of keys. -/
def Obligations.StreamShapesAndKeys : Prop :=
  Claim.RegisterShapes ∧ Claim.RecordShapes ∧ Claim.Skips ∧ Claim.SkipsToKey ∧ Claim.Intersections

namespace Sys2Proof.Claim

/-- R224: handle `h` of the panel's workgroup is bound, and names a record that its wave may reach at `x`. -/
def Names (s : State) (c : Cur) (h : Nat) (x : LocalPlace) : Prop :=
  handleBound ((s.curWg c).handles.getD h 0) = true ∧
  s.findLocal (s.curWg c) admitA 16 (handleAddr ((s.curWg c).handles.getD h 0)) 16 = .ok x

/-- R116: the fields of a barrier record, EXP, ARR, PEND and GEN, in 16 bytes. -/
structure Fields where
  exp : Nat
  arr : Nat
  pend : Int
  gen : Nat

def fieldsOf (s : State) (x : LocalPlace) : Fields :=
  let r := ofBytes (s.readLocal x 16)
  { exp := r % 2 ^ 24, arr := r / 2 ^ 24 % 2 ^ 24, pend := (BitVec.ofNat 48 (r / 2 ^ 48)).toInt, gen := r / 2 ^ 96 }

/-- R117: the record after an update by `da` arrivals and `db` bytes: a complete phase starts the next generation. -/
def updated (r : Fields) (da : Nat) (db : Int) : Fields :=
  let pend := (BitVec.ofInt 48 (r.pend + db)).toInt
  if r.arr + da = r.exp ∧ pend = 0 then { exp := r.exp, arr := 0, pend := 0, gen := (r.gen + 1) % 2 ^ 32 }
  else { exp := r.exp, arr := r.arr + da, pend := pend, gen := r.gen }

/-- What an instruction on a barrier record may change besides the record: registers, the L1 that it releases or
acquires, and what the record log writes. -/
def BarrierFrame (s t : State) : Prop :=
  t = { s with
    waves := t.waves, l1 := t.l1, tlb := t.tlb, mem := t.mem, lineKey := t.lineKey, poison := t.poison, freeCtr := t.freeCtr
    aStore := t.aStore, shadow := t.shadow, regs := { s.regs with parts := t.regs.parts } }

/-- The lane registers of every wave, the panels of other waves and the wave's other panels are as before. -/
def SameLanes (s t : State) (c : Cur) : Prop :=
  (∀ w, w ≠ c.wid → t.wave w = s.wave w) ∧
  t.curWave c = { s.curWave c with panels := (t.curWave c).panels, owed := (t.curWave c).owed } ∧
  ∀ e, e ≠ c.entry → (t.curWave c).panel e = (s.curWave c).panel e

/-- The updates: destination, handle, arrivals and bytes. -/
def updateForm (s : State) (c : Cur) : Instr → Option (GDst × Nat × Nat × Int)
  | .barr d h => some (d, h, 1, 0)
  | .bexp d h n => some (d, h, 0, (((s.panel c).gsrc n).setWidth 48).toInt)
  | _ => none

end Sys2Proof.Claim

/-- R116, R117, R224, R225, R226: `barr` adds one arrival and `bexp` bytes to a barrier record, completing the phase where
that is the last of it, and return the generation found; every other byte of the A stores is as before. -/
def Claim.BarrierUpdates : Prop :=
  ∀ (i : Instr) (d : GDst) (h da : Nat) (db : Int) (s : State) (c : Cur) (x : LocalPlace),
    Claim.updateForm s c i = some (d, h, da, db) → Issues i s c → Claim.Names s c h x → s.replaying c = false →
    let r := Claim.fieldsOf s x
    r.arr + da ≤ r.exp →
    ∃ t, exec i s = .next t ∧ Claim.BarrierFrame s t ∧ Claim.SameLanes s t c ∧
      t.panel c = { s.panel c with
        pc := ((s.panel c).pc + 4 * c.len) % 2 ^ 57, clause := (t.panel c).clause, hold := (t.panel c).hold
        hinted := (t.panel c).hinted, doneAt := (t.panel c).doneAt, got := []
        g := (t.panel c).g } ∧
      (∀ n, (t.panel c).greg n = if d = .g n then BitVec.ofNat 64 r.gen else (s.panel c).greg n) ∧
      Claim.fieldsOf t x = Claim.updated r da db ∧
      ∀ k, k < storeIndex x.core x.ofs ∨ storeIndex x.core x.ofs + 16 ≤ k →
        Sparse.get 0 t.aStore k = Sparse.get 0 s.aStore k

/-- R55, R106, R117, R224: an update through an unbound handle is an illegal trap; one that would pass the expected
arrivals is a barrier overrun with the record's address, and the record stays. -/
def Claim.BarrierTraps : Prop :=
  ∀ (i : Instr) (d : GDst) (h da : Nat) (db : Int) (s : State) (c : Cur),
    Claim.updateForm s c i = some (d, h, da, db) → Issues i s c →
    (handleBound ((s.curWg c).handles.getD h 0) = false → exec i s = .next (s.takeTrap c { cause := 0x01 })) ∧
    ∀ x, Claim.Names s c h x → (Claim.fieldsOf s x).exp < (Claim.fieldsOf s x).arr + da →
      exec i s = .next (s.takeTrap c
        { cause := 0x17, write := true, loc := true, addr := handleAddr ((s.curWg c).handles.getD h 0) })

/-- R227: whether the phase of generation `ph` is complete at `gen`: it lies behind, modulo 2^w. -/
def Claim.behind (w gen ph : Nat) : Prop := ∃ d, 1 ≤ d ∧ d < 2 ^ (w - 1) ∧ gen % 2 ^ w = (ph + d) % 2 ^ w

/-- R227: `bwait` on a complete phase passes it, with the record's generation in its destination and no byte of the
stores changed; on a phase that is not complete the panel waits in BARW at the instruction. -/
def Claim.BarrierWaits : Prop :=
  ∀ (d : GDst) (h : Nat) (ph : GSrc) (s : State) (c : Cur) (x : LocalPlace),
    Issues (.bwait d h ph) s c → Claim.Names s c h x →
    let gen := (Claim.fieldsOf s x).gen
    let want := ((s.panel c).gsrc ph).toNat % 2 ^ 32
    (Claim.behind 32 gen want → s.replaying c = false →
      ∃ t, exec (.bwait d h ph) s = .next t ∧ Claim.BarrierFrame s t ∧ Claim.SameLanes s t c ∧
        t.aStore = s.aStore ∧ (t.panel c).status = .run ∧ (t.panel c).wait = none ∧
        (t.panel c).pc = ((s.panel c).pc + 4 * c.len) % 2 ^ 57 ∧ (t.panel c).mask = (s.panel c).mask ∧
        ∀ n, (t.panel c).greg n = if d = .g n then BitVec.ofNat 64 gen else (s.panel c).greg n) ∧
    (¬ Claim.behind 32 gen want →
      exec (.bwait d h ph) s = .next (s.setPanel c { s.panel c with
        status := .barw
        wait := some { instr := .bwait d h ph, len := c.len, since := s.cycle, aux := want } }))

/-- R256: `sbar`, not interrupted before it, arrives at its record, returns the generation found, and waits in BARW for the
phase that the arrival belongs to; %px keeps that the arrival is made. -/
def Claim.SplitBarriers : Prop :=
  ∀ (d : GDst) (h : Nat) (s : State) (c : Cur) (x : LocalPlace), Issues (.sbar d h) s c → Claim.Names s c h x →
    s.replaying c = false → (s.panel c).px = 0 → (s.panel c).frame = none →
    let r := Claim.fieldsOf s x
    r.arr + 1 ≤ r.exp →
    ∃ t, exec (.sbar d h) s = .next t ∧ Claim.BarrierFrame s t ∧ Claim.SameLanes s t c ∧
      t.panel c = { s.panel c with
        g := (t.panel c).g, px := BitVec.ofNat 32 (2 ^ 31 + r.gen % 2 ^ 30), status := .barw
        wait := some { instr := .sbar d h, len := c.len, since := (t.cycle), aux := r.gen % 2 ^ 30 } } ∧
      (∀ n, (t.panel c).greg n = if d = .g n then BitVec.ofNat 64 r.gen else (s.panel c).greg n) ∧
      Claim.fieldsOf t x = Claim.updated r 1 0

/-- R227, R256: a panel waiting in BARW for a phase that is complete runs again behind the instruction; a `bwait` writes
the generation, an `sbar` clears %px. -/
def Claim.BarrierWaitsEnd : Prop :=
  ∀ (s : State) (w e : Nat) (x : LocalPlace) (y : Waiting), let c : Cur := { wid := w, entry := e, len := y.len }
    let p := s.panel c
    p.valid = true → p.status = .barw → s.waveRuns w = true → p.wait = some y → s.replaying c = false → s.logStalls c 1 = false →
    (∀ d h ph, y.instr = .bwait d h ph → Claim.Names s c h x → Claim.behind 32 (Claim.fieldsOf s x).gen y.aux → y.aux < 2 ^ 32 →
      ∃ t, exec (.barrierWaitDone w e) s = .next t ∧ Claim.BarrierFrame s t ∧ Claim.SameLanes s t c ∧ t.aStore = s.aStore ∧
        (t.panel c).status = .run ∧ (t.panel c).wait = none ∧ (t.panel c).pc = (p.pc + 4 * y.len) % 2 ^ 57 ∧
        ∀ n, (t.panel c).greg n = if d = .g n then BitVec.ofNat 64 (Claim.fieldsOf s x).gen else p.greg n) ∧
    (∀ d h, y.instr = .sbar d h → Claim.Names s c h x → Claim.behind 30 (Claim.fieldsOf s x).gen y.aux → y.aux < 2 ^ 30 →
      p.frame = none →
      ∃ t, exec (.barrierWaitDone w e) s = .next t ∧ Claim.BarrierFrame s t ∧ Claim.SameLanes s t c ∧ t.aStore = s.aStore ∧
        (t.panel c).status = .run ∧ (t.panel c).wait = none ∧ (t.panel c).pc = (p.pc + 4 * y.len) % 2 ^ 57 ∧
        (t.panel c).px = 0 ∧ (t.panel c).g = p.g)

/-- R116, R117, R224-R226: what `barr` and `bexp` do, and where they trap. -/
def Obligations.BarrierArrivals : Prop := Claim.BarrierUpdates ∧ Claim.BarrierTraps

/-- R227, R256: `bwait` and `sbar`, and the end of a wait at a barrier. -/
def Obligations.BarrierPhases : Prop := Claim.BarrierWaits ∧ Claim.SplitBarriers ∧ Claim.BarrierWaitsEnd

namespace Sys2Proof.Claim

/-- A thread that an instruction of the panel forks (R130), with the engine's work captured at issue. -/
def Forked (s t : State) (c : Cur) (bar : Option Nat) (e : Engine) : Prop :=
  t.serial = s.serial + 1 ∧ (∀ k, k ≠ s.serial → t.thread? k = s.thread? k) ∧
  ∃ x, t.thread? s.serial = some x ∧ x.wid = c.wid ∧ x.entry = c.entry ∧ x.gid = (s.curWg c).gid ∧ x.core = c.wid / 64 ∧
    x.quads = (s.panel c).qmask ∧ x.part = (s.laneAcc c).part ∧ x.asn = (s.laneAcc c).asn ∧ x.gen = (s.laneAcc c).gen ∧ x.pc = (s.panel c).pc ∧
    x.bar = bar ∧ x.engine = e ∧ x.held = none

/-- R228: the operands that `copy` captures: the local address, the record, the box offsets, AUXO. -/
def copyOf (s : State) (c : Cur) (kind : CopyKind) (out : Bool) (evp : Option Nat) (l : GSrc) (gx : Nat) (handle : Nat)
    (record : List Byte) : CopyOp :=
  let g := fun i => ((s.panel c).greg (gx + i)).toNat
  { kind := kind, out := out, loc := ((s.panel c).gsrc l).toNat % 2 ^ 32, handle := handle, record := record
    ofs := [(BitVec.ofNat 32 (g 0)).toInt, (BitVec.ofNat 32 (g 0 / 2 ^ 32)).toInt, (BitVec.ofNat 32 (g 1)).toInt,
      (BitVec.ofNat 32 (g 1 / 2 ^ 32)).toInt, (BitVec.ofNat 32 (g 2)).toInt]
    auxo := g 2 / 2 ^ 32, rows := [], issued := 0, landed := 0, absent := [], touched := false, flags := 0, negvar := false, evp := evp }

/-- R229: the coordinate in dimension k of the element of a box with index i in dimension 0 and indices `ks` in those above. -/
def boxCoord (x : CopyOp) (i : Nat) (ks : List Nat) (k : Nat) : Int :=
  (x.lay.origin.getD k 0 : Int) + x.ofs.getD k 0 + ((i :: ks).getD k 0 : Nat)

/-- R229: it lies inside the extents; and its address, BASE + Σ xk × STRDk. -/
def inBox (x : CopyOp) (i : Nat) (ks : List Nat) : Bool :=
  (List.range x.lay.rank).all fun k => decide (0 ≤ boxCoord x i ks k) && decide (boxCoord x i ks k < x.lay.ext.getD k 0)
def boxAddr (x : CopyOp) (i : Nat) (ks : List Nat) : Nat :=
  (((x.lay.base : Int) + ((List.range x.lay.rank).map fun k => boxCoord x i ks k * x.lay.strd.getD k 0).sum) % 2 ^ 64).toNat

/-- R229: the number of the row with these indices, the lowest dimension fastest. -/
def boxRow (x : CopyOp) (ks : List Nat) : Nat :=
  (List.range (x.lay.rank - 1)).foldr (fun k m => ks.getD k 0 + x.lay.size.getD (k + 1) 0 * m) 0

/-- A plain copy of a strided record of whole bytes, neither compressed nor sparse. -/
structure PlainCopy (x : CopyOp) : Prop where
  kind : x.kind = .plain
  strided : x.lay.kind = 0 ∧ x.lay.fmt ≠ 6
  rank : 1 ≤ x.lay.rank ∧ x.lay.rank ≤ 5
  raw : x.lay.cmp = false ∧ x.lay.sparse = false

/-- Writes of an agent, one after another. -/
def sendAll (a : Acc) : State → List (Nat × List Byte) → Except Verdict State
  | s, [] => .ok s
  | s, x :: xs =>
    match s.agentWrite a x.1 x.2 with
    | .error v => .error v
    | .ok t => sendAll a t xs

end Sys2Proof.Claim

/-- R228, R232, R233: in the producer wave, with a usable record, no rule of kind or direction broken, its local ranges in
order and its handle bound, `copy` with an active lane and something to move forks an engine thread with the operands
captured at issue, counted by the record that the handle names, and issues its first row. While rows are left %px counts those
that are issued and the panel stays at the copy; with the last it moves on. With no active lane it only moves on. In another
wave it traps with cause 0x08. -/
def Claim.CopiesStart : Prop :=
  ∀ (kind : CopyKind) (out : Bool) (evp : BitVec 2) (evo : Bool) (bh : Nat) (l h : GSrc) (gx : Nat) (s u : State) (c : Cur)
    (r : Layout) (record : List Byte) (place : LocalPlace),
    let i : Instr := .copy kind out evp evo bh l h gx
    let x := Claim.copyOf s c kind out (if evo then some evp.toNat else none) l gx r.handle record
    let issued := fun (k n : Nat) (p q : Panel) =>
      if n ≤ k then MovedOn (p.setProgress 0) q c.len 0 else q = p.setProgress (BitVec.ofNat 32 k)
    Issues i s c →
    ((s.panel c).progress = 0 → (s.curWave c).idx ≠ s.producer (s.curWg c) → exec i s = .next (s.takeTrap c { cause := 0x08 })) ∧
    ((s.panel c).progress = 0 → (s.curWave c).idx = s.producer (s.curWg c) →
      s.layoutFor (clusterOf (c.wid / 64)) (s.laneAcc c) ((s.panel c).gsrc h).toNat = (u, .ok r) →
      (u.recordBytes (clusterOf (c.wid / 64)) (u.laneAcc c) r.handle).2 = .ok record →
      x.ruleBroken l = false → u.copyLocals (s.curWg c) x = .ok () → Claim.Names u c bh place →
      (s.active c = 0 → ∃ t, exec i s = .next t ∧ PanelOnly u t c ∧ MovedOn (u.panel c) (t.panel c) c.len 0) ∧
      (s.active c ≠ 0 → x.units ≠ 0 →
        ∃ t, exec i s = .next t ∧ t = { u with waves := t.waves, threads := t.threads, serial := t.serial } ∧
          Claim.Forked u t c (some (handleAddr ((s.curWg c).handles.getD bh 0)))
            (.copy { x with rows := if kind = .gather then u.gatherRows (s.curWg c) x else [], issued := 1 }) ∧
          issued 1 x.units (u.panel c) (t.panel c) ∧ ∀ w, w ≠ c.wid → t.wave w = u.wave w)) ∧
    ∀ tid th y, (s.panel c).progress ≠ 0 → s.copyAt c (s.panel c).progress.toNat = some (tid, th, y) →
      let k := (s.panel c).progress.toNat + 1
      ∃ t, exec i s = .next t ∧ t = { s with waves := t.waves, threads := t.threads } ∧
        t.thread? tid = some { th with engine := .copy { y with issued := k } } ∧
        (∀ n, n ≠ tid → t.thread? n = s.thread? n) ∧ issued k y.units (s.panel c) (t.panel c) ∧
        ∀ w, w ≠ c.wid → t.wave w = s.wave w

/-- R130, R233: a unit of a copy that is not its last lands: the thread stays, one unit further, and nothing but
memory, the local stores and caches changes; after the last unit the thread is gone. -/
def Claim.CopiesLand : Prop :=
  ∀ (s u : State) (tid : Nat) (th : Thread) (x : CopyOp), s.thread? tid = some th → th.engine = .copy x →
    s.threadRuns th = true → s.fresh th = true → x.landed < x.issued → s.copyUnit tid th x = .ok u →
    exec (.copyLanding tid) s = .next u ∧
    (x.landed + 1 < x.units → ∃ y, u.thread? tid = some { th with engine := .copy y } ∧ y.landed = x.landed + 1 ∧
      y.issued = x.issued ∧ y.kind = x.kind ∧ y.out = x.out ∧ y.record = x.record ∧ y.loc = x.loc ∧ y.ofs = x.ofs ∧
      (∀ k, k ≠ tid → u.thread? k = s.thread? k) ∧
      u = { s with
        threads := u.threads, mem := u.mem, lineKey := u.lineKey, poison := u.poison, l1 := u.l1, tlb := u.tlb
        aStore := u.aStore, wStore := u.wStore, cStore := u.cStore, shadow := u.shadow, freeCtr := u.freeCtr }) ∧
    (x.units ≤ x.landed + 1 → u.thread? tid = none)

/-- R117, R229, R233: what a unit of a copy moves, stated for plain copies of strided records that are neither compressed nor sparse,
of elements of whole bytes. A unit is a row of the box, packed on the local side with dimension 0 fastest. Inwards each element of it
inside the extents arrives from its address (where the row's reads leave the machine as it is), and each one outside is filled with
the low bytes of CLEAR; outwards each element inside goes to its address, in order, and no other is written; these writes are sent
before the row's bytes are taken from PEND of the copy's record. -/
def Claim.CopiesMove : Prop :=
  ∀ (s u : State) (tid : Nat) (th : Thread) (x : CopyOp) (p y : LocalPlace) (bar : Nat) (ks : List Nat),
    th.engine = .copy x → Claim.PlainCopy x → s.copyUnit tid th x = .ok u →
    let n := x.lay.elem
    let size := x.lay.size.getD 0 0
    let byte := fun (i k : Nat) => storeIndex p.core p.ofs + i * n + k
    let record := storeIndex y.core y.ofs
    ks.length = x.lay.rank - 1 → (∀ k, k + 1 < x.lay.rank → ks.getD k 0 < x.lay.size.getD (k + 1) 0) →
    x.landed = Claim.boxRow x ks →
    s.threadLocal th admitAny 1 (x.loc + x.landed * (size * n)) (size * n) = some p →
    th.bar = some bar → s.threadLocal th admitA 16 bar 16 = some y → y.store = .a →
    (x.out = false → (∀ i, i < size → Claim.inBox x i ks = true →
        (s.fetchBytes th.acc (Claim.boxAddr x i ks) n).1 = s) →
      ∀ i k, i < size → k < n → (p.store = .a → byte i k < record ∨ record + 16 ≤ byte i k) →
        Sparse.get 0 (u.store p.store) (byte i k) =
          if Claim.inBox x i ks then (s.fetchBytes th.acc (Claim.boxAddr x i ks) n).2.getD k 0 else x.lay.clear.getD k 0) ∧
    (x.out = true → s.poison = [] →
      ∃ v, Claim.sendAll th.acc s ((List.range size).filterMap fun i =>
          if Claim.inBox x i ks then
            some (Claim.boxAddr x i ks, (List.range n).map fun k => Sparse.get 0 (s.store p.store) (byte i k))
          else none) = .ok v ∧
        u.mem = (v.releaseL1 th.core).mem ∧ u.lineKey = (v.releaseL1 th.core).lineKey) ∧
    ((Claim.fieldsOf s y).arr ≤ (Claim.fieldsOf s y).exp →
      (x.out = true ∨ p.store ≠ .a ∨ byte size 0 ≤ record ∨ record + 16 ≤ byte 0 0) →
      Claim.fieldsOf u y = Claim.updated (Claim.fieldsOf s y) 0 (-((size * n : Nat) : Int)))

/-- R120, R234: `lflush` releases at `.clus`, or `.dev`, and waits; when its invalidation is complete the record of its
handle is in no record cache of its clusters, every other record's entry is as before, and the panel moves on. A handle
that is no multiple of 64 below 2^57 is an illegal trap. -/
def Claim.RecordFlushes : Prop :=
  (∀ (dev : Bool) (h : GSrc) (s : State) (c : Cur), Issues (.lflush dev h) s c →
    let x := ((s.panel c).gsrc h).toNat
    if x % 64 = 0 ∧ x < 2 ^ 57 then
      ∃ t, exec (.lflush dev h) s = .next t ∧
        t = { s with waves := t.waves, l1 := t.l1, mem := t.mem, lineKey := t.lineKey, poison := t.poison } ∧
        (∀ w, w ≠ c.wid → t.wave w = s.wave w) ∧ (∀ ix, ixCore ix = c.wid / 64 → (t.l1At ix).written = 0) ∧
        t.panel c = { s.panel c with
          wait := some { instr := .lflush dev h, len := c.len, since := s.cycle, aux := x } }
    else exec (.lflush dev h) s = .next (s.takeTrap c { cause := 0x01 })) ∧
  ∀ (dev : Bool) (h : GSrc) (s : State) (w e : Nat) (y : Waiting), let c : Cur := { wid := w, entry := e, len := y.len }
    (s.panel c).valid = true → (s.panel c).status = .run → (s.panel c).wait = some y → y.instr = .lflush dev h →
    clusterOf (w / 64) < 9 → (s.laneAcc c).part < 8 → (s.laneAcc c).asn < 2 ^ 16 →
    ∃ t, exec (.lflushComplete w e) s = .next t ∧ t = { s with waves := t.waves, recCache := t.recCache } ∧
      (t.panel c).wait = none ∧ (t.panel c).pc = ((s.panel c).pc + 4 * y.len) % 2 ^ 57 ∧
      ∀ k part asn a, k < 9 → part < 8 → asn < 2 ^ 16 →
        Sparse.find t.recCache (recKey k part asn a) =
          if (dev = true ∨ k = clusterOf (w / 64)) ∧ part = (s.laneAcc c).part ∧ asn = (s.laneAcc c).asn ∧
            a % 2 ^ 64 = y.aux % 2 ^ 64
          then none else Sparse.find s.recCache (recKey k part asn a)

/-- R235, R325-R327: `qpost` to a queue of its own address space and partition that takes posts, with an aligned packet and
a lane active: a full ring returns bit 63 with QRD and writes no queue; otherwise the packet's bytes go to the slot of
QPUT, behind all that the core had written, every other byte of memory reads as before, QPUT counts on, QANN with it where the form
rings the doorbell, and the old QPUT is returned. Other queues stay. A queue that it may not post to is cause 0x11, a packet out of
alignment 0x13, with the packet's address in %xaddr (the model's reading: assumption 63). -/
def Claim.QueuePosts : Prop :=
  ∀ (db : Bool) (d : GDst) (q a : GSrc) (s : State) (c : Cur), Issues (.qpost db d q a) s c →
    let n := ((s.panel c).gsrc q).toNat
    let addr := ((s.panel c).gsrc a).toNat
    let x := s.queue n
    let acc := s.laneAcc c
    let may := n < 8192 ∧ x.qcfg.toNat / 2 ^ 16 % 2 ^ 16 = acc.asn ∧ x.qcfg.toNat / 2 ^ 8 % 8 = acc.part ∧
      x.qcfg.getLsbD 12 = true
    let slots := 2 ^ (x.qcfg.toNat % 16 + 4)
    let slot := (x.qbase.toNat + 128 * (x.qput.toNat % slots)) % 2 ^ 64
    let sent := s.releaseL1 (c.wid / 64)
    let packet := (sent.fetchBytes acc addr 128).2
    let src : Access := { lane := 0, va := addr, n := 128, write := false }
    (¬ may → exec (.qpost db d q a) s = .next (s.takeTrap c { cause := 0x11, addr := addr })) ∧
    (may → addr % 128 ≠ 0 → exec (.qpost db d q a) s = .next (s.takeTrap c { cause := 0x13, addr := addr })) ∧
    (may → addr % 128 = 0 → s.active c = 0 →
      ∃ t, exec (.qpost db d q a) s = .next t ∧ PanelOnly s t c ∧ MovedOn (s.panel c) (t.panel c) c.len 0) ∧
    (may → addr % 128 = 0 → s.active c ≠ 0 → (x.qput - x.qrd).toNat = slots → Claim.Granted s c [src] →
      ∃ t, exec (.qpost db d q a) s = .next t ∧ t = { sent with waves := t.waves } ∧
        (∀ w, w ≠ c.wid → t.wave w = s.wave w) ∧ (t.panel c).pc = ((s.panel c).pc + 4 * c.len) % 2 ^ 57 ∧
        ∀ k, (t.panel c).greg k = if d = .g k then BitVec.ofNat 64 (2 ^ 63 + x.qrd.toNat) else (s.panel c).greg k) ∧
    (may → addr % 128 = 0 → s.active c ≠ 0 → (x.qput - x.qrd).toNat ≠ slots →
      Claim.Granted s c [src, { lane := 0, va := slot, n := 128, write := true }] →
      ∃ t, exec (.qpost db d q a) s = .next t ∧
        t = { s with
          waves := t.waves, l1 := t.l1, tlb := t.tlb, mem := t.mem, lineKey := t.lineKey, poison := t.poison
          freeCtr := t.freeCtr, regs := { s.regs with queues := t.regs.queues } } ∧
        (∀ k, k < 8192 → t.queue k =
          if k = n then { x with qput := x.qput + 1, qann := if db then x.qput + 1 else x.qann } else s.queue k) ∧
        (∀ w, w ≠ c.wid → t.wave w = s.wave w) ∧ (t.panel c).pc = ((s.panel c).pc + 4 * c.len) % 2 ^ 57 ∧
        (∀ k, (t.panel c).greg k = if d = .g k then BitVec.ofNat 64 x.qput.toNat else (s.panel c).greg k) ∧
        (∀ ix, ixCore ix = c.wid / 64 → (t.l1At ix).written = 0) ∧
        ∀ e pa, c.wid / 64 < 388 → x.qbase.toNat % 128 = 0 →
          sent.translate { acc with core := none } slot .write = .ok (.leaf e pa) → ptePeer e = false →
          (∀ k, k < 128 → t.readKeyed (pteKey e) (pa + k) = packet.getD k 0) ∧
          ∀ key b, b < pa ∨ pa + 128 ≤ b → t.readKeyed key b = sent.readKeyed key b)

/-- R117, R130, R228, R229, R232, R233: the start of a copy, what it moves, and its landings. -/
def Obligations.Copies : Prop := Claim.CopiesStart ∧ Claim.CopiesMove ∧ Claim.CopiesLand

/-- R120, R234, R235, R325-R327: `lflush` and `qpost`. -/
def Obligations.FlushesAndPosts : Prop := Claim.RecordFlushes ∧ Claim.QueuePosts

namespace Sys2Proof.Claim

/-- R237, R240, R244: the loop that `mloop` captures; a register tile has the rows of the first sixteen counted lanes, of
which the active ones are written. -/
def loopOf (s : State) (c : Cur) (areg : Option Nat) (g fb ksteps : Nat) (sat init tri : Bool) (tfill : TFill) : MatOp :=
  let w := s.curWave c
  let lanes := ((List.range 64).filter fun j => ((s.panel c).qmask ||| w.exitedQuads).getLsbD (j / 4)).take 16
  { g := (List.range 4).map fun i => (s.panel c).greg (g + i)
    fb := (s.panel c).format fb, ksteps := ksteps, sat := sat, init := init, tri := tri, tfill := tfill
    areg := areg.map fun a => lanes.map fun j => (List.range 16).flatMap fun i => toBytes 4 ((w.vreg (a + i)).getD j 0).toNat
    lanes := if areg.isSome then lanes else []
    written := if areg.isSome then lanes.map fun j => (s.active c).getLsbD j else List.replicate 64 true
    kdone := 0, flags := 0, negvar := false }

/-- The matrix forms that fork a thread: handle, engine, and the first of their issue checks that fails. -/
def matrixForm (s : State) (c : Cur) : Instr → Option (Nat × Engine × Option Cause)
  | .mloop areg g bh fb ksteps sat init tri tfill =>
    let x := loopOf s c areg g fb ksteps sat init tri tfill
    some (bh, .mloop x, s.loopCauses (s.curWg c) x)
  | .msoft pout g bh e4m3 tri first =>
    let x : SoftOp :=
      { g := [(s.panel c).greg g, (s.panel c).greg (g + 1)], pout := ((s.panel c).gsrc pout).toNat % 2 ^ 32, e4m3 := e4m3
        tri := tri, first := first, rows := 0, flags := 0 }
    some (bh, .msoft x, s.softCauses (s.curWg c) x)
  | _ => none

end Sys2Proof.Claim

/-- R236, R237, R239, R248: `mloop` and `msoft` wait, with nothing changed, while a matrix operation of their wave is in
flight; else the first issue check that fails is a precise trap; with none, and the handle bound, they fork a thread
with their operands, which is then the wave's matrix operation, and move on. -/
def Claim.MatrixStarts : Prop :=
  ∀ (i : Instr) (bh : Nat) (e : Engine) (cause : Option Cause) (s : State) (c : Cur),
    Claim.matrixForm s c i = some (bh, e, cause) → Issues i s c →
    ((s.curWave c).matrix ≠ none → exec i s = .next s) ∧
    ((s.curWave c).matrix = none → ∀ x, cause = some x → exec i s = .next (s.takeTrap c x)) ∧
    ((s.curWave c).matrix = none → cause = none → ∀ place, Claim.Names s c bh place →
      ∃ t, exec i s = .next t ∧ t = { s with waves := t.waves, threads := t.threads, serial := t.serial } ∧
        Claim.Forked s t c (some (handleAddr ((s.curWg c).handles.getD bh 0))) e ∧
        MovedOn (s.panel c) (t.panel c) c.len 0 ∧
        t.curWave c = { s.curWave c with panels := (t.curWave c).panels, matrix := some s.serial } ∧
        ∀ w, w ≠ c.wid → t.wave w = s.wave w)

namespace Sys2Proof.Claim

/-- A byte of an integer operand format as an integer: i8 (FMT 4) or u8 (R65). -/
def intCode (fmt : Nat) (b : Byte) : Int := if fmt = 4 then b.toInt else b.toNat

/-- The window of the workgroup that a thread works for. -/
def window (s : State) (th : Thread) : Workgroup :=
  match s.threadWg th with
  | none => emptyWg
  | some k => (s.wg? k).getD emptyWg

end Sys2Proof.Claim

/-- R236, R242, R245, R246, R250: an operation that is first among those of its core, in a gang that runs, goes on by one K-step
or by one row: its tile is as that leaves it, its progress one further. After the last its thread is gone. -/
def Claim.MatrixEnds : Prop :=
  ∀ (s : State) (tid : Nat) (th : Thread), s.thread? tid = some th → s.matrixRuns tid th = true →
    (∀ x, th.engine = .mloop x →
      let r := s.kStep (Claim.window s th) x x.kdone
      ∃ t, exec (.mloopComplete tid) s = .next t ∧ t.cStore = r.1.cStore ∧
        (x.ksteps ≤ x.kdone + 1 → t.thread? tid = none) ∧
        (x.kdone + 1 < x.ksteps → t = { r.1 with threads := t.threads } ∧ ∃ fl nv,
          t.thread? tid = some { th with engine := .mloop { x with kdone := x.kdone + 1, flags := fl, negvar := nv } })) ∧
    ∀ x, th.engine = .msoft x →
      let r := s.softRow (Claim.window s th) x x.rows
      ∃ t, exec (.msoftComplete tid) s = .next t ∧ t.cStore = r.1.cStore ∧
        (64 ≤ x.rows + 1 → t.thread? tid = none) ∧
        (x.rows + 1 < 64 → t = { r.1 with threads := t.threads } ∧ ∃ y,
          t.thread? tid = some { th with engine := .msoft { x with rows := x.rows + 1, flags := y } })

/-- R65, R79, R80, R240, R242: a loop of one K-step on bytes with 32-bit integer accumulators, no mask and no saturation
leaves in the word of row m and column n of its tile what was there, or zero with INIT, plus the sum over the 64
elements of the row of A and the column of B of their products, modulo 2^32. -/
def Claim.IntegerLoops : Prop :=
  ∀ (s : State) (tid m n : Nat) (th : Thread) (x : MatOp) (p : LocalPlace), s.thread? tid = some th → th.engine = .mloop x →
    x.kdone = 0 → x.ksteps = 1 → x.areg = none → x.tri = false → x.sat = false → x.written = List.replicate 64 true →
    x.fmts.mom = false → x.fmts.c = 1 → (x.fmts.a = 4 ∨ x.fmts.a = 5) → (x.fmts.b = 4 ∨ x.fmts.b = 5) →
    s.matrixRuns tid th = true →
    s.findLocal (Claim.window s th) admitAny 1 x.cAddr 16384 = .ok p → p.store = .c → m < 64 → n < 64 →
    let old := ofBytes (Sparse.getBytes s.cStore (storeIndex p.core (p.ofs + 256 * m + 4 * n)) 4)
    let a := s.unitRead (Claim.window s th) (x.aAddr 0 + m * 64) 64
    let b := s.unitRead (Claim.window s th) (x.bAddr 0 + n * 64) 64
    ∃ t, exec (.mloopComplete tid) s = .next t ∧
      BitVec.ofNat 32 (ofBytes (Sparse.getBytes t.cStore (storeIndex p.core (p.ofs + 256 * m + 4 * n)) 4)) =
        (if x.init then 0 else BitVec.ofNat 32 old) +
        BitVec.ofInt 32 ((List.range 64).map fun k =>
          Claim.intCode x.fmts.a (a.getD k 0) * Claim.intCode x.fmts.b (b.getD k 0)).sum

/-- R249: a row of `msoft` with a NaN among its unmasked scores, or in its running maximum, gives NaN throughout; in any
other row the masked elements of P are zero, and with FIRST so is the row of O. -/
def Claim.SoftmaxRows : Prop :=
  ∀ (x : SoftOp) (r m0 l0 : Nat) (ss os : List Nat), let y := x.row r m0 l0 ss os
    let live := fun (n : Nat) => x.tri = true → (n : Int) - r ≤ x.doff
    let nan := fun (c : Nat) => (f32.decode c).isNan = true
    ((nan m0 ∧ x.first = false ∨ ∃ n, n < 64 ∧ live n ∧ nan (ss.getD n 0)) →
      y.m = f32.nan ∧ y.l = f32.nan ∧ (∀ n, n < 64 → y.o.getD n 0 = f32.nan ∧ y.p.getD n 0 = x.fmt.nan) ∧ y.flags = 0) ∧
    (¬ (nan m0 ∧ x.first = false ∨ ∃ n, n < 64 ∧ live n ∧ nan (ss.getD n 0)) →
      (∀ n, n < 64 → ¬ live n → y.p.getD n 0 = 0) ∧ (x.first = true → ∀ n, n < 64 → y.o.getD n 0 = 0))

namespace Sys2Proof.Claim

/-- R247: the address of word k that `macc` moves for lane j. -/
def tileAddr (mom : Bool) (base str k j : Nat) : Nat :=
  if mom then (base + k / 2 * str + 4 * j + k % 2 * 16384) % 2 ^ 32 else (base + k * str + 4 * j) % 2 ^ 32

/-- The words that `macc` moves for each lane. -/
def tileWords (mom : Bool) (nreg : Nat) : Nat := if mom then 2 * nreg else nreg

/-- Every word that the active lanes move lies in the C window: word k of lane j at `f k j`. -/
def InTile (s : State) (c : Cur) (mom : Bool) (base nreg str : Nat) (f : Nat → Nat → LocalPlace) : Prop :=
  base % 4 = 0 ∧ (lanesOf s c ≠ [] → base / 2 ^ 29 = 2 ∧ base / 2 ^ 27 % 4 = 0) ∧
  ∀ j ∈ lanesOf s c, ∀ k, k < tileWords mom nreg →
    tileAddr mom base str k j / 2 ^ 29 = 2 ∧
    s.findLocal (s.curWg c) admitC 4 (tileAddr mom base str k j) 4 = .ok (f k j) ∧ (f k j).store = .c

end Sys2Proof.Claim

/-- R240, R247: `macc.get` reads the words of the active lanes from the tile to registers and lm, and `macc.put` writes
them from registers, where they all lie in the C window: every byte that no lane writes is as before, and a word that
one lane alone writes once is that lane's. -/
def Claim.TileMoves : Prop :=
  (∀ (mom : Bool) (d : Nat) (a : GSrc) (nreg : Nat) (str : Half) (s : State) (c : Cur) (f : Nat → Nat → LocalPlace),
    let i : Instr := .maccGet mom d a nreg str
    Issues i s c → Claim.InTile s c mom (((s.panel c).gsrc a).toNat % 2 ^ 32) nreg str.toNat f →
    ∃ t, exec i s = .next t ∧ t = { s with waves := t.waves } ∧
      LaneRegs i s t c (.v d) (Claim.tileWords mom nreg) (fun j k => BitVec.ofNat 32
        (if k < Claim.tileWords mom nreg then
          ofBytes (Sparse.getBytes s.cStore (storeIndex (f k j).core (f k j).ofs) 4) else 0)) ∧
      Awaits (s.panel c) (t.panel c) c.len 0 (s.active c)) ∧
  ∀ (mom : Bool) (d : Nat) (a : GSrc) (nreg : Nat) (str : Half) (s : State) (c : Cur) (f : Nat → Nat → LocalPlace),
    let i : Instr := .maccPut mom d a nreg str
    Issues i s c → (s.curWave c).releasing &&& s.active c = 0 →
    Claim.InTile s c mom (((s.panel c).gsrc a).toNat % 2 ^ 32) nreg str.toNat f →
    ∃ t, exec i s = .next t ∧ t = { s with waves := t.waves, cStore := t.cStore } ∧
      (∀ w, w ≠ c.wid → t.wave w = s.wave w) ∧ t.curWave c = { s.curWave c with panels := (t.curWave c).panels } ∧
      t.panel c = { s.panel c with
        pc := ((s.panel c).pc + 4 * c.len) % 2 ^ 57, clause := (t.panel c).clause, hold := (t.panel c).hold
        hinted := (t.panel c).hinted, doneAt := (t.panel c).doneAt, got := []
        undrained := (s.panel c).undrained + if s.active c = 0 then 0 else 1 } ∧
      (∀ index, (∀ j ∈ Claim.lanesOf s c, ∀ k, k < Claim.tileWords mom nreg →
          index < storeIndex (f k j).core (f k j).ofs ∨ storeIndex (f k j).core (f k j).ofs + 4 ≤ index) →
        Sparse.get 0 t.cStore index = Sparse.get 0 s.cStore index) ∧
      ∀ j ∈ Claim.lanesOf s c, ∀ k, k < Claim.tileWords mom nreg →
        (∀ j' ∈ Claim.lanesOf s c, ∀ k', k' < Claim.tileWords mom nreg → (j', k') ≠ (j, k) →
          storeIndex (f k' j').core (f k' j').ofs + 4 ≤ storeIndex (f k j).core (f k j).ofs ∨
          storeIndex (f k j).core (f k j).ofs + 4 ≤ storeIndex (f k' j').core (f k' j').ofs) →
        BitVec.ofNat 32 (ofBytes (Sparse.getBytes t.cStore (storeIndex (f k j).core (f k j).ofs) 4)) =
          ((s.curWave c).vreg (d + k)).getD j 0

/-- R56, R251: `fbset` writes the low or the high half of a format block, or both, reserved fields as zero; the other half,
and the other blocks, are as before. -/
def Claim.FormatBlocks : Prop :=
  ∀ (k : Nat) (part : FbPart) (a b : GSrc) (s : State) (c : Cur), Issues (.fbset k part a b) s c →
    ∃ t, exec (.fbset k part a b) s = .next t ∧ PanelOnly s t c ∧
      t.panel c = { s.panel c with
        pc := ((s.panel c).pc + 4 * c.len) % 2 ^ 57, clause := (t.panel c).clause, hold := (t.panel c).hold
        hinted := (t.panel c).hinted, doneAt := (t.panel c).doneAt, got := []
        fb := (t.panel c).fb } ∧
      (∀ n, n ≠ k → (t.panel c).format n = (s.panel c).format n) ∧
      ∀ n, n < 128 → ((t.panel c).format k).getLsbD n =
        (if 1 ≤ n ∧ n ≤ 15 ∨ 55 ≤ n then
          (if n < 64 then (if part = .hi then ((s.panel c).format k).getLsbD n else ((s.panel c).gsrc a).getLsbD n)
           else (if part = .lo then ((s.panel c).format k).getLsbD n else ((s.panel c).gsrc b).getLsbD (n - 64)))
         else false)

/-- R236, R253, R254: `mmq`, once every operation issued before it on its core has ended, performs micro-step k of its %px: where
the step's checks fail it traps at the step, which %px keeps; else the tile in the C store takes one K-step more, its flags
are ORed into %fpc, %px counts on, and after the last step it is zero, no operation of the wave is in flight and the panel
moves on. -/
def Claim.QuickMatrices : Prop :=
  ∀ (fmt : Nat) (init : Bool) (ksteps g : Nat) (s : State) (c : Cur), Issues (.mmq fmt init ksteps g) s c →
    s.inMmq c = true ∨ s.matrixOn (c.wid / 64) = [] →
    let p := s.panel c
    let step := p.progress.toNat % 2 ^ 12
    let x := mmqOp p fmt init g step
    let mark := if s.inMmq c then p.mmq else some s.serial
    (∀ cause, s.loopCauses (s.curWg c) x = some cause → s.inMmq c = true →
      exec (.mmq fmt init ksteps g) s =
        .next (((s.leaveMmq c).setProgress c step).takeTrap c { cause with mcode := true })) ∧
    (∀ cause, s.loopCauses (s.curWg c) x = some cause → s.inMmq c = false →
      ∃ u : State, exec (.mmq fmt init ksteps g) s = .next (u.takeTrap c { cause with mcode := true }) ∧
        u = { s with waves := u.waves, serial := s.serial + 1 } ∧ (∀ w, w ≠ c.wid → u.wave w = s.wave w) ∧
        u.panel c = ({ p with mmq := none } : Panel).setProgress (BitVec.ofNat 32 step)) ∧
    (s.loopCauses (s.curWg c) x = none →
      ∃ t, exec (.mmq fmt init ksteps g) s = .next t ∧
        t = { s with waves := t.waves, cStore := t.cStore, serial := t.serial } ∧
        t.cStore = (s.kStep (s.curWg c) x 0).1.cStore ∧ (∀ w, w ≠ c.wid → t.wave w = s.wave w) ∧
        t.curWave c = { s.curWave c with
          panels := (t.curWave c).panels, matrix := if ksteps ≤ step + 1 then none else mark } ∧
        (∀ n, 8 ≤ n → n < 32 → (t.panel c).fpc.getLsbD n = p.fpc.getLsbD n) ∧
        t.panel c =
          if ksteps ≤ step + 1 then
            { p.setProgress 0 with
              pc := (p.pc + 4 * c.len) % 2 ^ 57, clause := (t.panel c).clause, hold := (t.panel c).hold
              hinted := (t.panel c).hinted, doneAt := (t.panel c).doneAt, got := []
              fpc := (t.panel c).fpc, mmq := none }
          else { p.setProgress (BitVec.ofNat 32 (step + 1)) with fpc := (t.panel c).fpc, mmq := mark })

/-- R65, R79, R80, R236, R237, R239, R242, R245, R248, R250: the start and the end of `mloop` and `msoft`, and what a loop
on bytes computes. -/
def Obligations.MatrixLoops : Prop := Claim.MatrixStarts ∧ Claim.MatrixEnds ∧ Claim.IntegerLoops ∧ Claim.SoftmaxRows

/-- R56, R236, R247, R251, R254: `macc`, `fbset` and `mmq`. -/
def Obligations.MatrixTiles : Prop := Claim.TileMoves ∧ Claim.FormatBlocks ∧ Claim.QuickMatrices

namespace Sys2Proof.Claim

/-! ### Moments, over f32 codes -/

def fAdd (a b : Nat) : Nat := (f32.fused .rne false [] [f32.decode a, f32.decode b]).1
def fMul (a b : Nat) : Nat := (f32.fused .rne false [(f32.decode a, f32.decode b)] []).1
def fFma (a b c : Nat) : Nat := (f32.fused .rne false [(f32.decode a, f32.decode b)] [f32.decode c]).1
def fSqrt (a : Nat) : Nat := (f32.sqrt .rne false (f32.decode a)).1

/-- A product with ±2, exact, and a sum, rounded once. -/
def fFmaTwo (neg : Bool) (a b c : Nat) : Nat :=
  (f32.fused .rne false [(mulVal (.fin neg 2 0) (f32.decode a), f32.decode b)] [f32.decode c]).1

def negated (a : Nat) : Nat := a ^^^ 0x80000000

/-- R84: an invalid variance: NaN, or negative and not zero. -/
def invalidVariance (v : Nat) : Bool :=
  match f32.decode v with
  | .nan => true
  | .inf s => s
  | .fin s m _ => s && decide (m ≠ 0)

/-- R84, R85: the variance that a rule reads: zero for an invalid one and for −0. -/
def readAs (v : Nat) : Nat := if invalidVariance v || decide (v = 0x80000000) then 0 else v

/-- R87: the correlation: none for 0, else its sign. -/
def correlation (sel : CovSel) (mcr : Word) : Option Bool :=
  match sel with
  | .ind => none
  | .pos => some false
  | .neg => some true
  | .mcr => if mcr.toNat % 4 = 1 then some false else if mcr.toNat % 4 = 2 then some true else none

/-- R89: mean and variance of a sum or difference. -/
def addRule (sub : Bool) (rho : Option Bool) (ma va mb vb : Nat) : Nat × Nat :=
  (fAdd ma (if sub then negated mb else mb),
   match rho with
   | none => fAdd va vb
   | some neg => fFmaTwo (sub != neg) (fSqrt va) (fSqrt vb) (fAdd va vb))

/-- R90: mean and variance of a product. -/
def mulRule (rho : Option Bool) (ma va mb vb : Nat) : Nat × Nat :=
  let t2 := fFma (fMul mb mb) va (fMul (fMul ma ma) vb)
  match rho with
  | none => (fMul ma mb, fFma va vb t2)
  | some neg =>
    let s := fMul (fSqrt va) (fSqrt vb)
    (fFma ma mb (if neg then negated s else s),
     fFma (f32.fused .rne false [(.fin false 2 0, f32.decode va)] []).1 vb
       (fFmaTwo neg 0x3F800000 (fMul (fMul ma mb) s) t2))

/-- R85, R86: the variance checkedVariance, and whether NEGVAR is raised. -/
def checkedVariance (invalid clamp : Bool) (v : Nat) : Nat × Bool :=
  if invalid then (f32.nan, true)
  else match f32.decode v with
    | .nan => (f32.nan, true)
    | .inf s => (if s && clamp then 0 else v, s)
    | .fin s m _ => if s = false then (v, false) else if m = 0 then (0, false) else (if clamp then 0 else v, true)

/-- The two-source moment forms: destination, sources, correlation, rule. -/
def momentForm : Instr → Option (Nat × Nat × Nat × CovSel × (Option Bool → Nat → Nat → Nat → Nat → Nat × Nat))
  | .madd d a b => some (d, a, b, .mcr, addRule false)
  | .maddLong sub cov d a b => some (d, a, b, cov, addRule sub)
  | .mmul d a b => some (d, a, b, .mcr, mulRule)
  | .mmulLong cov d a b => some (d, a, b, cov, mulRule)
  | _ => none

/-- Word k of moment register mn of a lane (R48). -/
def momentCode (s : State) (c : Cur) (n k j : Nat) : Nat := (((s.curWave c).vreg (2 * n + k)).getD j 0).toNat

/-- The panel after a moment instruction: flags in %fpc, and NEGVAR in %mcr where some lane raises it. -/
def MomentPanel (p q : Panel) (len : Nat) (negvar : Bool) : Prop :=
  q = { p with
    pc := (p.pc + 4 * len) % 2 ^ 57, clause := q.clause, hold := q.hold, hinted := q.hinted, doneAt := q.doneAt, got := []
    fpc := q.fpc
    mcr := if negvar then p.mcr ||| 0x100 else p.mcr } ∧
  ∀ n, 8 ≤ n → n < 32 → q.fpc.getLsbD n = p.fpc.getLsbD n

/-- Some active lane raises it. -/
def anyLane (s : State) (c : Cur) (f : Nat → Bool) : Bool := (lanesOf s c).any f

end Sys2Proof.Claim

/-- R48, R84-R90, R252: `madd` and `mmul` write each active lane's mean and variance by their rules, with the checks of
source and result variances, and raise NEGVAR where a check says so. -/
def Claim.MomentPairs : Prop :=
  ∀ (i : Instr) (d a b : Nat) (cov : CovSel) (rule : Option Bool → Nat → Nat → Nat → Nat → Nat × Nat) (s : State) (c : Cur),
    Claim.momentForm i = some (d, a, b, cov, rule) → Issues i s c →
    let mc := Claim.momentCode s c
    let clamp := (s.panel c).mcr.getLsbD 2
    let r := fun j => rule (Claim.correlation cov (s.panel c).mcr) (mc a 0 j) (Claim.readAs (mc a 1 j)) (mc b 0 j)
      (Claim.readAs (mc b 1 j))
    let v := fun j => Claim.checkedVariance (Claim.invalidVariance (mc a 1 j) || Claim.invalidVariance (mc b 1 j)) clamp (r j).2
    ∃ t, exec i s = .next t ∧ t = { s with waves := t.waves } ∧
      LaneRegs i s t c (.v (2 * d)) 2 (fun j k => BitVec.ofNat 32 (if k = 0 then (r j).1 else (v j).1)) ∧
      Claim.MomentPanel (s.panel c) (t.panel c) c.len (Claim.anyLane s c fun j => (v j).2)

namespace Sys2Proof.Claim

/-! ### Non-linear forms (R88) -/

def fSub (a b : Nat) : Nat := (f32.fused .rne false [] [f32.decode a, (f32.decode b).negate]).1
def fTwice (a : Nat) : Nat := (f32.fused .rne false [(.fin false 2 0, f32.decode a)] []).1
def fRsq (a : Nat) : Nat := (f32.rsq .rne false (f32.decode a)).1
def fRcp (a : Nat) : Nat := (f32.rcp .rne false (f32.decode a)).1
def fDiv (a b : Nat) : Nat := (f32.div .rne false (f32.decode a) (f32.decode b)).1
def fPhi (a : Nat) : Nat := (f32.normal .rne (f32.decode a)).1
def fDens (a : Nat) : Nat := (f32.density .rne (f32.decode a)).1

/-- ExpE (R88): 2 to the power of the rounded product with log2 e. -/
def fExpE (a : Nat) : Nat := (f32.exp2 .rne false (f32.decode (fMul a 0x3FB8AA3B))).1

/-- R91: the plain logistic function. -/
def logistic (m : Nat) : Nat := fRcp (fAdd 0x3F800000 (fExpE (negated m)))

/-- R91: the mean of a form at a variance of zero. -/
def plainMean (fn : NlForm) (m : Nat) : Nat :=
  match fn with
  | .relu => (match f32.decode m with
    | .nan => f32.nan
    | .inf sg => if sg then 0 else m
    | .fin sg n _ => if sg || decide (n = 0) then 0 else m)
  | .exp => fExpE m
  | .sig => logistic m
  | .tanh => fSub (fTwice (logistic (fTwice m))) 0x3F800000
  | .rcp => fRcp m

/-- R94: mean and variance of `.sig`. -/
def sigRule (m v : Nat) : Nat × Nat :=
  let kap := fRsq (fFma v 0x3EC90FDB 0x3F800000)
  let mean := logistic (fMul m kap)
  (mean, fMul (fMul mean (fSub 0x3F800000 mean)) (fSub 0x3F800000 kap))

/-- R91-R96: mean and variance of a form, of a variance as it is read. -/
def formRule (fn : NlForm) (m v : Nat) : Nat × Nat :=
  if v = 0 then (plainMean fn m, 0)
  else match fn with
    | .relu =>
      let sd := fSqrt v
      let al := fDiv m sd
      let mean := fFma m (fPhi al) (fMul sd (fDens al))
      (mean, fFma (negated mean) mean (fFma (fFma m m v) (fPhi al) (fMul (fMul m sd) (fDens al))))
    | .exp =>
      let mean := fExpE (fFma v 0x3F000000 m)
      (mean, fMul (fSub (fExpE v) 0x3F800000) (fMul mean mean))
    | .sig => sigRule m v
    | .tanh =>
      let x := sigRule (fTwice m) (fMul 0x40800000 v)
      (fSub (fTwice x.1) 0x3F800000, fMul 0x40800000 x.2)
    | .rcp =>
      let q := fRcp m
      let q2 := fMul q q
      (fFma v (fMul q2 q) q, fMul v (fMul q2 q2))

end Sys2Proof.Claim

/-- R48, R84-R86, R88, R91-R96, R252: `mnl` writes each active lane's mean and variance by the rule of its form, with the checks of
the source and the result variance, and raises NEGVAR where a check says so (each step rounded once, in the order written:
assumption 67, DEDUCED). -/
def Claim.MomentForms : Prop :=
  ∀ (fn : NlForm) (d a : Nat) (s : State) (c : Cur), Issues (.mnl fn d a) s c →
    let mc := Claim.momentCode s c a
    let r := fun j => Claim.formRule fn (mc 0 j) (Claim.readAs (mc 1 j))
    let v := fun j => Claim.checkedVariance (Claim.invalidVariance (mc 1 j)) ((s.panel c).mcr.getLsbD 2) (r j).2
    ∃ t, exec (.mnl fn d a) s = .next t ∧ t = { s with waves := t.waves } ∧
      LaneRegs (.mnl fn d a) s t c (.v (2 * d)) 2 (fun j k => BitVec.ofNat 32 (if k = 0 then (r j).1 else (v j).1)) ∧
      Claim.MomentPanel (s.panel c) (t.panel c) c.len (Claim.anyLane s c fun j => (v j).2)

/-- R85, R86, R91: `mnl` of a source with variance zero has variance zero, and its `relu` is the mean where that is
positive, else zero; an invalid source variance gives NaN and NEGVAR; with CLAMP no variance is negative. -/
def Claim.MomentFunctions : Prop :=
  ∀ (fn : NlForm) (d a : Nat) (s : State) (c : Cur), Issues (.mnl fn d a) s c →
    ∃ (t : State) (m v : Nat → Nat) (neg : Nat → Bool), exec (.mnl fn d a) s = .next t ∧ t = { s with waves := t.waves } ∧
      LaneRegs (.mnl fn d a) s t c (.v (2 * d)) 2 (fun j k => BitVec.ofNat 32 (if k = 0 then m j else v j)) ∧
      Claim.MomentPanel (s.panel c) (t.panel c) c.len (Claim.anyLane s c neg) ∧
      ∀ j ∈ Claim.lanesOf s c, let v0 := Claim.momentCode s c a 1 j
        let m0 := Claim.momentCode s c a 0 j
        (Claim.invalidVariance v0 = true → v j = f32.nan ∧ neg j = true) ∧
        (v0 = 0 ∨ v0 = 0x80000000 → v j = 0 ∧ neg j = false ∧
          (fn = .relu → m j = match f32.decode m0 with
            | .nan => f32.nan
            | .inf sg => if sg then 0 else m0
            | .fin sg n _ => if sg || decide (n = 0) then 0 else m0)) ∧
        ((s.panel c).mcr.getLsbD 2 = true → match f32.decode (v j) with
          | .nan => True
          | .inf sg => sg = false
          | .fin sg _ _ => sg = false)

namespace Sys2Proof.Claim

/-- R97: the value of a collapse mode, with the source variance v as read and the multiplier or sample k. -/
def collapsed (mode : Coll) (m v k : Nat) : Nat :=
  match mode with
  | .mean => if (f32.decode m).isNan then f32.nan else m
  | .std => fSqrt v
  | .upper _ => fFma k (fSqrt v) m
  | .lower _ => fFma (negated k) (fSqrt v) m
  | .sample _ => fFma (fSqrt v) k m

def isMean : Coll → Bool
  | .mean => true
  | _ => false

end Sys2Proof.Claim

/-- R84, R85, R97, R252: `mcoll` delivers the mean, the deviation, a bound or a sample of each active lane's moment; an invalid
variance gives NaN, but for the mean, and raises NEGVAR. -/
def Claim.Collapses : Prop :=
  ∀ (mode : Coll) (d : Dst) (a : Nat) (s : State) (c : Cur), let i : Instr := .mcoll mode d a
    Issues i s c → NoStreams i →
    let m := Claim.momentCode s c a 0
    let v := Claim.momentCode s c a 1
    let k := fun j => match mode with
      | .upper g | .lower g => ((s.panel c).gsrc g).toNat % 2 ^ 32
      | .sample z => ((s.lanes c).a32 z j).toNat
      | _ => 0
    ∃ t, exec i s = .next t ∧ t = { s with waves := t.waves } ∧
      LaneRegs i s t c d 1 (fun j _ => BitVec.ofNat 32
        (if Claim.invalidVariance (v j) && !Claim.isMean mode then f32.nan
         else Claim.collapsed mode (m j) (Claim.readAs (v j)) (k j))) ∧
      Claim.MomentPanel (s.panel c) (t.panel c) c.len (Claim.anyLane s c fun j => Claim.invalidVariance (v j))

/-- R48, R84-R97, R252: the moment instructions. -/
def Obligations.Moments : Prop := Claim.MomentPairs ∧ Claim.MomentForms ∧ Claim.MomentFunctions ∧ Claim.Collapses

namespace Sys2Proof.Claim

/-- R118-R120: the panel finds record `r` through handle operand `h`, which leaves the machine in `u`. -/
def Finds (s : State) (c : Cur) (h : GSrc) (u : State) (r : Layout) : Prop :=
  s.layoutFor (clusterOf (c.wid / 64)) (s.laneAcc c) ((s.panel c).gsrc h).toNat = (u, .ok r)

/-- The wave after lane results and status bits: a predicate, where one is named, is set in the active lanes. -/
def StatusBits (s t : State) (c : Cur) (pse : Option Nat) (f : Nat → Bool) : Prop :=
  ∀ r j, j < 64 → ((t.curWave c).pred r).getLsbD j =
    if pse = some r ∧ (s.active c).getLsbD j = true then f j else ((s.curWave c).pred r).getLsbD j

/-- The lane registers alone, of `LaneRegs`: where a predicate changes too. -/
def LaneWords (s t : State) (c : Cur) (d : Dst) (n : Nat) (f : Nat → Nat → Word) : Prop :=
  (∀ w, w ≠ c.wid → t.wave w = s.wave w) ∧
  (∀ r j, j < 64 → ((t.curWave c).vreg r).getD j 0 =
    (match vWordOf d n r with
      | some k => if (s.active c).getLsbD j then f j k else ((s.curWave c).vreg r).getD j 0
      | none => ((s.curWave c).vreg r).getD j 0)) ∧
  ∀ r j, j < 64 → ((t.curWave c).oreg r).getD j 0 =
    (match oWordOf d n r with
      | some k => if (s.active c).getLsbD j then f j k else ((s.curWave c).oreg r).getD j 0
      | none => ((s.curWave c).oreg r).getD j 0)

end Sys2Proof.Claim

/-- R64, R118, R278, R291: `texq` of a usable record: the size form gives the first two extents of the level, at least 1, and
1 beyond the rank; the residency form gives the map's byte of a tile, 0xFF for a tile outside the map, and 0 where the
record has none. No memory changes. A record of format 0x06 is an illegal trap. -/
def Claim.TextureQueries : Prop :=
  ∀ (d : Dst) (h : GSrc) (b : Src) (s u : State) (c : Cur) (r : Layout), Claim.Finds s c h u r →
    let level := fun j => ((s.lanes c).a32 b j).toNat
    (Issues (.texqSize d h b) s c → NoStreams (.texqSize d h b) →
      if r.fmt = 6 then exec (.texqSize d h b) s = .next (u.takeTrap c { cause := 0x01 })
      else ∃ t, exec (.texqSize d h b) s = .next t ∧ t = { u with waves := t.waves } ∧
        LaneRegs (.texqSize d h b) s t c d 2 (fun j k => BitVec.ofNat 32
          (if k < r.rank then Nat.max 1 (r.ext.getD k 1 / 2 ^ level j) else 1)) ∧
        Awaits (s.panel c) (t.panel c) c.len 0 (s.active c)) ∧
    (Issues (.texqRes d h b) s c → NoStreams (.texqRes d h b) →
      if r.fmt = 6 then exec (.texqRes d h b) s = .next (u.takeTrap c { cause := 0x01 })
      else
        let known := (Claim.lanesOf s c).filter fun j => r.sparse && decide (level j < r.mapSize)
        let addr := fun j => (r.rmap + level j) % 2 ^ 64
        Claim.Granted u c (known.map fun j => { lane := j, va := addr j, n := 1, write := false }) →
        ∃ t, exec (.texqRes d h b) s = .next t ∧ Claim.ReadFrame u t c ∧
          LaneRegs (.texqRes d h b) s t c d 2 (fun j k => if k ≠ 0 ∨ r.sparse = false then 0
            else if r.mapSize ≤ level j then 0xFF
            else BitVec.ofNat 32 (ofBytes (laneBytes (u.readLanes (u.laneAcc c) addr (fun _ => 1) known).2 j))) ∧
          Awaits (s.panel c) (t.panel c) c.len 0 (s.active c))

namespace Sys2Proof.Claim

/-- Words and a status bit of one lane, and of no other: the registers of a group, lm, and the predicate that is named. -/
def OneLane (s t : State) (c : Cur) (j : Nat) (d : Dst) (n : Nat) (f : Nat → Word) (pse : Option Nat) (st : Bool) : Prop :=
  (∀ w, w ≠ c.wid → t.wave w = s.wave w) ∧
  t.curWave c = { s.curWave c with
    v := (t.curWave c).v, o := (t.curWave c).o, p := (t.curWave c).p, latch := (t.curWave c).latch, panels := (t.curWave c).panels } ∧
  (∀ r k, k < 64 → ((t.curWave c).vreg r).getD k 0 =
    (match vWordOf d n r with
      | some i => if k = j then f i else ((s.curWave c).vreg r).getD k 0
      | none => ((s.curWave c).vreg r).getD k 0)) ∧
  (∀ r k, k < 64 → ((t.curWave c).oreg r).getD k 0 =
    (match oWordOf d n r with
      | some i => if k = j then f i else ((s.curWave c).oreg r).getD k 0
      | none => ((s.curWave c).oreg r).getD k 0)) ∧
  (∀ r k, k < 64 → ((t.curWave c).pred r).getLsbD k = if pse = some r ∧ k = j then st else ((s.curWave c).pred r).getLsbD k) ∧
  ∀ l k, k < 64 → ((t.curWave c).latchVec l).getD k 0 =
    if l = 3 ∧ k = j then latchValue n f else ((s.curWave c).latchVec l).getD k 0

/-- The accesses of a lane of `gath`: those of its elements that lie inside the extents. -/
def gathered (s : State) (c : Cur) (r : Layout) (a ne j : Nat) : List Access :=
  (List.range ne).filterMap fun t =>
    (gathAddr r (gathCoords (s.curWave c) a r.rank j) t).map fun va => { lane := j, va := va, n := r.elem, write := false }

end Sys2Proof.Claim

/-- R285, R290: `gath` of a record that it may take goes lane by lane, ascending, from the one that %px names: where no access of the
lane fails it writes the lane's elements, lm and the status predicate, and %px names the next; after the last active lane %px
is zero and the panel moves on. A lane whose coordinates lie outside the extents in a dimension above the first reads CLEAR in
every element, with status. Its lanes all use the record as it was read first (R120), and no byte of memory changes but in lines of
which the core's L1 holds written bytes. A record that it may not take is an illegal trap. -/
def Claim.Gathers : Prop :=
  ∀ (ne : Nat) (pse : Option Nat) (d : VReg) (a : Nat) (h : GSrc) (s u : State) (c : Cur) (r : Layout),
    let i : Instr := .gath ne pse d a h
    let n := if r.elem = 8 then 2 * ne else ne
    let left := (Claim.lanesOf s c).filter fun j => (s.panel c).progress.toNat % 2 ^ 7 ≤ j
    Issues i s c → Claim.Finds s c h u r →
    (gathBad r (s.curWave c) ne a d = true → exec i s = .next (u.takeTrap c { cause := 0x01 })) ∧
    (gathBad r (s.curWave c) ne a d = false → left = [] →
      ∃ t, exec i s = .next t ∧ PanelOnly u t c ∧ MovedOn ((u.panel c).setProgress 0) (t.panel c) c.len 0) ∧
    ∀ j js, left = j :: js → gathBad r (s.curWave c) ne a d = false →
      let w := u.keepRecord c r.handle
      let acc := w.laneAcc c
      Claim.Granted (w.setProgress c j) c (Claim.gathered s c r a ne j) →
      let x := (((w.touchLanes acc (Claim.gathered s c r a ne j)).gathElems { acc with ctr := some w.freeCtr } r
        (gathCoords (s.curWave c) a r.rank j) (List.range ne))).2
      ∃ t, exec i s = .next t ∧ Claim.ReadFrame w t c ∧
        Claim.OneLane w t c j (VReg.dst d) n (gathWord r (x.map (·.1))) pse (x.any (·.2)) ∧
        (if js = [] then (t.panel c).pc = ((s.panel c).pc + 4 * c.len) % 2 ^ 57 ∧ (t.panel c).progress = 0
         else t.panel c = (w.panel c).nextStep.setProgress (BitVec.ofNat 32 (j + 1))) ∧
        ∀ q, 0 < q → q < r.rank → q < 5 → q < r.ext.length →
          let y := (((s.curWave c).vreg (a + q)).getD j 0).toInt
          (y < 0 ∨ (r.ext.getD q 0 : Int) ≤ y) → x = List.replicate ne (r.clear.take r.elem, true)

/-- R138, R285, R289: `sample` of a texture or surface record of a texel format, with no access that fails or is rejected, writes
four words of each active lane and its status predicate; a sparse texture's tile whose residency byte is 0xFF gives zeros, with
status. An access that fails leaves the panel waiting for the reply to a held fault. No byte of memory changes but in lines of
which the core's L1 holds written bytes. -/
def Claim.Samples : Prop :=
  ∀ (mode : LodMode) (pse : Option Nat) (d a : Nat) (h : GSrc) (s u : State) (c : Cur) (r : Layout),
    let i : Instr := .sample mode pse d a h
    let result := u.sampleAll c r mode (s.lanes c) a
    Issues i s c → Claim.Finds s c h u r →
    ((r.kind = 0 ∨ r.rank ≠ 2 ∧ r.rank ≠ 3 ∨ r.fmt < 0x40) → exec i s = .next (u.takeTrap c { cause := 0x01 })) ∧
    (¬ (r.kind = 0 ∨ r.rank ≠ 2 ∧ r.rank ≠ 3 ∨ r.fmt < 0x40) →
      (∀ v xs, result = .ok (v, xs) →
        let lane := fun j => (Sparse.find xs j).getD ([], false)
        ∃ t, exec i s = .next t ∧ t = { v with waves := t.waves } ∧ Claim.ReadFrame u t c ∧
          Claim.LaneWords s t c (.v d) 4 (fun j k => BitVec.ofNat 32 ((lane j).1.getD k 0)) ∧
          Claim.StatusBits s t c pse (fun j => (lane j).2) ∧ (t.panel c).pc = ((s.panel c).pc + 4 * c.len) % 2 ^ 57 ∧
          ∀ j m z w, Claim.lanesOf s c = [j] →
            z = (min (max (XVal.ofRat (sampleIn (s.curWave c) a j).layer).roundInt 0) ((r.levelExt 0 2 : Nat) - 1 : Int)).toNat →
            u.residency (u.laneAcc c) r (sampleIn (s.curWave c) a j).u (sampleIn (s.curWave c) a j).v z = .ok (w, m) → m = 0xFF →
            lane j = ([0, 0, 0, 0], true)) ∧
      (∀ w cause sub addr, result = .error (.trap w (.fail cause sub addr)) →
        ∃ t y, exec i s = .next t ∧ (t.panel c).wait = some y ∧ y.instr = i ∧ (t.panel c).pc = (s.panel c).pc ∧
          (t.curWave c).v = (s.curWave c).v ∧ (t.curWave c).p = (s.curWave c).p))

namespace Sys2Proof.Claim

/-- R260, R261: a spool with one instance that still has readers, whose storage lies in the A store of a core from an offset on, in
order: a power of two of slots, each of 16-byte units, HEAD no more than all the slots past TAIL. It is no broadcast spool, and its
controller has nothing pending. -/
structure OnChip (s : State) (k core ofs : Nat) (x : Spool) : Prop where
  here : s.spool? k = some x
  one : s.replicas k = [k]
  live : s.deadSpool k = false
  store : x.store = some (core, ofs)
  slots : ∃ e, e ≤ 12 ∧ x.nslot = 2 ^ e
  size : x.ssz % 16 = 0 ∧ 16 ≤ x.ssz
  held : seqFrom x.tail x.head ≤ x.nslot
  plain : x.bcst = false ∧ x.tickets = [] ∧ x.pending = []

/-- Nothing of the A stores outside the storage of a spool differs. -/
def OnlyStorage (s t : State) (core ofs : Nat) (x : Spool) : Prop :=
  ∀ n, n < storeIndex core ofs ∨ storeIndex core ofs + x.size ≤ n → Sparse.get 0 t.aStore n = Sparse.get 0 s.aStore n

/-- R286: the senders of an `emit` or receivers of a `pull`: lanes, or quads of a quad spool. -/
def units (s : State) (c : Cur) (quad : Bool) : List Nat :=
  if quad then (List.range 16).filter fun q => ((List.range 4).any fun k => (s.active c).getLsbD (4 * q + k)) else lanesOf s c

/-- R286: the payload words that a unit sends: one register after the other, for a quad of its four lanes, zero for those
not active. The rest of the slot is zero. -/
def payload (s : State) (c : Cur) (x : Spool) (va : VReg) (nreg u : Nat) : List Word :=
  let reg := fun i j => match va with
    | .v n => ((s.curWave c).vreg (n + i)).getD j 0
    | .o n => ((s.curWave c).oreg (n + i)).getD j 0
  let ws := if x.quad then (List.range nreg).flatMap fun i => (List.range 4).map fun j =>
      if (s.active c).getLsbD (4 * u + j) then reg i (4 * u + j) else 0
    else (List.range nreg).map fun i => reg i u
  ws ++ List.replicate (x.ssz / 4 - ws.length) 0

/-- R262, R263, R286: the records that an `emit` places at HEAD. -/
def emitted (s : State) (c : Cur) (x : Spool) (fault : Bool) (va : VReg) (b : Nat) : List Record :=
  (units s c x.quad).zipIdx.map fun e =>
    { seq := (x.head + e.2) % 2 ^ 32, kind := b % 2 ^ 8, fault := fault, eos := false, ticket := none
      lmask := if x.quad then ((s.active c) >>> (4 * e.1)).setWidth 4 else 0
      words := payload s c x va (b / 2 ^ 8 % 2 ^ 6 + 1) e.1 }

/-- R263, R286: a spool into which an `emit` has placed its records: they follow those that it held, and HEAD is past them; no other
spool's controller and no byte outside its storage has changed. -/
def Placed (s t : State) (c : Cur) (k core ofs : Nat) (x : Spool) (rs : List Record) : Prop :=
  t.spool? k = some { x with head := (x.head + rs.length) % 2 ^ 32, records := x.records ++ rs } ∧
  (∀ q, q ≠ k → t.unit? q = s.unit? q) ∧ OnlyStorage s t core ofs x ∧
  t = { s with
    waves := t.waves, spools := t.spools, aStore := t.aStore, shadow := t.shadow, l1 := t.l1, mem := t.mem
    lineKey := t.lineKey, poison := t.poison } ∧
  (t.panel c).wait = none ∧ (t.curWave c).v = (s.curWave c).v ∧ (t.curWave c).o = (s.curWave c).o ∧
  ∀ w, w ≠ c.wid → t.wave w = s.wave w

end Sys2Proof.Claim

/-- R260-R263, R285, R286: `emit` through a closed or unbound port is an illegal trap; through an open one, with its issue checks
passed, it only moves on where no lane is active, waits where its records do not fit, and else places them, in order, at HEAD of
the spool, and moves on (said for spools on the chip). -/
def Claim.Emits : Prop :=
  ∀ (fault : Bool) (port : Nat) (va : VReg) (kn : GSrc) (s : State) (c : Cur),
    let i : Instr := .emit fault port va kn
    let b := ((s.panel c).gsrc kn).toNat
    Issues i s c →
    (s.openPort c port = none → exec i s = .next (s.takeTrap c { cause := 0x01 })) ∧
    ∀ k core ofs x, s.openPort c port = some k → Claim.OnChip s k core ofs x → x.toBlend = false →
      let us := Claim.units s c x.quad
      emitBad (s.lanes c) x va b us = false →
      (us = [] → ∃ t, exec i s = .next t ∧ PanelOnly s t c ∧ (t.panel c).pc = ((s.panel c).pc + 4 * c.len) % 2 ^ 57) ∧
      (us ≠ [] → x.nslot < us.length + x.records.length →
        exec i s = .next (s.setPanel c { s.panel c with
          wait := some { instr := i, len := c.len, since := s.cycle, aux := 0 } })) ∧
      (us ≠ [] → us.length + x.records.length ≤ x.nslot →
        ∃ t, exec i s = .next t ∧ Claim.Placed s t c k core ofs x (Claim.emitted s c x fault va b) ∧
          (t.panel c).pc = ((s.panel c).pc + 4 * c.len) % 2 ^ 57)

/-- R286: a panel that waits with an `emit` goes on once its records fit, as the `emit` would. -/
def Claim.EmitsWake : Prop :=
  ∀ (fault : Bool) (port : Nat) (va : VReg) (kn : GSrc) (s : State) (w e k core ofs : Nat) (x : Spool) (y : Waiting),
    let c : Cur := { wid := w, entry := e, len := y.len }
    let us := Claim.units s c x.quad
    (s.panel c).valid = true → s.waveRuns w = true → (s.panel c).wait = some y → y.instr = .emit fault port va kn →
    s.openPort c port = some k → Claim.OnChip s k core ofs x → x.toBlend = false → us ≠ [] →
    emitBad (s.lanes c) x va ((s.panel c).gsrc kn).toNat us = false → us.length + x.records.length ≤ x.nslot →
    ∃ t, exec (.emitWake w e) s = .next t ∧
      Claim.Placed s t c k core ofs x (Claim.emitted s c x fault va ((s.panel c).gsrc kn).toNat) ∧
      (t.panel c).pc = ((s.panel c).pc + 4 * y.len) % 2 ^ 57

/-- R260, R261, R264, R286: `emit.close` closes its workgroup's port: the spool has one producer fewer, takes FLT with the fault
form, and is closed where that was the last. A closed spool with a slot free gets its end-of-stream record, once. -/
def Claim.Closings : Prop :=
  (∀ (fault : Bool) (port k core ofs : Nat) (x : Spool) (s : State) (c : Cur), Issues (.emitClose fault port) s c →
    s.openPort c port = some k → Claim.OnChip s k core ofs x →
    ∃ t, exec (.emitClose fault port) s = .next t ∧
      t.spool? k = some { x with flt := x.flt || fault, opened := x.opened - 1, cls := x.cls || decide (x.opened ≤ 1) } ∧
      (∀ q, q ≠ k → t.unit? q = s.unit? q) ∧ Claim.OnlyStorage s t core ofs x ∧
      t.wg? (s.curWave c).wg = some { s.curWg c with closed := port :: (s.curWg c).closed } ∧
      t = { s with waves := t.waves, spools := t.spools, wgs := t.wgs, aStore := t.aStore, shadow := t.shadow } ∧
      MovedOn (s.panel c) (t.panel c) c.len 0) ∧
  (∀ (fault : Bool) (port : Nat) (s : State) (c : Cur), Issues (.emitClose fault port) s c → s.openPort c port = none →
    exec (.emitClose fault port) s = .next (s.takeTrap c { cause := 0x01 })) ∧
  ∀ (s : State) (k core ofs : Nat) (x : Spool), Claim.OnChip s k core ofs x → x.cls = true →
    (∀ r ∈ x.records, r.eos = false) → x.records.length < x.nslot →
    ∃ t, exec (.endOfStreamAppend k) s = .next t ∧
      t = { s with spools := t.spools, aStore := t.aStore, shadow := t.shadow } ∧
      (∀ q, q ≠ k → t.unit? q = s.unit? q) ∧ Claim.OnlyStorage s t core ofs x ∧
      t.spool? k = some { x with
        head := (x.head + 1) % 2 ^ 32
        records := x.records ++ [{ seq := x.head, kind := 0, lmask := 0, fault := x.flt, eos := true, ticket := none
                                   words := List.replicate (x.ssz / 4) 0 }] }

namespace Sys2Proof.Claim

/-- R262: the tag that `pull` delivers. -/
def tagOf (r : Record) (full : Bool) : Word :=
  BitVec.ofNat 32 (r.seq % 2 ^ 16 * 2 ^ 16 + r.kind % 2 ^ 8 * 2 ^ 8 + r.lmask.toNat * 16 + full.toNat * 8 + r.eos.toNat * 4 +
    r.fault.toNat * 2)

/-- R287: what a `pull` of n registers from a lane spool leaves: the first records go to the active lanes in order, tag
first; a lane beyond them gets the end-of-stream record's tag, or zeros. -/
def Pulled (s t : State) (c : Cur) (d : VReg) (nreg k core ofs : Nat) (x : Spool) : Prop :=
  let full := x.records.filter fun r => !r.eos
  let n := min (lanesOf s c).length full.length
  t.spool? k = some { x with tail := (x.tail + n) % 2 ^ 32, records := x.records.drop n } ∧
  (∀ q, q ≠ k → t.unit? q = s.unit? q) ∧ OnlyStorage s t core ofs x ∧
  LaneWords s t c (VReg.dst d) (1 + nreg) (fun j w =>
    match full[(lanesOf s c).idxOf j]? with
    | some r => if w = 0 then tagOf r true else r.words.getD (w - 1) 0
    | none => match x.records.find? fun r => r.eos with
      | some r => if w = 0 then tagOf r false else 0
      | none => 0) ∧
  (t.panel c).wait = none ∧ (t.panel c).pc = ((s.panel c).pc + 4 * c.len) % 2 ^ 57

/-- R287: a `pull` has what it needs: one record with ANY, or one for each active lane, or the end of the stream. -/
def Ready (s : State) (c : Cur) (any : Bool) (x : Spool) : Prop :=
  (if any then 1 else (lanesOf s c).length) ≤ (x.records.filter fun r => !r.eos).length ∨ ∃ r ∈ x.records, r.eos = true

end Sys2Proof.Claim

/-- R260-R263, R287: `pull` on an unbound port is an illegal trap where a lane is active; from a lane spool (on the chip) it takes
its records where what it needs is there, and else waits; a panel that waits with it goes on once it is. -/
def Claim.Pulls : Prop :=
  ∀ (any : Bool) (d : VReg) (port nreg : Nat) (s : State) (c : Cur), let i : Instr := .pull any d port nreg
    (Issues i s c → s.inPort c port = none → s.active c ≠ 0 → exec i s = .next (s.takeTrap c { cause := 0x01 })) ∧
    ∀ k core ofs x, s.inPort c port = some (k, x) → Claim.OnChip s k core ofs x → x.quad = false → x.fromRaster = false →
      s.replaying c = false →
      (Issues i s c → s.active c ≠ 0 → ¬ Claim.Ready s c any x →
        exec i s = .next (s.setPanel c { s.panel c with
          wait := some { instr := i, len := c.len, since := s.cycle, aux := 0 } })) ∧
      (Issues i s c → s.active c ≠ 0 → Claim.Ready s c any x →
        ∃ t, exec i s = .next t ∧ Claim.Pulled s t c d nreg k core ofs x) ∧
      ((s.panel c).valid = true → s.waveRuns c.wid = true → s.logStalls c 1 = false →
        (s.panel c).wait.map (fun y => (y.instr, y.len)) = some (i, c.len) → s.active c ≠ 0 →
        Claim.Ready s c any x → ∃ t, exec (.pullWake c.wid c.entry) s = .next t ∧ Claim.Pulled s t c d nreg k core ofs x)

namespace Sys2Proof.Claim

/-- R292: the ray state of a lane: origin, direction, the interval, the root, and its flags. -/
def rayWords (s : State) (c : Cur) (a root : Nat) (rmask : Byte) (cullb first : Bool) (j : Nat) : List Word :=
  let reg := fun k => ((s.curWave c).vreg (a + k)).getD j 0
  [reg 0, reg 1, reg 2, reg 4, reg 5, reg 6, reg 3, reg 7, BitVec.ofNat 32 root, BitVec.ofNat 32 (root / 2 ^ 32)] ++
    List.replicate 8 0 ++ [BitVec.ofNat 32 (cullb.toNat + first.toNat * 2 + rmask.toNat * 2 ^ 8), BitVec.ofNat 32 j] ++
    List.replicate 12 0

/-- A ray with an origin or direction that is not finite, or an end of its interval that is NaN. -/
def notFinite (ws : List Word) : Prop :=
  (∃ k, k < 6 ∧ k < ws.length ∧ ¬ ∃ sg m e, f32.decode (ws.getD k 0).toNat = .fin sg m e) ∨
  f32.decode (ws.getD 6 0).toNat = .nan ∨ f32.decode (ws.getD 7 0).toNat = .nan

end Sys2Proof.Claim

/-- R102, R130, R285, R292, R347: `trace` and `trace.resume`, with a usable port if any and with a lane active, fork a thread with the
rays of the active lanes and leave their eight result registers outstanding, in no slot; `trace` traps where its root is misaligned, and
where it lies at 2^57 or above, there with cause 0x10, subkind 3 and the root in %xaddr (the model's reading of R102 and R347 for a root:
assumption 46, DEDUCED); with no lane active both only move on. -/
def Claim.TracesStart : Prop :=
  (∀ (port : Option Nat) (rmask : Byte) (cullb first : Bool) (d a : Nat) (root : GSrc) (s : State) (c : Cur),
    let i : Instr := .trace port rmask cullb first d a root
    let x := ((s.panel c).gsrc root).toNat
    Issues i s c →
    (s.traceBad c port = true ∨ x % 128 ≠ 0 → exec i s = .next (s.takeTrap c { cause := 0x01 })) ∧
    (s.traceBad c port = false → x % 128 = 0 → s.active c = 0 →
      ∃ t, exec i s = .next t ∧ PanelOnly s t c ∧ MovedOn (s.panel c) (t.panel c) c.len 0) ∧
    (s.traceBad c port = false → x % 128 = 0 → s.active c ≠ 0 → 2 ^ 57 ≤ x →
      exec i s = .next (s.takeTrap c { cause := 0x10, info := 3, addr := x })) ∧
    (s.traceBad c port = false → x % 128 = 0 → s.active c ≠ 0 → x < 2 ^ 57 →
      ∃ t y, exec i s = .next t ∧ t = { s with waves := t.waves, threads := t.threads, serial := t.serial } ∧
        Claim.Forked s t c none (.trace port d ((Claim.lanesOf s c).map fun j =>
          { lane := j, words := Claim.rayWords s c a x rmask cullb first j, resume := none, done := false })) ∧
        (t.panel c).outst = (s.panel c).outst ++ [y] ∧ y.slot = none ∧ y.active = s.active c ∧
        (t.panel c).pc = ((s.panel c).pc + 4 * c.len) % 2 ^ 57)) ∧
  ∀ (port : Option Nat) (d a : Nat) (z : Src) (s : State) (c : Cur), let i : Instr := .traceResume port d a z
    Issues i s c → NoStreams i → s.traceBad c port = false →
    (s.active c = 0 → ∃ t, exec i s = .next t ∧ PanelOnly s t c ∧ MovedOn (s.panel c) (t.panel c) c.len 0) ∧
    (s.active c ≠ 0 →
      ∃ t y, exec i s = .next t ∧ t = { s with waves := t.waves, threads := t.threads, serial := t.serial } ∧
        Claim.Forked s t c none (.trace port d ((Claim.lanesOf s c).map fun j =>
          { lane := j, words := (List.range 32).map fun k => ((s.curWave c).vreg (a + k)).getD j 0
            resume := some ((s.lanes c).a32 z j), done := false })) ∧
        (t.panel c).outst = (s.panel c).outst ++ [y] ∧ y.slot = none ∧ y.active = s.active c ∧
        (t.panel c).pc = ((s.panel c).pc + 4 * c.len) % 2 ^ 57)

/-- R283, R292, R298: a traversal that comes to its end writes its ray's eight result registers in its own lane, and no
other lane register of any wave changes; a new ray that is not finite misses at once: t is +∞, no instance, and zeros
elsewhere. -/
def Claim.TracesEnd : Prop :=
  ∀ (s : State) (tid lane : Nat) (th : Thread) (port : Option Nat) (d : Nat) (rays : List RayState) (x : RayState),
    s.thread? tid = some th → th.engine = .trace port d rays →
    (rays.find? fun y => y.lane == lane && !y.done) = some x → s.threadRuns th = true → s.fresh th = true → lane < 64 →
    (∀ r fault, (s.rayRun th.acc port.isSome x.words x.resume).2 = .done r fault →
      (rays.any fun y => !y.done && y.lane != lane) = true →
      ∃ t, exec (.traversalComplete tid lane) s = .next t ∧
        (∀ k, k < 8 → ((t.wave th.wid).vreg (d + k)).getD lane 0 =
          ((s.rayRun th.acc port.isSome x.words x.resume).1.rayResult r fault none).getD k 0) ∧
        (∀ r j, j < 64 → (j ≠ lane ∨ r < d ∨ d + 8 ≤ r) →
          ((t.wave th.wid).vreg r).getD j 0 = ((s.wave th.wid).vreg r).getD j 0) ∧
        (∀ w, w ≠ th.wid → t.wave w = s.wave w) ∧
        t.thread? tid = some { th with engine := .trace port d (rays.map fun y => if y.lane = lane then { y with done := true } else y) }) ∧
    (x.resume = none → Claim.notFinite x.words → (x.words.getD 18 0).getLsbD 1 = false →
      ∃ t, exec (.traversalComplete tid lane) s = .next t ∧
        ∀ k, k < 8 → ((t.wave th.wid).vreg (d + k)).getD lane 0 = [0x7F800000, 0, 0, 0, 0xFFFFFFFF, 0, 0, 0].getD k 0)

/-- R17, R23, R288: `disc` takes the active lanes where its predicate holds, and `disc` of all takes every active lane,
out of the panel's mask and stack and keeps them as discarded, and a register-sourced loop of the wave that is in flight stores
no row of theirs; no register changes. (Shown for a wave with no tickets.) -/
def Claim.Discards : Prop :=
  ∀ (i : Instr) (gone : Mask) (s : State) (c : Cur),
    (∃ neg p, i = .disc neg p ∧ gone = s.active c &&& (if neg then ~~~ (s.curWave c).pred p else (s.curWave c).pred p)) ∨
      i = .discAll ∧ gone = s.active c →
    Issues i s c → (s.curWave c).tickets = [] →
    ∃ t, exec i s = .next t ∧ PanelOnly { s with threads := t.threads } t c ∧
      (∀ tid th, s.thread? tid = some th → ∃ e, t.thread? tid = some { th with engine := e } ∧
        (∀ x, th.engine = .mloop x → th.wid = c.wid → (s.curWave c).matrix = some tid →
          ∃ ws, e = .mloop { x with written := ws } ∧ ws.length = x.written.length ∧
            ∀ k, k < ws.length → ws.getD k false =
              (x.written.getD k false && ((x.lanes[k]?).map fun j => !gone.getLsbD j).getD true)) ∧
        ((∀ x, th.engine ≠ .mloop x) ∨ th.wid ≠ c.wid ∨ (s.curWave c).matrix ≠ some tid → e = th.engine)) ∧
      t.panel c = { s.panel c with
        pc := ((s.panel c).pc + 4 * c.len) % 2 ^ 57, clause := (t.panel c).clause, hold := (t.panel c).hold
        hinted := (t.panel c).hinted, doneAt := (t.panel c).doneAt, got := []
        mask := (s.panel c).mask &&& ~~~ gone, discarded := (s.panel c).discarded ||| gone
        stack := ((s.panel c).stack.map fun x => { x with mask := x.mask &&& ~~~ gone }).filter fun x => x.mask ≠ 0 }

/-- R382-R384: `mest` on a display core, with its handle bound and its local ranges in order, forks a thread with its
operands where a lane is active; on a compute core it is an illegal trap. Each turn of the thread estimates one block; the last
leaves the thread gone. The vector that a block's search finds costs no more than any whole-pixel vector in range. -/
def Claim.MotionEstimates : Prop :=
  (∀ (g bh nbx : Nat) (cand : Bool) (range : Nat) (s : State) (c : Cur),
    let i : Instr := .mest g bh nbx cand range
    let x : MestOp := { g := (List.range 3).map fun k => (s.panel c).greg (g + k), nbx := nbx, cand := cand, range := range
                        blocks := 0, flags := 0 }
    Issues i s c →
    (c.wid / 64 < 384 → exec i s = .next (s.takeTrap c { cause := 0x01 })) ∧
    (384 ≤ c.wid / 64 → s.mestCauses (s.curWg c) x = none → ∀ place, Claim.Names s c bh place → s.active c ≠ 0 →
      ∃ t, exec i s = .next t ∧ t = { s with waves := t.waves, threads := t.threads, serial := t.serial } ∧
        Claim.Forked s t c (some (handleAddr ((s.curWg c).handles.getD bh 0))) (.mest x) ∧
        MovedOn (s.panel c) (t.panel c) c.len 0)) ∧
  (∀ (s : State) (tid : Nat) (th : Thread) (x : MestOp), s.thread? tid = some th → th.engine = .mest x → s.threadGoes th = true →
    let b := s.mestBlock (threadWindow s th) x x.blocks
    (x.blocks + 1 < x.nbx → exec (.mestComplete tid) s =
      .next (b.1.putThread tid { th with engine := .mest { x with blocks := x.blocks + 1, flags := x.flags ||| b.2 } })) ∧
    (x.nbx ≤ x.blocks + 1 → ∃ t, exec (.mestComplete tid) s = .next t ∧ t.thread? tid = none)) ∧
  ∀ (v : MestView) (range x0 : Nat) (cand : Option (Int × Int)) (dx dy : Int), dx.natAbs ≤ range → dy.natAbs ≤ range →
    (v.estimate range x0 cand).2.2.1 ≤ v.cost range x0 (4 * dx) (4 * dy)

/-- R118, R278, R285, R289-R291: `texq`, `gath` and `sample`. -/
def Obligations.Texels : Prop := Claim.TextureQueries ∧ Claim.Gathers ∧ Claim.Samples

/-- R262-R264, R285-R287: `emit`, `pull` and the end of a stream. -/
def Obligations.Spools : Prop := Claim.Emits ∧ Claim.EmitsWake ∧ Claim.Closings ∧ Claim.Pulls

/-- R17, R102, R130, R283, R285, R288, R292, R298, R347, R382-R384: rays, discarded lanes and motion estimates. -/
def Obligations.RaysAndMotion : Prop := Claim.TracesStart ∧ Claim.TracesEnd ∧ Claim.Discards ∧ Claim.MotionEstimates

/-- R354, R356: in a handler of a trap raised on an instruction `ctx.skip` makes the frame resume behind that instruction and
clears %px; elsewhere it is an illegal trap. -/
def Claim.SkipsTrapping : Prop :=
  ∀ (s : State) (c : Cur), Issues .ctxSkip s c →
    ((∀ f, (s.panel c).frame = some f → f.onInstr = false) → exec .ctxSkip s = .next (s.takeTrap c { cause := 0x01 })) ∧
    ∀ f, (s.panel c).frame = some f → f.onInstr = true →
      ∃ t f', exec .ctxSkip s = .next t ∧ PanelOnly s t c ∧
        t.panel c = { s.panel c with
          pc := ((s.panel c).pc + 4 * c.len) % 2 ^ 57, clause := (t.panel c).clause, hold := (t.panel c).hold
          hinted := (t.panel c).hinted, doneAt := (t.panel c).doneAt, got := []
          px := 0, frame := some f' } ∧
        f'.pc = (if f.pc = (s.panel c).xpc.toNat then (f.pc + 4 * f.len) % 2 ^ 57 else f.pc) ∧
        f'.onInstr = true ∧ f'.len = f.len ∧ f'.gen = f.gen

/-- R349, R350, R356: `ctx.fwd` in the handler of a translation or permission fault records that fault as held, returns its
fault ID and waits for the reply; elsewhere it is an illegal trap. -/
def Claim.ForwardsFault : Prop :=
  ∀ (d : GDst) (s : State) (c : Cur), Issues (.ctxFwd d) s c →
    let cause := (s.panel c).xcause.toNat % 2 ^ 8
    let p := (s.laneAcc c).part
    ((s.panel c).frame = none ∨ cause ≠ 0x10 ∧ cause ≠ 0x11 →
      exec (.ctxFwd d) s = .next (s.takeTrap c { cause := 0x01 })) ∧
    ((s.panel c).frame ≠ none → cause = 0x10 ∨ cause = 0x11 →
      ∃ t, exec (.ctxFwd d) s = .next t ∧ (t.part p).fid = (s.part p).fid + 1 ∧
        (t.part p).fqpend = (s.part p).fqpend + 1 ∧
        (t.panel c).wait = some { instr := .ctxFwd d, len := c.len, since := s.cycle, aux := (s.part p).fid % 2 ^ 32 } ∧
        (t.panel c).pc = (s.panel c).pc ∧ (t.panel c).frame = (s.panel c).frame ∧
        (∀ n, (t.panel c).greg n = if d = .g n then BitVec.ofNat 64 ((s.part p).fid % 2 ^ 32) else (s.panel c).greg n) ∧
        (∀ w, w ≠ c.wid → t.wave w = s.wave w) ∧ t.gangs = s.gangs ∧ t.launches = s.launches)

/-- R331, R356: `ctx.end` in a handler ends the gang with its operand's error code, or with 0x12 where that is none; outside
a handler it is an illegal trap. -/
def Claim.EndsGang : Prop :=
  ∀ (a b : GSrc) (s : State) (c : Cur) (wg : Workgroup) (g : Gang) (l : Launch), Issues (.ctxEnd a b) s c →
    ((s.panel c).frame = none → exec (.ctxEnd a b) s = .next (s.takeTrap c { cause := 0x01 })) ∧
    ((s.panel c).frame ≠ none → s.wg? (s.curWave c).wg = some wg → s.launch? wg.lid = some l → s.gang? wg.gid = some g →
      g.done = false →
      let x := ((s.panel c).gsrc a).toNat % 2 ^ 8
      ∃ t h, exec (.ctxEnd a b) s = .next t ∧ t.gang? wg.gid = some h ∧ h.done = true ∧
        h.ended = some (if x ∈ [0x01, 0x02, 0x03, 0x04, 0x10, 0x11, 0x12, 0x13, 0x20] then x else 0x12))

/-- R343, R351, R356: `ctx.fqpop` returns bit 63 alone where the fault ring is empty, else the address of the oldest record,
and frees its slot. (Shown for a ring with a size.) -/
def Claim.PopsRing : Prop :=
  ∀ (d : GDst) (s : State) (c : Cur), Issues (.ctxFqpop d) s c →
    let p := (s.laneAcc c).part
    let x := s.part p
    (x.fqhead = x.fqtail → ∃ t, exec (.ctxFqpop d) s = .next t ∧ GroupEffect s t c d (BitVec.ofNat 64 (2 ^ 63))) ∧
    (x.fqhead ≠ x.fqtail → x.fqsize ≠ 0 →
      ∃ t, exec (.ctxFqpop d) s = .next t ∧ (t.part p).fqtail = x.fqtail + 1 ∧
        (∀ n, (t.panel c).greg n =
          if d = .g n then BitVec.ofNat 64 (x.fqbase.toNat + 64 * (x.fqtail.toNat % x.fqsize.toNat)) else (s.panel c).greg n) ∧
        (∀ w, w ≠ c.wid → t.wave w = s.wave w) ∧ (t.panel c).pc = ((s.panel c).pc + 4 * c.len) % 2 ^ 57)

/-- R351, R356: `ctx.reply` to a fault ID that awaits none returns 1 and does nothing else; a reply to one that does
returns 0, and it no longer awaits one. -/
def Claim.Replies : Prop :=
  ∀ (d : GDst) (a b : GSrc) (s : State) (c : Cur), Issues (.ctxReply d a b) s c →
    let p := (s.laneAcc c).part
    let fid := ((s.panel c).gsrc a).toNat % 2 ^ 32
    let fail := ((s.panel c).gsrc b).getLsbD 0
    (fid ∉ (s.part p).unreplied → ∃ t, exec (.ctxReply d a b) s = .next t ∧ GroupEffect s t c d 1) ∧
    (fid ∈ (s.part p).unreplied →
      ∃ u t, u = (s.setPart p { s.part p with
            unreplied := (s.part p).unreplied.erase fid, fqpend := (s.part p).fqpend - 1 }).replyTo p fid fail ∧
        exec (.ctxReply d a b) s = .next t ∧ PanelOnly u t c ∧
        (t.panel c).pc = ((u.panel c).pc + 4 * c.len) % 2 ^ 57 ∧
        ∀ n, (t.panel c).greg n = if d = .g n then 0 else (u.panel c).greg n)

/-- R331, R343, R349-R351, R354, R356: the `ctx` forms. -/
def Obligations.Contexts : Prop :=
  Claim.SkipsTrapping ∧ Claim.ForwardsFault ∧ Claim.EndsGang ∧ Claim.PopsRing ∧ Claim.Replies

/-- R357: `tlbi` with operands in order releases, and waits; when the invalidation is complete, the entries of its own
partition that it names are gone, and every other is there. A reserved bit, a count of 0 or an ASN that names no valid
entry is an illegal trap. -/
def Claim.TlbInvalidations : Prop :=
  (∀ (kind : TlbiKind) (a b : GSrc) (s : State) (c : Cur), Issues (.tlbi kind a b) s c →
    let x := ((s.panel c).gsrc a).toNat
    let y := ((s.panel c).gsrc b).toNat
    let good := if kind = .all then x = 0 ∧ y = 0
      else x < 2 ^ 57 ∧ y < 2 ^ 48 ∧ (kind = .range → 2 ^ 16 ≤ y) ∧ s.asnOk (s.laneAcc c).part (y % 2 ^ 16) = true
    (¬ good → exec (.tlbi kind a b) s = .next (s.takeTrap c { cause := 0x01 })) ∧
    (good → ∃ t, exec (.tlbi kind a b) s = .next t ∧
      t = { s with waves := t.waves, l1 := t.l1, mem := t.mem, lineKey := t.lineKey, poison := t.poison } ∧
      t.panel c = { s.panel c with wait := some { instr := .tlbi kind a b, len := c.len, since := s.cycle, aux := 0 } } ∧
      (∀ w, w ≠ c.wid → t.wave w = s.wave w) ∧ ∀ ix, ixCore ix = c.wid / 64 → (t.l1At ix).written = 0)) ∧
  ∀ (kind : TlbiKind) (a b : GSrc) (s : State) (w e : Nat) (y : Waiting), let c : Cur := { wid := w, entry := e, len := y.len }
    let p := s.panel c
    let x := (p.gsrc a).toNat
    let first := x / 65536 * 65536
    let last := first + 65536 * (if kind = .range then (p.gsrc b).toNat / 2 ^ 16 % 2 ^ 32 else 1)
    p.valid = true → s.waveEnds w = true → p.wait = some y → y.instr = .tlbi kind a b →
    ∃ t, exec (.tlbiComplete w e) s = .next t ∧ t = { s with waves := t.waves, tlb := t.tlb } ∧
      t.panel c = { p with
        pc := (p.pc + 4 * y.len) % 2 ^ 57, clause := (t.panel c).clause, hold := (t.panel c).hold, wait := none
        hinted := (t.panel c).hinted, doneAt := (t.panel c).doneAt, got := [] } ∧
      (∀ k, k ≠ w → t.wave k = s.wave k) ∧
      ∀ z, z ∈ t.tlb ↔ z ∈ s.tlb ∧ ¬ (z.part = (s.laneAcc c).part ∧
        (kind = .all ∨ z.asn = (p.gsrc b).toNat % 2 ^ 16 ∧
          (kind = .asn ∨ z.page * 2 ^ levelShift z.level < last ∧ first < (z.page + 1) * 2 ^ levelShift z.level)))

/-- R139, R344, R358: `gen.inc` of a valid address space raises its generation by one, modulo 2^16, drops the space's lines from the
instruction caches of the partition, and waits; one that finds a change of the space under way stays at its place. When the change
has completed the new generation is in its destination, no engine thread of the space that has not been judged fresh is ever fresh
again, and no L1 of the partition keeps a line of the space under another generation. `gen.rd` reads the generation and changes
nothing else. -/
def Claim.GenerationChanges : Prop :=
  (∀ (d : GDst) (a : GSrc) (s : State) (c : Cur), Issues (.genInc d a) s c →
    let asn := ((s.panel c).gsrc a).toNat
    let p := (s.laneAcc c).part
    let good := asn < 2 ^ 16 ∧ s.asnOk p asn = true
    (¬ good → exec (.genInc d a) s = .next (s.takeTrap c { cause := 0x01 })) ∧
    (good → s.changing p asn = true → exec (.genInc d a) s = .next s) ∧
    (good → s.changing p asn = false → ∃ t, exec (.genInc d a) s = .next t ∧
      t = { s with waves := t.waves, l1 := t.l1, icache := t.icache, mem := t.mem, lineKey := t.lineKey, poison := t.poison } ∧
      t.genOf p asn = (s.genOf p asn + 1) % 2 ^ 16 ∧
      (∀ e, e ∈ t.icache ↔ e ∈ s.icache ∧ ¬ (s.coreOf p (codeCore e.1) = true ∧ codeAsn e.1 = asn)) ∧
      t.panel c = { s.panel c with
        wait := some { instr := .genInc d a, len := c.len, since := s.cycle, aux := (s.genOf p asn + 1) % 2 ^ 16 + asn * 2 ^ 16 } } ∧
      ∀ w, w ≠ c.wid → t.wave w = s.wave w)) ∧
  (∀ (d : GDst) (a : GSrc) (s : State) (w e : Nat) (y : Waiting), let c : Cur := { wid := w, entry := e, len := y.len }
    let p := (s.laneAcc c).part
    let asn := y.aux / 2 ^ 16
    let gen := s.genOf p asn
    (s.panel c).valid = true → s.waveEnds w = true → (s.panel c).wait = some y → y.instr = .genInc d a →
    ∃ t, exec (.genChangeComplete w e) s = .next t ∧
      t = { s with waves := t.waves, threads := t.threads, l1 := t.l1, mem := t.mem, lineKey := t.lineKey, poison := t.poison } ∧
      (t.panel c).wait = none ∧ (t.panel c).pc = ((s.panel c).pc + 4 * y.len) % 2 ^ 57 ∧
      (∀ n, (t.panel c).greg n = if d = .g n then BitVec.ofNat 64 (y.aux % 2 ^ 16) else (s.panel c).greg n) ∧
      (∀ tid th, s.thread? tid = some th → t.thread? tid =
        some (if th.part = p ∧ th.asn = asn ∧ th.gen ≠ gen then { th with gen := th.gen % 2 ^ 16 + 2 ^ 16 } else th)) ∧
      ∀ ix, s.coreOf p (ixCore ix) = true → ixAsn ix = asn → t.l1At ix = L1Line.empty ∨ (t.l1At ix).gen = gen) ∧
  ∀ (d : GDst) (a : GSrc) (s : State) (c : Cur), Issues (.genRd d a) s c →
    let asn := ((s.panel c).gsrc a).toNat
    let p := (s.laneAcc c).part
    if asn < 2 ^ 16 ∧ s.asnOk p asn = true then
      ∃ t, exec (.genRd d a) s = .next t ∧ GroupEffect s t c d (BitVec.ofNat 64 (s.genOf p asn))
    else exec (.genRd d a) s = .next (s.takeTrap c { cause := 0x01 })

/-- R139, R344, R357, R358: `tlbi` and `gen`. -/
def Obligations.Invalidations : Prop := Claim.TlbInvalidations ∧ Claim.GenerationChanges

/-- R138, R349, R350: an access of an engine thread that does not translate, or one under an old generation, is held: the
partition's next fault ID names it, one more fault is pending, and the thread waits for that reply, with nothing else
of it changed. So are the loads of an outstanding result that the home L2 may still reject (assumption 82, DEDUCED: those that it was
asked for, while the panel has done nothing since): each has a record, and its result goes on waiting. -/
def Claim.HeldFaults : Prop :=
  (∀ (s : State) (tid : Nat) (th : Thread) (write : Bool) (cause sub va : Nat) (lane : Option Nat),
    s.thread? tid = some th → s.threadRuns th = true →
    (s.threadStop tid th = some (.trap write (.fail cause sub va), lane) →
      ∃ t, exec (.heldEngineFault (.thread tid)) s = .next t ∧ (t.part th.part).fid = (s.part th.part).fid + 1 ∧
        (t.part th.part).fqpend = (s.part th.part).fqpend + 1 ∧
        t.thread? tid = some { th with held := some ((s.part th.part).fid % 2 ^ 32), ray := lane.map fun j => (j, va) } ∧
        (∀ k, k ≠ tid → t.thread? k = s.thread? k) ∧ t.waves = s.waves ∧ t.gangs = s.gangs) ∧
    (s.fresh th = false → s.threadStop tid th = none → s.threadTouches tid th = some ((write, va), lane) →
      ∃ t, exec (.staleGenerationReject (.thread tid)) s = .next t ∧ (t.part th.part).fid = (s.part th.part).fid + 1 ∧
        (t.part th.part).fqpend = (s.part th.part).fqpend + 1 ∧
        t.thread? tid = some { th with held := some ((s.part th.part).fid % 2 ^ 32), ray := lane.map fun j => (j, va) } ∧
        (∀ k, k ≠ tid → t.thread? k = s.thread? k) ∧ t.waves = s.waves ∧ t.gangs = s.gangs)) ∧
  ∀ (s : State) (w e k : Nat) (x : Outstanding), let c : Cur := { wid := w, entry := e, len := 1 }
    let l := s.rejectable c x
    (s.panel c).outst[k]? = some x → l ≠ [] →
    ∃ t y, exec (.staleGenerationReject (.lane w e k)) s = .next t ∧ (t.panel c).outst[k]? = some y ∧
      y = { x with asked := [], held := y.held } ∧ y.held.map HeldAccess.access = l.map HeldAccess.access ∧
      (∀ n h, y.held[n]? = some h → h.fid = ((s.part (s.laneAcc c).part).fid + n) % 2 ^ 32) ∧
      (t.part (s.laneAcc c).part).fid = (s.part (s.laneAcc c).part).fid + l.length ∧
      (∀ v, v ≠ w → t.wave v = s.wave v)

namespace Sys2Proof.Claim

/-- The lane registers and latches after the lanes of a list have words of a destination; of every other lane, and of every other
register, they are as before. -/
def WordsOf (s t : State) (c : Cur) (lanes : List Nat) (i : Instr) (d : Dst) (n : Nat) (f : Nat → Nat → Word) : Prop :=
  (∀ r j, j < 64 → ((t.curWave c).vreg r).getD j 0 =
    (match vWordOf d n r with
      | some k => if j ∈ lanes then f j k else ((s.curWave c).vreg r).getD j 0
      | none => ((s.curWave c).vreg r).getD j 0)) ∧
  (∀ r j, j < 64 → ((t.curWave c).oreg r).getD j 0 =
    (match oWordOf d n r with
      | some k => if j ∈ lanes then f j k else ((s.curWave c).oreg r).getD j 0
      | none => ((s.curWave c).oreg r).getD j 0)) ∧
  ∀ l j, j < 64 → ((t.curWave c).latchVec (latchNo l)).getD j 0 =
    if latchOf i = some l ∧ j ∈ lanes then latchValue n (f j) else ((s.curWave c).latchVec (latchNo l)).getD j 0

/-- The partition after n records of faults that are held, for the accesses of a list, in their order (R350). -/
def Recorded (s t : State) (p : Nat) (xs : List Access) (held : List HeldAccess) : Prop :=
  held.map HeldAccess.access = xs ∧
  (∀ n h, held[n]? = some h → h.fid = ((s.part p).fid + n) % 2 ^ 32) ∧
  (t.part p).fid = (s.part p).fid + xs.length ∧ (t.part p).fqpend = (s.part p).fqpend + xs.length

/-- R349, R351: the panel that a reply names: its wave and entry, and what it waits with; the first in the order of waves and
entries. -/
def waiter (s : State) (p fid : Nat) : Option (Nat × Nat × PanelHold) :=
  s.waves.findSome? fun e =>
    if (s.laneAcc { wid := e.1, entry := 0, len := 1 }).part ≠ p then none else (e.2.holder fid).map fun h => (e.1, h.1, h.2)

/-- The panel's results without one of their held accesses; a store of which none is held any more is done. -/
def without (x : Outstanding) (h : HeldAccess) (got : List (Nat × List Byte)) : Outstanding :=
  let held := x.held.filter fun y => y.fid != h.fid
  { x with
    held := held, got := got
    asked := if held.isEmpty then [] else x.asked
    quads := if held.isEmpty && !variableLatency x.instr then 0 else x.quads }

end Sys2Proof.Claim

/-- R138, R208, R349, R350: an `ld` or `st` in a context of an old generation, whose checks find nothing, performs the lanes that the
home L2 does not reject and moves on; each rejected access has a record and waits for its reply: an `ld`'s lane keeps its registers
until then and its result is outstanding, a rejected store is not drained (assumption 82, DEDUCED: which accesses reach the home L2;
assumption 90, DEDUCED: what waits for them). -/
def Claim.HeldIssues : Prop :=
  (∀ (m : MemWord) (d : Dst) (a : Src) (s : State) (c : Cur), let i : Instr := .ld m d a
    let acc := s.laneAcc c
    let addr := globalAddr (s.lanes c) m a
    let xs := Claim.accesses s c addr m.sz.bytes false
    let now := (Claim.lanesOf s c).filter fun j => !s.rejects acc { lane := j, va := addr j, n := m.sz.bytes, write := false }
    Issues i s c → NoStreams i → s.judge acc xs = .clear → s.mustWait c xs = false → now ≠ Claim.lanesOf s c →
    ∃ t y, exec i s = .next t ∧ (∀ w, w ≠ c.wid → t.wave w = s.wave w) ∧
      Claim.WordsOf s t c now i d (Claim.words m.sz) (fun j k => Claim.loaded m.sz
        (laneBytes (s.readLanes (s.memAcc c m) addr (fun _ => m.sz.bytes) now).2 j) k) ∧
      (t.panel c).pc = ((s.panel c).pc + 4 * c.len) % 2 ^ 57 ∧ (t.panel c).wait = none ∧
      (t.panel c).outst = (s.panel c).outst ++ [y] ∧ y.instr = i ∧ y.active = s.active c ∧
      Claim.Recorded s t acc.part (xs.filter (s.rejects acc)) y.held) ∧
  ∀ (m : MemWord) (a b : Src) (s : State) (c : Cur), let i : Instr := .st m a b
    let acc := s.laneAcc c
    let xs := Claim.accesses s c (globalAddr (s.lanes c) m a) m.sz.bytes true
    Issues i s c → NoStreams i → s.judge acc xs = .clear → s.mustWait c xs = false → (∃ x ∈ xs, s.rejects acc x = true) →
    ∃ t y, exec i s = .next t ∧ (∀ w, w ≠ c.wid → t.wave w = s.wave w) ∧
      t.curWave c = { s.curWave c with panels := (t.curWave c).panels, releasing := (t.curWave c).releasing } ∧
      (t.panel c).pc = ((s.panel c).pc + 4 * c.len) % 2 ^ 57 ∧ (t.panel c).wait = none ∧
      (t.panel c).undrained = (s.panel c).undrained + 1 ∧
      (t.panel c).outst = (s.panel c).outst ++ [y] ∧ y.instr = i ∧ y.slot = none ∧
      Claim.Recorded s t acc.part (xs.filter (s.rejects acc)) y.held ∧
      ∀ h ∈ y.held, h.act = .store ((List.range m.sz.bytes).map (Claim.sourceByte s c (Claim.words m.sz) b h.lane))

/-- R138, R233, R289, R343, R349, R351: a write of FQREPLY by no owner of the block and no firmware, or with a fault ID that awaits no
reply, does nothing. Else that reply is no longer awaited, and: an engine thread that waits for it goes on after a retry, under
the generation of now; a lane's access fails with its gang, error 0x11; a retry performs a lane's load or store, with the generation and
translation of now, and only then does the lane have its result; a retry that fails or is rejected is held anew, with a record
of its own; a `sample` issues again, or takes the trap that its fault stands for. (Assumption 85, DEDUCED: a retry goes access by
access.) -/
def Claim.FaultReplies : Prop :=
  ∀ (who : Writer) (p : Nat) (val : DWord) (s : State), p < 8 →
    let fid := val.toNat % 2 ^ 32
    let fail := val.getLsbD 32
    let may := who = .firmware ∨ who = .owner p
    let u := s.setPart p { s.part p with unreplied := (s.part p).unreplied.erase fid, fqpend := (s.part p).fqpend - 1 }
    let thread := s.threads.find? fun e => e.2.held == some fid && e.2.part == p
    (¬ may ∨ fid ∉ (s.part p).unreplied → exec (.fqreply who p val) s = .next s) ∧
    (may → fid ∈ (s.part p).unreplied →
      (∀ tid th, thread = some (tid, th) →
        (fail = false → ∃ t, exec (.fqreply who p val) s = .next t ∧ t = { u with threads := t.threads } ∧
          t.thread? tid = some { th with held := none, ray := none, gen := s.genOf p th.asn } ∧
          ∀ k, k ≠ tid → t.thread? k = s.thread? k) ∧
        (fail = true → th.ray = none → ∃ t, exec (.fqreply who p val) s = .next t ∧ t = { u with threads := t.threads } ∧
          (∀ e ∈ t.threads, e.1 ≠ tid) ∧ ∀ k, k ≠ tid → t.thread? k = s.thread? k)) ∧
      ∀ w e hold, thread = none → Claim.waiter s p fid = some (w, e, hold) → let c : Cur := { wid := w, entry := e, len := 1 }
        match hold with
        | .wait y =>
          let q := { s.panel c with wait := none }
          (match y.instr, (s.panel c).frame with
            | .ctxFwd _, some f => exec (.fqreply who p val) s = .next
                (if fail then u.endGang (u.curWg c).gid 0x11 else u.setPanel c (q.leaveTrap f))
            | _, _ => exec (.fqreply who p val) s = .next
                (if fail then (u.setPanel c q).takeTrap { c with len := y.len }
                    { cause := y.aux / 2 ^ 32 % 2 ^ 8, info := y.aux / 2 ^ 40 % 2 ^ 8, addr := y.aux / 2 ^ 48 }
                  else u.setPanel c q))
        | .access y h =>
          let acc := u.retryAcc c (s.panel c).got h
          if fail then exec (.fqreply who p val) s = .next (u.endGang (u.curWg c).gid 0x11)
          else y.held = [h] → h.act = .pass → h.write = false → u.retryAccess acc h = .clear →
            ∃ t, exec (.fqreply who p val) s = .next t ∧ Claim.ReadsOnly u t ∧
              t.panel c = { s.panel c with wait := none, got := (h.va, (u.fetchBytes acc h.va h.n).2) :: (s.panel c).got }
        | .result k x h =>
          let acc := u.retryAcc c x.got h
          if fail then exec (.fqreply who p val) s = .next (u.endGang (u.curWg c).gid 0x11)
          else
            (∀ write er, u.retryAccess acc h = .trap write er →
              ∃ t y, exec (.fqreply who p val) s = .next t ∧ (t.part p).fid = (s.part p).fid + 1 ∧
                y = { h with fid := (s.part p).fid % 2 ^ 32 } ∧
                ((s.panel c).outst[k]? = some x → (∀ o ∈ (s.panel c).outst, o.quads ≠ 0) →
                  (t.panel c).outst[k]? = some { x with held := (x.held.filter fun z => z.fid != h.fid) ++ [y] })) ∧
            (∀ conv d, h.act = .load conv d → d.elem = none → u.retryAccess acc h = .clear → (s.panel c).outst[k]? = some x →
              (∀ o ∈ (s.panel c).outst, o.quads ≠ 0) → variableLatency x.instr = true →
              let bs := (u.fetchBytes acc h.va h.n).2
              ∃ t, exec (.fqreply who p val) s = .next t ∧ Claim.ReadsOnly u t ∧
                Claim.WordsOf u t c [h.lane] x.instr d.dst d.words (fun _ => conv.word bs) ∧
                (t.panel c).outst[k]? = some (Claim.without x h ((h.va, bs) :: x.got)) ∧
                ∀ q, q ≠ w → t.wave q = s.wave q) ∧
            ∀ bs, h.act = .store bs → u.retryAccess acc h = .clear →
              ∃ t, exec (.fqreply who p val) s = .next (t.setPanel c { t.panel c with
                  outst := (setOutst (t.panel c).outst k (Claim.without x h x.got)).filter fun o => o.quads != 0 }) ∧
                t = (u.storeEach acc [(h.access, bs)]).wrote c (BitVec.twoPow 64 h.lane))

/-- R138, R208, R343, R349-R351: held faults of engine threads and of lanes, and replies to them. It rests on assumptions 82, 85
and 90. -/
def Obligations.HeldAccesses : Prop := Claim.HeldFaults ∧ Claim.HeldIssues ∧ Claim.FaultReplies

/-- R343, R359: a write of PREEMPT by the owner or by firmware makes every running gang of the queue's grids in the block's partition stop
(that it reaches no other partition's is the model's reading: assumption 74, DEDUCED); all else, and every other gang, is as before. Any
other writer does nothing. -/
def Claim.Preempts : Prop :=
  ∀ (who : Writer) (p : Nat) (val : DWord) (s : State), p < 8 →
    let may := who = .firmware ∨ who = .owner p
    (¬ may → exec (.preempt who p val) s = .next s) ∧
    (may → ∃ t, exec (.preempt who p val) s = .next t ∧ t = { s with gangs := t.gangs } ∧
      ∀ gid g, s.gang? gid = some g →
        let named := ∃ e ∈ s.gangs, e.1 = gid ∧ ∃ l, s.launch? e.2.lid = some l ∧ l.kind = .grid ∧
          l.queue = val.toNat % 2 ^ 13 ∧ l.part = p
        t.gang? gid = some { g with pre := g.pre } ∨ named ∧ t.gang? gid = some { g with pre := .stopping }) ∧
    (may → ∀ gid g l, s.gang? gid = some g → s.launch? g.lid = some l → l.kind = .grid → l.queue = val.toNat % 2 ^ 13 →
      l.part = p → g.pre = .run → g.done = false → ∃ t h, exec (.preempt who p val) s = .next t ∧ t.gang? gid = some h ∧
        h = { g with pre := .stopping })

/-- R343, R362: a write of SAVECTL with BIND = 1 by the owner or by firmware binds the pool where each of its pages may hold a save, else
gives the code of the first that may not (of a page whose walk fails ERR 1: assumption 75, DEDUCED); with BIND = 0 the pool is unbound
once it holds no saved gang. -/
def Claim.SavePools : Prop :=
  ∀ (who : Writer) (p : Nat) (val : DWord) (s : State), p < 8 →
    let may := who = .firmware ∨ who = .owner p
    let asn := val.toNat / 2 ^ 16 % 2 ^ 16
    (val.getLsbD 0 = true →
      (¬ may → exec (.savePoolBind who p val) s = .next s) ∧
      (may → ∃ t, exec (.savePoolBind who p val) s = .next t ∧
        let e := s.poolError p asn (s.part p).savebase.toNat (s.part p).savesize.toNat
        (t.part p).savectl = BitVec.ofNat 64 (1 + 2 * (if e = 0 then 1 else 0) + 16 * e + 65536 * asn) ∧
        t.waves = s.waves ∧ t.gangs = s.gangs)) ∧
    (val.getLsbD 0 = false →
      (¬ may → exec (.savePoolUnbind who p val) s = .next s) ∧
      (may → ∃ t, exec (.savePoolUnbind who p val) s = .next t ∧
        (t.part p).savectl.getLsbD 0 = false ∧ (t.part p).savectl.toNat / 2 ^ 16 % 2 ^ 16 = asn ∧
        ((t.part p).savectl.getLsbD 1 = true ↔ (s.part p).savectl.getLsbD 1 = true ∧ s.poolUsed p ≠ []) ∧
        t.waves = s.waves ∧ t.gangs = s.gangs))

/-- R359-R363: a stopping gang that has reached its stops, with an area of the pool for it that can be written, begins its save; at its
completion its state is written behind the area's header (a body whose bytes the model leaves open, as R361 gives it no layout: assumption
30, DESIGN CHOICE) and kept, its workgroups hold no slot and it is saved; its restore, from an area that reads back, makes it run again
with no area: where no byte of the area has changed, with the state that was saved. One whose header has changed ends with 0x13. -/
def Claim.SavesAndRestores : Prop :=
  (∀ (s u : State) (gid area : Nat) (g : Gang) (l : Launch), s.gang? gid = some g → s.launch? g.lid = some l →
    g.done = false → g.pre = .stopping → s.stopsReached gid g = true →
    let units := saveUnits l.spec g.wgs.length
    let va := (s.part l.part).areaVa area
    s.saveArea l.part units = some (some area) → s.areaFault l.part va .write units = none →
    s.writeVa (s.ringAcc l.part) va (saveHeader units l.packet g.index l.queue) = .ok u →
    ∃ t, exec (.gangSave gid) s = .next t ∧ t = { u with gangs := t.gangs } ∧
      t.gang? gid = some { g with
        pre := .saving, saved := some { area := area, units := units, reserve := false, wgs := [], replies := [] } }) ∧
  (∀ (s u : State) (gid : Nat) (g : Gang) (l : Launch) (v : SavedGang), s.gang? gid = some g → s.launch? g.lid = some l →
    g.saved = some v → g.done = false → g.pre = .saving → v.reserve = false →
    let wgs := g.wgs.filterMap s.saveWg
    s.writeVa (s.ringAcc l.part) ((s.part l.part).areaVa v.area + 64) (saveBody wgs v.units) = .ok u →
    ∃ t, exec (.gangSaveComplete gid) s = .next t ∧
      t.gang? gid = some { g with pre := .saved, saved := some { v with wgs := wgs } } ∧
      (∀ k ∈ g.wgs, ∀ w, s.wg? k = some w → ∃ x, t.wg? k = some x ∧ x.slots = [] ∧
        ∀ n ∈ w.slots, (s.wave (w.core * 64 + n)).alive = true → (s.wave (w.core * 64 + n)).wg = k →
          t.wave (w.core * 64 + n) = Wave.empty)) ∧
  (∀ (s : State) (gid : Nat) (g : Gang) (l : Launch) (v : SavedGang) (plan : List CorePlan), s.gang? gid = some g →
    s.launch? g.lid = some l → g.done = false → g.pre = .saved → g.saved = some v →
    s.possible l.part l.spec g.wgs.length = true → s.placeAgain g l = some plan → s.othersFirst gid l = false →
    (∀ wgs, s.areaState l g v = .good wgs → v.replies = [] →
      ∃ t h, exec (.gangRestore gid) s = .next t ∧ t.gang? gid = some h ∧ h.pre = .run ∧ h.saved = none ∧ h.done = false) ∧
    (s.areaState l g v = .changed →
      ∃ t h, exec (.gangRestore gid) s = .next t ∧ t.gang? gid = some h ∧ h.done = true ∧ h.ended = some 0x13)) ∧
  ∀ (s : State) (l : Launch) (g : Gang) (v : SavedGang), v.reserve = false →
    let va := (s.part l.part).areaVa v.area
    s.areaFault l.part va .read v.units = none → s.areaPoisoned l.part va v.units = false → ∀ bs body,
    (s.readVa (s.ringAcc l.part) va 64).2 = .ok bs → (s.readVa (s.ringAcc l.part) (va + 64) (65536 * v.units - 64)).2 = .ok body →
    (bs ≠ saveHeader v.units l.packet g.index l.queue → s.areaState l g v = .changed) ∧
    (bs = saveHeader v.units l.packet g.index l.queue → body = saveBody v.wgs v.units → s.areaState l g v = .good v.wgs)

/-- R364-R366: an uncorrectable error poisons its line of memory, and no other; in a core it is counted, and the third
retires the core. -/
def Claim.UncorrectableErrors : Prop :=
  (∀ (s : State) (pa : Nat), pa < memorySize →
    ∃ t, exec (.uncorrectableError (.line pa)) s = .next t ∧ t = { s with poison := t.poison } ∧
      ∀ k, Sparse.get false t.poison k = if k = pa / 128 then true else Sparse.get false s.poison k) ∧
  ∀ (s : State) (n : Nat), n < 388 →
    ∃ t, exec (.uncorrectableError (.core n)) s = .next t ∧
      Sparse.get 0 t.coreErrors n = Sparse.get 0 s.coreErrors n + 1 ∧
      (Sparse.get 0 s.coreErrors n = 2 → n ∈ t.retired)

/-- R343, R359-R366: pre-emption, the save pool, saves and restores, and uncorrectable errors. It rests on assumptions 30, 74 and 75. -/
def Obligations.Preemption : Prop :=
  Claim.Preempts ∧ Claim.SavePools ∧ Claim.SavesAndRestores ∧ Claim.UncorrectableErrors

/-- R325, R404: a write of QCFG by no owner of the queue's partition and no firmware does nothing, and neither does one that
changes another field while EN is 1. Any other keeps what it may: reserved bits read as zero, and only firmware may write class 0;
EN with a class above 4 or a size above 12 is refused with error 1. A write of EN = 1 wakes an idle module. -/
def Claim.QueueConfigs : Prop :=
  ∀ (who : Writer) (q : Nat) (val : DWord) (s : State), q < 8192 →
    let x := s.queue q
    let may := who = .firmware ∨ who = .owner (x.qcfg.toNat / 2 ^ 8 % 2 ^ 3)
    let named := val &&& 0xFFFF17FF
    let kept := if named.toNat / 2 ^ 4 % 2 ^ 3 = 0 ∧ who ≠ .firmware then named &&& ~~~ 0x70#64 ||| x.qcfg &&& 0x70#64 else named
    let frozen := x.qcfg.getLsbD 7 = true ∧ kept &&& ~~~ 0x80#64 ≠ x.qcfg &&& ~~~ 0x80#64
    let bad := val.getLsbD 7 = true ∧ (4 < kept.toNat / 2 ^ 4 % 2 ^ 3 ∨ 12 < kept.toNat % 2 ^ 4)
    (¬ may → exec (.qcfgWrite who q val) s = .next s) ∧
    (may → ∃ t, exec (.qcfgWrite who q val) s = .next t ∧
      t = { s with stage := t.stage, regs := { s.regs with queues := t.regs.queues, ident := t.regs.ident } } ∧
      (∀ k, k ≠ q → t.queue k = s.queue k) ∧
      (frozen → t.queue q = x) ∧
      (¬ frozen → ¬ bad → t.queue q = { x with qcfg := kept }) ∧
      (¬ frozen → bad → t.queue q = { x with qcfg := kept &&& ~~~ 0x80#64, qstat := (t.queue q).qstat } ∧
        (t.queue q).qstat.toNat % 2 ^ 8 = (if x.qstat.toNat % 2 ^ 8 = 0 then 1 else x.qstat.toNat % 2 ^ 8)) ∧
      t.stage = if s.stage = 7 ∧ val.getLsbD 7 = true then 1 else s.stage)

/-- R326: a doorbell at offset 0 of a queue that takes no posts announces the packets up to its value; a value more than
the ring's slots ahead of QRD is error 3 and takes EN away; anything else does nothing. -/
def Claim.Doorbells : Prop :=
  ∀ (q ofs : Nat) (val : Word) (s : State), q < 8192 →
    let x := s.queue q
    let slots := 2 ^ (x.qcfg.toNat % 16 + 4)
    (ofs ≠ 0 ∨ x.qcfg.getLsbD 12 = true → exec (.doorbellWrite q ofs val) s = .next s) ∧
    (ofs = 0 → x.qcfg.getLsbD 12 = false →
      ∃ t, exec (.doorbellWrite q ofs val) s = .next t ∧ t = { s with regs := { s.regs with queues := t.regs.queues } } ∧
        (∀ k, k ≠ q → t.queue k = s.queue k) ∧
        ((val - x.qrd).toNat ≤ slots → t.queue q = { x with qput := val, qann := val }) ∧
        (slots < (val - x.qrd).toNat → t.queue q = { x with qcfg := x.qcfg &&& ~~~ 0x80#64, qstat := (t.queue q).qstat } ∧
          (t.queue q).qstat.toNat % 2 ^ 8 = if x.qstat.toNat % 2 ^ 8 = 0 then 3 else x.qstat.toNat % 2 ^ 8))

namespace Sys2Proof.Claim

/-- R326: where the next packet of a queue lies. -/
def slotOf (x : Queue) : Nat := (x.qbase.toNat + 128 * (x.qrd.toNat % 2 ^ (x.qcfg.toNat % 16 + 4))) % 2 ^ 64

/-- R347: a read for a queue meets nothing that stops it; and what it reads. -/
def QueueReads (s : State) (q va n : Nat) : Prop :=
  s.judge (s.queueAcc q) [{ lane := 0, va := va % 2 ^ 64, n := n, write := false }] = .clear
def queueBytes (s : State) (q va n : Nat) : List Byte := (s.fetchBytes (s.queueAcc q) (va % 2 ^ 64) n).2

/-- R326, R340, R344: queue `q` is the one that the scheduler serves, no packet of it is at hand, its address space is valid, and its
next packet can be read and has the bytes `bs`. -/
structure Takes (s : State) (q : Nat) (bs : List Byte) : Prop where
  next : s.nextQueue = some q
  fresh : (s.queue q).taken = none
  valid : s.asnOk (s.queue q).part (s.queue q).asn = true
  clear : QueueReads s q (slotOf (s.queue q)) 128
  reads : queueBytes s q (slotOf (s.queue q)) 128 = bs

/-- R326, R340: queue `q` once a packet of it has been taken. -/
def passed (x : Queue) : Queue := { x with qrd := x.qrd + 1, inFlight := x.inFlight + 1, packet := slotOf x }

/-- The state in which that packet has been read and taken. -/
def taken (s : State) (q : Nat) : State := (s.fetchBytes (s.queueAcc q) (slotOf (s.queue q)) 128).1.passSlot q (slotOf (s.queue q))

/-- Besides the queues and what an instruction says of launches, a packet changes only the TLB of the scheduler, the queue that was
served last and the count of free values. -/
def QueueFrame (s t : State) (q : Nat) : Prop :=
  t = { s with tlb := t.tlb, freeCtr := t.freeCtr, served := t.served, launches := t.launches, serial := t.serial
               regs := { s.regs with queues := t.regs.queues } } ∧
  ∀ k, k ≠ q → t.queue k = s.queue k

/-- R325, R331: a packet of a queue has completed with a code: DONE counts it, the first error stays, RPL is kept. -/
def Completed (a b : DWord) (code : Nat) : Prop :=
  b.toNat / 2 ^ 32 = (a.toNat / 2 ^ 32 + 1) % 2 ^ 32 ∧ b.toNat / 2 ^ 16 % 2 ^ 16 = a.toNat / 2 ^ 16 % 2 ^ 16 ∧
  b.toNat % 2 ^ 8 = if a.toNat % 2 ^ 8 = 0 then code else a.toNat % 2 ^ 8

/-- The next packet of queue `q` has been taken and is complete: QRD passes it; nothing else of any queue changes, and no launch. -/
def TakenAndDone (s t : State) (q code : Nat) : Prop :=
  QueueFrame s t q ∧ t.launches = s.launches ∧
  t.queue q = { s.queue q with
    qrd := (s.queue q).qrd + 1, packet := slotOf (s.queue q), qstat := (t.queue q).qstat } ∧
  Completed (s.queue q).qstat (t.queue q).qstat code

/-- The same, by a launch that is done at once with an error, and leaves no spool (R331). -/
def TakenAndRefused (s t : State) (q code : Nat) : Prop :=
  QueueFrame { s with spools := t.spools } t q ∧ t.spools = s.spools.filter (fun e => e.2.lid ≠ s.serial) ∧ (t.queue q).qrd = (s.queue q).qrd + 1 ∧ (t.queue q).inFlight = (s.queue q).inFlight ∧
  Completed (s.queue q).qstat (t.queue q).qstat code ∧
  ∃ l, t.launch? s.serial = some l ∧ l.done = true ∧ l.error = code ∧ l.live = 0

/-- R329, R330, R344: what a launch rejects with 0x04 before it reads a table. -/
def Rejected (g : GridSpec) : Prop :=
  (g.cgn ≠ 0 ∧ (g.cglo < 4 ∨ 32 < g.cglo + g.cgn)) ∨ (g.cvn ≠ 0 ∧ g.regs < g.cvlo + g.cvn) ∨ 2048 * g.asz < 16 * g.nbar ∨
  (g.flags.testBit 3 = true ∧ 384 < g.asz)

/-- R330, R319: entries of a barrier table and windows that a launch accepts for a gang of `g`. -/
def TablesOk (g : GridSpec) (bars : List Nat) (wins : List (Nat × Nat)) : Prop :=
  (∀ e ∈ bars, e % 2 ^ 24 ≠ 0 ∧ e / 2 ^ 30 % 4 = 0 ∧ (e / 2 ^ 24 % 64 = 63 ∨ e / 2 ^ 24 % 64 < g.gang)) ∧
  (∀ w ∈ wins, w.1 % 16 = 0 ∧ w.2 % 16 = 0 ∧ w.2 ≤ 65536) ∧
  (g.flags.testBit 3 = true → ∃ e es, bars = e :: es ∧ (e / 2 ^ 24 % 64 = 63 → g.gang = 1))

end Sys2Proof.Claim

/-- R326, R328: a nop packet completes at once, a packet of type 3 or above 4 with error 1; a wait packet with a misaligned
address does so too, and any other wait packet keeps its address and value; it completes once the 64-bit value at the
address has come to its value. -/
def Claim.SimplePackets : Prop :=
  (∀ (s : State) (q : Nat) (bs : List Byte), Claim.Takes s q bs →
    (byteAt bs 0 = 0 → ∃ t, exec (.nopPacket q) s = .next t ∧ Claim.TakenAndDone s t q 0) ∧
    (byteAt bs 0 = 3 ∨ 5 ≤ byteAt bs 0 → ∃ t, exec (.illegalPacket q) s = .next t ∧ Claim.TakenAndDone s t q 1) ∧
    (byteAt bs 0 = 4 → fieldAt bs 8 8 % 8 ≠ 0 → ∃ t, exec (.waitPacket q) s = .next t ∧ Claim.TakenAndDone s t q 1) ∧
    (byteAt bs 0 = 4 → fieldAt bs 8 8 % 8 = 0 →
      ∃ t, exec (.waitPacket q) s = .next t ∧ Claim.QueueFrame s t q ∧ t.launches = s.launches ∧
        t.queue q = { Claim.passed (s.queue q) with waitFor := some (fieldAt bs 8 8, fieldAt bs 16 8) })) ∧
  ∀ (s : State) (q a v : Nat), (s.queue q).waitFor = some (a, v) → (s.queue q).held = none →
    Claim.QueueReads s q a 8 → v ≤ ofBytes (Claim.queueBytes s q a 8) →
    ∃ t, exec (.waitPacketSatisfied q) s = .next t ∧ Claim.QueueFrame s t q ∧ t.launches = s.launches ∧
      t.queue q = { s.queue q with waitFor := none, inFlight := (s.queue q).inFlight - 1, qstat := (t.queue q).qstat } ∧
      Claim.Completed (s.queue q).qstat (t.queue q).qstat 0

/-- R328, R329, R330, R331, R344: a grid packet with FENCE waits, taken, while an earlier packet of its queue is in progress; a
malformed one completes with error 1 and launches nothing, one that is rejected with error 4 (shown without a signal); a good one
becomes a launch under the next number, with its tables, and with its queue's address space, partition and class. The packet of a
queue whose ASN names no valid entry completes with error 4 unread (the model's choice: assumption 102). -/
def Claim.GridPackets : Prop :=
  (∀ (s : State) (q : Nat) (bs : List Byte), Claim.Takes s q bs → byteAt bs 0 = 1 →
    let fenced := (bs.getD 1 0).getLsbD 0 = true ∧ 1 ≤ (s.queue q).inFlight
    let g := gridFields false bs
    (fenced → ∃ t, exec (.gridPacket q) s = .next t ∧ Claim.QueueFrame s t q ∧ t.launches = s.launches ∧
      t.queue q = { Claim.passed (s.queue q) with taken := some bs }) ∧
    (¬ fenced → g.malformed false bs = true → ∃ t, exec (.gridPacket q) s = .next t ∧ Claim.TakenAndDone s t q 1) ∧
    (¬ fenced → g.malformed false bs = false → Claim.Rejected g → g.signal = 0 →
      ∃ t, exec (.gridPacket q) s = .next t ∧ Claim.TakenAndRefused s t q 4) ∧
    (¬ fenced → g.malformed false bs = false → ¬ Claim.Rejected g →
      let u := Claim.taken s q
      let nb := 4 * g.nbar
      let np := if fieldAt bs 56 8 = 0 then 0 else 128
      let v := if nb = 0 then u else (u.fetchBytes (u.queueAcc q) (fieldAt bs 48 8) nb).1
      let bars := word32s (if nb = 0 then [] else Claim.queueBytes u q (fieldAt bs 48 8) nb) 0 g.nbar
      let pw := if np = 0 then [] else Claim.queueBytes v q (fieldAt bs 56 8) np
      let wins := (List.range 8).map fun k => (fieldAt pw (16 * k) 8, fieldAt pw (16 * k + 8) 4)
      (nb = 0 ∨ Claim.QueueReads u q (fieldAt bs 48 8) nb) → (np = 0 ∨ Claim.QueueReads v q (fieldAt bs 56 8) np) →
      Claim.TablesOk g bars wins →
      ∃ t l, exec (.gridPacket q) s = .next t ∧ Claim.QueueFrame s t q ∧ t.queue q = Claim.passed (s.queue q) ∧
        t.launch? s.serial = some l ∧ l.spec = { g with btab := bars, pw := wins } ∧ l.kind = .grid ∧ l.queue = q ∧
        l.asn = (s.queue q).asn ∧ l.part = (s.queue q).part ∧ l.cls = (s.queue q).cls ∧ l.packet = Claim.slotOf (s.queue q) ∧
        l.live = (g.ex * g.ey * g.ez + g.gang - 1) / g.gang ∧ l.done = false ∧ l.error = 0 ∧ t.serial = s.serial + 1 ∧
        ∀ k, k ≠ s.serial → t.launch? k = s.launch? k)) ∧
  ∀ (s : State) (q : Nat), s.nextQueue = some q → (s.queue q).taken = none →
    s.asnOk (s.queue q).part (s.queue q).asn = false →
    ∃ t, exec (.gridPacket q) s = .next t ∧ Claim.TakenAndDone s t q 4

/-- R328, R331, R332, R344: a pattern packet with FENCE waits like a grid packet; a malformed one completes with error 1 and starts
nothing; one at hand whose queue's ASN names no valid entry any more completes with error 4 (shown without a signal); a good one
becomes a launch under the next number, with one launch for each of its program nodes. -/
def Claim.PatternPackets : Prop :=
  (∀ (s : State) (q : Nat) (bs : List Byte), Claim.Takes s q bs → byteAt bs 0 = 2 →
    let fenced := (bs.getD 1 0).getLsbD 0 = true ∧ 1 ≤ (s.queue q).inFlight
    let u := Claim.taken s q
    (fenced → ∃ t, exec (.patternPacket q) s = .next t ∧ Claim.QueueFrame s t q ∧ t.launches = s.launches ∧
      t.queue q = { Claim.passed (s.queue q) with taken := some bs }) ∧
    (¬ fenced → patternMalformed bs = true → ∃ t, exec (.patternPacket q) s = .next t ∧ Claim.TakenAndDone s t q 1) ∧
    (¬ fenced → ∀ v p gs, u.parsePattern (u.queueAcc q) bs = .ok (v, .ok (p, gs)) → p.nodes.length = gs.length →
      ∃ t l x, exec (.patternPacket q) s = .next t ∧ t.queue q = Claim.passed (s.queue q) ∧ t.gangs = s.gangs ∧
        t.launch? s.serial = some l ∧ l.kind = .pattern ∧ l.queue = q ∧ l.asn = (s.queue q).asn ∧ l.part = (s.queue q).part ∧
        l.live = p.nodes.length ∧ l.done = false ∧ l.pattern = some x ∧ x.nrec = p.nrec ∧ x.spools = p.spools ∧
        x.nodes.length = p.nodes.length ∧
        ∀ k n, p.nodes[k]? = some n → ∃ m, x.nodes[k]? = some m ∧ m = { n with lid := m.lid } ∧
          (n.kind = none → ∃ y, t.launch? m.lid = some y ∧ y.kind = .node s.serial k ∧ y.spec = gs.getD k y.spec ∧
            y.live = y.spec.gangs ∧ y.done = false))) ∧
  ∀ (s : State) (q : Nat) (bs : List Byte), s.nextQueue = some q → (s.queue q).taken = some bs → byteAt bs 0 = 2 →
    s.asnOk (s.queue q).part (s.queue q).asn = false → fieldAt bs 96 8 = 0 →
    ∃ t l, exec (.patternPacket q) s = .next t ∧ (t.queue q).taken = none ∧ (t.queue q).qrd = (s.queue q).qrd ∧
      Claim.Completed (s.queue q).qstat (t.queue q).qstat 4 ∧ t.launch? s.serial = some l ∧ l.done = true ∧ l.error = 4 ∧
      t.gangs = s.gangs

/-- R325, R326, R328, R329, R331, R332: queue registers, doorbells and packets. -/
def Obligations.Queues : Prop :=
  Claim.QueueConfigs ∧ Claim.Doorbells ∧ Claim.SimplePackets ∧ Claim.GridPackets ∧ Claim.PatternPackets

/-- R16, R18, R41, R50, R51, R62, R330, R337, R339: the placement of a gang of one workgroup with one wave starts that wave
in its slot: one panel, in entry 0, at the entry address with every lane of the wave; its first four g registers hold
its coordinates, its place, the grid's extents and zero, all others and every lane register zero. -/
def Claim.GangStarts : Prop :=
  ∀ (s u : State) (die lid i slot base : Nat) (l : Launch) (p : CorePlan) (dep : List Byte × Nat),
    s.nextPlacement die = some (lid, i, .start [p]) → s.launch? lid = some l → s.hot = false →
    s.depRead l = .ok (u, dep) → p.slots = [(slot, base, none)] → l.spec.width ≤ 64 →
    let g := l.spec
    ∃ t x, exec (.gangPlacement die lid i) s = .next t ∧ t.gang? s.serial = some x ∧ x.lid = lid ∧ x.index = i ∧
      x.pre = .run ∧ x.done = false ∧ x.wgs = [s.serial + 1] ∧ t.serial = s.serial + 2 ∧
      let w := t.wave (p.core * 64 + slot)
      let q := w.panel 0
      w.alive = true ∧ w.width = g.width ∧ w.regs = g.regs ∧ w.base = base ∧ w.exited = 0 ∧ w.v = [] ∧ w.o = [] ∧ w.p = [] ∧
      (∀ e, e ≠ 0 → (w.panel e).valid = false) ∧
      q.valid = true ∧ q.pc = g.entry ∧ q.status = .run ∧ q.stack = [] ∧ q.frame = none ∧ q.fpc = 0 ∧ q.mcr = 4 ∧ q.s = [] ∧
      (∀ j, j < 64 → q.mask.getLsbD j = decide (j < g.width)) ∧
      (∀ n, q.greg n =
        match n with
        | 0 => let k := i * g.gang
               BitVec.ofNat 64 (k % g.ex + k / g.ex % g.ey * 2 ^ 21 + k / (g.ex * g.ey) * 2 ^ 42)
        | 1 => BitVec.ofNat 64 (i * 2 ^ 40 + (g.nwav - 1) * 2 ^ 12 + g.width)
        | 2 => BitVec.ofNat 64 (g.ex + g.ey * 2 ^ 21 + g.ez * 2 ^ 42)
        | _ => 0) ∧
      ∀ k, k ≠ p.core * 64 + slot → t.wave k = u.wave k

/-- R337, R338: a residency report, once in 4,096 fabric cycles, writes down how many gangs of each grid are ready on its
die, of its current chunk and of those to come (the model's reading: assumption 53, DEDUCED); a steal moves the upper half of the ready gangs of the current chunk of the die that
last reported most to one that has none ready left in the grid and has room, where they stand in ascending order; no wave and no
gang changes. -/
def Claim.ReportsAndSteals : Prop :=
  (∀ (s : State) (die : Nat), die < 4 → Sparse.get 0 s.reported die < s.fab / 4096 →
    ∃ t, exec (.residencyReport die) s = .next t ∧ t = { s with reported := t.reported, launches := t.launches } ∧
      Sparse.get 0 t.reported die = s.fab / 4096 ∧
      ∀ lid l, s.launch? lid = some l → l.kind = .grid → l.done = false → die < l.reports.length →
        ∃ m, t.launch? lid = some m ∧ m = { l with reports := m.reports } ∧ m.reports.getD die 0 = (s.allReady l die).length ∧
          ∀ d, d ≠ die → m.reports.getD d 0 = l.reports.getD d 0) ∧
  ∀ (s : State) (thief victim lid : Nat) (l : Launch), s.launch? lid = some l → thief < 4 → l.kind = .grid → l.done = false →
    s.allReady l thief = [] → mostReady l.reports thief = victim → l.chunks.length = 4 → victim < 4 → thief ≠ victim →
    (s.planGang lid l.spec l.spec.gang (s.openClusters l.part [2 * thief, 2 * thief + 1])).isSome = true →
    let ready := s.readyGangs l victim
    let got := ready.drop (ready.length - ready.length / 2)
    ∃ t m, exec (.stealMessage thief victim lid) s = .next t ∧ t = { s with launches := t.launches } ∧
      t.launch? lid = some m ∧ m = { l with chunks := m.chunks } ∧
      ((m.chunks.getD thief (0, [])).2.Perm ((l.chunks.getD thief (0, [])).2 ++ got)) ∧
      (m.chunks.getD thief (0, [])).2.Pairwise (· ≤ ·) ∧
      (∀ g, g ∈ (m.chunks.getD victim (0, [])).2 ↔ g ∈ (l.chunks.getD victim (0, [])).2 ∧ g ∉ got) ∧
      (∀ d, d ≠ thief → d ≠ victim → m.chunks.getD d (0, []) = l.chunks.getD d (0, [])) ∧
      ∀ k, k ≠ lid → t.launch? k = s.launch? k

/-- R259, R333, R336, R410: a pattern that would not fit on empty clusters completes with error 2, one whose program nodes depend on a
producer with an error with error 0x20 (the model's choice for the pattern as a whole: assumption 103), and starts nothing. One that
fits, with all its dependences met, is placed whole: its nodes' gangs and instances and its spools are there, its node records are
written, and as many nodes and instances are live. -/
def Claim.PatternPlacements : Prop :=
  ∀ (s : State) (lid : Nat) (l : Launch) (p : PatternSpec), s.launch? lid = some l → l.pattern = some p → l.kind = .pattern →
    l.placed = false → l.done = false → l.held = none → s.hot = false →
    (l.writes = [] → l.signalled = false → l.spec.signal = 0 → s.emptied.placeWhole lid l p = none →
      ∃ t m, exec (.patternPlacement lid) s = .next t ∧ t.launch? lid = some m ∧ m.done = true ∧ m.error = 2 ∧
        t.waves = s.waves ∧ t.gangs = s.gangs) ∧
    ∀ u, (s.emptied.placeWhole lid l p).isSome = true →
      (s.nodesReady p.nodes = .ok (u, true) → l.writes = [] → l.signalled = false → l.spec.signal = 0 →
        u.launch? lid = some l →
        ∃ t m, exec (.patternPlacement lid) s = .next t ∧ t.launch? lid = some m ∧ m.done = true ∧ m.error = 0x20 ∧
          t.waves = u.waves ∧ t.gangs = u.gangs) ∧
      (∀ v w fixed made, s.nodesReady p.nodes = .ok (u, false) → u.placeWhole lid l p = some (v, fixed, made) → v.tilesFit p = true →
        v.spoolFails lid = none → v.agentWrite (v.launchAcc l) p.nrec (v.nodeRecords p fixed made) = .ok w →
        ∃ t m, exec (.patternPlacement lid) s = .next t ∧ t = { w with launches := t.launches } ∧ t.launch? lid = some m ∧
          m = { l with placed := true, live := (p.nodes.filter fun n => n.kind.isNone).length + fixed.length } ∧
          ∀ k, k ≠ lid → t.launch? k = w.launch? k)

/-- R16, R18, R41, R50, R51, R62, R330, R333, R337-R339: distribution and placement. -/
def Obligations.Placements : Prop := Claim.GangStarts ∧ Claim.ReportsAndSteals ∧ Claim.PatternPlacements

namespace Sys2Proof.Claim

/-- R308, R311: a command of operation `op` that port `p`, not busy, takes: its entry is 0-7, or 15 where that means every
entry, and its wave is a live one of the partition. -/
structure Commands (s : State) (p op : Nat) (cmd : DWord) (every : Bool) : Prop where
  port : p < 8
  op : cmd.toNat / 2 ^ 60 = op
  free : (s.part p).dbgstat.getLsbD 0 = false
  entry : cmd.toNat / 2 ^ 56 % 16 < 8 ∨ every = true ∧ cmd.toNat / 2 ^ 56 % 16 = 15
  wave : s.waveOf p (cmd.toNat / 2 ^ 32 % 2 ^ 15) = true

/-- The panel-table entry that a command names. -/
def debugTarget (cmd : DWord) : Cur := { wid := cmd.toNat / 2 ^ 32 % 2 ^ 15, entry := cmd.toNat / 2 ^ 56 % 16, len := 1 }

/-- R311: the named panel is in STOP. -/
def Stopped (s : State) (c : Cur) : Prop := (s.panel c).valid = true ∧ (s.panel c).status = .stop

/-- R308, R311: DBGSTAT of port `p` becomes `st`; of the port nothing else changes but its data and the stops that it awaits,
and of the waves only `wid`. -/
structure PortOnly (s t : State) (p wid : Nat) (st : DWord) : Prop where
  rest : t = { s with waves := t.waves, regs := { s.regs with parts := t.regs.parts } }
  parts : ∀ q, q ≠ p → t.part q = s.part q
  port : t.part p = { s.part p with dbgstat := st, dbgdata := (t.part p).dbgdata, stops := (t.part p).stops }
  waves : ∀ w, w ≠ wid → t.wave w = s.wave w

/-- R311, R312: a command that brings `x` into DBGDATA is done. -/
def Fetched (s t : State) (p : Nat) (x : DWord) : Prop :=
  t = s.setPart p { s.part p with dbgdata := x, dbgstat := 2 }

/-- R148, R312: the value of the register that SEL names: registers held per lane only in the panel's own quads, v registers only
below the wave's count. -/
def debugSelected (s : State) (c : Cur) (lane sel : Nat) : Option DWord :=
  let w := s.curWave c
  let q := s.panel c
  let mine := fun (x : DWord) => if q.qmask.getLsbD (lane / 4) then some x else none
  if sel < 0xC0 then (if sel < w.regs then mine (((w.vreg sel).getD lane 0).setWidth 64) else none)
  else if sel < 0xD0 then mine (((w.oreg (sel - 0xC0)).getD lane 0).setWidth 64)
  else if sel < 0xD4 then mine ((w.latchVec (sel - 0xD0)).getD lane 0)
  else if sel < 0xE0 then none
  else if sel < 0x100 then some (q.greg (sel - 0xE0))
  else if sel < 0x108 then mine (if (w.pred (sel - 0x100)).getLsbD lane then 1 else 0)
  else if sel < 0x200 then none
  else if sel < 0x204 then some (if q.gp.getLsbD (sel - 0x200) then 1 else 0)
  else if sel < 0x300 then none
  else if sel < 0x307 then some (q.readControl (s.curWg c).tba (sel - 0x300))
  else if sel < 0x400 then none
  else if sel < 0x410 then some (BitVec.ofNat 64 ((q.format ((sel - 0x400) / 2)).toNat / 2 ^ (64 * (sel % 2))))
  else if sel < 0x500 then none
  else if sel < 0x550 then some (BitVec.ofNat 64 ((q.stream ((sel - 0x500) / 10)).word / 2 ^ (64 * ((sel - 0x500) % 10))))
  else if sel = 0x600 then some q.mask
  else none

/-- R311: the entries that STOP and RESUME name. -/
def named (w : Wave) (e : Nat) : List Nat := (List.range 8).filter fun k => (w.panel k).valid && (e == 15 || k == e)

end Sys2Proof.Claim

/-- R308, R311: each command is ignored with ERR 5 while BUSY; a reserved entry gives ERR 3, no live wave of the
partition ERR 1; READ, WRITE, WRPC and STEP of a panel that is not in STOP give ERR 2. -/
def Claim.CommandErrors : Prop :=
  ∀ (p : Nat) (cmd : DWord) (s : State), p < 8 →
    (∀ x ∈ [(0, Instr.dbgStop, true), (1, .dbgResume, true), (2, .dbgStep, false), (3, .dbgRead, false), (4, .dbgWrite, false),
        (5, .dbgReadpt, false), (6, .dbgWrpc, false), (7, .dbgReadcnt, false)], cmd.toNat / 2 ^ 60 = x.1 →
      let e := cmd.toNat / 2 ^ 56 % 16
      let gives := fun (st : DWord) => exec (x.2.1 p cmd) s = .next (s.setPart p { s.part p with dbgstat := st })
      let reserved := 8 ≤ e ∧ ¬ (x.2.2 = true ∧ e = 15)
      ((s.part p).dbgstat.getLsbD 0 = true → gives 0x51) ∧
      ((s.part p).dbgstat.getLsbD 0 = false → reserved → gives 0x30) ∧
      ((s.part p).dbgstat.getLsbD 0 = false → ¬ reserved → s.waveOf p (cmd.toNat / 2 ^ 32 % 2 ^ 15) = false → gives 0x10)) ∧
    ∀ x ∈ [(2, Instr.dbgStep), (3, .dbgRead), (4, .dbgWrite), (6, .dbgWrpc)], Claim.Commands s p x.1 cmd false →
      ¬ Claim.Stopped s (Claim.debugTarget cmd) →
      exec (x.2 p cmd) s = .next (s.setPart p { s.part p with dbgstat := 0x20 })

/-- R309, R311: STOP asks every named panel that is not in STOP to stop, and the port stays BUSY for them; with none left to
stop it is done, with no panel in a named entry ERR 2. -/
def Claim.StopCommands : Prop :=
  ∀ (p : Nat) (cmd : DWord) (s : State), Claim.Commands s p 0 cmd true →
    let c := Claim.debugTarget cmd
    let w := s.wave c.wid
    let es := Claim.named w c.entry
    let left := es.filter fun k => (w.panel k).status != .stop
    (es = [] → exec (.dbgStop p cmd) s = .next (s.setPart p { s.part p with dbgstat := 0x20 })) ∧
    (es ≠ [] → left = [] → exec (.dbgStop p cmd) s = .next (s.setPart p { s.part p with dbgstat := 2 })) ∧
    (left ≠ [] → ∃ t, exec (.dbgStop p cmd) s = .next t ∧ Claim.PortOnly s t p c.wid 1 ∧
      (t.part p).dbgdata = (s.part p).dbgdata ∧ (t.part p).stops = (s.part p).stops ++ left.map (fun k => (c.wid, k)) ∧
      t.wave c.wid = { w with panels := (t.wave c.wid).panels } ∧
      ∀ k, (t.wave c.wid).panel k =
        if k ∈ left then { w.panel k with stopAsked := (w.panel k).stopAsked.or (some none) } else w.panel k)

/-- R309, R310: a stop completes once the panel's results are written and it waits for nothing but a seam, a forced fuse or a barrier: it
is in STOP, with its wait kept and WAITCT frozen, and the last stop that a port awaits makes its command done, also where a command was
ignored in the meantime, whose ERR 5 stays; an entry whose panel has gone, though another may have taken its place, gives ERR 2. (The ERR
values of these two cases are the model's reading: assumption 72, DEDUCED.) -/
def Claim.StopsComplete : Prop :=
  (∀ (wid e : Nat) (code : Option Byte) (s : State),
    let w := s.wave wid
    let q := w.panel e
    let p := (s.laneAcc { wid := wid, entry := e, len := 1 }).part
    w.alive = true → q.valid = true → q.stopAsked = some code → q.status ≠ .stop → q.outst = [] →
    (q.wait = none ∨ q.status = .ffw ∨ q.status = .barw) →
    ∃ t, exec (.stopComplete wid e) s = .next t ∧
      (t.wave wid).panel e = { q with status := .stop, under := q.status, waitct := q.waitCount s.cycle, stepping := false } ∧
      t.wave wid = { w with panels := (t.wave wid).panels } ∧ (∀ k, k ≠ e → (t.wave wid).panel k = w.panel k) ∧
      (∀ v, v ≠ wid → t.wave v = s.wave v) ∧
      ((s.part p).stops = [(wid, e)] → (s.part p).dbgstat = 1 → (t.part p).stops = [] ∧ (t.part p).dbgstat = 2) ∧
      ((s.part p).stops = [(wid, e)] → (s.part p).dbgstat = 0x51 → (t.part p).stops = [] ∧ (t.part p).dbgstat = 0x52) ∧
      ((wid, e) ∉ (s.part p).stops → (t.part p).stops = (s.part p).stops ∧ (t.part p).dbgstat = (s.part p).dbgstat ||| 2)) ∧
  ∀ (wid e p : Nat) (s : State),
    let q := (s.wave wid).panel e
    ((s.wave wid).alive = false ∨ q.valid = false ∨ q.stopAsked = none ∧ q.stepping = false) → p < 8 →
    (s.part p).stops = [(wid, e)] → (s.part p).dbgstat = 1 → (∀ k, k < 8 → k ≠ p → (wid, e) ∉ (s.part k).stops) →
    ∃ t, exec (.stopComplete wid e) s = .next t ∧ Claim.PortOnly s t p wid 0x20 ∧ t.waves = s.waves ∧ (t.part p).stops = []

/-- R310, R311: RESUME of a stopped panel returns it to the state that it left, behind a captured `bkpt`; STEP does so for one
instruction, with the port BUSY until the panel has stopped again. A panel that waited neither at a seam nor in a forced fuse does not
meet its siblings by it. (How a resumed panel meets its siblings: assumption 72, DEDUCED.) -/
def Claim.Resumptions : Prop :=
  ∀ (p : Nat) (cmd : DWord) (s : State),
    let c := Claim.debugTarget cmd
    let q := s.panel c
    let back := fun (r : Panel) =>
      r.status = q.under ∧ r.since = s.cycle - q.waitct ∧ r.stopAsked = none ∧ r.mask = q.mask ∧ r.qmask = q.qmask ∧
      r.stack = q.stack ∧ r.frame = q.frame ∧ r.g = q.g ∧ r.gp = q.gp ∧ r.s = q.s ∧ r.fb = q.fb ∧ r.wait = q.wait ∧
      r.pc = (match q.stopAsked with
        | some (some _) => (q.pc + 4) % 2 ^ 57
        | _ => q.pc)
    Claim.Stopped s c → c.entry < 8 →
    (Claim.Commands s p 1 cmd true →
      (q.under ≠ .ffw → q.under ≠ .seamw → ∃ t, exec (.dbgResume p cmd) s = .next t ∧ Claim.PortOnly s t p c.wid 2 ∧
        PanelOnly s { t with regs := s.regs } c ∧ back (t.panel c) ∧ (t.panel c).stepping = q.stepping) ∧
      (q.under = .ffw ∨ q.under = .seamw →
        exec (.dbgResume p cmd) s = .next ((s.resumePanel c).setPart p { (s.resumePanel c).part p with dbgstat := 2 }))) ∧
    (Claim.Commands s p 2 cmd false → q.under ≠ .ffw → q.under ≠ .seamw →
      ∃ t, exec (.dbgStep p cmd) s = .next t ∧ Claim.PortOnly s t p c.wid 1 ∧ PanelOnly s { t with regs := s.regs } c ∧
        back (t.panel c) ∧ (t.panel c).stepping = true ∧ (t.part p).stops = (s.part p).stops ++ [(c.wid, c.entry)])

/-- R308, R311, R312, R314, R18: READ brings the register that SEL names into DBGDATA, and gives ERR 3 for any other value; READPT
brings half of the entry's 128 bits, READCNT a stall counter, and with SEL[15] their mirrors. -/
def Claim.DebugReads : Prop :=
  ∀ (p : Nat) (cmd : DWord) (s : State),
    let c := Claim.debugTarget cmd
    let sel := cmd.toNat % 2 ^ 16
    let mirrored := sel / 2 ^ 15 = 1
    (Claim.Commands s p 3 cmd false → Claim.Stopped s c →
      (∀ x, Claim.debugSelected s c (cmd.toNat / 2 ^ 50 % 64) sel = some x →
        ∃ t, exec (.dbgRead p cmd) s = .next t ∧ Claim.Fetched s t p x) ∧
      (Claim.debugSelected s c (cmd.toNat / 2 ^ 50 % 64) sel = none →
        exec (.dbgRead p cmd) s = .next (s.setPart p { s.part p with dbgstat := 0x30 }))) ∧
    (Claim.Commands s p 5 cmd false →
      (sel % 2 ^ 15 < 2 → ∃ t, exec (.dbgReadpt p cmd) s = .next t ∧ Claim.Fetched s t p
        (BitVec.ofNat 64 ((if mirrored then ((Sparse.find s.mirror.tables c.wid).getD []).getD c.entry 0
          else (s.panel c).word s.cycle).toNat / 2 ^ (64 * (sel % 2))))) ∧
      (2 ≤ sel % 2 ^ 15 → exec (.dbgReadpt p cmd) s = .next (s.setPart p { s.part p with dbgstat := 0x30 }))) ∧
    (Claim.Commands s p 7 cmd false → ∃ t, exec (.dbgReadcnt p cmd) s = .next t ∧ Claim.Fetched s t p
      ((if mirrored then ((Sparse.find s.mirror.stalls c.wid).getD []).getD (sel % 16) 0
        else Sparse.get 0 (s.wave c.wid).stalls (sel % 16)).setWidth 64))

/-- R18: the fields of a panel-table entry; one without a panel is zero. -/
def Claim.PanelEntries : Prop :=
  ∀ (q : Panel) (now : Nat),
    let x := (q.word now).toNat
    (q.valid = false → x = 0) ∧
    (q.valid = true → q.pc % 4 = 0 → q.pc < 2 ^ 57 → q.stack.length < 32 →
      x / 2 ^ 73 = q.pc / 4 ∧ x / 2 ^ 69 % 2 = q.frame.isSome.toNat ∧ x / 2 ^ 64 % 2 ^ 5 = q.stack.length ∧
      x / 2 ^ 48 % 2 ^ 16 = q.qmask.toNat ∧ x / 2 ^ 44 % 2 ^ 4 = q.stateCode ∧ x / 2 ^ 41 % 2 ^ 3 = q.seamk.toNat ∧
      x / 2 ^ 29 % 2 ^ 12 = q.seamid.toNat ∧ x / 2 ^ 10 % 2 ^ 19 = q.waitCount now ∧ x / 2 ^ 8 % 2 ^ 2 = q.origin.toNat ∧
      x / 2 ^ 4 % 2 ^ 4 = q.stall.toNat ∧ x / 2 ^ 3 % 2 = 1 ∧ x / 2 ^ 2 % 2 = q.iss.toNat ∧ x % 4 = 0)

/-- R311, R312: WRITE takes the low bits of DBGDATA into the named register of a stopped panel, in the named lane where the
register is held per lane; latches, streams, the mask and the other control registers give ERR 4. WRPC sets the PC and clears %px:
the panel waits for nothing any more. -/
def Claim.DebugWrites : Prop :=
  ∀ (p : Nat) (cmd : DWord) (s : State),
    let c := Claim.debugTarget cmd
    let w := s.wave c.wid
    let q := s.panel c
    let sel := cmd.toNat % 2 ^ 16
    let lane := cmd.toNat / 2 ^ 50 % 64
    let x := (s.part p).dbgdata
    Claim.Stopped s c →
    (Claim.Commands s p 4 cmd false →
      let named := (Claim.debugSelected s c lane sel).isSome = true
      let latches := 0xD0 ≤ sel ∧ sel < 0xD4
      let fixed := 0x302 ≤ sel ∧ sel < 0x307 ∨ 0x500 ≤ sel
      (¬ named → exec (.dbgWrite p cmd) s = .next (s.setPart p { s.part p with dbgstat := 0x30 })) ∧
      (named → latches ∨ fixed → exec (.dbgWrite p cmd) s = .next (s.setPart p { s.part p with dbgstat := 0x40 })) ∧
      (named → ¬ latches → ¬ fixed →
        ∃ t, exec (.dbgWrite p cmd) s = .next t ∧ Claim.PortOnly s t p c.wid 2 ∧
          t.wave c.wid = { w with
            v := (t.wave c.wid).v, o := (t.wave c.wid).o, p := (t.wave c.wid).p, panels := (t.wave c.wid).panels } ∧
          (∀ r j, j < 64 → ((t.wave c.wid).vreg r).getD j 0 =
            if sel = r ∧ r < 0xC0 ∧ j = lane then x.setWidth 32 else (w.vreg r).getD j 0) ∧
          (∀ r j, j < 64 → ((t.wave c.wid).oreg r).getD j 0 =
            if sel = 0xC0 + r ∧ r < 16 ∧ j = lane then x.setWidth 32 else (w.oreg r).getD j 0) ∧
          (∀ r j, j < 64 → ((t.wave c.wid).pred r).getLsbD j =
            if sel = 0x100 + r ∧ r < 8 ∧ j = lane then x.getLsbD 0 else (w.pred r).getLsbD j) ∧
          (∀ e, e ≠ c.entry → (t.wave c.wid).panel e = w.panel e) ∧
          t.panel c = { q with
            g := (t.panel c).g, gp := (t.panel c).gp, fb := (t.panel c).fb, fpc := (t.panel c).fpc, mcr := (t.panel c).mcr } ∧
          (∀ n, (t.panel c).greg n = if sel = 0xE0 + n ∧ n < 32 then x else q.greg n) ∧
          (∀ n, n < 4 → (t.panel c).gp.getLsbD n = if sel = 0x200 + n then x.getLsbD 0 else q.gp.getLsbD n) ∧
          (∀ k, (t.panel c).format k =
            if sel = 0x400 + 2 * k ∧ k < 8 then ((q.format k >>> 64).setWidth 64 ++ x) &&& formatMask
            else if sel = 0x401 + 2 * k ∧ k < 8 then (x ++ (q.format k).setWidth 64) &&& formatMask
            else q.format k) ∧
          (t.panel c).fpc = (if sel = 0x300 then x.setWidth 32 &&& 0x7FFFF else if sel = 0x301 ∧ x.toNat % 4 = 3 then q.fpc ||| fINV
            else q.fpc) ∧
          (t.panel c).mcr = (if sel ≠ 0x301 then q.mcr else if x.toNat % 4 = 3 then x.setWidth 32 &&& 0x10C ||| q.mcr &&& 3
            else x.setWidth 32 &&& 0x10F))) ∧
    (Claim.Commands s p 6 cmd false →
      ∃ t, exec (.dbgWrpc p cmd) s = .next t ∧ Claim.PortOnly s t p c.wid 2 ∧
        (s.inMmq c = false → PanelOnly s { t with regs := s.regs } c) ∧
        t.panel c = { q with
          pc := x.toNat % 2 ^ 57 / 4 * 4, clause := none, px := 0, hpx := 0, mmq := if s.inMmq c then none else q.mmq
          wait := none, under := .run, stopAsked := some none })

/-- R315-R318: with SAMPEN a core's sample falls due when its die's fabric cycles come, in a core cycle, to a multiple of the period: of
its live waves in turn, and of a wave's valid entries in turn, one is sampled; a core with no live wave writes nothing. In any other
cycle, and a second time in one, it does nothing. -/
def Claim.TraceSamples : Prop :=
  ∀ (core p : Nat) (s : State), core < 388 → s.corePart core = some p → (s.part p).dbgctl.getLsbD 3 = true →
    let period := 2 ^ ((s.part p).dbgctl.toNat / 2 ^ 4 % 2 ^ 4 + 10)
    let now := s.fabric (if core < 384 then core / 96 else 4)
    let m := Sparse.get Sampler.reset s.samplers core
    (s.fabStep ≤ now % period ∨ now / period = m.last / period → exec (.traceSample core) s = .next s) ∧
    (now % period < s.fabStep → now / period ≠ m.last / period →
    let live := (List.range 64).filter fun k => (s.wave (core * 64 + k)).alive
    ∃ t, exec (.traceSample core) s = .next t ∧ t.waves = s.waves ∧
      let n := Sparse.get Sampler.reset t.samplers core
      n.last = now ∧ (∀ k, k ≠ core → Sparse.get Sampler.reset t.samplers k = Sparse.get Sampler.reset s.samplers k) ∧
      (live = [] → t = { s with samplers := t.samplers } ∧ n = { m with last := now }) ∧
      ∀ k, k ∈ live → (∀ i ∈ live, i ≤ m.slot) → (∀ i ∈ live, k ≤ i) → ∀ e, e < 8 →
        let q := (s.wave (core * 64 + k)).panel e
        q.valid = true → (∀ i, i < 8 → ((s.wave (core * 64 + k)).panel i).valid = true → i ≤ e) →
        (∀ i, i < e → ((s.wave (core * 64 + k)).panel i).valid = true → i ≤ Sparse.get 8 m.entries k) → Sparse.get 8 m.entries k < e →
        n.slot = k ∧ Sparse.get 8 n.entries k = e ∧
        t = { s.traceRecord p 0x01 q.stall.toNat (dieByte core) (panelBlock (core * 64 + k) e q.stateCode q.qmask.toNat q.pc) 1 with
          samplers := t.samplers })

/-- R321, R322: once space exists the gap entry of a log is written: its place and its number in the log are used, and no gap is
left. -/
def Claim.LogGaps : Prop :=
  ∀ (p first : Nat) (s : State), p < 8 → (s.part p).logGap = some first → 16 ≤ logFree (s.part p) → (s.part p).logsize.toNat ≤ 65536 →
    ∃ t, exec (.logGapEntry p) s = .next t ∧ (t.part p).logGap = none ∧ (t.part p).logseq = (s.part p).logseq + 1 ∧
      (t.part p).loghead.toNat = ((s.part p).loghead.toNat + 16) % ((s.part p).logsize.toNat * 4096) ∧ t.waves = s.waves ∧
      ∀ q, q ≠ p → t.part q = s.part q

namespace Sys2Proof.Claim

/-- Entry k of a partition's log is the next that a wave in replay mode takes for an outcome: the first that records one of that kind
of it, an atomic's of that lane, and that it has not taken, with no gap before it (the model's choice: assumption 22). -/
def nextLogged (s : State) (p wid lane kind k : Nat) : Prop :=
  let whole := fun (k : Nat) => s.logRead p k ≠ [] ∧ fieldAt (s.logRead p k) 7 1 ≠ 4
  let fits := fun (k : Nat) => fieldAt (s.logRead p k) 4 2 = wid ∧ fieldAt (s.logRead p k) 7 1 = kind ∧
    (kind = 1 → fieldAt (s.logRead p k) 6 1 = lane) ∧ k ∉ (s.part p).replay
  k < (s.part p).logsize.toNat * 256 ∧ whole k ∧ fits k ∧ ∀ j, j < k → whole j ∧ ¬ fits j

end Sys2Proof.Claim

/-- R321, R322: an outcome outside replay mode is the value observed, in replay mode the value that the next entry of it in the log
has, taken once (the model's choice of that entry: assumption 22), and the value observed where the log has none. With LOGEN = 1 and
no gap due, the outcome is appended where 16 bytes are free: the sequence number, WID, lane, kind and value at LOGHEAD, which moves
on by 16; else it is dropped, and the gap due begins with its number. With LOGEN = 0 nothing is logged. -/
def Claim.LoggedOutcomes : Prop :=
  (∀ (s : State) (c : Cur) (lane kind : Nat) (v : DWord),
    let p := (s.laneAcc c).part
    let r := s.outcome c lane kind v
    p < 8 →
    (s.replaying c = false → r.2 = v ∧ r.1 = s.logAppend p c.wid lane kind v) ∧
    (s.replaying c = true →
      (∀ k, Claim.nextLogged s p c.wid lane kind k →
        r.2 = BitVec.ofNat 64 (fieldAt (s.logRead p k) 8 8) ∧ k ∈ (r.1.part p).replay) ∧
      ((∀ k, ¬ Claim.nextLogged s p c.wid lane kind k) → r.2 = v))) ∧
  ∀ (s : State) (p wid lane kind : Nat) (v : DWord), p < 8 → (s.part p).logsize.toNat ≤ 65536 →
    let x := s.part p
    let size := x.logsize.toNat * 4096
    let slot := x.logbase.toNat + x.loghead.toNat % size
    let t := s.logAppend p wid lane kind v
    (x.dbgctl.getLsbD 9 = false → t = s) ∧
    (x.dbgctl.getLsbD 9 = true → x.logGap = none → logFree x < 16 →
      t = s.setPart p { x with logseq := x.logseq + 1, logGap := some x.logseq }) ∧
    (x.dbgctl.getLsbD 9 = true → x.logGap = none → 16 ≤ logFree x →
      t.part p = { x with logseq := x.logseq + 1, loghead := BitVec.ofNat 64 ((x.loghead.toNat + 16) % size) } ∧
      t.waves = s.waves ∧ (∀ q, q ≠ p → t.part q = s.part q) ∧
      ∀ e pa, slot % 16 = 0 → s.translate (s.ringAcc p) slot .write = .ok (.leaf e pa) → ptePeer e = false →
        ∀ k, k < 16 → t.readKeyed (pteKey e) (pa + k) =
          (toBytes 4 (x.logseq % 2 ^ 32) ++ toBytes 2 wid ++ toBytes 1 lane ++ toBytes 1 kind ++ toBytes 8 v.toNat).getD k 0)

/-- R323: FIRE with ARM set before the write (the model's reading: assumption 73, DEDUCED) fires the strobe: every block's registers and
the panel tables and stall counters of the live waves stand in the mirror, and ARM is cleared; without ARM it leaves the mirror, and takes
the ARM that it writes. -/
def Claim.Mirrors : Prop :=
  ∀ (p : Nat) (v : DWord) (s : State), p < 8 → v.getLsbD 1 = true →
    ∃ t, exec (.mirrorStrobe p v) s = .next t ∧ t.waves = s.waves ∧
      ((s.part p).mirctl.getLsbD 0 = true → (t.part p).mirctl = 0 ∧ t.mirror.regs = s.regs ∧
        (∀ w, (s.wave w).alive = true →
          (∃ l, (w, l) ∈ t.mirror.tables ∧ ∀ e, e < 8 → l.getD e 0 = ((s.wave w).panel e).word s.cycle) ∧
          ∃ l, (w, l) ∈ t.mirror.stalls ∧ ∀ k, k < 16 → l.getD k 0 = Sparse.get 0 (s.wave w).stalls k)) ∧
      ((s.part p).mirctl.getLsbD 0 = false → t = s.setPart p { s.part p with mirctl := v &&& 1 })

/-- R18, R308-R312, R314, R317, R321, R322, R323: the debug port, samples, the log and replay from it, and the mirror. It rests on
assumptions 22, 72 and 73. -/
def Obligations.Debugging : Prop :=
  Claim.CommandErrors ∧ Claim.StopCommands ∧ Claim.StopsComplete ∧ Claim.Resumptions ∧ Claim.DebugReads ∧ Claim.PanelEntries ∧
  Claim.DebugWrites ∧ Claim.TraceSamples ∧ Claim.LogGaps ∧ Claim.LoggedOutcomes ∧ Claim.Mirrors

/-- R47, R104, R38, R367, R368, R404: a write of EN = 1 to a head by one who may: ERR 1 for a reserved or impossible field, ERR 2 for a
timing that does not fit, both leaving EN 0; else line 0 of the lead-in begins, with no frame, no descriptor and no band. An idle
module wakes in each case. The link's payload by RATE and LANES is the family's, DisplayPort 2.1 (assumption 32). A write of EN = 0 that leaves the
other fields makes the head stop at its frame's end, any other does nothing. -/
def Claim.HeadSwitches : Prop :=
  ∀ (who : Writer) (h : Nat) (val : DWord) (s : State), h < 8 →
    let x := s.head h
    let may := who = .firmware ∨ who = .owner (x.hctl.toNat / 2 ^ 18 % 8)
    let f := fun n w => val.toNat / 2 ^ n % 2 ^ w
    let k := fun n w => x.kcfg.toNat / 2 ^ n % 2 ^ w
    let m := fun n => x.htim.toNat / 2 ^ n % 2 ^ 16
    let reserved := f 16 2 = 3 ∨ 7 ≤ f 8 4 ∨ f 6 2 = 3 ∨ f 24 8 < 2 ∨ 64 < f 24 8 ∨ 7 ≤ x.fdcfg.toNat / 2 ^ 16 % 16 ∨
      4 < k 0 3 ∨ k 12 8 = 0 ∨ 192 < k 12 8 ∨ k 12 8 % 8 ≠ 0 ∨ 1024 < (k 8 4 + 1) * (4 * 2 ^ k 0 3) ∨
      1024 < k 32 16 ∨ 768 < k 48 16 ∨ 512 < k 22 10
    let bits := if val.getLsbD 12 then 12 else 3 * (8 + 2 * f 16 2)
    let misfit := m 0 % 8 ≠ 0 ∨ m 0 < 64 ∨ 7680 < m 0 ∨ m 32 % 32 ≠ 0 ∨ m 32 < 64 ∨ 8192 < m 32 ∨ m 16 < m 0 + 32 ∨
      m 48 < m 32 + f 24 8 + 1 ∨
      (val.getLsbD 1 = false ∧ linkPayload (f 8 4) (f 6 2) < x.pclk.toNat % 2 ^ 32 * bits * 132)
    (val.getLsbD 0 = true → x.hctl.getLsbD 0 = false →
      (¬ may → exec (.headEnable who h val) s = .next s) ∧
      (may → ∃ t, exec (.headEnable who h val) s = .next t ∧ (∀ q, q ≠ h → t.head q = s.head q) ∧
        t = { s with stage := t.stage, regs := { s.regs with heads := t.regs.heads, ident := t.regs.ident } } ∧
        t.stage = (if s.stage = 7 then 1 else s.stage) ∧
        (reserved → t.head h = { x with hctl := (t.head h).hctl, err := 1 } ∧ (t.head h).hctl.getLsbD 0 = false) ∧
        (¬ reserved → misfit → t.head h = { x with hctl := (t.head h).hctl, err := 2 } ∧ (t.head h).hctl.getLsbD 0 = false) ∧
        (¬ reserved → ¬ misfit →
          t.head h = { x with
            hctl := (t.head h).hctl, err := 0, line := 0, frame := 0xFFFFFFFF, leadIn := true, running := true, stopping := false
            desc := none, next := none, nextTaken := false, repeating := false, descError := false, nextRepeat := false
            nextError := false, underrun := false, started := false, recorded := false, failed := [], nextFailed := []
            bands := [], nextBands := [], sources := [], sent := [] } ∧
          (t.head h).hctl.getLsbD 0 = true ∧
          (t.head h).hctl.toNat / 2 ^ 18 % 8 = (if who = .firmware then f 18 3 else x.hctl.toNat / 2 ^ 18 % 8)))) ∧
    (val.getLsbD 0 = false → x.hctl.getLsbD 0 = true →
      (may → hctlKept who x.hctl val = x.hctl &&& ~~~ 1#64 → exec (.headDisable who h val) s =
        .next (s.setHead h { x with hctl := x.hctl &&& ~~~ 1#64, stopping := true })) ∧
      (¬ may ∨ hctlKept who x.hctl val ≠ x.hctl &&& ~~~ 1#64 → exec (.headDisable who h val) s = .next s))

/-- R372, R373: at the take point of the next frame a head takes the descriptor at FDRD if one is announced, and one that passes R372 is
the next frame's; with none announced, with more announced than the ring holds (ERR 3), or with one that fails, the next frame is a repeat
frame. -/
def Claim.TakePoints : Prop :=
  ∀ (h : Nat) (s : State), h < 8 →
    let x := s.head h
    let slots := 2 ^ (x.fdcfg.toNat / 2 ^ 16 % 16 + 2)
    let waiting := (x.fdann - x.fdrd).toNat
    x.running = true → x.nextTaken = false → (x.leadIn = true ∨ 32 ≤ x.line) →
    (waiting = 0 → exec (.descriptorTake h) s =
      .next (s.setHead h { x with nextTaken := true, next := none, nextRepeat := true, nextError := false })) ∧
    (slots < waiting → exec (.descriptorTake h) s =
      .next (s.setHead h { x with nextTaken := true, next := none, nextRepeat := true, nextError := false, err := 3 })) ∧
    (0 < waiting → waiting ≤ slots → ∀ u d, s.takeDesc h (x.fdbase.toNat + 128 * (x.fdrd.toNat % slots)) = (u, d) →
      ∃ t, exec (.descriptorTake h) s = .next t ∧ t = { u with regs := { u.regs with heads := t.regs.heads } } ∧
        (∀ q, q ≠ h → t.head q = u.head q) ∧
        t.head h = { x with
          fdrd := x.fdrd + 1, nextTaken := true, next := d, nextRepeat := d.isNone, nextError := d.isNone })

/-- R374-R378: a band whose deadline scan-out reaches, with no code yet, gets one, after the sequencer has looked at its frames' error
words (R375): 0 where its gang has retired, 1 where the
mode has a fixed filter and its inputs are complete, else 2; a gang that has not retired is killed, and one that has ended early
counts as killed. -/
def Claim.BandDeadlines : Prop :=
  ∀ (h b : Nat) (s : State) (next : Bool) (d : FrameDesc) (y : Band), h < 8 →
    let u := s.noteFailures h
    let x := u.head h
    x.running = true → b < x.vact / 32 → x.target b = some (next, d, y) → byteAt d.bytes 0 % 4 ≠ 0 → y.code = none →
    x.reached next b = true →
    (y.published = true → exec (.bandDeadline h b) s = .next (u.setHead h (x.setBand next b { y with code := some 0 }))) ∧
    (y.published = false →
      let fixed := byteAt d.bytes 0 % 4 = 1 ∧ u.ready0 h b next d = true ∨
        byteAt d.bytes 0 % 4 = 3 ∧ u.ready0 h b next d = true ∧ u.ready1 h b next d = true
      ∃ t z, exec (.bandDeadline h b) s = .next t ∧ t.head h = x.setBand next b z ∧ z.launch = y.launch ∧ z.published = false ∧
        (fixed → z.code = some 1) ∧ (¬ fixed → z.code = some 2) ∧
        (z.killed = true ↔ y.launch ≠ none) ∧ (y.launch = none → t = u.setHead h (t.head h)) ∧
        ∀ lid gid g, Sparse.ordered s.gangs = true → y.launch = some lid → s.gang? gid = some g → g.lid = lid → g.done = false →
          (∀ k g', s.gang? k = some g' → g'.lid = lid → g'.done = false → k = gid) →
          ∃ g', t.gang? gid = some g' ∧ g'.done = true)

/-- R375, R377, R403: a band that can be launched, with none before it and no heat that keeps new gangs back, starts as one gang of the head's shape: a launch of its own
in the head's address space and partition, which the band remembers; each of the gang's waves starts at the descriptor's
ENTRY with its workgroup's place in g0 and the descriptor's address in g3. -/
def Claim.BandLaunches : Prop :=
  ∀ (h b : Nat) (s : State) (next : Bool) (d : FrameDesc) (y : Band) (p : CorePlan) (slot base : Nat), h < 8 → s.hot = false →
    let u := s.noteFailures h
    let x := u.head h
    u.bandPlan h b = some (next, d, y, [p]) → u.bandFirst h b next = false → p.slots = [(slot, base, none)] →
    ∃ t l g, exec (.bandLaunch h b) s = .next t ∧ t.head h = x.setBand next b { y with launch := some s.serial } ∧
      (∀ q, q ≠ h → t.head q = s.head q) ∧ t.launch? s.serial = some l ∧ l.asn = x.fdcfg.toNat % 2 ^ 16 ∧
      l.part = x.hctl.toNat / 2 ^ 18 % 8 ∧ l.live = 1 ∧ l.done = false ∧
      l.kind = .band h b (if next then x.nextFrame else x.frame) ∧
      t.gang? (s.serial + 1) = some g ∧ g.lid = s.serial ∧ g.index = b ∧ g.done = false ∧
      let w := t.wave (p.core * 64 + slot)
      w.alive = true ∧ w.base = base ∧ w.width = 4 * 2 ^ (x.kcfg.toNat % 8) ∧ w.regs = x.kcfg.toNat / 2 ^ 12 % 256 ∧
      (w.panel 0).valid = true ∧ (w.panel 0).pc = fieldAt d.bytes 40 8 ∧
      (w.panel 0).greg 0 = BitVec.ofNat 64 (b * 2 ^ 21 + h * 2 ^ 42) ∧ (w.panel 0).greg 3 = BitVec.ofNat 64 d.addr ∧
      (w.panel 0).greg 2 = BitVec.ofNat 64 (x.kcfg.toNat / 2 ^ 20 % 4 + 1 + x.vact / 32 * 2 ^ 21 + 2 ^ 42)

/-- R376, R379, R380: the fixed filter of a band with code 1 writes every pixel of the band, in line order, with the filter of the
descriptor's mode; the band is then published. -/
def Claim.FixedFilters : Prop :=
  ∀ (h b : Nat) (s u : State) (next : Bool) (d : FrameDesc) (y : Band), h < 8 →
    let x := s.head h
    x.running = true → x.target b = some (next, d, y) → y.code = some 1 → y.published = false →
    s.paint (s.headAcc h) (FrameDesc.surface d.out) (fun v i j => v.filterAt (s.headAcc h) d x.hact x.vact b i j)
      ((List.range 32).flatMap fun j => (List.range x.hact).map fun i => (i, 32 * b + j)) = .ok u →
    exec (.bandFixedFilter h b) s = .next (u.setHead h (x.setBand next b { y with published := true }))

/-- R367, R370, R371, R376, R379, R381: a head scans its lines one after another, each when it has taken a descriptor at its take point
and every deadline that it has reached is dealt with. At a band's first line its source is decided: OUT for codes 0, 1 and 3, and for code
2, as in a repeat frame and for an unpublished band, what the band showed in the frame before; the band keeps the code. A line that
contention leaves incomplete sets UNDR. A writeback head's frame begins with its 32 bitmap bytes written as zero. (One line a turn, and
what it waits for: assumption 31, DESIGN CHOICE.) -/
def Claim.ScanOuts : Prop :=
  (∀ (h : Nat) (late : Option Nat) (s : State), h < 8 →
    let x := s.head h
    let b := x.line / 32
    let u := s.noteFailures h
    x.running = true → x.leadIn = false → x.line < x.vact → x.line + 1 < x.vtotal → (x.hctl.getLsbD 1 = true → x.started = true) →
    (32 ≤ x.line → x.nextTaken = true) → x.decided = true →
    ∃ t, exec (.bandScanout h b late) s = .next t ∧ (∀ q, q ≠ h → t.head q = s.head q) ∧
      let y := t.head h
      let code := (Sparse.get Band.fresh y.bands b).code
      let source := Sparse.get none y.sources b
      y = { x with
        line := x.line + 1, bands := y.bands, sources := y.sources, sent := y.sent, failed := y.failed, nextFailed := y.nextFailed
        undr := x.undr || late.isSome, underrun := x.underrun || late.isSome } ∧
      (x.hctl.getLsbD 1 = false → y.sent.length = x.hact) ∧
      (x.line % 32 ≠ 0 → y.bands = x.bands ∧ y.sources = x.sources) ∧
      (x.line % 32 = 0 →
        (∀ k, k ≠ b → Sparse.get Band.fresh y.bands k = Sparse.get Band.fresh x.bands k ∧
          Sparse.get none y.sources k = Sparse.get none x.sources k) ∧
        (x.repeating = true ∨ x.desc = none → code = some 2) ∧
        (code = some 2 → source = Sparse.get none x.sources b) ∧
        (code ≠ some 2 → source = x.desc.map fun d => (d.out, fieldAt d.bytes 4 4)) ∧
        ∀ d, x.repeating = false → x.desc = some d →
          let z := Sparse.get Band.fresh x.bands b
          (byteAt d.bytes 0 % 4 = 0 → code = some (if u.ready0 h b false d then 3 else 2)) ∧
          (byteAt d.bytes 0 % 4 ≠ 0 → z.published = true → z.code ≠ none → code = z.code) ∧
          (byteAt d.bytes 0 % 4 ≠ 0 → z.published = false → code = some 2))) ∧
  ∀ (h : Nat) (s u : State), h < 8 →
    let x := s.head h
    x.running = true → x.hctl.getLsbD 1 = true → x.leadIn = false → x.started = false → x.line = 0 →
    s.agentWrite (s.headAcc h) (x.wbcbm.toNat + 32 * (x.frame % 2)) (List.replicate 32 0) = .ok u →
    exec (.writebackFrameStart h) s = .next (u.setHead h { x with started := true })

/-- R367, R368, R373, R374, R381: a head waits at a line whose take point or whose reached deadlines are not dealt with. The lines of the
lead-in, of which a link is sent zero pixels, and those behind the bands pass one after another; after a frame's last line, its record
written, the head goes on to line 0 of its next frame, or stops where EN has been written 0. (One line a turn, and what it waits for:
assumption 31, DESIGN CHOICE.) -/
def Claim.LinesPass : Prop :=
  ∀ (h : Nat) (late : Option Nat) (s : State), h < 8 →
    let x := s.head h
    let here := Instr.bandScanout h (x.line / 32) late
    (((x.leadIn = true ∨ 32 ≤ x.line) ∧ x.nextTaken = false) ∨ x.decided = false → exec here s = .next s) ∧
    (x.running = true → x.nextTaken = true → x.decided = true →
      (x.leadIn = true ∨ x.vact ≤ x.line ∧ (x.hctl.getLsbD 1 = true → x.started = true)) →
      (x.leadIn = true ∨ x.line + 1 < x.vtotal ∨ x.recorded = true) →
      ∃ t, exec here s = .next t ∧ t = { s with regs := { s.regs with heads := t.regs.heads } } ∧
        (∀ q, q ≠ h → t.head q = s.head q) ∧
        let y := t.head h
        y.sent = (if x.leadIn = true ∧ x.hctl.getLsbD 1 = false then List.replicate x.hact [0, 0, 0] else []) ∧
        (x.line + 1 < x.vtotal →
          y = { x with line := x.line + 1, sent := y.sent, failed := y.failed, nextFailed := y.nextFailed }) ∧
        (x.vtotal ≤ x.line + 1 → x.stopping = true → y = { x with
          running := false, stopping := false, leadIn := false, sent := y.sent, failed := y.failed, nextFailed := y.nextFailed }) ∧
        (x.vtotal ≤ x.line + 1 → x.stopping = false →
          y.line = 0 ∧ y.frame = (if x.leadIn then 0 else (x.frame + 1) % 2 ^ 32) ∧ y.leadIn = false ∧ y.running = true ∧
          y.repeating = x.nextRepeat ∧ y.descError = x.nextError ∧ y.nextTaken = false ∧ y.underrun = false ∧
          y.started = false ∧ y.recorded = false ∧
          y.desc = (if x.nextRepeat then x.desc else x.next) ∧ y.bands = x.nextBands ∧ y.nextBands = [] ∧ y.sources = x.sources))

/-- R381: once a frame's last line has been scanned a head writes the record of 128 bytes at REC of the descriptor in force, if there is
one; the lead-in writes no record. -/
def Claim.FrameEnds : Prop :=
  (∀ (h : Nat) (s : State), h < 8 →
    let x := s.head h
    (x.running = true → x.leadIn = false → x.recorded = false → x.vact ≤ x.line →
      ∃ t, exec (.fallbackRecord h) s = .next t ∧ (∀ q, q ≠ h → t.head q = s.head q) ∧ t.head h = { x with recorded := true } ∧
        (x.desc = none → t = s.setHead h (t.head h)) ∧
        ∀ u d, x.desc = some d → ∀ other,
          s.agentWrite (s.headAcc h) (fieldAt d.bytes 96 8) (fallbackBytes x d other) = .ok u →
          x.sources.any (fun e => e.2.isSome) = true → t.mem = u.mem) ∧
    (x.leadIn = true → exec (.fallbackRecord h) s = .next s)) ∧
  ∀ (x : Head) (d : FrameDesc) (other : Nat),
    let bs := fallbackBytes x d other
    bs.length = 128 ∧ fieldAt bs 0 4 = fieldAt d.bytes 4 4 ∧ fieldAt bs 4 4 = x.frame % 2 ^ 32 ∧ fieldAt bs 12 2 = x.vact / 32 ∧
    byteAt bs 14 = x.repeating.toNat + 2 * x.descError.toNat + 4 * x.underrun.toNat ∧
    fieldAt bs 16 4 = (x.bands.filter fun e => e.2.killed).length % 2 ^ 32 ∧
    (∀ b, b < 256 → byteAt bs (32 + b / 4) / 4 ^ (b % 4) % 4 = ((Sparse.get Band.fresh x.bands b).code.getD 0) % 4) ∧
    (∀ k e, (k, some e) ∈ x.sources → e.2 < 2 ^ 32 → fieldAt bs 8 4 ≤ e.2)

/-- R47, R367, R368, R370, R372, R373, R374, R376-R381: the heads of the display engine. It rests on assumptions 31 and 32. -/
def Obligations.Displays : Prop :=
  Claim.HeadSwitches ∧ Claim.TakePoints ∧ Claim.BandDeadlines ∧ Claim.BandLaunches ∧ Claim.FixedFilters ∧ Claim.ScanOuts ∧
  Claim.LinesPass ∧ Claim.FrameEnds

namespace Sys2Proof.Claim

/-- R257, R260-R263, R349: node `nid` is open and no fault holds it, and `r` is the next record of its in-port 0, in spool `k`, whose
storage lies in the A store of a core from an offset on. -/
structure Feeds (s : State) (nid : Nat) (n : Node) (kind : NodeKind) (k core ofs : Nat) (x : Spool) (r : Record) : Prop where
  node : s.node? nid = some n
  alone : s.wg? nid = none
  kind : n.kind = kind
  opened : n.closed = false
  free : n.held = none
  port : n.ins.getD 0 none = some k
  spool : s.spool? k = some x
  store : x.store = some (core, ofs)
  slots : ∃ e, e ≤ 12 ∧ x.nslot = 2 ^ e
  size : x.ssz % 16 = 0 ∧ 16 ≤ x.ssz
  fits : seqFrom x.tail x.head ≤ x.nslot
  readers : x.bcst = true → ∀ e ∈ x.readers, seqFrom x.tail e.2 ≤ x.records.length
  first : (x.ahead nid).head? = some r

/-- R263: the next record of an instance has been taken: of spool `k` it has those before it that followed, and no other spool's
controller has changed. -/
def Took (s t : State) (nid k : Nat) (x : Spool) : Prop :=
  (∃ y, t.spool? k = some y ∧ y.ahead nid = (x.ahead nid).drop 1) ∧ ∀ q, q ≠ k → t.unit? q = s.unit? q

/-- R264: a fixed node has taken a record and dropped it: its one out-spool, whose storage lies apart, has FLT, and nothing else is
changed. -/
def Dropped (s t : State) (nid k core ofs out core' ofs' : Nat) (x y : Spool) : Prop :=
  Took s t nid k x ∧ t.spool? out = some { y with flt := true } ∧
  t = { s with spools := t.spools, aStore := t.aStore, shadow := t.shadow } ∧
  ∀ m, m < storeIndex core ofs ∨ storeIndex core ofs + x.size ≤ m → m < storeIndex core' ofs' ∨ storeIndex core' ofs' + y.size ≤ m →
    Sparse.get 0 t.aStore m = Sparse.get 0 s.aStore m

/-- R260: such an out-spool, with one instance and nothing pending. -/
structure OutSpool (s : State) (n : Node) (k core ofs out core' ofs' : Nat) (x y : Spool) : Prop where
  port : n.outs = [some out]
  other : out ≠ k
  here : s.spool? out = some y
  one : s.replicas out = [out]
  store : y.store = some (core', ofs')
  slots : 1 ≤ y.nslot
  pending : y.pending = []
  apart : storeIndex core ofs + x.size ≤ storeIndex core' ofs' ∨ storeIndex core' ofs' + y.size ≤ storeIndex core ofs

/-- R257, R264: the node has ended: it is closed, and it was one of its launch's live nodes. -/
def Ended (s t : State) (nid : Nat) (n : Node) : Prop :=
  t.node? nid = some { n with closed := true } ∧ (∀ q, q ≠ nid → t.node? q = s.node? q) ∧
  ∀ l, s.launch? n.lid = some l → 1 < l.live → t.launch? n.lid = some { l with live := l.live - 1 }

end Sys2Proof.Claim

/-- R257, R264, R270, R271: a `raster` instance closes with its end-of-stream record, drops a record with FLT or of another
kind, which its out-spool hears of, and turns a triangle into the quads of its cluster's tiles, which it places while they
fit and else holds. -/
def Claim.Triangles : Prop :=
  ∀ (s : State) (nid k core ofs : Nat) (n : Node) (x : Spool) (r : Record) (st : RasterState),
    Claim.Feeds s nid n .raster k core ofs x r → n.heldRecords = [] → n.state = some st →
    (r.eos = true → ∃ t, exec (.rasterTriangle nid) s = .next t ∧ Claim.Ended s t nid n) ∧
    (r.eos = false → (r.fault = true ∨ (r.kind ≠ 1 ∧ r.kind ≠ 2)) → ∀ out core' ofs' y,
      Claim.OutSpool s n k core ofs out core' ofs' x y →
      ∃ t, exec (.rasterTriangle nid) s = .next t ∧ Claim.Dropped s t nid k core ofs out core' ofs' x y) ∧
    (r.eos = false → r.fault = false → r.kind = 1 ∨ r.kind = 2 →
      let cores := s.tileCores n.lid
      let quads := match st.setup r with
        | none => []
        | some y => y.quads st fun tx ty => match tileOwner cores tx ty with
          | none => false
          | some c => clusterOf c == n.place
      exec (.rasterTriangle nid) s = .next ((s.takeRecords k nid 1).rasterPlace nid n quads) ∧
      (quads = [] → ∃ t, exec (.rasterTriangle nid) s = .next t ∧ t.node? nid = some n ∧ Claim.Took s t nid k x ∧
        Claim.OnlyStorage s t core ofs x))

/-- R270: a tile belongs to one of the tile-owning cores of the die of its place in the two-by-two pattern of dies. -/
def Claim.TileOwners : Prop :=
  ∀ (cores : List Nat) (tx ty c : Nat), tileOwner cores tx ty = some c → c ∈ cores ∧ c / 96 = tx % 2 + 2 * (ty % 2)

/-- R271, R274: every quad that a triangle gives lies at even coordinates in a tile of those asked for, and each of its
covered pixels lies within the surfaces' extents. -/
def Claim.Quads : Prop :=
  ∀ (st : RasterState) (y : Setup) (owns : Nat → Nat → Bool) (q : Record), q ∈ y.quads st owns →
    ∃ u v, u % 2 = 0 ∧ v % 2 = 0 ∧ owns (u / 64) (v / 64) = true ∧ q.kind = 0x10 ∧ q.fault = false ∧ q.eos = false ∧ q.lmask ≠ 0 ∧
      ∀ j, j < 4 → q.lmask.getLsbD j = true →
        u + j % 2 < st.extent 0 ∧ v + j / 2 < st.extent 1 ∧ 0 ≤ y.depthAt (u + j % 2) (v + j / 2) ∧ y.depthAt (u + j % 2) (v + j / 2) ≤ 1

/-- R264, R272: a `blend` instance with no record that may go takes the next: it keeps a colour record, and drops any
other. -/
def Claim.BlendTakes : Prop :=
  ∀ (s : State) (nid k core ofs : Nat) (n : Node) (x : Spool) (r : Record) (st : RasterState),
    Claim.Feeds s nid n .blend k core ofs x r → n.state = some st → r.eos = false →
    n.heldRecords.find? (blendable (s.openTickets n.lid n.place) (n.heldRecords ++ s.blendQueue nid n)) = none →
    ∃ t, exec (.blendRecord nid) s = .next t ∧ Claim.Took s t nid k x ∧ Claim.OnlyStorage s t core ofs x ∧
      t = { s with spools := t.spools, nodes := t.nodes, aStore := t.aStore, shadow := t.shadow } ∧
      t.node? nid = some { n with
        heldRecords := n.heldRecords ++ (if r.fault = true ∨ r.kind ≠ 0x11 then [] else [r]) }

/-- R272-R274, R277: a record of one pixel that may go, on a touched tile without a depth surface, is blended into the colour of
the pixel, at its place in the tile, and forgotten. -/
def Claim.Blends : Prop :=
  ∀ (s : State) (nid j : Nat) (n : Node) (st : RasterState) (r : Record) (u : Ticket),
    s.node? nid = some n → n.kind = .blend → n.closed = false → n.held = none → n.state = some st → st.depth = none →
    n.heldRecords.find? (blendable (s.openTickets n.lid n.place) (n.heldRecords ++ s.blendQueue nid n)) = some r →
    r.ticket = some u → n.touched.contains u.tile = true → j < 4 → (∀ i, i < 4 → r.lmask.getLsbD i = decide (i = j)) →
    let x := (u.x + j % 2) % 64
    let y := (u.y + j / 2) % 64
    let at' := s.tileAt n st u.tile + 16384 + 256 * y + 4 * x
    let old := ofBytes (s.readStore .a n.place at' 4)
    let f := st.surface
    ∃ t, exec (.blendRecord nid) s = .next t ∧ t = { s with aStore := t.aStore, shadow := t.shadow, nodes := t.nodes } ∧
      t.node? nid = some { n with heldRecords := n.heldRecords.erase r } ∧ (∀ q, q ≠ nid → t.node? q = s.node? q) ∧
      t.readStore .a n.place at' 4 =
        toBytes 4 (encodeTexel f.fmt old f.wmask (blendChannels f (sourceColour f.fmt u.four r.words j) (decodeTexel f.fmt old))) ∧
      ∀ b, b < storeIndex n.place at' ∨ storeIndex n.place at' + 4 ≤ b → Sparse.get 0 t.aStore b = Sparse.get 0 s.aStore b

/-- R277: the depth functions, and the sum of source and destination with its factors. -/
def Claim.BlendArithmetic : Prop :=
  (∀ (z old : Rat), depthPasses 0 z old = false ∧ (depthPasses 1 z old = true ↔ z < old) ∧ (depthPasses 2 z old = true ↔ z = old) ∧
    (depthPasses 3 z old = true ↔ z ≤ old) ∧ (depthPasses 4 z old = true ↔ old < z) ∧ (depthPasses 5 z old = true ↔ z ≠ old) ∧
    (depthPasses 6 z old = true ↔ old ≤ z) ∧ depthPasses 7 z old = true) ∧
  ∀ (a b : Rat), blendFactor 0 a b = 0 ∧ blendFactor 1 a b = 1 ∧ blendFactor 2 a b = a ∧ blendFactor 3 a b = 1 - a ∧
    blendFactor 4 a b = b ∧ blendFactor 5 a b = 1 - b

/-- R257, R264, R273: at its end-of-stream record, with nothing held, a `blend` instance has written every touched tile to
the surface and closes. -/
def Claim.BlendEnds : Prop :=
  ∀ (s u : State) (nid k core ofs : Nat) (n : Node) (x : Spool) (r : Record) (st : RasterState),
    Claim.Feeds s nid n .blend k core ofs x r → n.state = some st → r.eos = true → n.heldRecords = [] → s.storeTiles n st n.touched = .ok u →
    exec (.blendEndOfStream nid) s = .next (u.retireNode nid n false) ∧
    (n.outs = [] → n.touched = [] → ∃ t, exec (.blendEndOfStream nid) s = .next t ∧ Claim.Ended s t nid n)

/-- R257, R264, R265, R283, R284: a `trav` instance closes with its end-of-stream record, drops a record with FLT or of another
kind, which its out-spool hears of, and follows a ray to its end, to an intersection outside, or to a fetch that fails by
its gang's end: it then emits the hit or the request record, if there is room, and has taken the ray. A hit that has waited for room
goes first. -/
def Claim.Travels : Prop :=
  (∀ (s : State) (nid k core ofs : Nat) (n : Node) (x : Spool) (r : Record), Claim.Feeds s nid n .trav k core ofs x r →
    n.heldRecords = [] →
    (r.eos = true → exec (.travRay nid) s = .next (s.retireNode nid n r.fault) ∧
      (n.outs = [] → ∃ t, exec (.travRay nid) s = .next t ∧ Claim.Ended s t nid n)) ∧
    (r.eos = false → (r.fault = true ∨ (r.kind ≠ 0x20 ∧ r.kind ≠ 0x31)) → ∀ out core' ofs' y,
      Claim.OutSpool s n k core ofs out core' ofs' x y →
      ∃ t, exec (.travRay nid) s = .next t ∧ Claim.Dropped s t nid k core ofs out core' ofs' x y) ∧
    (r.eos = false → r.fault = false → r.kind = 0x20 ∨ r.kind = 0x31 → ∀ u w,
      s.rayRun (s.nodeAcc n) ((n.outs.getD 1 none).isSome) r.ray.1 r.ray.2 = (u, w) →
      (∀ y f v, w = .done y f → u.travHit n y f = some v → exec (.travRay nid) s = .next (v.takeRecords k nid 1)) ∧
      (∀ y z v, w = .suspended y z → u.nodeEmit n 1 (requestRecord y) = some v →
        exec (.travRay nid) s = .next (v.takeRecords k nid 1)) ∧
      (∀ y e a v, w = .failed y (.ends e) a → u.travHit n y (some a) = some v →
        exec (.travRay nid) s = .next (v.takeRecords k nid 1)))) ∧
  ∀ (s v : State) (nid : Nat) (n : Node) (h : Record) (rest : List Record), s.node? nid = some n → n.kind = .trav →
    n.closed = false → n.held = none → n.heldRecords = h :: rest → s.nodeEmit n 0 h = some v →
    exec (.travRay nid) s = .next (v.putNode nid { n with heldRecords := rest })

/-- R257, R264, R265, R270-R274, R277, R283, R284: the fixed nodes. -/
def Obligations.FixedNodes : Prop :=
  Claim.Triangles ∧ Claim.TileOwners ∧ Claim.Quads ∧ Claim.BlendTakes ∧ Claim.Blends ∧ Claim.BlendArithmetic ∧ Claim.BlendEnds ∧
  Claim.Travels

/-- R387: a command that ends leaves its RESULT in MBSTAT and the mailbox free; while one is in progress a further write of MBCMD gives
RESULT 4 and BUSY, and no command. (The argument registers of the commands, and RESULT 1 for a code of another mailbox, are the model's:
assumption 35, DESIGN CHOICE.) -/
def Claim.Mailboxes : Prop :=
  (∀ (s : State) (who : Writer) (m : Mailbox) (r : Nat), s.mailbox who = some m →
    (s.endMail who r).mailbox who = some { m with stat := BitVec.ofNat 64 (256 * r), pending := none } ∧
    (∀ i, m.pending = some i → ∀ code,
      (s.postCommand who code).mailbox who = some { m with stat := 0x401 }) ∧
    (m.pending = none → s.stage = 6 → who = .platform →
      (s.postCommand who 9).mailbox who = some { m with stat := 1, pending := some .idle } ∧
      (s.postCommand who 10).mailbox who = some { m with stat := 1, pending := some .wake } ∧
      (s.postCommand who 8).mailbox who = some { m with stat := 1, pending := some (.fwUpdate (m.args.getD 0 0)) } ∧
      (s.postCommand who 5).mailbox who =
        some { m with stat := 1, pending := some (.cert .platform (m.args.getD 0 0) (m.args.getD 1 0).toNat) } ∧
      (s.postCommand who 6).mailbox who = some { m with stat := 0x100 }))

/-- R387-R389, R391, R395: PART_SET gives RESULT 2 where clusters or key slots overlap those of another enabled partition or the grant
passes the end of memory; RESULT 1 where a cluster that changes hands holds part of a pattern, or the gangs there cannot all be
saved. A cluster changes hands that leaves, or that is taken from a partition not enabled. PART_SET pre-empts the gangs there, and with
none there it changes the configuration and the image log, and clears the compute cores that change partition. -/
def Claim.PartitionSets : Prop :=
  ∀ (p : Nat) (en : Bool) (clus kfirst kcnt gbase gsize : Nat) (s : State),
    let i : Instr := .partSet p en clus kfirst kcnt gbase gsize
    let x := s.part p
    let new : BitVec 8 := BitVec.ofNat 8 clus
    let bad := 64 < kfirst + kcnt ∨ 512 < gbase + gsize ∨ ∃ q, q < 8 ∧ q ≠ p ∧ (s.part q).en = true ∧
      ((s.part q).clus &&& new ≠ 0 ∨
        ∃ k, kfirst ≤ k ∧ k < kfirst + kcnt ∧ (s.part q).kfirst ≤ k ∧ k < (s.part q).kfirst + (s.part q).kcnt)
    let leaving := (List.range 8).filter fun c => (x.clus.getLsbD c && !clus.testBit c) ||
      (clus.testBit c && (List.range 8).any fun q => q != p && (s.part q).clus.getLsbD c)
    let there := s.gangs.filter fun e => !e.2.done && e.2.pre != .saved && leaving.contains e.2.cluster
    let stuck := (∃ c ∈ leaving, s.holdsPattern c = true) ∨ State.areasFor there s = none
    let changed := fun core => core < 384 ∧ (x.clus ^^^ new).getLsbD (clusterOf core) = true
    s.command .platform = some i →
    (bad → exec i s = .next (s.endMail .platform 2)) ∧
    (¬ bad → stuck → exec i s = .next (s.endMail .platform 1)) ∧
    (¬ bad → ¬ stuck → there = [] →
      ∃ (t : State) (m : Mailbox), exec i s = .next t ∧ s.mailbox .platform = some m ∧
        t.mailbox .platform = some { m with stat := 0, pending := none } ∧
        t.part p = { x with
          en := en, clus := new, kfirst := kfirst, kcnt := kcnt, gbase := gbase, gsize := gsize
          imageLog := List.replicate 64 0 } ∧
        (∀ q, q ≠ p → q < 8 → t.part q = { s.part q with clus := (s.part q).clus &&& ~~~ new }) ∧
        t.mem = s.mem ∧ t.keys = s.keys ∧ t.gangs = s.gangs ∧
        (∀ core, changed core →
          (∀ e ∈ t.tlb, e.unit ≠ core ∧ e.unit ≠ clusterTlb (clusterOf core)) ∧ (∀ e ∈ t.l1, ixCore e.1 ≠ core) ∧
          (∀ e ∈ t.icache, codeCore e.1 ≠ core) ∧
          ∀ e ∈ [t.wStore, t.aStore, t.cStore].flatten, e.1 / 2 ^ 21 ≠ core) ∧
        (∀ w, changed (w / 64) → t.wave w = Wave.empty) ∧ ∀ w, ¬ changed (w / 64) → t.wave w = s.wave w) ∧
    (¬ bad → ¬ stuck → there ≠ [] →
      ∃ t, exec i s = .next t ∧ t = { s with gangs := t.gangs } ∧
        ∀ k g, s.gang? k = some g → (k, g) ∈ there →
          t.gang? k = some (if g.pre = .run then { g with pre := .stopping } else g))

/-- R362, R389: areas for the gangs that a PART_SET pre-empts are found for one after another: none for a gang whose area has passed to
another save, and none where neither the pool nor the reserve area has room. -/
def Claim.AreasFound : Prop :=
  ∀ (e : Nat × Gang) (es : List (Nat × Gang)) (l : Launch) (s : State), s.launch? e.2.lid = some l →
    let n := saveUnits l.spec e.2.wgs.length
    (State.areasFor [] s = some s) ∧
    (e.2.pre = .saving → State.areasFor (e :: es) s = State.areasFor es s) ∧
    (e.2.pre ≠ .saving → e.2.passed = true ∨ s.saveArea l.part n = none → State.areasFor (e :: es) s = none) ∧
    ∀ a, e.2.pre ≠ .saving → e.2.passed = false → s.saveArea l.part n = some a → ∃ t, State.areasFor (e :: es) s = State.areasFor es t ∧
      (a = none → (t.part l.part).reserveBusy = true) ∧
      ∃ v, t.gang? e.1 = some { e.2 with saved := some v } ∧ v.units = n ∧ v.reserve = a.isNone ∧ ∀ b, a = some b → v.area = b

/-- R387, R391, R409: PART_RESET clears EN of the partition's queues and heads and its cores, and leaves its configuration and every
key. -/
def Claim.PartitionResets : Prop :=
  ∀ (who : Writer) (p : Nat) (s : State), s.command who = some (.partReset who p) →
    ∃ t, exec (.partReset who p) s = .next t ∧ t.keys = s.keys ∧ t.command who = none ∧
      (∀ q, (s.queue q).qcfg.toNat / 2 ^ 8 % 8 = p → (t.queue q).qcfg = (s.queue q).qcfg &&& ~~~ 0x80#64) ∧
      (∀ q, (s.queue q).qcfg.toNat / 2 ^ 8 % 8 ≠ p → (t.queue q).qcfg = (s.queue q).qcfg) ∧
      (∀ h, (s.head h).hctl.toNat / 2 ^ 18 % 8 = p → (t.head h).hctl = (s.head h).hctl &&& ~~~ 1#64) ∧
      (∀ w, s.coreOf p (w / 64) = true → t.wave w = Wave.empty) ∧
      ∀ q, let a := s.part q
        let b := t.part q
        b.en = a.en ∧ b.clus = a.clus ∧ b.kfirst = a.kfirst ∧ b.kcnt = a.kcnt ∧ b.gbase = a.gbase ∧ b.gsize = a.gsize

/-- R387, R390, R393: KEY_LOAD of a slot that does not exist gives RESULT 2, of a slot that another enabled partition owns, or that is
none of the owner's, RESULT 1, and else takes 64 bytes; CERT gives RESULT 2 where the buffer is too small (assumption 36, DESIGN CHOICE),
and else writes the chain; ATTEST writes a report of the nonce with its signature. -/
def Claim.KeysAndReports : Prop :=
  (∀ (who : Writer) (slot : Nat) (adr : DWord) (s : State), s.command who = some (.keyLoad who slot adr) →
    let owns := fun q => (s.part q).kfirst ≤ slot ∧ slot < (s.part q).kfirst + (s.part q).kcnt
    let barred := (∃ p, who = .owner p ∧ ¬ owns p) ∨ ∃ q, q < 8 ∧ (s.part q).en = true ∧ owns q ∧ who ≠ .owner q
    (64 ≤ slot → exec (.keyLoad who slot adr) s = .next (s.endMail who 2)) ∧
    (slot < 64 → barred → exec (.keyLoad who slot adr) s = .next (s.endMail who 1)) ∧
    (slot < 64 → ¬ barred → ∀ u bs, s.mailRead who adr.toNat 64 = .ok (u, bs) →
      ∃ t, exec (.keyLoad who slot adr) s = .next t ∧ t.keyId slot = ofBytes bs + 1 ∧ (∀ k, k ≠ slot → t.keyId k = u.keyId k) ∧
        t = { (u.endMail who 0) with keys := t.keys })) ∧
  (∀ (who : Writer) (buf : DWord) (size : Nat) (s : State), s.command who = some (.cert who buf size) →
    (size < Config.certificateSize → exec (.cert who buf size) s = .next (s.endMail who 2)) ∧
    (Config.certificateSize ≤ size → ∀ u,
      s.mailWrite who buf.toNat ((List.range Config.certificateSize).map Config.certificate) = .ok u →
      exec (.cert who buf size) s = .next (u.endMail who 0))) ∧
  (∀ (who : Writer) (nonce report : DWord) (s u v : State) (bs : List Byte), s.command who = some (.attest who nonce report) →
    s.mailRead who nonce.toNat 64 = .ok (u, bs) →
    (let body := u.report who bs
     u.bumpFree.mailWrite who report.toNat (body ++ (List.range 512).map (Config.signature body)) = .ok v) →
    exec (.attest who nonce report) s = .next (v.endMail who 0)) ∧
  ∀ (p : Nat) (s : State) (bs : List Byte), bs.length = 64 → (s.part p).imageLog.length = 64 →
    let r := s.report (.owner p) bs
    r.length = 512 ∧ r.take 64 = bs ∧
    (r.drop 64).take 64 = sha512 s.runningFirmware ∧
    (r.drop 128).take 64 = sha512 (toBytes 8 ((s.part p).config 0).toNat ++ toBytes 8 ((s.part p).config 1).toNat ++
      toBytes 8 ((s.part p).config 2).toNat) ∧
    (r.drop 192).take 64 = (s.part p).imageLog ∧ fieldAt r 256 8 = s.regs.ident.toNat ∧ fieldAt r 264 8 = s.regs.errata.toNat ∧
    byteAt r 272 = p % 256 ∧ byteAt r 273 = s.rollback % 256 ∧ r.drop 274 = List.replicate 238 0

/-- R394-R396: IMAGE_LOAD of an image without a header gives RESULT 2 (assumption 36, DESIGN CHOICE), of one for a later generation
without EMUL RESULT 1; else it writes the image's code, from the cache where the image has been translated under the same errata, and its
code section itself where it has one and neither relocations nor patches, extends the image log, and raises the generation of the address
space, which it returns. -/
def Claim.ImageLoads : Prop :=
  ∀ (p asn : Nat) (image dest : DWord) (emul : Bool) (s u v : State) (hd bs : List Byte),
    let i : Instr := .imageLoad p image dest emul asn
    let a : Acc := { core := none, part := p, asn := asn, gen := s.genOf p asn }
    s.command (.owner p) = some i → s.agentRead a image.toNat 64 = .ok (u, hd) →
    u.agentRead a image.toNat (fieldAt hd 8 8) = .ok (v, bs) →
    (fieldAt bs 0 4 ≠ 0x4E535243 ∨ fieldAt bs 4 2 ≠ 1 → exec i s = .next (s.endMail (.owner p) 2)) ∧
    (imageHeader bs = true → 2 < byteAt bs 6 → emul = false → exec i s = .next (s.endMail (.owner p) 1)) ∧
    (imageHeader bs = true → byteAt bs 6 ≤ 2 ∨ emul = true →
      let d := sha512 bs
      let e := BitVec.ofNat 64 (fieldAt bs 16 8) &&& v.regs.errata
      let r := v.translated bs dest.toNat
      (∀ x, v.images.find? (fun x => x.digest == d && x.applied == e) = some x → r = (v, x.code)) ∧
      (v.images.find? (fun x => x.digest == d && x.applied == e) = none →
        r.2 = patched bs dest.toNat e ∧ r.1 = { v with
          images := { digest := d, applied := e, pmask := BitVec.ofNat 64 (fieldAt bs 16 8), code := r.2 } :: v.images }) ∧
      (v.images.find? (fun x => x.digest == d && x.applied == e) = none → ∀ x,
        (imageSections bs).filter (fun y => y.type == 1) = [x] → (∀ y ∈ imageSections bs, y.type ≠ 3 ∧ y.type ≠ 5) →
        r.2 = (bs.drop x.ofs).take x.size) ∧
      ∀ w, r.1.agentWrite a dest.toNat r.2 = .ok w →
        ∃ t, exec i s = .next t ∧ t.mem = (w.incGen p asn).1.mem ∧ t.icache = (w.incGen p asn).1.icache ∧
          (t.part p).imageLog = sha512 ((w.part p).imageLog ++ d) ∧
          t.command (.owner p) = none ∧ (t.part p).mbox.stat = 0 ∧
          (0 < (w.part p).mbox.args.length → (t.part p).mbox.args.getD 0 0 = BitVec.ofNat 64 ((w.genOf p asn + 1) % 2 ^ 16)))

/-- R392, R396: FW_UPDATE of an image that does not verify, or that falls back behind the fused counter, gives RESULT 3; else the image
runs: the counter rises to its number, its errata mask counts, and the cache loses exactly the entries whose applied errata change; a
module held at stage 5 goes on to stage 6 (assumption 43, DEDUCED). -/
def Claim.FirmwareUpdates : Prop :=
  ∀ (image : DWord) (s : State) (bs : List Byte), s.command .platform = some (.fwUpdate image) →
    s.mailRead .platform image.toNat Config.firmwareSize = .ok (s, bs) →
    let good := Config.authentic bs = true ∧ s.rollback ≤ (Config.rollbackOf bs).toNat
    (¬ good → exec (.fwUpdate image) s = .next (s.endMail .platform 3)) ∧
    (good → ∃ t, exec (.fwUpdate image) s = .next t ∧ t.rollback = (Config.rollbackOf bs).toNat ∧
      t.regs.errata = Config.errataOf bs ∧ t.firmware = some bs ∧ t.command .platform = none ∧
      t.stage = (if s.stage = 5 then 6 else s.stage) ∧ t.mem = s.mem ∧ t.waves = s.waves ∧
      ∀ x, x ∈ t.images ↔ x ∈ s.images ∧ x.pmask &&& s.regs.errata = x.pmask &&& Config.errataOf bs)

/-- R404: IDLE is refused with RESULT 1 while a queue or head is enabled or a gang, a band or part of a pattern is resident; else the
module idles at stage 7, with the compute dies cleared and its memory, keys, partitions and queues kept. WAKE repeats stages 1 and 2; of a
module that does not idle it does nothing (assumption 36, DESIGN CHOICE). -/
def Claim.IdleAndWake : Prop :=
  ∀ (s : State) (m : Mailbox), s.mailbox .platform = some m →
    (m.pending = some .idle → s.busyModule = true → exec .idle s = .next (s.endMail .platform 1)) ∧
    (m.pending = some .idle → s.busyModule = false → ∃ t, exec .idle s = .next t ∧ t.stage = 7 ∧ t.idle = true ∧ t.mem = s.mem ∧
      t.keys = s.keys ∧ t.regs.parts = s.regs.parts ∧ t.regs.queues = s.regs.queues ∧
      (∀ e, e ∈ t.tlb ↔ e ∈ s.tlb ∧ ¬ (e.unit < 384 ∨ (clusterTlb 0 ≤ e.unit ∧ e.unit < clusterTlb 8))) ∧
      t.mailbox .platform = some { m with stat := 0, pending := none } ∧
      ∀ w, t.wave w = if w / 64 < 384 then Wave.empty else s.wave w) ∧
    (m.pending = some .wake → ∃ t, exec .wake s = .next t ∧ t.stage = (if s.stage = 7 then 1 else s.stage) ∧
      t.mailbox .platform = some { m with stat := 0, pending := none } ∧ t.waves = s.waves ∧ t.mem = s.mem ∧ t.keys = s.keys) ∧
    (s.busyModule = true ↔ (∃ e ∈ s.regs.queues, e.2.qcfg.getLsbD 7 = true) ∨ (∃ e ∈ s.regs.heads, e.2.hctl.getLsbD 0 = true) ∨
      (∃ e ∈ s.gangs, e.2.done = false ∧ e.2.pre ≠ .saved) ∨ s.spools ≠ [] ∨ ∃ e ∈ s.nodes, e.2.closed = false)

/-- R13, R392, R404, R407, R408: the stages of bring-up follow one another; at 0 and 3 a failure holds the module, and at 5 firmware
that does not verify; at 1 a failed die and at 2 a failed group of eight cores is retired, and at 1 the fabric's count starts
anew (R318); a module that wakes goes from stage 2 to stage 6. No stage changes the fused counter. -/
def Claim.BringUp : Prop :=
  ∀ (good : Bool) (s : State), s.powered = true → s.tripped = false → s.good = true →
    let stuck := exec (.bringupStage good) s = .next { s with good := false }
    ((s.stage = 0 ∨ s.stage = 3) → good = false → stuck) ∧
    (s.stage = 5 → good = false ∨ s.acceptsFirmware s.runningFirmware = false → stuck) ∧
    (s.stage < 6 → (good = true ∨ s.stage = 1 ∨ s.stage = 2 ∨ s.stage = 4) →
      (s.stage = 5 → s.acceptsFirmware s.runningFirmware = true) →
      ∃ t, exec (.bringupStage good) s = .next t ∧ t.mem = s.mem ∧ t.keys = s.keys ∧ t.regs.parts = s.regs.parts ∧
        t.rollback = s.rollback ∧ t.fab = s.fab ∧ t.fabUp = (if s.stage = 1 then s.fab else s.fabUp) ∧
        t.stage = (if s.stage = 2 ∧ s.idle = true then 6 else s.stage + 1) ∧ t.regs.ident.toNat % 16 = t.stage ∧
        (good = true ∨ s.stage = 4 → t.retired = s.retired) ∧
        (∀ c, c ∈ s.retired → c ∈ t.retired) ∧
        ∀ c d, c < 384 → d < 384 → (s.stage = 1 → c / 96 = d / 96) → (s.stage = 2 → c / 8 = d / 8) → c ∈ t.retired → c ∉ s.retired →
          d ∈ t.retired)

/-- R403, R405, R409: module reset returns every register to its reset value, and power-on too, after which nothing is kept
that a chip does not hold in fuses; the clock's steps show in CLKSTAT and THROT; a reading of THERM of 110 °C or more is a thermal trip,
and one above 95 °C at the lowest clock keeps new gangs back; a thermal trip loses every gang, band, pattern and
queue, and writes no memory. That a reset under power keeps memory is the model's choice (assumption 38). -/
def Claim.PowerAndReset : Prop :=
  (∀ s : State, ∃ t, exec .moduleReset s = .next t ∧ t.regs = Regs.reset ∧ t.waves = [] ∧ t.gangs = [] ∧ t.launches = [] ∧
    t.wgs = [] ∧ t.threads = [] ∧ t.keys = [] ∧ t.stage = 0 ∧ t.tripped = false ∧ t.mem = s.mem ∧ t.rollback = s.rollback) ∧
  (∀ s : State, ∃ t, exec .powerRemoval s = .next t ∧ t.powered = false ∧ t.regs = Regs.reset ∧ t.mem = [] ∧ t.keys = [] ∧
    t.gangs = [] ∧ t.waves = [] ∧ t.stage = 0 ∧ t.rollback = s.rollback ∧ t.firmware = s.firmware) ∧
  (∀ (n : Nat) (s : State), s.locked = true → exec (.clockThrottle n) s = .next s) ∧
  (∀ (n : Nat) (s : State), 15 ≤ n → n ≤ 33 → s.locked = false → ∃ t, exec (.clockThrottle n) s = .next t ∧ t.regs.clkstat = BitVec.ofNat 64 n ∧
    t.regs.therm.getLsbD 40 = decide (n < 33) ∧ t.mem = s.mem ∧ t.keys = s.keys ∧
    let reads := fun limit => ∃ k, k < 5 ∧ limit ≤ t.regs.therm.toNat / 256 ^ k % 256
    (n ≠ 15 → t.hot = false) ∧ (n = 15 → reads 96 → t.hot = true) ∧
    (reads 110 → t.tripped = true ∧ t.waves = [] ∧ t.gangs = [] ∧ t.launches = [] ∧ t.regs.queues = []) ∧
    (¬ reads 110 → t = { s with
      regs := { s.regs with clkstat := t.regs.clkstat, therm := t.regs.therm }, hot := t.hot, freeCtr := t.freeCtr })) ∧
  ∀ s : State, ∃ t, exec .thermalTrip s = .next t ∧ t.tripped = true ∧ t.mem = s.mem ∧ t.waves = [] ∧ t.gangs = [] ∧
    t.launches = [] ∧ t.spools = [] ∧ t.regs.queues = [] ∧ t.keys = s.keys

/-- R5, R308, R324, R325, R343, R367, R399, R403: a write by access code of a register that holds what is written, by one who may
write it, and the same write by any other; an offset where no register lies ignores its write. That a size above 65,536 is ignored
is the model's choice (assumption 104). After a failure of stage 5 the platform's mailbox alone takes a write. -/
def Claim.RegisterWrites : Prop :=
  (∀ (who : Writer) (ofs : Nat) (v : DWord) (s : State), s.locked = true →
    exec (.registerWrite who ofs v) s = .next (if 0x1000 ≤ ofs ∧ ofs < 0x2000 ∧ ofs % 8 = 0
      then s.writeMailbox who .platform (ofs - 0x1000) v else s)) ∧
  ∀ (who : Writer) (v : DWord) (s : State), s.locked = false →
    (exec (.registerWrite who 0x100 v) s = .next (if who = .platform then
      { s with regs := { s.regs with winctl := v &&& 0x13F1F } } else s)) ∧
    (exec (.registerWrite who 0x208 v) s = .next (if who = .platform then
      { s with regs := { s.regs with pwrcap := BitVec.ofNat 64 (max 1000 (min 3200 (v.toNat % 2 ^ 12))) } } else s)) ∧
    (exec (.registerWrite who 0x0 v) s = .next s) ∧ exec (.registerWrite who 0x3FF0 v) s = .next s ∧
    (∀ q, q < 8192 →
      let x := s.queue q
      let may := who = .firmware ∨ who = .owner (x.qcfg.toNat / 2 ^ 8 % 8)
      (may → x.qcfg.getLsbD 7 = false → exec (.registerWrite who (0x100000 + 256 * q) v) s = .next (s.setQueue q { x with
        qbase := BitVec.ofNat 64 (v.toNat % 2 ^ 57 / 128 * 128) })) ∧
      (¬ may ∨ x.qcfg.getLsbD 7 = true → exec (.registerWrite who (0x100000 + 256 * q) v) s = .next s) ∧
      exec (.registerWrite who (0x100000 + 256 * q + 8) v) s = exec (.qcfgWrite who q v) s) ∧
    (∀ p, p < 8 →
      let x := s.part p
      let may := who = .firmware ∨ who = .owner p
      let put := fun ofs (y : Partition) => exec (.registerWrite who ofs v) s = .next (if may then s.setPart p y else s)
      put (0x400000 + 0x1000 * p + 0x40) { x with savebase := BitVec.ofNat 64 (v.toNat % 2 ^ 57 / 2 ^ 16 * 2 ^ 16) } ∧
      put (0x400000 + 0x1000 * p + 0x48) { x with savesize := v } ∧
      put (0x1F00000 + 0x1000 * p) { x with dbgctl := v &&& 0xFFE } ∧
      put (0x1F00000 + 0x1000 * p + 0x10) { x with dbgdata := v } ∧
      put (0x1F00000 + 0x1000 * p + 0x20) { x with trbase := BitVec.ofNat 64 (v.toNat % 2 ^ 57 / 2 ^ 12 * 2 ^ 12) } ∧
      put (0x1F00000 + 0x1000 * p + 0x28) { x with trsize := if v.toNat ≤ 65536 then v else x.trsize } ∧
      put (0x1F00000 + 0x1000 * p + 0x50) { x with logsize := if v.toNat ≤ 65536 then v else x.logsize } ∧
      put (0x1F00000 + 0x1000 * p + 0x40) { x with trlost := x.trlost &&& ~~~ v } ∧
      exec (.registerWrite who (0xC00000 + 0x1000 * p) v) s = .next s) ∧
    ∀ h, h < 8 →
      let x := s.head h
      let may := who = .firmware ∨ who = .owner (x.hctl.toNat / 2 ^ 18 % 8)
      let at' := fun ofs => exec (.registerWrite who (0x800000 + 0x10000 * h + ofs) v) s
      (may → x.hctl.getLsbD 0 = false → at' 8 = .next (s.setHead h { x with htim := v }) ∧
        at' 0x10 = .next (s.setHead h { x with pclk := v &&& 0xFFFFFFFF })) ∧
      (may → at' 0x38 = .next (s.setHead h { x with fdann := v.setWidth 32 })) ∧
      (¬ may → at' 8 = .next s ∧ at' 0x38 = .next s)

/-- R137, R364, R390, R399, R400: an access through the host's window, and one by a UALink peer, reaches device memory by physical
address under its key slot; a write through a disabled window does nothing, a read changes nothing, and beyond memory, over a link that is not up, or
after a failure of stage 5 nothing happens. -/
def Claim.OutsideAccesses : Prop :=
  (∀ (ofs : Nat) (data : List Byte) (write : Bool) (s : State), s.locked = true ∨ 2 ^ 34 < ofs + data.length →
    exec (.hostWindowAccess ofs data write) s = .next s) ∧
  (∀ (ofs : Nat) (data : List Byte) (write : Bool) (s : State), s.locked = false → ofs + data.length ≤ 2 ^ 34 →
    let on := s.regs.winctl.getLsbD 16
    let slot := s.regs.winctl.toNat / 2 ^ 8 % 2 ^ 6
    let pa := s.regs.winctl.toNat % 2 ^ 5 * 2 ^ 34 + ofs
    (write = false ∨ on = false → exec (.hostWindowAccess ofs data write) s = .next s) ∧
    (write = true → on = true → ∃ t, exec (.hostWindowAccess ofs data write) s = .next t ∧
      t = { s with mem := t.mem, lineKey := t.lineKey, poison := t.poison } ∧
      (∀ k, k < data.length → Sparse.get 0 t.mem (pa + k) = data.getD k 0) ∧
      (∀ b, b < pa ∨ pa + data.length ≤ b → (∀ k, k < data.length → b / 128 ≠ (pa + k) / 128) →
        t.readKeyed slot b = s.readKeyed slot b) ∧
      t.readKeyedBytes slot pa data.length = data)) ∧
  ∀ (port pa : Nat) (data : List Byte) (write : Bool) (s : State),
    (s.locked = true ∨ Sparse.find s.links port ≠ some .up ∨ memorySize < pa + data.length ∨ write = false →
      exec (.ualinkPeerAccess port pa data write) s = .next s) ∧
    (s.locked = false → Sparse.find s.links port = some .up → pa + data.length ≤ memorySize →
      (write = true → ∃ t, exec (.ualinkPeerAccess port pa data write) s = .next t ∧
        t = { s with mem := t.mem, lineKey := t.lineKey, poison := t.poison } ∧
        t.readKeyedBytes (Config.peerKey port pa).toNat pa data.length = data))

/-- R387, R400, R401: LINK trains, retrains and disables a port that the requester may reach, RESULT 2 for a port that does not exist
and 1 for another's; a link that fails stays down until a retrain, and ends the gangs with accesses pending behind it; a remote access
while no Ultra Ethernet port is up, or into no registered region, changes nothing, and writes no fault record (assumption 42). Whether a port comes up in training is seen outside only
(assumption 39). -/
def Claim.Links : Prop :=
  (∀ (who : Writer) (port : Nat) (s : State),
    let other := ∃ p, who = .owner p ∧ ∀ h, Config.portHead port = some h → (s.head h.val).hctl.toNat / 2 ^ 18 % 8 ≠ p
    ∀ i ∈ [Instr.linkTrain who port, .linkRetrain who port, .linkDisable who port], s.command who = some i →
      (28 ≤ port → exec i s = .next (s.endMail who 2)) ∧
      (port < 28 → other → exec i s = .next (s.endMail who 1)) ∧
      (port < 28 → ¬ other → ∃ t, exec i s = .next t ∧ t.command who = none ∧ t.waves = s.waves ∧ t.mem = s.mem ∧
        (∀ k, k ≠ port → Sparse.find t.links k = Sparse.find s.links k) ∧
        (i = .linkDisable who port → Sparse.find t.links port = some .down) ∧
        (i = .linkTrain who port → Sparse.find s.links port = some .failed → Sparse.find t.links port = some .failed) ∧
        (i ≠ .linkTrain who port ∨ Sparse.find s.links port ≠ some .failed →
          Sparse.find t.links port = some .up ∨ Sparse.find t.links port = some .down))) ∧
  (∀ (port : Nat) (s : State), port < 28 → Config.portHead port = none →
    ∃ t, exec (.ualinkLinkFailure port) s = .next t ∧ Sparse.find t.links port = some .failed ∧
      (s.pendingBehind port = [] → s.heldBehind port = [] → t = { s with links := t.links } ∧
        ∀ k, k ≠ port → Sparse.find t.links k = Sparse.find s.links k)) ∧
  ∀ (asn va : Nat) (data : List Byte) (write : Bool) (s : State),
    let up := ∃ k, k < 4 ∧ Sparse.find s.links (Config.uetPort k).val = some .up
    (s.locked = true ∨ ¬ up → exec (.uetRemoteAccess asn va data write) s = .next s) ∧ (s.locked = false → up →
    (Config.uetRegion s.freeCtr asn va data.length = none →
      exec (.uetRemoteAccess asn va data write) s = .next { s with freeCtr := s.freeCtr + 1 }) ∧
    ∀ p, Config.uetRegion s.freeCtr asn va data.length = some p →
      let u := { s with freeCtr := s.freeCtr + 1 }
      let a : Acc := { core := none, part := p.toNat, asn := asn, gen := s.genOf p.toNat asn }
      (write = true → ∀ t, u.agentWrite a va data = .ok t → exec (.uetRemoteAccess asn va data write) s = .next t) ∧
      (write = true → ∀ v, u.agentWrite a va data = .error v → exec (.uetRemoteAccess asn va data write) s = .next u) ∧
      (write = false → ∀ t bs, u.agentRead a va data.length = .ok (t, bs) → exec (.uetRemoteAccess asn va data write) s = .next t) ∧
      (write = false → ∀ v, u.agentRead a va data.length = .error v → exec (.uetRemoteAccess asn va data write) s = .next u))

/-- R13, R387-R396, R402-R409: partitions, keys, attestation, images, firmware, idle, bring-up, reset and power. It rests on assumptions
35, 36, 38 and 43. -/
def Obligations.Platform : Prop :=
  Claim.Mailboxes ∧ Claim.PartitionSets ∧ Claim.AreasFound ∧ Claim.PartitionResets ∧ Claim.KeysAndReports ∧ Claim.ImageLoads ∧ Claim.FirmwareUpdates ∧
  Claim.IdleAndWake ∧ Claim.BringUp ∧ Claim.PowerAndReset

/-- R5, R137, R308, R324, R325, R343, R364, R367, R387, R390, R399-R401, R403: register writes, and what comes in from outside. -/
def Obligations.OutsideWorld : Prop := Claim.RegisterWrites ∧ Claim.OutsideAccesses ∧ Claim.Links

/-- R147-R156: the encoder and the decoder agree: every well-formed instruction that has a place in code decodes from its
words to itself, with every operand at every value that its encoding admits, and the length that its first word tells is
that of its words. A reserved opcode counts its words by M, and is one word here. -/
def Obligations.RoundTrip : Prop :=
  ∀ i : Instr, i.coded = true → i.WellFormed = true →
    let ws := encode i
    decode (ws.getD 0 0) (ws.getD 1 0) = .ok i ∧ (∀ w ∈ ws, w < 2 ^ 32) ∧
    ((∃ x, i = .reservedOpcode x) ∨ lengthOf (ws.getD 0 0) = ws.length)

/-- R147-R156, R228, R239, R252, R286: words that the spec's worked examples write out, one or more of each family, decode to the
instructions that they stand for: the short form with a literal, long forms, guards and branches, memory, barriers and
copies, matrix, moment, graphics and system forms. -/
def Obligations.WorkedWords : Prop :=
  decode 0x000603BE 0x64 = .ok (.add (.v 3) (.v 1) (.lit 100)) ∧
  decode 0x36080384 0x06840000 = .ok (.ffma .rtz (.v 4) (.v 1) (.o 2) (.v 6)) ∧
  decode 0x2F800600 0 = .ok (.mov (.o 0) (.v 3)) ∧
  decode 0x2A03BD82 0xDCD00500 = .ok (.icmp .ge .n32 1 .quad (.o 1)) ∧
  decode 0x8E000201 0x20 = .ok (.brcSplit false 1 8) ∧ decode 0x8C000000 0x14 = .ok (.bra 5) ∧
  decode 0x960000FC 0 = .ok (.seam 7 7) ∧ decode 0x6FCC0200 0 = .ok (.ballot (.g 6) 1) ∧ decode 0x94000000 0 = .ok .exit ∧
  decode 0xA0080400 4 = .ok (.ld { ofs := 0, evp := 0, evo := false, sz := .b32 } (.v 4) (.v 2)) ∧
  decode 0x300A0808 0 = .ok (.fadd (.v 5) (.v 4) (.v 4)) ∧ decode 0x9E000600 0 = .ok (.bkpt 3) ∧
  decode 0x71CC0A00 0xDC800000 = .ok (.wred .add .f32 (.g 6) (.v 5)) ∧
  decode 0xBDD7D9DA 0x01400000 = .ok (.copy .plain false 2 true 0 (.g 11) (.g 12) 13) ∧
  decode 0xBBB801BE 0x2000 = .ok (.bexp .zero 0 (.lit 8192)) ∧ decode 0xB7D00000 0 = .ok (.barr (.g 8) 0) ∧
  decode 0xB9D201D0 0 = .ok (.bwait (.g 9) 0 (.g 8)) ∧
  decode 0xC1E80000 0x22004D00 = .ok (.mloop none 20 2 1 2 false true true .ninf) ∧
  decode 0xC5F1EC00 0x34000000 = .ok (.msoft (.g 24) 22 3 false true false) ∧
  decode 0xC80C0405 0xDC000102 = .ok (.maddLong true .pos 3 1 1) ∧ decode 0xC80C0408 0 = .ok (.madd 3 1 2) ∧
  decode 0xCC141400 0 = .ok (.mnl .relu 5 5) ∧ decode 0xD810000A 0 = .ok (.pull false (.v 8) 0 5) ∧
  decode 0xD60013BE 0x11 = .ok (.emit false 0 (.v 9) (.lit 0x11)) ∧
  decode 0xDA2011C8 0x9FF00000 = .ok (.trace (some 1) 0xFF false false 16 8 (.g 4)) ∧
  decode 0xE201D5D6 0 = .ok (.tlbi .page (.g 10) (.g 11)) ∧ decode 0xE5D9DA00 0 = .ok (.genInc (.g 12) (.g 13)) ∧
  decode 0xE1B9DDDE 0x40000000 = .ok (.ctxReply .zero (.g 14) (.g 15))

/-- R11, R18: the end of a cycle of the compute cores: a panel that issued shows no stall reason, and the display cores keep the part of a
cycle that is left over. -/
def Claim.cycleEnd (t : State) : State := { t.shown with dispPart := t.dispPart % t.coreClock }

/-- R140, R147, R158: a step in which a panel that nothing holds has its turn runs the instruction that the words at its PC decode to:
the machine is at its next cycle, every panel counts as one that has not issued, and `cur` names the panel with the instruction's
length; then the panel's turn is counted, a panel that was let go for one step is asked to stop, and the cycle is counted for
every live wave and in the display cores' part of a cycle (R11). Words that stand for no instruction are an illegal trap, a clause header is taken up likewise, and an event that is named
acts. A step without a named turn is one in which every event of the model's order may act and every core issues (assumption 3).
(Shown for a wave with no panel too narrow, which would enter FFW first.) -/
def Obligations.StepRunsDecoded : Prop :=
  (∀ (s : State) (wid e : Nat) (rest : List Turn), s.turns = .issue wid e :: rest → s.powered = true → s.tripped = false →
    let u := { s.tick with turns := rest }
    let c : Cur := { wid := wid, entry := e, len := 1 }
    let m := u.mark (u.reasons u)
    let held := (u.reasons u).filter fun r => r.1 == (wid, e)
    let ends : State → List (Nat × Nat) → Host.Outcome State Fault Refusal := fun t l =>
      .next (Claim.cycleEnd (u.afterSteps (t.count ((u.reasons u).map fun r => r.1.1).eraseDups l)))
    let turn := fun (t : State) => ends (m.afterTurn t (wid, e)).1 (if (m.afterTurn t (wid, e)).2 then [(wid, e)] else [])
    (∀ k, k < 8 → u.narrow wid k = false) →
    (held = [((wid, e), none)] → m.holdReason wid e = none →
      (∀ i len, u.fetch c = .instr i len → m.fetch c = .instr i len →
        (∀ t, exec i { m with cur := some { c with len := len } } = .next t → step s = turn t) ∧
        (∀ f, exec i { m with cur := some { c with len := len } } = .fault f → step s = .fault f) ∧
        ∀ r, exec i { m with cur := some { c with len := len } } = .refused r → step s = .refused r) ∧
      ∀ len, u.fetch c = .bad len → m.fetch c = .bad len → step s = turn (m.takeTrap { c with len := len } { cause := 0x01 })) ∧
    ∀ k w t, held = [((wid, e), some k)] → u.fetches wid e = true → m.fetch c = .header w →
      exec (.clauseHeader w) { m with cur := some c } = .next t → ((t.wave wid).panel e).frame = none → step s = ends t []) ∧
  (∀ (s : State) (i : Instr) (rest : List Turn) (t : State), s.turns = .act i :: rest → s.powered = true → s.tripped = false →
    announced i = false ∨ s.stage = 6 → registerAct i = false ∨ s.locked = false →
    let u := { s.tick with turns := rest }
    exec i { u with cur := none } = .next t → t.powered = true → t.tripped = false →
    let v := u.afterSteps t
    step s = .next (Claim.cycleEnd
      (v.afterSteps ((v.mark (v.reasons u)).count ((v.reasons u).map fun r => r.1.1).eraseDups [])))) ∧
  ∀ s : State, s.turns = [] → step s = step { s with turns := [.cycle s.tick.events] }

/-- R18, R313: a valid panel of a live wave that shows ISS shows no stall reason. -/
def Claim.IssueShown (s : State) : Prop :=
  ∀ wid e, e < 8 → (s.wave wid).alive = true → ((s.wave wid).panel e).valid = true → ((s.wave wid).panel e).iss = true →
    ((s.wave wid).panel e).stall = 0

/-- R16, R342: of the panels that are ready one issues exactly when no panel of its core before it in the order holds one of its
slices, so that panels that issue in one cycle on one core lie on disjoint slices, and the first in the order issues. -/
def Claim.IssueSelected : Prop :=
  ∀ (s : State) (ready : List (Nat × Nat)), (∀ x ∈ ready, x.2 < 8) → ∀ x,
    x ∈ s.arbitrate ready ↔ x ∈ ready ∧
      ∀ y ∈ ready, y.1 / 64 = x.1 / 64 → s.rank y < s.rank x → s.slicesOf y &&& s.slicesOf x = 0

/-- R342: the order of the ready panels of a core: urgent ones first, then realtime work, the earliest ready, the lower slot and the
lower entry. (A wave whose launch is not in the machine's list is not realtime work.) -/
def Claim.IssueOrder : Prop :=
  ∀ (s : State) (x y : Nat × Nat), x.2 < 8 → y.2 < 8 → x.1 / 64 = y.1 / 64 → s.cycle < 2 ^ 64 →
    ((s.wave x.1).panel x.2).ready < 2 ^ 64 → ((s.wave y.1).panel y.2).ready < 2 ^ 64 →
    let since := fun (z : Nat × Nat) => ((s.wave z.1).panel z.2).readySince s.cycle
    let urgent := fun z => since z + 192 ≤ s.cycle
    let realtime := fun (z : Nat × Nat) => ∃ l, s.launch? (s.curWg { wid := z.1, entry := z.2, len := 1 }).lid = some l ∧ l.cls = 0
    (s.rank x < s.rank y ↔
      (urgent x ∧ ¬ urgent y) ∨ ((urgent x ↔ urgent y) ∧
        ((realtime x ∧ ¬ realtime y) ∨ ((realtime x ↔ realtime y) ∧
          (since x < since y ∨ (since x = since y ∧ (x.1 % 64 < y.1 % 64 ∨ (x.1 = y.1 ∧ x.2 < y.2))))))))

/-- R16, R18, R313, R342: every step keeps it that a panel shown to have issued shows no stall reason, whatever the step does; and
which of the ready panels issue in a cycle follows the order of R342. -/
def Obligations.StepsShowIssue : Prop :=
  (∀ s t : State, Claim.IssueShown s → step s = .next t → Claim.IssueShown t) ∧ Claim.IssueSelected ∧ Claim.IssueOrder

/-- R308, R323-R326, R343, R367, R386, R388, R403, R407: what reset leaves in the registers that the spec gives a reset value: each is
zero, but for QCFG (the normal class), IDENT (vendor 0x9600 and generation 2 with no core and stage 0; its REV, to which the spec gives no
value, is zero by the model's choice: assumption 2, DESIGN CHOICE), PWRCAP (3,200 W) and CLKSTAT (3.3 GHz); no wave
is live, no launch and no reservation of the machine is held, and the panels' invariant of the issue display holds. -/
def Obligations.ResetState : Prop :=
  Claim.IssueShown State.reset ∧ State.reset.stage = 0 ∧ State.reset.regs.pwrcap = 3200 ∧ State.reset.regs.clkstat = 33 ∧
  State.reset.regs.ident.toNat = 0x9600 * 2 ^ 48 + 2 * 2 ^ 40 ∧ (State.reset.regs.therm.getLsbD 40 = false) ∧
  (∀ w, (State.reset.wave w).alive = false) ∧ (∀ k, State.reset.launch? k = none ∧ State.reset.gang? k = none) ∧
  (∀ q, let x := State.reset.queue q
    x.qbase = 0 ∧ x.qcfg = 0x20 ∧ x.qrd = 0 ∧ x.qput = 0 ∧ x.qann = 0 ∧ x.qstat = 0) ∧
  (∀ p, let x := State.reset.part p
    x.astbase = 0 ∧ x.astcnt = 0 ∧ x.fqbase = 0 ∧ x.fqhead = 0 ∧ x.fqtail = 0 ∧ x.fqpend = 0 ∧ x.savectl = 0 ∧ x.rsvstat = 0 ∧
    x.en = false ∧ x.clus = 0 ∧ x.kfirst = 0 ∧ x.kcnt = 0 ∧ x.gbase = 0 ∧ x.gsize = 0 ∧ x.dbgctl = 0 ∧ x.dbgdata = 0 ∧ x.dbgstat = 0 ∧
    x.trbase = 0 ∧ x.trsize = 0 ∧ x.trhead = 0 ∧ x.trtail = 0 ∧ x.trlost = 0 ∧ x.logbase = 0 ∧ x.logsize = 0 ∧ x.loghead = 0 ∧
    x.logtail = 0 ∧ x.mirctl = 0) ∧
  ∀ h, let x := State.reset.head h
    x.hctl = 0 ∧ x.htim = 0 ∧ x.pclk = 0 ∧ x.kcfg = 0 ∧ x.fdbase = 0 ∧ x.fdcfg = 0 ∧ x.fdrd = 0 ∧ x.fdann = 0 ∧ x.wbrec = 0 ∧ x.wbcbm = 0
end

