-- ==== Sys2Proof/Laws/Cycle.lean ====
section
/-! SUPPORT. What the shared operations of a cycle and of a lane access can do: one lemma each. -/

namespace Sys2Proof.Machine

/-- A sequence answers a next state where both of its parts do. -/
theorem andThen_eq_next {o : Out} {k : State → Out} {t : State} :
    andThen o k = .next t ↔ ∃ s, o = .next s ∧ k s = .next t := by
  cases o <;> simp [andThen]

@[simp] theorem andThen_next (s : State) (k : State → Out) : andThen (.next s) k = k s := rfl

/-- What the checks of some accesses let an instruction do (R124, R208, R349): it goes on with those that the home L2 rejects, waits
for a held access of its lanes to the same bytes, takes the trap of the first access that fails, or ends its gang. -/
theorem whenChecked_cases (c : Cur) (s : State) (xs : List Access) (k : List Access → Out) :
    (s.judge (s.laneAcc c) xs = .clear ∧ s.mustWait c xs = false ∧
      whenChecked c s xs k = k (xs.filter (s.rejects (s.laneAcc c)))) ∨
    (s.judge (s.laneAcc c) xs = .clear ∧ s.mustWait c xs = true ∧ whenChecked c s xs k = .next s) ∨
    (∃ write e, s.judge (s.laneAcc c) xs = .trap write e ∧ whenChecked c s xs k = accessTrap c write false e s) ∨
    ∃ code, s.judge (s.laneAcc c) xs = .ends code ∧ whenChecked c s xs k = endCur c code s := by
  unfold whenChecked whenCheckedOr
  cases s.judge (s.laneAcc c) xs with
  | clear => cases s.mustWait c xs <;> simp
  | trap write e => simp
  | ends code => simp

/-- The same for an instruction that cannot go on without its rejected accesses, among those that it has not made yet: it waits at its
place for them. -/
theorem whenClear_cases (i : Instr) (c : Cur) (s : State) (xs : List Access) (k : Out) :
    let a := s.laneAcc c
    let ys := xs.filter fun x => !a.has x
    (s.judge a ys = .clear ∧ s.mustWait c ys = false ∧ ys.filter (s.rejects a) = [] ∧ whenClear i c s xs k = k) ∨
    (s.judge a ys = .clear ∧ s.mustWait c ys = false ∧ ys.filter (s.rejects a) ≠ [] ∧
      whenClear i c s xs k = holdIssue i c s ys (ys.filter (s.rejects a))) ∨
    (s.judge a ys = .clear ∧ s.mustWait c ys = true ∧ whenClear i c s xs k = .next s) ∨
    (∃ write e, s.judge a ys = .trap write e ∧ whenClear i c s xs k = accessTrap c write false e s) ∨
    ∃ code, s.judge a ys = .ends code ∧ whenClear i c s xs k = endCur c code s := by
  simp only [whenClear]
  rcases whenChecked_cases c s (xs.filter fun x => !(s.laneAcc c).has x)
    (fun zs => if zs.isEmpty then k else holdIssue i c s (xs.filter fun x => !(s.laneAcc c).has x) zs) with
    ⟨hj, hw, h⟩ | ⟨hj, hw, h⟩ | ⟨w, e, hj, h⟩ | ⟨n, hj, h⟩
  · rw [h]
    cases hz : (xs.filter fun x => !(s.laneAcc c).has x).filter (s.rejects (s.laneAcc c)) with
    | nil => exact .inl ⟨hj, hw, rfl, rfl⟩
    | cons z zs => exact .inr (.inl ⟨hj, hw, by simp, rfl⟩)
  · exact .inr (.inr (.inl ⟨hj, hw, h⟩))
  · exact .inr (.inr (.inr (.inl ⟨w, e, hj, h⟩)))
  · exact .inr (.inr (.inr (.inr ⟨n, hj, h⟩)))

/-- An event acts, or leaves the machine as it is while its stage, its clocks or a lock forbid it (R392, R403, R407). -/
theorem actTurn_cases (s : State) (i : Instr) : actTurn s i = .next s ∨ actTurn s i = exec i { s with cur := none } := by
  unfold actTurn
  split
  · exact .inl rfl
  · split
    · exact .inl rfl
    · split
      · exact .inl rfl
      · exact .inr rfl

/-- A step is one cycle on the machine whose clock has advanced. -/
theorem nextTurn_runs (s : State) : ∃ acts who ts, nextTurn s = runCycle acts who { s.tick with turns := ts } := by
  unfold nextTurn
  split
  · exact ⟨_, _, _, rfl⟩
  · exact ⟨_, _, _, rfl⟩
  · exact ⟨_, _, _, rfl⟩
  · rename_i h
    refine ⟨s.tick.events, .all, [], ?_⟩
    have : s.tick.turns = [] := h
    rw [← this]

/-- A cycle answers a next state where its events do and, unless the clocks stand still, its issues and the display cores' further
cycles do. -/
theorem runCycle_eq_next {acts : List Instr} {who : Issuers} {s t : State} :
    runCycle acts who s = .next t ↔
      ∃ u v w, actEach acts s = .next u ∧
        (if !u.powered || u.tripped then Host.Outcome.next u else issueCycle s who u) = .next v ∧
        (if !v.powered || v.tripped || !who.chooses then Host.Outcome.next v else displayCycles (v.dispPart / v.coreClock) v) = .next w ∧
        { w.shown with dispPart := w.dispPart % w.coreClock } = t := by
  unfold runCycle
  rw [andThen_eq_next]
  constructor
  · rintro ⟨u, hu, h⟩
    obtain ⟨v, hv, h⟩ := andThen_eq_next.mp h
    obtain ⟨w, hw, h⟩ := andThen_eq_next.mp h
    exact ⟨u, v, w, hu, hv, hw, by injection h⟩
  · rintro ⟨u, v, w, hu, hv, hw, rfl⟩
    exact ⟨u, hu, andThen_eq_next.mpr ⟨v, hv, andThen_eq_next.mpr ⟨w, hw, rfl⟩⟩⟩

end Sys2Proof.Machine
end

