-- ==== Sys2Proof/Laws/Memory.lean ====
section
/-! SUPPORT. Every operation on memory and on the local stores keeps their canonical form. -/

namespace Sys2Proof.Machine

theorem Memory.wf_reset : Memory.wf State.reset.mem = true := rfl

theorem Memory.wf_set {l : List Host.Cell} (k : Nat) (b : Byte) (h : Memory.wf l = true) :
    Memory.wf (Sparse.set 0 l k b) = true := Sparse.wf_set k b h

theorem Memory.wf_setBytes {l : List Host.Cell} (k : Nat) (bs : List Byte) (h : Memory.wf l = true) :
    Memory.wf (Sparse.setBytes l k bs) = true := Sparse.wf_setBytes k bs h

theorem Memory.wf_filter {l : List Host.Cell} (q : Host.Cell → Bool) (h : Memory.wf l = true) :
    Memory.wf (l.filter q) = true := Sparse.wf_filter q h

theorem State.rekeyLine_wf {s : State} (slot line : Nat) (h : Memory.wf s.mem = true) :
    Memory.wf (s.rekeyLine slot line).mem = true := by
  simp only [State.rekeyLine]
  split
  · exact h
  · split
    · exact h
    · exact Memory.wf_setBytes _ _ h

theorem State.writeKeyed_wf {s : State} (slot pa : Nat) (b : Byte) (h : Memory.wf s.mem = true) :
    Memory.wf (s.writeKeyed slot pa b).mem = true :=
  Memory.wf_set _ _ (State.rekeyLine_wf _ _ h)

theorem State.writeKeyedBytes_wf (slot : Nat) (bs : List Byte) :
    ∀ (s : State) (pa : Nat), Memory.wf s.mem = true → Memory.wf (s.writeKeyedBytes slot pa bs).mem = true := by
  induction bs with
  | nil => exact fun _ _ h => h
  | cons b bs ih => exact fun s pa h => ih _ _ (State.writeKeyed_wf slot pa b h)

@[simp] theorem State.setL1At_mem (s : State) (ix : Nat) (x : L1Line) : (s.setL1At ix x).mem = s.mem := rfl

@[simp] theorem State.clearPoison_mem (s : State) (line : Nat) : (s.clearPoison line).mem = s.mem := rfl

theorem foldl_wf {α : Type} (f : State → α → State)
    (hf : ∀ s a, Memory.wf s.mem = true → Memory.wf (f s a).mem = true) (l : List α) :
    ∀ s : State, Memory.wf s.mem = true → Memory.wf (l.foldl f s).mem = true := by
  induction l with
  | nil => exact fun _ h => h
  | cons a l ih => exact fun s h => ih _ (hf s a h)

theorem State.writeBackLine_wf {s : State} (ix : Nat) (h : Memory.wf s.mem = true) :
    Memory.wf (s.writeBackLine ix).mem = true := by
  have hb : ∀ (x : L1Line) (l : List Nat) (t : State), Memory.wf t.mem = true → Memory.wf (l.foldl (fun s i =>
      if x.written.getLsbD i then s.writeKeyed (ixKey ix) (128 * ixLine ix + i) (x.data.getD i 0) else s) t).mem = true := by
    intro x l
    refine foldl_wf _ (fun s i hs => ?_) l
    split
    · exact State.writeKeyed_wf _ _ _ hs
    · exact hs
  have hx := hb (s.l1At ix) (List.range 128) s h
  simp only [State.writeBackLine, State.setL1At_mem]
  generalize List.range 128 = l at hx ⊢
  split <;> exact hx

theorem State.releaseL1_wf {s : State} (core : Nat) (h : Memory.wf s.mem = true) :
    Memory.wf (s.releaseL1 core).mem = true :=
  foldl_wf _ (fun _ _ hs => State.writeBackLine_wf _ hs) _ _ h

theorem State.makeRoom_wf {s : State} (core ix : Nat) (h : Memory.wf s.mem = true) :
    Memory.wf (s.makeRoom core ix).mem = true := by
  simp only [State.makeRoom]
  split
  · exact h
  · split
    · exact h
    · exact State.writeBackLine_wf _ h

theorem State.giveUp_wf {s : State} (ix : Nat) (h : Memory.wf s.mem = true) : Memory.wf (s.giveUp ix).mem = true := by
  simpa only [State.giveUp, State.setL1At_mem] using State.writeBackLine_wf ix h

theorem State.soleLine_wf {s : State} (ix : Nat) (h : Memory.wf s.mem = true) : Memory.wf (s.soleLine ix).mem = true :=
  foldl_wf _ (fun _ ix hs => State.giveUp_wf ix hs) _ _ h

theorem State.bypass_wf {s : State} (a : Acc) (key line : Nat) (h : Memory.wf s.mem = true) :
    Memory.wf (s.bypass a key line).mem = true := by
  simp only [State.bypass]
  split
  · exact h
  · exact foldl_wf _ (fun _ ix hs => State.giveUp_wf ix hs) _ _ h

theorem State.renewLine_wf {s : State} (gen ix : Nat) (h : Memory.wf s.mem = true) :
    Memory.wf (s.renewLine gen ix).mem = true := by
  simp only [State.renewLine]
  split
  · exact h
  · exact State.giveUp_wf _ h

theorem State.storeL1_wf {s : State} (core gen evp ix i : Nat) (b : Byte) (h : Memory.wf s.mem = true) :
    Memory.wf (s.storeL1 core gen evp ix i b).mem = true := by
  simp only [State.storeL1, State.setL1At_mem]
  exact State.makeRoom_wf _ _ (State.renewLine_wf _ _ (State.soleLine_wf _ h))

theorem State.touchL1_wf {s : State} (core gen evp ix i : Nat) (h : Memory.wf s.mem = true) :
    Memory.wf (s.touchL1 core gen evp ix i).mem = true := by
  simp only [State.touchL1]
  split
  · exact State.soleLine_wf _ h
  · simp only [State.fillLine, State.setL1At_mem]
    exact State.makeRoom_wf _ _ (State.renewLine_wf _ _ (State.soleLine_wf _ h))

theorem State.writePlace_wf {s : State} (a : Acc) (b : Byte) (x : Place) (h : Memory.wf s.mem = true) :
    Memory.wf (s.writePlace a b x).mem = true := by
  cases x with
  | sparse => exact h
  | leaf e pa =>
    simp only [State.writePlace]
    split
    · exact h
    · split
      · split
        · exact State.writeBackLine_wf _ (State.storeL1_wf _ _ _ _ _ _ h)
        · exact State.storeL1_wf _ _ _ _ _ _ h
      · exact State.writeKeyed_wf _ _ _ (State.bypass_wf _ _ _ h)

theorem State.writePlaces_wf (a : Acc) (ps : List Place) :
    ∀ (bs : List Byte) (s : State), Memory.wf s.mem = true → Memory.wf (s.writePlaces a ps bs).mem = true := by
  induction ps with
  | nil => intro bs s h; cases bs <;> exact h
  | cons x xs ih =>
    intro bs s h
    cases bs with
    | nil => exact h
    | cons b bs => exact ih _ _ (State.writePlace_wf a b x h)

theorem State.readPlace_wf {s : State} (a : Acc) (x : Place) (h : Memory.wf s.mem = true) :
    Memory.wf (s.readPlace a x).1.mem = true := by
  cases x with
  | sparse => exact h
  | leaf e pa =>
    simp only [State.readPlace]
    split
    · exact h
    · split
      · exact State.touchL1_wf _ _ _ _ _ h
      · exact State.bypass_wf _ _ _ h

theorem State.readEach_wf (a : Acc) (ps : List Place) :
    ∀ s : State, Memory.wf s.mem = true → Memory.wf (s.readEach a ps).1.mem = true := by
  induction ps with
  | nil => exact fun _ h => h
  | cons x xs ih => exact fun s h => ih _ (State.readPlace_wf a x h)

theorem State.touchPlaces_wf (a : Acc) (ps : List Place) :
    ∀ s : State, Memory.wf s.mem = true → Memory.wf (s.touchPlaces a ps).mem = true := by
  induction ps with
  | nil => exact fun _ h => h
  | cons x xs ih =>
    intro s h
    refine ih _ ?_
    split
    · exact h
    · exact State.touchL1_wf _ _ _ _ _ h

/-- What a load may change in memory: the written bytes of the lines that its fills replace, or that it passes by, are sent there
(R111, R112). -/
theorem State.readPlaces_wf {s : State} (a : Acc) (ps : List Place) (h : Memory.wf s.mem = true) :
    Memory.wf (s.readPlaces a ps).1.mem = true :=
  State.readEach_wf a ps _ (State.touchPlaces_wf a ps s h)

theorem State.cacheIn_mem (s : State) (a : Acc) (va : Nat) (x : DWord × Nat) (unit : Nat) :
    (s.cacheIn a va x unit).mem = s.mem := by
  simp only [State.cacheIn]
  split <;> rfl

theorem State.cacheLeaf_mem (s : State) (a : Acc) (va : Nat) : (s.cacheLeaf a va).mem = s.mem := by
  simp only [State.cacheLeaf]
  split
  · rfl
  · split
    · rw [State.cacheIn_mem, State.cacheIn_mem]
    · rfl

theorem State.cacheLeaves_mem (a : Acc) (vas : List Nat) : ∀ s : State, (s.cacheLeaves a vas).mem = s.mem := by
  induction vas with
  | nil => exact fun _ => rfl
  | cons va vas ih => exact fun s => (ih _).trans (State.cacheLeaf_mem s a va)

/-- A read by an agent keeps the form of memory; one that goes through no L1 changes no byte of it. -/
theorem State.readVa_wf {s : State} (a : Acc) (va n : Nat) (h : Memory.wf s.mem = true) :
    Memory.wf (s.readVa a va n).1.mem = true := by
  simp only [State.readVa]
  split
  · exact h
  · have hr := fun ps => State.readPlaces_wf (s := s.cacheLeaves a (spanOf va n)) a ps ((State.cacheLeaves_mem a _ s).symm ▸ h)
    split
    · exact h
    · split <;> exact hr _

theorem State.touchPlaces_uncached (a : Acc) (ha : a.core = none) (ps : List Place) :
    ∀ s : State, s.touchPlaces a ps = s := by
  induction ps with
  | nil => exact fun _ => rfl
  | cons x xs ih =>
    intro s
    have hx : a.line x = none := by cases x <;> simp [Acc.line, ha]
    simp only [State.touchPlaces, hx]
    exact ih s

theorem State.readPlace_uncached (s : State) (a : Acc) (ha : a.core = none) (x : Place) : (s.readPlace a x).1 = s := by
  have hx : a.line x = none := by cases x <;> simp [Acc.line, ha]
  cases x with
  | sparse => rfl
  | leaf e pa =>
    simp only [State.readPlace, hx, State.bypass, ha]
    split <;> rfl

theorem State.readEach_uncached (a : Acc) (ha : a.core = none) (ps : List Place) : ∀ s : State, (s.readEach a ps).1 = s := by
  induction ps with
  | nil => exact fun _ => rfl
  | cons x xs ih =>
    intro s
    simp only [State.readEach, State.readPlace_uncached s a ha x]
    exact ih s

theorem State.readVa_mem (s : State) (a : Acc) (ha : a.core = none) (va n : Nat) : (s.readVa a va n).1.mem = s.mem := by
  have hp : ∀ (t : State) ps, (t.readPlaces a ps).1 = t := fun t ps => by
    rw [State.readPlaces, State.touchPlaces_uncached a ha, State.readEach_uncached a ha]
  simp only [State.readVa]
  split
  · rfl
  · split
    · rfl
    · rw [hp]
      split <;> exact State.cacheLeaves_mem _ _ _

theorem State.writeVa_wf {s t : State} {a : Acc} {va : Nat} {bs : List Byte} (h : Memory.wf s.mem = true)
    (e : s.writeVa a va bs = .ok t) : Memory.wf t.mem = true := by
  simp only [State.writeVa] at e
  split at e
  · cases e
  · rename_i ps _
    have hw := State.writePlaces_wf a ps bs (s.cacheLeaves a (spanOf va bs.length))
      ((State.cacheLeaves_mem a _ s).symm ▸ h)
    split at e
    · cases e
    · cases e
      exact foldl_wf State.clearPoison (fun _ _ hs => hs) _ _ hw

theorem State.setStore_wf {s : State} (k j : Store) {l : List Host.Cell} (hl : Memory.wf l = true)
    (h : Memory.wf (s.store j) = true) : Memory.wf ((s.setStore k l).store j) = true := by
  cases k <;> cases j <;> first | exact hl | exact h

/-- A write to a local store keeps the form of all three. -/
theorem State.writeStore_wf {s : State} (k j : Store) (core ofs : Nat) (bs : List Byte)
    (h : ∀ j, Memory.wf (s.store j) = true) : Memory.wf ((s.writeStore k core ofs bs).store j) = true :=
  State.setStore_wf k j (Memory.wf_setBytes _ _ (h k)) (h j)

theorem State.setGen_wf {s : State} (p asn gen : Nat) (h : Memory.wf s.mem = true) :
    Memory.wf (s.setGen p asn gen).mem = true := Memory.wf_setBytes _ _ h

theorem State.clearCores_wf {s : State} (f : Nat → Bool) (j : Store) (h : Memory.wf (s.store j) = true) :
    Memory.wf ((s.clearCores f).store j) = true := by
  cases j <;> exact Memory.wf_filter _ h

theorem State.placeFetch_wf {s : State} (nbits w : Nat) (h : Memory.wf s.mem = true) :
    Memory.wf (s.placeFetch nbits w).mem = true :=
  Memory.wf_setBytes _ _ (Memory.wf_setBytes _ _ h)

end Sys2Proof.Machine
end

