-- ==== Sys2Proof/Laws/PerInstr.lean ====
section
/-! SUPPORT. Facts about every instruction as syntax, one lemma for each. -/

namespace Sys2Proof

theorem litWords_length (l : List Src) : (litWords l).length ≤ 1 := by
  induction l with
  | nil => exact Nat.zero_le _
  | cons a r ih => cases a <;> first | exact ih | exact Nat.le_refl _

theorem glitWords_length (l : List GSrc) : (glitWords l).length ≤ 1 := by
  induction l with
  | nil => exact Nat.zero_le _
  | cons a r ih => cases a <;> first | exact ih | exact Nat.le_refl _

end Sys2Proof

namespace Sys2Proof.Laws

/-- A code form has one or two words, and an event of the machine has none (R147, R148). -/
def Words.Statement (i : Instr) : Prop := (encode i).isEmpty = !i.coded ∧ (encode i).length ≤ 2

theorem Words.add (d : Dst) (a b : Src) : Words.Statement (.add d a b) := ⟨rfl, Nat.succ_le_succ (litWords_length _)⟩

theorem Words.addLong (ty : IntTy) (sat : Bool) (d : Dst) (a b : Src) : Words.Statement (.addLong ty sat d a b) :=
  ⟨rfl, Nat.le_of_ble_eq_true rfl⟩

theorem Words.sub (d : Dst) (a b : Src) : Words.Statement (.sub d a b) := ⟨rfl, Nat.succ_le_succ (litWords_length _)⟩

theorem Words.subLong (ty : IntTy) (sat : Bool) (d : Dst) (a b : Src) : Words.Statement (.subLong ty sat d a b) :=
  ⟨rfl, Nat.le_of_ble_eq_true rfl⟩

theorem Words.adds (d : Dst) (a b : Src) : Words.Statement (.adds d a b) := ⟨rfl, Nat.succ_le_succ (litWords_length _)⟩

theorem Words.addsLong (ty : IntTy) (d : Dst) (a b : Src) : Words.Statement (.addsLong ty d a b) :=
  ⟨rfl, Nat.le_of_ble_eq_true rfl⟩

theorem Words.subs (d : Dst) (a b : Src) : Words.Statement (.subs d a b) := ⟨rfl, Nat.succ_le_succ (litWords_length _)⟩

theorem Words.subsLong (ty : IntTy) (d : Dst) (a b : Src) : Words.Statement (.subsLong ty d a b) :=
  ⟨rfl, Nat.le_of_ble_eq_true rfl⟩

theorem Words.mul (d : Dst) (a b : Src) : Words.Statement (.mul d a b) := ⟨rfl, Nat.succ_le_succ (litWords_length _)⟩

theorem Words.mulLong (ty : IntTy) (sat : Bool) (d : Dst) (a b : Src) : Words.Statement (.mulLong ty sat d a b) :=
  ⟨rfl, Nat.le_of_ble_eq_true rfl⟩

theorem Words.mulh (d : Dst) (a b : Src) : Words.Statement (.mulh d a b) := ⟨rfl, Nat.succ_le_succ (litWords_length _)⟩

theorem Words.mulhLong (ty : IntTy) (d : Dst) (a b : Src) : Words.Statement (.mulhLong ty d a b) :=
  ⟨rfl, Nat.le_of_ble_eq_true rfl⟩

theorem Words.mad (ty : IntTy) (sat : Bool) (d : Dst) (a b c : Src) : Words.Statement (.mad ty sat d a b c) :=
  ⟨rfl, Nat.le_of_ble_eq_true rfl⟩

theorem Words.and (d : Dst) (a b : Src) : Words.Statement (.and d a b) := ⟨rfl, Nat.succ_le_succ (litWords_length _)⟩

theorem Words.andLong (ty : IntTy) (d : Dst) (a b : Src) : Words.Statement (.andLong ty d a b) :=
  ⟨rfl, Nat.le_of_ble_eq_true rfl⟩

theorem Words.or (d : Dst) (a b : Src) : Words.Statement (.or d a b) := ⟨rfl, Nat.succ_le_succ (litWords_length _)⟩

theorem Words.orLong (ty : IntTy) (d : Dst) (a b : Src) : Words.Statement (.orLong ty d a b) :=
  ⟨rfl, Nat.le_of_ble_eq_true rfl⟩

theorem Words.xor (d : Dst) (a b : Src) : Words.Statement (.xor d a b) := ⟨rfl, Nat.succ_le_succ (litWords_length _)⟩

theorem Words.xorLong (ty : IntTy) (d : Dst) (a b : Src) : Words.Statement (.xorLong ty d a b) :=
  ⟨rfl, Nat.le_of_ble_eq_true rfl⟩

theorem Words.andn (d : Dst) (a b : Src) : Words.Statement (.andn d a b) := ⟨rfl, Nat.succ_le_succ (litWords_length _)⟩

theorem Words.andnLong (ty : IntTy) (d : Dst) (a b : Src) : Words.Statement (.andnLong ty d a b) :=
  ⟨rfl, Nat.le_of_ble_eq_true rfl⟩

theorem Words.shl (d : Dst) (a b : Src) : Words.Statement (.shl d a b) := ⟨rfl, Nat.succ_le_succ (litWords_length _)⟩

theorem Words.shlLong (ty : IntTy) (d : Dst) (a b : Src) : Words.Statement (.shlLong ty d a b) :=
  ⟨rfl, Nat.le_of_ble_eq_true rfl⟩

theorem Words.shr (d : Dst) (a b : Src) : Words.Statement (.shr d a b) := ⟨rfl, Nat.succ_le_succ (litWords_length _)⟩

theorem Words.shrLong (ty : IntTy) (d : Dst) (a b : Src) : Words.Statement (.shrLong ty d a b) :=
  ⟨rfl, Nat.le_of_ble_eq_true rfl⟩

theorem Words.min (d : Dst) (a b : Src) : Words.Statement (.min d a b) := ⟨rfl, Nat.succ_le_succ (litWords_length _)⟩

theorem Words.minLong (ty : IntTy) (d : Dst) (a b : Src) : Words.Statement (.minLong ty d a b) :=
  ⟨rfl, Nat.le_of_ble_eq_true rfl⟩

theorem Words.max (d : Dst) (a b : Src) : Words.Statement (.max d a b) := ⟨rfl, Nat.succ_le_succ (litWords_length _)⟩

theorem Words.maxLong (ty : IntTy) (d : Dst) (a b : Src) : Words.Statement (.maxLong ty d a b) :=
  ⟨rfl, Nat.le_of_ble_eq_true rfl⟩

theorem Words.absd (d : Dst) (a b : Src) : Words.Statement (.absd d a b) := ⟨rfl, Nat.succ_le_succ (litWords_length _)⟩

theorem Words.absdLong (ty : IntTy) (d : Dst) (a b : Src) : Words.Statement (.absdLong ty d a b) :=
  ⟨rfl, Nat.le_of_ble_eq_true rfl⟩

theorem Words.popc (d : Dst) (a : Src) : Words.Statement (.popc d a) := ⟨rfl, Nat.succ_le_succ (litWords_length _)⟩

theorem Words.popcLong (ty : IntTy) (d : Dst) (a : Src) : Words.Statement (.popcLong ty d a) :=
  ⟨rfl, Nat.le_of_ble_eq_true rfl⟩

theorem Words.clz (d : Dst) (a : Src) : Words.Statement (.clz d a) := ⟨rfl, Nat.succ_le_succ (litWords_length _)⟩

theorem Words.clzLong (ty : IntTy) (d : Dst) (a : Src) : Words.Statement (.clzLong ty d a) :=
  ⟨rfl, Nat.le_of_ble_eq_true rfl⟩

theorem Words.brev (d : Dst) (a : Src) : Words.Statement (.brev d a) := ⟨rfl, Nat.succ_le_succ (litWords_length _)⟩

theorem Words.brevLong (ty : IntTy) (d : Dst) (a : Src) : Words.Statement (.brevLong ty d a) :=
  ⟨rfl, Nat.le_of_ble_eq_true rfl⟩

theorem Words.bfx (ty : IntTy) (d : Dst) (a : Src) (pos width : Nat) : Words.Statement (.bfx ty d a pos width) :=
  ⟨rfl, Nat.le_of_ble_eq_true rfl⟩

theorem Words.bfi (ty : IntTy) (d : Dst) (a b : Src) (pos width : Nat) : Words.Statement (.bfi ty d a b pos width) :=
  ⟨rfl, Nat.le_of_ble_eq_true rfl⟩

theorem Words.icmp (cond : Cond) (ty : IntTy) (p : Nat) (a b : Src) : Words.Statement (.icmp cond ty p a b) :=
  ⟨rfl, Nat.le_of_ble_eq_true rfl⟩

theorem Words.sel (ty : IntTy) (d : Dst) (a b : Src) (p : Nat) : Words.Statement (.sel ty d a b p) :=
  ⟨rfl, Nat.le_of_ble_eq_true rfl⟩

theorem Words.mov (d : Dst) (a : Src) : Words.Statement (.mov d a) := ⟨rfl, Nat.succ_le_succ (litWords_length _)⟩

theorem Words.movLong (ty : IntTy) (d : Dst) (a : Src) : Words.Statement (.movLong ty d a) :=
  ⟨rfl, Nat.le_of_ble_eq_true rfl⟩

theorem Words.fadd (d : Dst) (a b : Src) : Words.Statement (.fadd d a b) := ⟨rfl, Nat.succ_le_succ (litWords_length _)⟩

theorem Words.faddLong (rnd : Rnd) (d : Dst) (a b : Src) : Words.Statement (.faddLong rnd d a b) :=
  ⟨rfl, Nat.le_of_ble_eq_true rfl⟩

theorem Words.fsub (d : Dst) (a b : Src) : Words.Statement (.fsub d a b) := ⟨rfl, Nat.succ_le_succ (litWords_length _)⟩

theorem Words.fsubLong (rnd : Rnd) (d : Dst) (a b : Src) : Words.Statement (.fsubLong rnd d a b) :=
  ⟨rfl, Nat.le_of_ble_eq_true rfl⟩

theorem Words.fmul (d : Dst) (a b : Src) : Words.Statement (.fmul d a b) := ⟨rfl, Nat.succ_le_succ (litWords_length _)⟩

theorem Words.fmulLong (rnd : Rnd) (d : Dst) (a b : Src) : Words.Statement (.fmulLong rnd d a b) :=
  ⟨rfl, Nat.le_of_ble_eq_true rfl⟩

theorem Words.ffma (rnd : Rnd) (d : Dst) (a b c : Src) : Words.Statement (.ffma rnd d a b c) :=
  ⟨rfl, Nat.le_of_ble_eq_true rfl⟩

theorem Words.ffma3 (rnd : Rnd) (d : Dst) (a b c e : Src) : Words.Statement (.ffma3 rnd d a b c e) :=
  ⟨rfl, Nat.le_of_ble_eq_true rfl⟩

theorem Words.fmin (d : Dst) (a b : Src) : Words.Statement (.fmin d a b) := ⟨rfl, Nat.succ_le_succ (litWords_length _)⟩

theorem Words.fminLong (mx : Bool) (d : Dst) (a b : Src) : Words.Statement (.fminLong mx d a b) :=
  ⟨rfl, Nat.le_of_ble_eq_true rfl⟩

theorem Words.fcmp (cond : Cond) (p : Nat) (a b : Src) : Words.Statement (.fcmp cond p a b) :=
  ⟨rfl, Nat.le_of_ble_eq_true rfl⟩

theorem Words.fdiv (d : Dst) (a b : Src) : Words.Statement (.fdiv d a b) := ⟨rfl, Nat.succ_le_succ (litWords_length _)⟩

theorem Words.fdivLong (rnd : Rnd) (d : Dst) (a b : Src) : Words.Statement (.fdivLong rnd d a b) :=
  ⟨rfl, Nat.le_of_ble_eq_true rfl⟩

theorem Words.frcp (d : Dst) (a : Src) : Words.Statement (.frcp d a) := ⟨rfl, Nat.succ_le_succ (litWords_length _)⟩

theorem Words.frcpLong (rnd : Rnd) (d : Dst) (a : Src) : Words.Statement (.frcpLong rnd d a) :=
  ⟨rfl, Nat.le_of_ble_eq_true rfl⟩

theorem Words.frsq (d : Dst) (a : Src) : Words.Statement (.frsq d a) := ⟨rfl, Nat.succ_le_succ (litWords_length _)⟩

theorem Words.frsqLong (rnd : Rnd) (d : Dst) (a : Src) : Words.Statement (.frsqLong rnd d a) :=
  ⟨rfl, Nat.le_of_ble_eq_true rfl⟩

theorem Words.fsqrt (d : Dst) (a : Src) : Words.Statement (.fsqrt d a) := ⟨rfl, Nat.succ_le_succ (litWords_length _)⟩

theorem Words.fsqrtLong (rnd : Rnd) (d : Dst) (a : Src) : Words.Statement (.fsqrtLong rnd d a) :=
  ⟨rfl, Nat.le_of_ble_eq_true rfl⟩

theorem Words.fexp2 (d : Dst) (a : Src) : Words.Statement (.fexp2 d a) := ⟨rfl, Nat.succ_le_succ (litWords_length _)⟩

theorem Words.fexp2Long (rnd : Rnd) (d : Dst) (a : Src) : Words.Statement (.fexp2Long rnd d a) :=
  ⟨rfl, Nat.le_of_ble_eq_true rfl⟩

theorem Words.flog2 (d : Dst) (a : Src) : Words.Statement (.flog2 d a) := ⟨rfl, Nat.succ_le_succ (litWords_length _)⟩

theorem Words.flog2Long (rnd : Rnd) (d : Dst) (a : Src) : Words.Statement (.flog2Long rnd d a) :=
  ⟨rfl, Nat.le_of_ble_eq_true rfl⟩

theorem Words.fsin (d : Dst) (a : Src) : Words.Statement (.fsin d a) := ⟨rfl, Nat.succ_le_succ (litWords_length _)⟩

theorem Words.fsinLong (rnd : Rnd) (cos : Bool) (d : Dst) (a : Src) : Words.Statement (.fsinLong rnd cos d a) :=
  ⟨rfl, Nat.le_of_ble_eq_true rfl⟩

theorem Words.fclass (d : Dst) (a : Src) : Words.Statement (.fclass d a) := ⟨rfl, Nat.succ_le_succ (litWords_length _)⟩

theorem Words.fclassLong (ty : FloatTy) (d : Dst) (a : Src) : Words.Statement (.fclassLong ty d a) :=
  ⟨rfl, Nat.le_of_ble_eq_true rfl⟩

theorem Words.fsgn (d : Dst) (a b : Src) : Words.Statement (.fsgn d a b) := ⟨rfl, Nat.succ_le_succ (litWords_length _)⟩

theorem Words.fsgnLong (wide : Bool) (sel : SgnSel) (d : Dst) (a b : Src) : Words.Statement (.fsgnLong wide sel d a b) :=
  ⟨rfl, Nat.le_of_ble_eq_true rfl⟩

theorem Words.dadd (d : Dst) (a b : Src) : Words.Statement (.dadd d a b) := ⟨rfl, Nat.succ_le_succ (litWords_length _)⟩

theorem Words.daddLong (rnd : Rnd) (d : Dst) (a b : Src) : Words.Statement (.daddLong rnd d a b) :=
  ⟨rfl, Nat.le_of_ble_eq_true rfl⟩

theorem Words.dmul (d : Dst) (a b : Src) : Words.Statement (.dmul d a b) := ⟨rfl, Nat.succ_le_succ (litWords_length _)⟩

theorem Words.dmulLong (rnd : Rnd) (d : Dst) (a b : Src) : Words.Statement (.dmulLong rnd d a b) :=
  ⟨rfl, Nat.le_of_ble_eq_true rfl⟩

theorem Words.dfma (rnd : Rnd) (d : Dst) (a b c : Src) : Words.Statement (.dfma rnd d a b c) :=
  ⟨rfl, Nat.le_of_ble_eq_true rfl⟩

theorem Words.ddiv (d : Dst) (a b : Src) : Words.Statement (.ddiv d a b) := ⟨rfl, Nat.succ_le_succ (litWords_length _)⟩

theorem Words.ddivLong (rnd : Rnd) (d : Dst) (a b : Src) : Words.Statement (.ddivLong rnd d a b) :=
  ⟨rfl, Nat.le_of_ble_eq_true rfl⟩

theorem Words.dsqrt (d : Dst) (a : Src) : Words.Statement (.dsqrt d a) := ⟨rfl, Nat.succ_le_succ (litWords_length _)⟩

theorem Words.dsqrtLong (rnd : Rnd) (d : Dst) (a : Src) : Words.Statement (.dsqrtLong rnd d a) :=
  ⟨rfl, Nat.le_of_ble_eq_true rfl⟩

theorem Words.dcmp (cond : Cond) (p : Nat) (a b : Src) : Words.Statement (.dcmp cond p a b) :=
  ⟨rfl, Nat.le_of_ble_eq_true rfl⟩

theorem Words.dmin (d : Dst) (a b : Src) : Words.Statement (.dmin d a b) := ⟨rfl, Nat.succ_le_succ (litWords_length _)⟩

theorem Words.dminLong (mx : Bool) (d : Dst) (a b : Src) : Words.Statement (.dminLong mx d a b) :=
  ⟨rfl, Nat.le_of_ble_eq_true rfl⟩

theorem Words.hadd2 (d : Dst) (a b : Src) : Words.Statement (.hadd2 d a b) := ⟨rfl, Nat.succ_le_succ (litWords_length _)⟩

theorem Words.hadd2Long (bf : Bool) (rnd : Rnd) (d : Dst) (a b : Src) : Words.Statement (.hadd2Long bf rnd d a b) :=
  ⟨rfl, Nat.le_of_ble_eq_true rfl⟩

theorem Words.hmul2 (d : Dst) (a b : Src) : Words.Statement (.hmul2 d a b) := ⟨rfl, Nat.succ_le_succ (litWords_length _)⟩

theorem Words.hmul2Long (bf : Bool) (rnd : Rnd) (d : Dst) (a b : Src) : Words.Statement (.hmul2Long bf rnd d a b) :=
  ⟨rfl, Nat.le_of_ble_eq_true rfl⟩

theorem Words.hfma2 (bf : Bool) (rnd : Rnd) (d : Dst) (a b c : Src) : Words.Statement (.hfma2 bf rnd d a b c) :=
  ⟨rfl, Nat.le_of_ble_eq_true rfl⟩

theorem Words.cvt (dst src : Fmt) (rnd : Rnd) (d : Dst) (a : Src) : Words.Statement (.cvt dst src rnd d a) :=
  ⟨rfl, Nat.le_of_ble_eq_true rfl⟩

theorem Words.pk (sel : PkSel) (rnd : Rnd) (d : Dst) (a b c : Src) : Words.Statement (.pk sel rnd d a b c) :=
  ⟨rfl, Nat.le_of_ble_eq_true rfl⟩

theorem Words.qswz (d : Dst) (a : Src) (sel : Byte) : Words.Statement (.qswz d a sel) :=
  ⟨rfl, Nat.le_of_ble_eq_true rfl⟩

theorem Words.shfl (d : Dst) (a b : Src) : Words.Statement (.shfl d a b) := ⟨rfl, Nat.succ_le_succ (litWords_length _)⟩

theorem Words.shflLong (mode : ShflMode) (d : Dst) (a b : Src) : Words.Statement (.shflLong mode d a b) :=
  ⟨rfl, Nat.le_of_ble_eq_true rfl⟩

theorem Words.vote (mode : VoteMode) (p q : Nat) : Words.Statement (.vote mode p q) :=
  ⟨rfl, Nat.le_of_ble_eq_true rfl⟩

theorem Words.ballot (d : GDst) (q : Nat) : Words.Statement (.ballot d q) := ⟨rfl, Nat.le_of_ble_eq_true rfl⟩

theorem Words.wred (op : RedOp) (ty : RedTy) (d : RedDst) (a : Src) : Words.Statement (.wred op ty d a) :=
  ⟨rfl, Nat.le_of_ble_eq_true rfl⟩

theorem Words.wscan (op : RedOp) (excl : Bool) (ty : RedTy) (d : Dst) (a : Src) : Words.Statement (.wscan op excl ty d a) :=
  ⟨rfl, Nat.le_of_ble_eq_true rfl⟩

theorem Words.gadd (d : GDst) (a b : GSrc) : Words.Statement (.gadd d a b) := ⟨rfl, Nat.succ_le_succ (glitWords_length _)⟩

theorem Words.gsub (d : GDst) (a b : GSrc) : Words.Statement (.gsub d a b) := ⟨rfl, Nat.succ_le_succ (glitWords_length _)⟩

theorem Words.gmul (d : GDst) (a b : GSrc) : Words.Statement (.gmul d a b) := ⟨rfl, Nat.succ_le_succ (glitWords_length _)⟩

theorem Words.gand (d : GDst) (a b : GSrc) : Words.Statement (.gand d a b) := ⟨rfl, Nat.succ_le_succ (glitWords_length _)⟩

theorem Words.gor (d : GDst) (a b : GSrc) : Words.Statement (.gor d a b) := ⟨rfl, Nat.succ_le_succ (glitWords_length _)⟩

theorem Words.gxor (d : GDst) (a b : GSrc) : Words.Statement (.gxor d a b) := ⟨rfl, Nat.succ_le_succ (glitWords_length _)⟩

theorem Words.gshLeft (d : GDst) (a n : GSrc) : Words.Statement (.gshLeft d a n) :=
  ⟨rfl, Nat.succ_le_succ (glitWords_length _)⟩

theorem Words.gshRight (d : GDst) (a n : GSrc) : Words.Statement (.gshRight d a n) :=
  ⟨rfl, Nat.succ_le_succ (glitWords_length _)⟩

theorem Words.gmov (d : GDst) (a : GSrc) : Words.Statement (.gmov d a) := ⟨rfl, Nat.succ_le_succ (glitWords_length _)⟩

theorem Words.gmovCtl (c : Nat) (a : GSrc) : Words.Statement (.gmovCtl c a) := ⟨rfl, Nat.succ_le_succ (glitWords_length _)⟩

theorem Words.gcmp (cond : Cond) (uns : Bool) (gp : Nat) (a b : GSrc) : Words.Statement (.gcmp cond uns gp a b) :=
  ⟨rfl, Nat.le_of_ble_eq_true rfl⟩

theorem Words.gread (d : GDst) (c : Nat) : Words.Statement (.gread d c) := ⟨rfl, Nat.le_of_ble_eq_true rfl⟩

theorem Words.plog (grp : Bool) (d a b : Nat) (table : BitVec 4) : Words.Statement (.plog grp d a b table) :=
  ⟨rfl, Nat.le_of_ble_eq_true rfl⟩

theorem Words.pmask (p : Nat) (a : GSrc) : Words.Statement (.pmask p a) := ⟨rfl, Nat.succ_le_succ (glitWords_length _)⟩

theorem Words.bra (disp : BitVec 30) : Words.Statement (.bra disp) := ⟨rfl, Nat.le_of_ble_eq_true rfl⟩

theorem Words.brc (neg : Bool) (q : Nat) (disp : BitVec 30) : Words.Statement (.brc neg q disp) :=
  ⟨rfl, Nat.le_of_ble_eq_true rfl⟩

theorem Words.brcSplit (neg : Bool) (q : Nat) (disp : BitVec 30) : Words.Statement (.brcSplit neg q disp) :=
  ⟨rfl, Nat.le_of_ble_eq_true rfl⟩

theorem Words.call (d : GDst) (disp : BitVec 30) : Words.Statement (.call d disp) :=
  ⟨rfl, Nat.le_of_ble_eq_true rfl⟩

theorem Words.ret (a : GSrc) : Words.Statement (.ret a) := ⟨rfl, Nat.succ_le_succ (glitWords_length _)⟩

theorem Words.retTret : Words.Statement (.retTret) := ⟨rfl, Nat.le_of_ble_eq_true rfl⟩

theorem Words.exit : Words.Statement (.exit) := ⟨rfl, Nat.le_of_ble_eq_true rfl⟩

theorem Words.seam (ident : BitVec 12) (k : BitVec 3) : Words.Statement (.seam ident k) :=
  ⟨rfl, Nat.le_of_ble_eq_true rfl⟩

theorem Words.seamTimeout (wid e : Nat) : Words.Statement (.seamTimeout wid e) := ⟨rfl, Nat.le_of_ble_eq_true rfl⟩

theorem Words.yield : Words.Statement (.yield) := ⟨rfl, Nat.le_of_ble_eq_true rfl⟩

theorem Words.yieldExpiry (wid e : Nat) : Words.Statement (.yieldExpiry wid e) := ⟨rfl, Nat.le_of_ble_eq_true rfl⟩

theorem Words.trapf : Words.Statement (.trapf) := ⟨rfl, Nat.le_of_ble_eq_true rfl⟩

theorem Words.trap (code : Byte) : Words.Statement (.trap code) := ⟨rfl, Nat.le_of_ble_eq_true rfl⟩

theorem Words.bkpt (code : Byte) : Words.Statement (.bkpt code) := ⟨rfl, Nat.le_of_ble_eq_true rfl⟩

theorem Words.ld (m : MemWord) (d : Dst) (a : Src) : Words.Statement (.ld m d a) :=
  ⟨rfl, Nat.le_of_ble_eq_true rfl⟩

theorem Words.st (m : MemWord) (a b : Src) : Words.Statement (.st m a b) := ⟨rfl, Nat.le_of_ble_eq_true rfl⟩

theorem Words.lds (m : MemWord) (d : Dst) (a : Src) : Words.Statement (.lds m d a) :=
  ⟨rfl, Nat.le_of_ble_eq_true rfl⟩

theorem Words.sts (m : MemWord) (a b : Src) : Words.Statement (.sts m a b) := ⟨rfl, Nat.le_of_ble_eq_true rfl⟩

theorem Words.ldp (m : MemWord) (d : Dst) (win : Nat) (b : Src) : Words.Statement (.ldp m d win b) :=
  ⟨rfl, Nat.le_of_ble_eq_true rfl⟩

theorem Words.atom (op : AtomOp) (ty : AtomTy) (ord : Order) (scope : Scope) (loc : Bool) (d : Dst) (a b : Src) : Words.Statement (.atom op ty ord scope loc d a b) :=
  ⟨rfl, Nat.le_of_ble_eq_true rfl⟩

theorem Words.cas (ty : IntTy) (ord : Order) (scope : Scope) (loc : Bool) (d : Dst) (a n c : Src) : Words.Statement (.cas ty ord scope loc d a n c) :=
  ⟨rfl, Nat.le_of_ble_eq_true rfl⟩

theorem Words.fence (kind : FenceKind) (scope : Scope) : Words.Statement (.fence kind scope) :=
  ⟨rfl, Nat.le_of_ble_eq_true rfl⟩

theorem Words.sdef (k : Nat) (shape : Shape) (c : GSrc) (pfd : BitVec 2) : Words.Statement (.sdef k shape c pfd) :=
  ⟨rfl, Nat.le_of_ble_eq_true rfl⟩

theorem Words.sxi (d : Dst) (sa sb : Nat) (cnt : GDst) (gpa gpb : Nat) (steps : Nat) : Words.Statement (.sxi d sa sb cnt gpa gpb steps) :=
  ⟨rfl, Nat.le_of_ble_eq_true rfl⟩

theorem Words.sadvSkip (gp k : Nat) (b : GSrc) : Words.Statement (.sadvSkip gp k b) :=
  ⟨rfl, Nat.succ_le_succ (glitWords_length _)⟩

theorem Words.sadvGe (gp k : Nat) (b : GSrc) : Words.Statement (.sadvGe gp k b) :=
  ⟨rfl, Nat.succ_le_succ (glitWords_length _)⟩

theorem Words.barr (d : GDst) (h : Nat) : Words.Statement (.barr d h) := ⟨rfl, Nat.le_of_ble_eq_true rfl⟩

theorem Words.bwait (d : GDst) (h : Nat) (ph : GSrc) : Words.Statement (.bwait d h ph) :=
  ⟨rfl, Nat.succ_le_succ (glitWords_length _)⟩

theorem Words.barrierWaitDone (wid e : Nat) : Words.Statement (.barrierWaitDone wid e) :=
  ⟨rfl, Nat.le_of_ble_eq_true rfl⟩

theorem Words.bexp (d : GDst) (h : Nat) (n : GSrc) : Words.Statement (.bexp d h n) :=
  ⟨rfl, Nat.succ_le_succ (glitWords_length _)⟩

theorem Words.copy (kind : CopyKind) (out : Bool) (evp : BitVec 2) (evo : Bool) (bh : Nat) (l h : GSrc) (gx : Nat) : Words.Statement (.copy kind out evp evo bh l h gx) :=
  ⟨rfl, Nat.le_of_ble_eq_true rfl⟩

theorem Words.copyLanding (tid : Nat) : Words.Statement (.copyLanding tid) := ⟨rfl, Nat.le_of_ble_eq_true rfl⟩

theorem Words.lflush (dev : Bool) (h : GSrc) : Words.Statement (.lflush dev h) := ⟨rfl, Nat.succ_le_succ (glitWords_length _)⟩

theorem Words.lflushComplete (wid e : Nat) : Words.Statement (.lflushComplete wid e) :=
  ⟨rfl, Nat.le_of_ble_eq_true rfl⟩

theorem Words.qpost (db : Bool) (d : GDst) (q a : GSrc) : Words.Statement (.qpost db d q a) :=
  ⟨rfl, Nat.le_of_ble_eq_true rfl⟩

theorem Words.sread (d : Dst) (k : Nat) (b : Src) : Words.Statement (.sread d k b) :=
  ⟨rfl, Nat.succ_le_succ (litWords_length _)⟩

theorem Words.swrite (v : Src) (k : Nat) (b : Src) : Words.Statement (.swrite v k b) :=
  ⟨rfl, Nat.succ_le_succ (litWords_length _)⟩

theorem Words.mloop (areg : Option Nat) (g bh fb ksteps : Nat) (sat init tri : Bool) (tfill : TFill) : Words.Statement (.mloop areg g bh fb ksteps sat init tri tfill) :=
  ⟨rfl, Nat.le_of_ble_eq_true rfl⟩

theorem Words.mloopComplete (tid : Nat) : Words.Statement (.mloopComplete tid) := ⟨rfl, Nat.le_of_ble_eq_true rfl⟩

theorem Words.maccGet (mom : Bool) (d : Nat) (c : GSrc) (nreg : Nat) (str : Half) : Words.Statement (.maccGet mom d c nreg str) :=
  ⟨rfl, Nat.le_of_ble_eq_true rfl⟩

theorem Words.maccPut (mom : Bool) (d : Nat) (c : GSrc) (nreg : Nat) (str : Half) : Words.Statement (.maccPut mom d c nreg str) :=
  ⟨rfl, Nat.le_of_ble_eq_true rfl⟩

theorem Words.msoft (pout : GSrc) (g bh : Nat) (e4m3 tri first : Bool) : Words.Statement (.msoft pout g bh e4m3 tri first) :=
  ⟨rfl, Nat.le_of_ble_eq_true rfl⟩

theorem Words.msoftComplete (tid : Nat) : Words.Statement (.msoftComplete tid) := ⟨rfl, Nat.le_of_ble_eq_true rfl⟩

theorem Words.fbset (k : Nat) (part : FbPart) (a b : GSrc) : Words.Statement (.fbset k part a b) :=
  by cases part <;> exact ⟨rfl, Nat.le_refl 2⟩

theorem Words.madd (d a b : Nat) : Words.Statement (.madd d a b) := ⟨rfl, Nat.le_of_ble_eq_true rfl⟩

theorem Words.maddLong (sub : Bool) (cov : CovSel) (d a b : Nat) : Words.Statement (.maddLong sub cov d a b) :=
  ⟨rfl, Nat.le_of_ble_eq_true rfl⟩

theorem Words.mmul (d a b : Nat) : Words.Statement (.mmul d a b) := ⟨rfl, Nat.le_of_ble_eq_true rfl⟩

theorem Words.mmulLong (cov : CovSel) (d a b : Nat) : Words.Statement (.mmulLong cov d a b) :=
  ⟨rfl, Nat.le_of_ble_eq_true rfl⟩

theorem Words.mnl (f : NlForm) (d a : Nat) : Words.Statement (.mnl f d a) := ⟨rfl, Nat.le_of_ble_eq_true rfl⟩

theorem Words.mcoll (mode : Coll) (d : Dst) (a : Nat) : Words.Statement (.mcoll mode d a) :=
  ⟨rfl, Nat.le_of_ble_eq_true rfl⟩

theorem Words.mmq (fmt : Nat) (init : Bool) (ksteps g : Nat) : Words.Statement (.mmq fmt init ksteps g) :=
  ⟨rfl, Nat.le_of_ble_eq_true rfl⟩

theorem Words.ldq (m : MemWord) (d : VReg) (a : Src) : Words.Statement (.ldq m d a) :=
  ⟨rfl, Nat.le_of_ble_eq_true rfl⟩

theorem Words.sbar (d : GDst) (h : Nat) : Words.Statement (.sbar d h) := ⟨rfl, Nat.le_of_ble_eq_true rfl⟩

theorem Words.sample (lodm : LodMode) (pse : Option Nat) (d a : Nat) (h : GSrc) : Words.Statement (.sample lodm pse d a h) :=
  ⟨rfl, Nat.le_of_ble_eq_true rfl⟩

theorem Words.gath (ne : Nat) (pse : Option Nat) (d : VReg) (a : Nat) (h : GSrc) : Words.Statement (.gath ne pse d a h) :=
  ⟨rfl, Nat.le_of_ble_eq_true rfl⟩

theorem Words.texqSize (d : Dst) (h : GSrc) (b : Src) : Words.Statement (.texqSize d h b) :=
  ⟨rfl, Nat.succ_le_succ (List.length_take_le 1 _)⟩

theorem Words.texqRes (d : Dst) (h : GSrc) (b : Src) : Words.Statement (.texqRes d h b) :=
  ⟨rfl, Nat.succ_le_succ (List.length_take_le 1 _)⟩

theorem Words.emit (fault : Bool) (port : Nat) (va : VReg) (kn : GSrc) : Words.Statement (.emit fault port va kn) :=
  ⟨rfl, Nat.succ_le_succ (glitWords_length _)⟩

theorem Words.emitClose (fault : Bool) (port : Nat) : Words.Statement (.emitClose fault port) :=
  ⟨rfl, Nat.le_of_ble_eq_true rfl⟩

theorem Words.emitWake (wid e : Nat) : Words.Statement (.emitWake wid e) := ⟨rfl, Nat.le_of_ble_eq_true rfl⟩

theorem Words.pull (any : Bool) (d : VReg) (port nreg : Nat) : Words.Statement (.pull any d port nreg) :=
  ⟨rfl, Nat.le_of_ble_eq_true rfl⟩

theorem Words.pullWake (wid e : Nat) : Words.Statement (.pullWake wid e) := ⟨rfl, Nat.le_of_ble_eq_true rfl⟩

theorem Words.endOfStreamAppend (sid : Nat) : Words.Statement (.endOfStreamAppend sid) :=
  ⟨rfl, Nat.le_of_ble_eq_true rfl⟩

theorem Words.trace (port : Option Nat) (rmask : Byte) (cullb first : Bool) (d a : Nat) (root : GSrc) : Words.Statement (.trace port rmask cullb first d a root) :=
  ⟨rfl, Nat.le_of_ble_eq_true rfl⟩

theorem Words.traceResume (port : Option Nat) (d a : Nat) (t : Src) : Words.Statement (.traceResume port d a t) :=
  ⟨rfl, Nat.le_of_ble_eq_true rfl⟩

theorem Words.traversalComplete (tid lane : Nat) : Words.Statement (.traversalComplete tid lane) :=
  ⟨rfl, Nat.le_of_ble_eq_true rfl⟩

theorem Words.disc (neg : Bool) (p : Nat) : Words.Statement (.disc neg p) := ⟨rfl, Nat.le_of_ble_eq_true rfl⟩

theorem Words.discAll : Words.Statement (.discAll) := ⟨rfl, Nat.le_of_ble_eq_true rfl⟩

theorem Words.mest (g bh nbx : Nat) (cand : Bool) (range : Nat) : Words.Statement (.mest g bh nbx cand range) :=
  ⟨rfl, Nat.le_of_ble_eq_true rfl⟩

theorem Words.mestComplete (tid : Nat) : Words.Statement (.mestComplete tid) := ⟨rfl, Nat.le_of_ble_eq_true rfl⟩

theorem Words.ctxSkip : Words.Statement (.ctxSkip) := ⟨rfl, Nat.le_of_ble_eq_true rfl⟩

theorem Words.ctxFwd (d : GDst) : Words.Statement (.ctxFwd d) := ⟨rfl, Nat.le_of_ble_eq_true rfl⟩

theorem Words.ctxEnd (a b : GSrc) : Words.Statement (.ctxEnd a b) := ⟨rfl, Nat.le_of_ble_eq_true rfl⟩

theorem Words.ctxFqpop (d : GDst) : Words.Statement (.ctxFqpop d) := ⟨rfl, Nat.le_of_ble_eq_true rfl⟩

theorem Words.ctxReply (d : GDst) (a b : GSrc) : Words.Statement (.ctxReply d a b) :=
  ⟨rfl, Nat.le_of_ble_eq_true rfl⟩

theorem Words.tlbi (kind : TlbiKind) (a b : GSrc) : Words.Statement (.tlbi kind a b) :=
  ⟨rfl, Nat.le_of_ble_eq_true rfl⟩

theorem Words.tlbiComplete (wid e : Nat) : Words.Statement (.tlbiComplete wid e) :=
  ⟨rfl, Nat.le_of_ble_eq_true rfl⟩

theorem Words.genInc (d : GDst) (a : GSrc) : Words.Statement (.genInc d a) := ⟨rfl, Nat.succ_le_succ (glitWords_length _)⟩

theorem Words.genChangeComplete (wid e : Nat) : Words.Statement (.genChangeComplete wid e) :=
  ⟨rfl, Nat.le_of_ble_eq_true rfl⟩

theorem Words.genRd (d : GDst) (a : GSrc) : Words.Statement (.genRd d a) := ⟨rfl, Nat.succ_le_succ (glitWords_length _)⟩

theorem Words.clauseHeader (w : Word) : Words.Statement (.clauseHeader w) := ⟨rfl, Nat.le_of_ble_eq_true rfl⟩

theorem Words.stallHintExpiry (wid e : Nat) : Words.Statement (.stallHintExpiry wid e) :=
  ⟨rfl, Nat.le_of_ble_eq_true rfl⟩

theorem Words.variableLatencyResult (wid e idx : Nat) (quads : BitVec 16) : Words.Statement (.variableLatencyResult wid e idx quads) :=
  ⟨rfl, Nat.le_of_ble_eq_true rfl⟩

theorem Words.missSplit (wid e : Nat) : Words.Statement (.missSplit wid e) := ⟨rfl, Nat.le_of_ble_eq_true rfl⟩

theorem Words.forcedFuseIssue (wid e : Nat) : Words.Statement (.forcedFuseIssue wid e) :=
  ⟨rfl, Nat.le_of_ble_eq_true rfl⟩

theorem Words.storeDrain (wid e : Nat) : Words.Statement (.storeDrain wid e) := ⟨rfl, Nat.le_of_ble_eq_true rfl⟩

theorem Words.reservedOpcode (w : Word) : Words.Statement (.reservedOpcode w) := ⟨rfl, Nat.le_of_ble_eq_true rfl⟩

theorem Words.staleGenerationReject (u : HeldUnit) : Words.Statement (.staleGenerationReject u) :=
  ⟨rfl, Nat.le_of_ble_eq_true rfl⟩

theorem Words.heldEngineFault (u : HeldUnit) : Words.Statement (.heldEngineFault u) :=
  ⟨rfl, Nat.le_of_ble_eq_true rfl⟩

theorem Words.gangSave (gid : Nat) : Words.Statement (.gangSave gid) := ⟨rfl, Nat.le_of_ble_eq_true rfl⟩

theorem Words.gangSaveComplete (gid : Nat) : Words.Statement (.gangSaveComplete gid) :=
  ⟨rfl, Nat.le_of_ble_eq_true rfl⟩

theorem Words.gangRestore (gid : Nat) : Words.Statement (.gangRestore gid) := ⟨rfl, Nat.le_of_ble_eq_true rfl⟩

theorem Words.nopPacket (q : Nat) : Words.Statement (.nopPacket q) := ⟨rfl, Nat.le_of_ble_eq_true rfl⟩

theorem Words.gridPacket (q : Nat) : Words.Statement (.gridPacket q) := ⟨rfl, Nat.le_of_ble_eq_true rfl⟩

theorem Words.patternPacket (q : Nat) : Words.Statement (.patternPacket q) := ⟨rfl, Nat.le_of_ble_eq_true rfl⟩

theorem Words.waitPacket (q : Nat) : Words.Statement (.waitPacket q) := ⟨rfl, Nat.le_of_ble_eq_true rfl⟩

theorem Words.waitPacketSatisfied (q : Nat) : Words.Statement (.waitPacketSatisfied q) :=
  ⟨rfl, Nat.le_of_ble_eq_true rfl⟩

theorem Words.illegalPacket (q : Nat) : Words.Statement (.illegalPacket q) := ⟨rfl, Nat.le_of_ble_eq_true rfl⟩

theorem Words.patternPlacement (lid : Nat) : Words.Statement (.patternPlacement lid) :=
  ⟨rfl, Nat.le_of_ble_eq_true rfl⟩

theorem Words.gangPlacement (die lid gang : Nat) : Words.Statement (.gangPlacement die lid gang) :=
  ⟨rfl, Nat.le_of_ble_eq_true rfl⟩

theorem Words.residencyReport (die : Nat) : Words.Statement (.residencyReport die) :=
  ⟨rfl, Nat.le_of_ble_eq_true rfl⟩

theorem Words.stealMessage (thief victim lid : Nat) : Words.Statement (.stealMessage thief victim lid) :=
  ⟨rfl, Nat.le_of_ble_eq_true rfl⟩

theorem Words.stopComplete (wid e : Nat) : Words.Statement (.stopComplete wid e) :=
  ⟨rfl, Nat.le_of_ble_eq_true rfl⟩

theorem Words.traceSample (core : Nat) : Words.Statement (.traceSample core) := ⟨rfl, Nat.le_of_ble_eq_true rfl⟩

theorem Words.logGapEntry (p : Nat) : Words.Statement (.logGapEntry p) := ⟨rfl, Nat.le_of_ble_eq_true rfl⟩

theorem Words.descriptorTake (h : Nat) : Words.Statement (.descriptorTake h) := ⟨rfl, Nat.le_of_ble_eq_true rfl⟩

theorem Words.writebackFrameStart (h : Nat) : Words.Statement (.writebackFrameStart h) :=
  ⟨rfl, Nat.le_of_ble_eq_true rfl⟩

theorem Words.bandLaunch (h b : Nat) : Words.Statement (.bandLaunch h b) := ⟨rfl, Nat.le_of_ble_eq_true rfl⟩

theorem Words.bandDeadline (h b : Nat) : Words.Statement (.bandDeadline h b) := ⟨rfl, Nat.le_of_ble_eq_true rfl⟩

theorem Words.bandFixedFilter (h b : Nat) : Words.Statement (.bandFixedFilter h b) :=
  ⟨rfl, Nat.le_of_ble_eq_true rfl⟩

theorem Words.bandScanout (h b : Nat) (late : Option Nat) : Words.Statement (.bandScanout h b late) :=
  ⟨rfl, Nat.le_of_ble_eq_true rfl⟩

theorem Words.fallbackRecord (h : Nat) : Words.Statement (.fallbackRecord h) := ⟨rfl, Nat.le_of_ble_eq_true rfl⟩

theorem Words.rasterTriangle (nid : Nat) : Words.Statement (.rasterTriangle nid) :=
  ⟨rfl, Nat.le_of_ble_eq_true rfl⟩

theorem Words.blendRecord (nid : Nat) : Words.Statement (.blendRecord nid) := ⟨rfl, Nat.le_of_ble_eq_true rfl⟩

theorem Words.blendEndOfStream (nid : Nat) : Words.Statement (.blendEndOfStream nid) :=
  ⟨rfl, Nat.le_of_ble_eq_true rfl⟩

theorem Words.travRay (nid : Nat) : Words.Statement (.travRay nid) := ⟨rfl, Nat.le_of_ble_eq_true rfl⟩

theorem Words.partSet (p : Nat) (en : Bool) (clus kfirst kcnt gbase gsize : Nat) : Words.Statement (.partSet p en clus kfirst kcnt gbase gsize) :=
  ⟨rfl, Nat.le_of_ble_eq_true rfl⟩

theorem Words.partReset (who : Writer) (p : Nat) : Words.Statement (.partReset who p) :=
  ⟨rfl, Nat.le_of_ble_eq_true rfl⟩

theorem Words.keyLoad (who : Writer) (slot : Nat) (adr : DWord) : Words.Statement (.keyLoad who slot adr) :=
  ⟨rfl, Nat.le_of_ble_eq_true rfl⟩

theorem Words.attest (who : Writer) (nonce report : DWord) : Words.Statement (.attest who nonce report) :=
  ⟨rfl, Nat.le_of_ble_eq_true rfl⟩

theorem Words.cert (who : Writer) (buf : DWord) (size : Nat) : Words.Statement (.cert who buf size) :=
  ⟨rfl, Nat.le_of_ble_eq_true rfl⟩

theorem Words.imageLoad (p : Nat) (image dest : DWord) (emul : Bool) (asn : Nat) : Words.Statement (.imageLoad p image dest emul asn) :=
  ⟨rfl, Nat.le_of_ble_eq_true rfl⟩

theorem Words.linkTrain (who : Writer) (port : Nat) : Words.Statement (.linkTrain who port) :=
  ⟨rfl, Nat.le_of_ble_eq_true rfl⟩

theorem Words.linkRetrain (who : Writer) (port : Nat) : Words.Statement (.linkRetrain who port) :=
  ⟨rfl, Nat.le_of_ble_eq_true rfl⟩

theorem Words.linkDisable (who : Writer) (port : Nat) : Words.Statement (.linkDisable who port) :=
  ⟨rfl, Nat.le_of_ble_eq_true rfl⟩

theorem Words.fwUpdate (image : DWord) : Words.Statement (.fwUpdate image) := ⟨rfl, Nat.le_of_ble_eq_true rfl⟩

theorem Words.bringupStage (good : Bool) : Words.Statement (.bringupStage good) :=
  ⟨rfl, Nat.le_of_ble_eq_true rfl⟩

theorem Words.fqreply (who : Writer) (p : Nat) (val : DWord) : Words.Statement (.fqreply who p val) :=
  ⟨rfl, Nat.le_of_ble_eq_true rfl⟩

theorem Words.savePoolBind (who : Writer) (p : Nat) (val : DWord) : Words.Statement (.savePoolBind who p val) :=
  ⟨rfl, Nat.le_of_ble_eq_true rfl⟩

theorem Words.savePoolUnbind (who : Writer) (p : Nat) (val : DWord) : Words.Statement (.savePoolUnbind who p val) :=
  ⟨rfl, Nat.le_of_ble_eq_true rfl⟩

theorem Words.preempt (who : Writer) (p : Nat) (val : DWord) : Words.Statement (.preempt who p val) :=
  ⟨rfl, Nat.le_of_ble_eq_true rfl⟩

theorem Words.uncorrectableError (site : ErrorSite) : Words.Statement (.uncorrectableError site) :=
  ⟨rfl, Nat.le_of_ble_eq_true rfl⟩

theorem Words.doorbellWrite (q : Nat) (ofs : Nat) (val : Word) : Words.Statement (.doorbellWrite q ofs val) :=
  ⟨rfl, Nat.le_of_ble_eq_true rfl⟩

theorem Words.qcfgWrite (who : Writer) (q : Nat) (val : DWord) : Words.Statement (.qcfgWrite who q val) :=
  ⟨rfl, Nat.le_of_ble_eq_true rfl⟩

theorem Words.dbgStop (p : Nat) (cmd : DWord) : Words.Statement (.dbgStop p cmd) :=
  ⟨rfl, Nat.le_of_ble_eq_true rfl⟩

theorem Words.dbgResume (p : Nat) (cmd : DWord) : Words.Statement (.dbgResume p cmd) :=
  ⟨rfl, Nat.le_of_ble_eq_true rfl⟩

theorem Words.dbgStep (p : Nat) (cmd : DWord) : Words.Statement (.dbgStep p cmd) :=
  ⟨rfl, Nat.le_of_ble_eq_true rfl⟩

theorem Words.dbgRead (p : Nat) (cmd : DWord) : Words.Statement (.dbgRead p cmd) :=
  ⟨rfl, Nat.le_of_ble_eq_true rfl⟩

theorem Words.dbgWrite (p : Nat) (cmd : DWord) : Words.Statement (.dbgWrite p cmd) :=
  ⟨rfl, Nat.le_of_ble_eq_true rfl⟩

theorem Words.dbgReadpt (p : Nat) (cmd : DWord) : Words.Statement (.dbgReadpt p cmd) :=
  ⟨rfl, Nat.le_of_ble_eq_true rfl⟩

theorem Words.dbgWrpc (p : Nat) (cmd : DWord) : Words.Statement (.dbgWrpc p cmd) :=
  ⟨rfl, Nat.le_of_ble_eq_true rfl⟩

theorem Words.dbgReadcnt (p : Nat) (cmd : DWord) : Words.Statement (.dbgReadcnt p cmd) :=
  ⟨rfl, Nat.le_of_ble_eq_true rfl⟩

theorem Words.mirrorStrobe (p : Nat) (val : DWord) : Words.Statement (.mirrorStrobe p val) :=
  ⟨rfl, Nat.le_of_ble_eq_true rfl⟩

theorem Words.headEnable (who : Writer) (h : Nat) (val : DWord) : Words.Statement (.headEnable who h val) :=
  ⟨rfl, Nat.le_of_ble_eq_true rfl⟩

theorem Words.headDisable (who : Writer) (h : Nat) (val : DWord) : Words.Statement (.headDisable who h val) :=
  ⟨rfl, Nat.le_of_ble_eq_true rfl⟩

theorem Words.idle : Words.Statement (.idle) := ⟨rfl, Nat.le_of_ble_eq_true rfl⟩

theorem Words.wake : Words.Statement (.wake) := ⟨rfl, Nat.le_of_ble_eq_true rfl⟩

theorem Words.moduleReset : Words.Statement (.moduleReset) := ⟨rfl, Nat.le_of_ble_eq_true rfl⟩

theorem Words.powerRemoval : Words.Statement (.powerRemoval) := ⟨rfl, Nat.le_of_ble_eq_true rfl⟩

theorem Words.clockThrottle (cclk : Nat) : Words.Statement (.clockThrottle cclk) :=
  ⟨rfl, Nat.le_of_ble_eq_true rfl⟩

theorem Words.thermalTrip : Words.Statement (.thermalTrip) := ⟨rfl, Nat.le_of_ble_eq_true rfl⟩

theorem Words.hostWindowAccess (ofs : Nat) (data : List Byte) (write : Bool) : Words.Statement (.hostWindowAccess ofs data write) :=
  ⟨rfl, Nat.le_of_ble_eq_true rfl⟩

theorem Words.ualinkLinkFailure (port : Nat) : Words.Statement (.ualinkLinkFailure port) :=
  ⟨rfl, Nat.le_of_ble_eq_true rfl⟩

theorem Words.uetRemoteAccess (asn : Nat) (va : Nat) (data : List Byte) (write : Bool) : Words.Statement (.uetRemoteAccess asn va data write) :=
  ⟨rfl, Nat.le_of_ble_eq_true rfl⟩

theorem Words.registerWrite (who : Writer) (ofs : Nat) (val : DWord) : Words.Statement (.registerWrite who ofs val) :=
  ⟨rfl, Nat.le_of_ble_eq_true rfl⟩

theorem Words.ualinkPeerAccess (port : Nat) (pa : Nat) (data : List Byte) (write : Bool) : Words.Statement (.ualinkPeerAccess port pa data write) :=
  ⟨rfl, Nat.le_of_ble_eq_true rfl⟩

end Sys2Proof.Laws
end

