-- ==== Sys2Proof/Laws/Sha512.lean ====
section
/-! SUPPORT. What SHA-512 answers: always 64 bytes. -/

namespace Sys2Proof.Machine

theorem shaRound_length {v : List DWord} (h : v.length = 8) (x : DWord × DWord) : (shaRound v x).length = 8 := by
  unfold shaRound
  split
  · rfl
  · exact h

theorem shaRounds_length {v : List DWord} (h : v.length = 8) : ∀ l : List (DWord × DWord), (l.foldl shaRound v).length = 8
  | [] => h
  | x :: l => by rw [List.foldl_cons]; exact shaRounds_length (shaRound_length h x) l

theorem shaBlock_length {v : List DWord} (h : v.length = 8) (bs : List Byte) : (shaBlock v bs).length = 8 := by
  simp [shaBlock, shaRounds_length h, h]

theorem shaBlocks_length {v : List DWord} (h : v.length = 8) : ∀ (n : Nat) (bs : List Byte), (shaBlocks n v bs).length = 8
  | 0, _ => h
  | n + 1, bs => shaBlocks_length (shaBlock_length h _) n (bs.drop 128)

@[simp] theorem sha512_length (bs : List Byte) : (sha512 bs).length = 64 := by
  simp [sha512, List.length_flatMap, List.map_const', shaBlocks_length (v := shaStart) rfl]

end Sys2Proof.Machine
end

