-- ==== Sys2Proof/Tests/Slice0.lean ====
section
/-! SUPPORT. Tests by the spec's own words and examples: refused operands, decoded words, single steps, and for every
statement with hypotheses a state and operands that meet them. -/

namespace Sys2Proof.Tests

open Sys2Proof Sys2Proof.Machine

set_option maxRecDepth 100000
set_option exponentiation.threshold 2000

/-! ## Operands that the well-formedness check refuses, one for each check (R147-R156) -/

theorem test_wf_accepts_add : (Instr.add (.v 191) (.o 15) (.lit 7)).WellFormed = true := by decide
theorem test_wf_main_register_bound : (Instr.add (.v 192) (.v 0) (.v 0)).WellFormed = false := by decide
theorem test_wf_source_register_bound : (Instr.add (.v 0) (.v 192) (.v 0)).WellFormed = false := by decide
theorem test_wf_operand_file_bound : (Instr.add (.v 0) (.o 16) (.v 0)).WellFormed = false := by decide
theorem test_wf_stream_bound : (Instr.add (.v 0) (.s 8) (.v 0)).WellFormed = false := by decide
theorem test_wf_group_source_bound : (Instr.add (.v 0) (.g 32) (.v 0)).WellFormed = false := by decide
theorem test_wf_one_literal : (Instr.add (.v 0) (.lit 1) (.lit 2)).WellFormed = false := by decide
theorem test_wf_odd_pair_source : (Instr.dadd (.v 0) (.v 1) (.v 2)).WellFormed = false := by decide
theorem test_wf_odd_pair_destination : (Instr.dadd (.v 1) (.v 0) (.v 2)).WellFormed = false := by decide
theorem test_wf_pair_is_no_lane_number : (Instr.dadd (.v 0) .lane (.v 2)).WellFormed = false := by decide
theorem test_wf_long_form_has_no_literal : (Instr.addLong .n32 false (.v 0) (.lit 1) (.v 0)).WellFormed = false := by decide
theorem test_wf_third_source : (Instr.mad .i32 false (.v 0) (.v 0) (.v 0) (.lit 1)).WellFormed = false := by decide
theorem test_wf_fourth_source : (Instr.ffma3 .dflt (.v 0) (.v 0) (.v 0) (.v 0) (.lit 1)).WellFormed = false := by decide
theorem test_wf_field_past_type : (Instr.bfx .i32 (.v 0) (.v 0) 31 2).WellFormed = false := by decide
theorem test_wf_field_of_no_width : (Instr.bfx .i32 (.v 0) (.v 0) 0 0).WellFormed = false := by decide
theorem test_wf_integer_condition : (Instr.icmp .un .i32 0 (.v 0) (.v 0)).WellFormed = false := by decide
theorem test_wf_predicate_bound : (Instr.icmp .eq .i32 8 (.v 0) (.v 0)).WellFormed = false := by decide
theorem test_wf_sign_source_unused : (Instr.fsgnLong false .neg (.v 0) (.v 0) (.v 1)).WellFormed = false := by decide
theorem test_wf_pack_source_unused : (Instr.pk .f16 .dflt (.v 0) (.v 0) (.v 0) (.v 1)).WellFormed = false := by decide
theorem test_wf_float_reduction_is_no_and : (Instr.wred .and .f32 (.lane (.v 0)) (.v 0)).WellFormed = false := by decide
theorem test_wf_reduction_group_bound : (Instr.wred .add .f32 (.g 32) (.v 0)).WellFormed = false := by decide
theorem test_wf_group_destination_bound : (Instr.gadd (.g 32) .zero .zero).WellFormed = false := by decide
theorem test_wf_one_group_literal : (Instr.gadd (.g 0) (.lit 1) (.lit 2)).WellFormed = false := by decide
theorem test_wf_control_register_bound : (Instr.gread (.g 0) 7).WellFormed = false := by decide
theorem test_wf_group_predicate_bound : (Instr.gcmp .eq true 4 .zero .zero).WellFormed = false := by decide
theorem test_wf_load_to_stream : (Instr.ld ⟨0, 0, false, .b32⟩ (.s 0) (.v 0)).WellFormed = false := by decide
theorem test_wf_load_of_four_registers : (Instr.ld ⟨0, 0, false, .b128⟩ (.v 2) (.v 0)).WellFormed = false := by decide
theorem test_wf_store_is_not_signed : (Instr.st ⟨0, 0, false, .i8⟩ (.v 0) (.v 2)).WellFormed = false := by decide
theorem test_wf_local_load_has_no_eviction : (Instr.lds ⟨0, 1, false, .b32⟩ (.v 0) (.v 2)).WellFormed = false := by decide
theorem test_wf_window_bound : (Instr.ldp ⟨0, 0, false, .b32⟩ (.v 0) 8 (.v 2)).WellFormed = false := by decide
theorem test_wf_float_atomic : (Instr.atom .add .f32 .rlx .core true (.v 0) (.v 1) (.v 2)).WellFormed = false := by decide
theorem test_wf_shape_registers : (Instr.sdef 0 (.regs 24) .zero 0).WellFormed = false := by decide
theorem test_wf_two_streams : (Instr.sxi (.v 0) 1 1 .zero 0 0 64).WellFormed = false := by decide
theorem test_wf_steps_bound : (Instr.sxi (.v 0) 0 1 .zero 0 0 65).WellFormed = false := by decide
theorem test_wf_handle_bound : (Instr.barr (.g 0) 16).WellFormed = false := by decide
theorem test_wf_copy_registers : (Instr.copy .plain false 0 false 0 .zero .zero 30).WellFormed = false := by decide
theorem test_wf_loop_of_no_steps : (Instr.mloop none 0 0 0 0 false false false .zero).WellFormed = false := by decide
theorem test_wf_fragments_aligned : (Instr.mloop (some 2) 0 0 0 1 false false false .zero).WellFormed = false := by decide
theorem test_wf_tile_stride : (Instr.maccGet false 0 .zero 1 2).WellFormed = false := by decide
theorem test_wf_moment_pair : (Instr.maccGet true 1 .zero 1 4).WellFormed = false := by decide
theorem test_wf_softmax_registers : (Instr.msoft .zero 31 0 false false false).WellFormed = false := by decide
theorem test_wf_format_half : (Instr.fbset 0 .lo .zero (.g 1)).WellFormed = false := by decide
theorem test_wf_moment_bound : (Instr.madd 96 0 0).WellFormed = false := by decide
theorem test_wf_bound_operand : (Instr.mcoll (.sample (.lit 0)) (.v 0) 0).WellFormed = false := by decide
theorem test_wf_matrix_format : (Instr.mmq 6 false 1 0).WellFormed = false := by decide
theorem test_wf_four_words_only : (Instr.ldq ⟨0, 0, false, .b64⟩ (.v 0) (.v 0)).WellFormed = false := by decide
theorem test_wf_sample_registers : (Instr.sample .lod none 2 0 .zero).WellFormed = false := by decide
theorem test_wf_gather_port : (Instr.gath 1 (some 8) (.v 0) 0 .zero).WellFormed = false := by decide
theorem test_wf_gather_count : (Instr.gath 5 none (.v 0) 0 .zero).WellFormed = false := by decide
theorem test_wf_port_bound : (Instr.emit false 8 (.v 0) .zero).WellFormed = false := by decide
theorem test_wf_pull_registers : (Instr.pull false (.v 0) 0 64).WellFormed = false := by decide
theorem test_wf_ray_registers : (Instr.trace none 0 false false 1 0 .zero).WellFormed = false := by decide
theorem test_wf_motion_range : (Instr.mest 0 0 1 false 65).WellFormed = false := by decide
theorem test_wf_reserved_opcodes : (Instr.reservedOpcode 0xEFFFFFFF).WellFormed = false := by decide

/-! ## Words written out from the spec's encodings (R147-R154) -/

/-- R169's example: OPC 0x02, D 0x0A, A 0x0C, B 0xE4, M 1; C 0xDC and TY 0xE. -/
theorem test_decode_adds_long : decode 0x041419C9 0xDCE00000 = .ok (.addsLong .i64 (.v 10) (.v 12) (.g 4)) := by decide
/-- OPC 0x00 at bit 25, D 3 at bit 17, A 1 at bit 9, B 0xDF (a literal follows) at bit 1. -/
theorem test_decode_add_literal :
    decode (0x00 * 2 ^ 25 + 3 * 2 ^ 17 + 1 * 2 ^ 9 + 0xDF * 2) 100 = .ok (.add (.v 3) (.v 1) (.lit 100)) := by decide
/-- OPC 0x15 with D a predicate, A 0xDE (%quad), B 0xC1 (o1); TY 0xD and SELA 5, `.ge`. -/
theorem test_decode_icmp : decode 0x2A03BD82 0xDCD00500 = .ok (.icmp .ge .n32 1 .quad (.o 1)) := by decide
/-- OPC 0x1B: C 0x06 in the extension word, TY 8, RND 2. -/
theorem test_decode_ffma : decode 0x36080384 0x06840000 = .ok (.ffma .rtz (.v 4) (.v 1) (.o 2) (.v 6)) := by decide
/-- OPC 0x3A: D 0xE5 (g5), A 0xE5, B 0xDF, the literal −1. -/
theorem test_decode_gadd :
    decode (0x3A * 2 ^ 25 + 0xE5 * 2 ^ 17 + 0xE5 * 2 ^ 9 + 0xDF * 2) 0xFFFFFFFF = .ok (.gadd (.g 5) (.g 5) (.lit (-1))) := by
  decide
/-- OPC 0x47 with M 1: A 0x01; a displacement of 8 words. -/
theorem test_decode_branch : decode 0x8E000201 0x20 = .ok (.brcSplit false 1 8) := by decide
/-- OPC 0x50: D 4, A 2; SZ 4 in the memory word. -/
theorem test_decode_load : decode 0xA0080400 4 = .ok (.ld ⟨0, 0, false, .b32⟩ (.v 4) (.v 2)) := by decide
/-- OPC 0x53: the low half of a store's data is B. -/
theorem test_decode_local_store :
    decode (0x53 * 2 ^ 25 + 2 * 2 ^ 9 + 4 * 2) (8 * 2 ^ 8 + 4) = .ok (.sts ⟨8, 0, false, .b32⟩ (.v 2) (.v 4)) := by decide
/-- OPC 0x5D: D zero, the handle 0, a literal of bytes. -/
theorem test_decode_barrier : decode 0xBBB801BE 0x2000 = .ok (.bexp .zero 0 (.lit 8192)) := by decide
/-- OPC 0x60: g20, handle 2, format block 1, two K-steps, INIT, TRI and a fill of −∞. -/
theorem test_decode_matrix_loop :
    decode 0xC1E80000 0x22004D00 = .ok (.mloop none 20 2 1 2 false true true .ninf) := by decide
/-- OPC 0x64 in the long form: NEG, and the covariance of SELB 1. -/
theorem test_decode_moment : decode 0xC80C0405 0xDC000102 = .ok (.maddLong true .pos 3 1 1) := by decide
/-- OPC 0x6B: port 0, v9, a literal kind. -/
theorem test_decode_emit : decode 0xD60013BE 0x11 = .ok (.emit false 0 (.v 9) (.lit 0x11)) := by decide
/-- OPC 0x71: a page invalidation of g10 and g11. -/
theorem test_decode_invalidation : decode 0xE201D5D6 0 = .ok (.tlbi .page (.g 10) (.g 11)) := by decide
/-- Opcodes 0x78 and above are reserved (R154). -/
theorem test_decode_reserved : decode (0x78 * 2 ^ 25) 0 = .ok (.reservedOpcode (BitVec.ofNat 32 (0x78 * 2 ^ 25))) := by decide
/-- R148: 0xDD, the lane index, is no destination; R173: SELB 64 and above is reserved. -/
theorem test_decode_refuses_destination : (decode (0xDD * 2 ^ 17) 0).toBool = false := by decide
theorem test_decode_refuses_field_width : (decode (0x13 * 2 ^ 25) (0xDC * 2 ^ 24 + 0xC * 2 ^ 20 + 64)).toBool = false := by decide
theorem test_decode_table_word : decodeTableWord 32 0x94000000 = some .exit := by decide
theorem test_encode_branch : encode (.bra 5) = [0x8C000000, 0x14] := by decide

/-! ## Single steps -/

/-- A panel of 64 lanes at an instruction in a mixed clause, with all registers zero. -/
def ready : State := { State.reset.withFetchWord 32 0 with cur := some { wid := 0, entry := 0, len := 1 } }

/-- The same with lane 0 alone in the mask. -/
def alone : State := ready.setPanel { wid := 0, entry := 0, len := 1 }
  { ready.panel { wid := 0, entry := 0, len := 1 } with mask := 1 }

def c0 : Cur := { wid := 0, entry := 0, len := 1 }

/-- What a word of one instruction leaves after a step, if the step is taken. -/
def after (w : Nat) : Option State :=
  match step (State.reset.withFetchWord 64 w) with
  | .next t => some t
  | _ => none

/-- What an instruction leaves, issued by the panel of `ready`. -/
def ran (i : Instr) (s : State) : Option State :=
  match exec i { s with cur := some c0 } with
  | .next t => some t
  | _ => none

def lane (t : Option State) (r j : Nat) : Option Word := t.map fun t => ((t.curWave c0).vreg r).getD j 0

def group (t : Option State) (n : Nat) : Option DWord := t.map fun t => (t.panel c0).greg n

/-- `mov v2, 1` in the lane 63 (the last): the literal is in the second word. -/
theorem test_step_mov : lane (after (0x2E05BE00 + 1 * 2 ^ 32)) 2 63 = some 1 := by decide
/-- `add v3, v1, 100` with v1 zero. -/
theorem test_step_add : lane (after (0x000603BE + 100 * 2 ^ 32)) 3 0 = some 100 := by decide
/-- Every lane of v3 is below 2^32, so `mulh` of the literal −3 with itself is 0, and `mul` is 9 (R169). -/
theorem test_mul_and_high : lane (ran (.mul (.v 1) (.lit (-3)) (.lit (-3))) ready) 1 5 = some 9 ∧
    lane (ran (.mulh (.v 1) (.lit (-3)) (.lit 5)) ready) 1 5 = some 0xFFFFFFFF := by decide
/-- R171: a shift by the width of the type or more gives 0, and |(−2^31) − (2^31 − 1)| is 2^32 − 1. -/
theorem test_shift_by_width : lane (ran (.shl (.v 1) (.lit 32) (.lit 32)) ready) 1 0 = some 0 := by decide
/-- The lane index, and the lane's quad (R46). -/
theorem test_lane_numbers : lane (ran (.mov (.v 1) .lane) ready) 1 63 = some 63 ∧
    lane (ran (.mov (.v 1) .quad) ready) 1 63 = some 15 := by decide
/-- 1.5 + 1.5 is 3 in binary32. -/
theorem test_fadd : lane (ran (.fadd (.v 1) (.lit 0x3FC00000) (.lit 0x3FC00000)) ready) 1 2 = some 0x40400000 := by decide
/-- R178: −0 lies below +0. -/
theorem test_fmin_zeros : lane (ran (.fmin (.v 1) (.lit 0x80000000) .zero) ready) 1 0 = some 0x80000000 := by decide
/-- R187: lane 1 with `.xor 1` reads lane 0. -/
theorem test_ballot_of_no_lane : group (ran (.ballot (.g 6) 1) ready) 6 = some 0 := by decide
/-- R192: a literal is sign-extended. -/
theorem test_gadd_decrements : group (ran (.gadd (.g 5) (.g 5) (.lit (-1))) ready) 5 = some 0xFFFFFFFFFFFFFFFF := by decide
/-- R193: a shift by 64 or more gives 0. -/
theorem test_gshift_by_64 : group (ran (.gshLeft (.g 5) (.lit (-1)) (.lit 64)) ready) 5 = some 0 := by decide
/-- R201: the address after the two words of `call`. -/
theorem test_call : (after (0x48 * 2 ^ 25 + 0xE3 * 2 ^ 17 + 0x20 * 2 ^ 32)).map
    (fun t => ((t.panel c0).pc, (t.panel c0).greg 3)) = some (0x10020, 0x10008) := by decide
/-- R207, R352: `trap 9` enters the handler with cause 0x21 and INFO 9, and resumes behind itself. -/
theorem test_trap : (after (0x4E * 2 ^ 25 + 9 * 2 ^ 9)).map
    (fun t => ((t.panel c0).pc, (t.panel c0).xcause, (t.panel c0).xpc, (t.panel c0).frame.map (·.pc))) =
    some (fetchHandler, 0x90021, 0x10000, some 0x10004) := by decide
/-- R156: a reserved opcode is cause 0x02 at the instruction. -/
theorem test_reserved_traps : (after (0x78 * 2 ^ 25)).map
    (fun t => ((t.panel c0).xcause, (t.panel c0).frame.map (·.pc))) = some (0x02, some 0x10000) := by decide
/-- R204, R17: the wave's last lanes leave, and the wave ends. -/
theorem test_exit : (after 0x94000000).map (fun t => (t.wave 0).alive) = some false := by decide
/-- R205: eight cycles. -/
theorem test_yield : (after (0x4C * 2 ^ 25)).map (fun t => (t.panel c0).yielded) = some true := by decide
/-- R210: a word stored through the L1 is what the core reads. -/
theorem test_store : (ran (.st ⟨0, 0, false, .b32⟩ (.lit 0x18000) (.lit 0x01020304)) alone).map
    (fun t => (t.readVa (t.laneAcc c0) 0x18000 4).2.toOption) = some (some [4, 3, 2, 1]) := by decide
/-- R209: the code itself, read as data. -/
theorem test_load : lane (ran (.ld ⟨0, 0, false, .n8⟩ (.v 4) (.lit 0x10000)) 
    { alone with mem := Sparse.set 0 alone.mem 0x10000 0xA5 }) 4 0 =
    some 0xA5 := by decide
/-- R211, R4: the local stores are little-endian. -/
theorem test_local_store : (ran (.sts ⟨0, 0, false, .b32⟩ (.lit 0x20000000) (.lit 0x01020304)) ready).map
    (fun t => Sparse.getBytes t.aStore 0 4) = some [4, 3, 2, 1] := by decide
/-- R86: a sum of means. -/
theorem test_madd : lane (ran (.madd 1 0 0) ready) 2 0 = some 0 := by decide

/-! ## Witnesses: states and operands that meet the hypotheses of the statements -/

/-- The conditions of `Issues`, computed. -/
def stands (i : Instr) (s : State) (c : Cur := c0) : Bool :=
  decide (s.cur = some c) && (s.curWave c).alive && (s.panel c).valid &&
    (match (s.panel c).clause with
      | some cl => decide (decodeTrap (s.curWave c).regs (s.curWave c).width (s.privileged c) cl i = none)
      | none => false) &&
    decide (s.needWidth c i ≤ (s.panel c).effWidth (s.curWave c))

theorem issues {i : Instr} {s : State} {c : Cur} (h : stands i s c = true) : Issues i s c := by
  simp only [stands, Bool.and_eq_true, decide_eq_true_eq] at h
  obtain ⟨⟨⟨⟨h1, h2⟩, h3⟩, h4⟩, h5⟩ := h
  split at h4
  · rename_i cl hc
    exact ⟨h1, h2, h3, ⟨cl, hc, by simpa using h4⟩, h5⟩
  · cases h4

/-- `ready` with some lanes active and a predicate. -/
def masked (m : Mask) (p1 : Mask) : State :=
  let s := ready.setPanel c0 { ready.panel c0 with mask := m }
  s.setWave 0 ((s.wave 0).setPred 1 (BitVec.allOnes 64) fun j => p1.getLsbD j)

theorem witness_integer_arithmetic : let i := Instr.addLong .n64 true (.v 0) (.v 190) (.g 31)
    (∃ f, Claim.intForm i = some f) ∧ Issues i ready c0 ∧ NoStreams i :=
  ⟨⟨_, rfl⟩, issues (by decide), rfl, rfl⟩

theorem witness_integer_bits : let i := Instr.bfi .n64 (.v 0) (.v 2) (.v 4) 0 64
    (∃ f, Claim.bitForm i = some f) ∧ i.WellFormed = true ∧ Issues i ready c0 ∧ NoStreams i :=
  ⟨⟨_, rfl⟩, by decide, issues (by decide), rfl, rfl⟩

theorem witness_predicate_results : let i := Instr.fcmp .un 7 (.v 0) (.v 191)
    (∃ p b, Claim.predForm ready c0 i = some (p, b)) ∧ Issues i ready c0 ∧ NoStreams i :=
  ⟨⟨_, _, rfl⟩, issues (by decide), rfl, rfl⟩

theorem witness_float_rounding : let i := Instr.dfma .rup (.v 0) (.v 2) (.v 4) (.v 6)
    (∃ f, Claim.exactForm i = some f ∧ ∀ a ∈ f.srcs, Claim.isFinite (Claim.fmtOf f.wide) (Claim.readOf f.wide ready c0 a 63) = true) ∧
    Issues i ready c0 ∧ NoStreams i ∧ (ready.active c0).getLsbD 63 = true :=
  ⟨⟨_, rfl, by decide⟩, issues (by decide), ⟨rfl, rfl⟩, by decide⟩

theorem witness_float_selections : let i := Instr.fsgnLong true .xsgn (.v 0) (.v 2) (.v 4)
    (∃ d w f, Claim.codeForm ready c0 i = some (d, w, f)) ∧ Issues i ready c0 ∧ NoStreams i :=
  ⟨⟨_, _, _, rfl⟩, issues (by decide), rfl, rfl⟩

theorem witness_float_to_integer : let i := Instr.cvt .n64 .f32 .rdn (.v 0) (.v 2)
    (∃ w f, Claim.srcFmt .f32 = some (w, f)) ∧ (∃ ty, Claim.intOf .n64 = some ty) ∧ Issues i ready c0 ∧ NoStreams i :=
  ⟨⟨_, _, rfl⟩, ⟨_, rfl⟩, issues (by decide), rfl, rfl⟩

theorem witness_lane_moves : let i := Instr.shflLong .down (.v 0) (.v 2) (.lane)
    (∃ d x, Claim.moveForm ready c0 i = some (d, x)) ∧ Issues i ready c0 ∧ NoStreams i :=
  ⟨⟨_, _, rfl⟩, issues (by decide), rfl, rfl⟩

theorem witness_float_forms : let i := Instr.fdiv (.v 0) (.v 1) (.lit 0x7FC00001)
    (∃ d w l, Claim.arithmetic i = some (d, w, l) ∧
      ∃ a ∈ l, Claim.isNan (Claim.fmtOf w) (Claim.readOf w ready c0 a 0) = true) ∧ (∃ x, Claim.floatDst i = some x) ∧
    Issues i ready c0 ∧ NoStreams i :=
  ⟨⟨_, _, _, rfl, .lit 0x7FC00001, by decide, by decide⟩, ⟨_, rfl⟩, issues (by decide), rfl, rfl⟩

theorem witness_integer_reductions : let i := Instr.wscan .max true (.int .i64) (.v 0) (.v 2)
    (∃ x, Claim.reduceForm ready c0 i = some x) ∧ Issues i ready c0 ∧ NoStreams i :=
  ⟨⟨_, rfl⟩, issues (by decide), rfl, rfl⟩

theorem witness_float_reductions : let i := Instr.wscan .add true .f32 (.v 0) (.v 2)
    (∃ x, Claim.floatReduceForm i = some x) ∧ i.WellFormed = true ∧ Issues i ready c0 ∧ NoStreams i :=
  ⟨⟨_, rfl⟩, by decide, issues (by decide), rfl, rfl⟩

theorem witness_float_groups : let i := Instr.wred .add .f32 (.g 31) (.v 2)
    i.WellFormed = true ∧ Issues i ready c0 ∧ NoStreams i :=
  ⟨by decide, issues (by decide), rfl, rfl⟩

theorem witness_group_values : let i := Instr.gshRight .zero (.g 31) (.lit 64)
    (∃ d x, Claim.groupForm ready c0 i = some (d, x)) ∧ Issues i ready c0 ∧ NoStreams i :=
  ⟨⟨_, _, rfl⟩, issues (by decide), rfl, rfl⟩

theorem witness_group_predicates : let i := Instr.gcmp .ge true 3 (.g 0) (.g 1)
    (∃ k b, Claim.groupPred ready c0 i = some (k, b)) ∧ i.WellFormed = true ∧ Issues i ready c0 :=
  ⟨⟨_, _, rfl⟩, by decide, issues (by decide)⟩

theorem witness_control_writes : Issues (.gmovCtl 1 (.lit 3)) ready c0 := issues (by decide)

theorem witness_branches : (∃ d, Claim.branchForm ready c0 (.bra 5) = some (d, (ready.panel c0).mask)) ∧
    Issues (.bra 5) ready c0 ∧ (∃ d, Claim.branchForm ready c0 (.brc false 1 5) = some (d, 0)) ∧
    Issues (.brc false 1 5) ready c0 ∧ Issues (.bra 5) (masked 0 0) c0 :=
  ⟨⟨5, by decide⟩, issues (by decide), ⟨5, by decide⟩, issues (by decide), issues (by decide)⟩

theorem witness_branch_diverges : let s := masked 0xFF 0x3
    Claim.branchForm s c0 (.brcSplit false 1 5) = some (5, 3) ∧ Issues (.brcSplit false 1 5) s c0 ∧
    (3 : Mask) ≠ (s.panel c0).mask ∧ Claim.quadsAgree (s.panel c0).mask 3 = false ∧ (s.panel c0).stack.length < 16 :=
  ⟨by decide, issues (by decide), by decide, by decide, by decide⟩

/-- `masked` with other panels in some entries, a full stack, or a split in this cycle. -/
def crowded (m p1 : Mask) (entries : List Nat) (stack : List StackEntry) (split : Option Nat) : State :=
  let s := masked m p1
  let s := s.setPanel c0 { s.panel c0 with stack := stack }
  { s with waves := s.waves.map fun e =>
      (e.1, entries.foldl (fun w k => w.setPanel k { w.panel 0 with qmask := 0, mask := 0 }) { e.2 with splitAt := split }) }

theorem witness_branch_diverges_in_full_waves : let s := crowded 0xFF 0xF [1, 2, 3, 4, 5, 6, 7] [] none
    Claim.branchForm s c0 (.brcSplit false 1 5) = some (5, 0xF) ∧ Issues (.brcSplit false 1 5) s c0 ∧
    Claim.quadsAgree (s.panel c0).mask 0xF = true ∧ (s.curWave c0).splitAt ≠ some s.cycle ∧
    ∀ e, e < 8 → ((s.curWave c0).panel e).valid = true :=
  ⟨by decide, issues (by decide), by decide, by decide, by decide⟩

theorem witness_branch_depth :
    let s := crowded 0xFF 0x3 [] (List.replicate 16 { mask := 0xF00, pc := 0x10010, waiting := false, clause := none }) none
    Claim.branchForm s c0 (.brc false 1 5) = some (5, 3) ∧ Issues (.brc false 1 5) s c0 ∧ (3 : Mask) ≠ (s.panel c0).mask ∧
    ¬ (s.panel c0).stack.length < 16 :=
  ⟨by decide, issues (by decide), by decide, by decide⟩

theorem witness_branch_waits_for_its_cycle : let s := crowded 0xFF 0xF [] [] (some 0)
    Claim.branchForm s c0 (.brcSplit false 1 5) = some (5, 0xF) ∧ Issues (.brcSplit false 1 5) s c0 ∧
    Claim.quadsAgree (s.panel c0).mask 0xF = true ∧ (s.curWave c0).splitAt = some s.cycle :=
  ⟨by decide, issues (by decide), by decide, by decide⟩

theorem witness_branch_splits : let s := masked 0xFF 0xF
    Claim.branchForm s c0 (.brcSplit false 1 5) = some (5, 0xF) ∧ Issues (.brcSplit false 1 5) s c0 ∧
    (0xF : Mask) ≠ (s.panel c0).mask ∧ Claim.quadsAgree (s.panel c0).mask 0xF = true ∧ (s.curWave c0).splitAt ≠ some s.cycle ∧
    ((s.curWave c0).panel 1).valid = false ∧ ∀ e, e < 1 → ((s.curWave c0).panel e).valid = true :=
  ⟨by decide, issues (by decide), by decide, by decide, by decide, by decide, by decide⟩

theorem witness_calls : Issues (.call .zero (-1)) ready c0 ∧ Issues (.ret (.lit 4)) ready c0 ∧ Issues (.ret (.lit 1)) ready c0 :=
  ⟨issues (by decide), issues (by decide), issues (by decide)⟩

/-- `ready` in a handler, with a frame that returns into the middle of a clause. -/
def handling : State := ready.setPanel c0 { ready.panel c0 with
  frame := some { pc := 0x10000, clause := (ready.panel c0).clause, onInstr := true, len := 1, gen := 0 } }

theorem witness_trap_return : Issues .retTret ready c0 ∧ Issues .retTret handling c0 ∧
    (ready.panel c0).frame = none ∧ (handling.panel c0).frame.isSome = true :=
  ⟨issues (by decide), issues (by decide), by decide, by decide⟩

theorem witness_yields : Issues .yield ready c0 ∧
    let s := { ready.setPanel c0 { ready.panel c0 with yielded := true, hold := 9 } with cycle := 9 }
    ((s.wave 0).panel 0).valid = true ∧ ((s.wave 0).panel 0).yielded = true ∧ ((s.wave 0).panel 0).hold ≤ s.cycle :=
  ⟨issues (by decide), by decide, by decide, by decide⟩

theorem witness_traps_not_taken : Issues (.trap 255) (masked 0 0) c0 ∧ (masked 0 0).active c0 = 0 ∧
    Issues .trapf ready c0 ∧ (ready.panel c0).fpc = 0 ∧ ((ready.panel c0).mcr.getLsbD 8 && (ready.panel c0).mcr.getLsbD 3) = false ∧
    let s := ready.setPart 0 { ready.part 0 with dbgctl := 2 }
    Issues (.bkpt 0) s c0 ∧ s.active c0 ≠ 0 ∧ (s.part (s.laneAcc c0).part).dbgctl.getLsbD 1 = true :=
  ⟨issues (by decide), by decide, issues (by decide), by decide, by decide, issues (by decide), by decide, by decide⟩

theorem witness_exits : Issues .exit ready c0 ∧ Issues .exit (masked 0 0) c0 ∧ (masked 0 0).active c0 = 0 ∧
    (∃ wg l, ready.wg? (ready.curWave c0).wg = some wg ∧ ready.launch? wg.lid = some l) ∧
    ∀ j, j < 64 → ((ready.curWave c0).exited ||| ready.active c0).getLsbD j = true :=
  ⟨issues (by decide), issues (by decide), by decide, ⟨_, _, rfl, rfl⟩, by decide⟩

/-- `ready` with a guard of predicate 1 (set in some lanes), so that only these lanes exit. -/
def guarded (m p1 : Mask) (stack : List StackEntry) : State :=
  let s := masked m p1
  s.setPanel c0 { s.panel c0 with clause := (s.panel c0).clause.map (fun cl => { cl with word := 0x1E023800 }), stack := stack }

theorem witness_exit_lanes : let s := guarded 0xFF 0xF []
    Issues .exit s c0 ∧ s.active c0 ≠ 0 ∧ (s.panel c0).mask &&& ~~~ s.active c0 ≠ 0 ∧
    ∃ j, j < (s.curWave c0).width ∧ j < 64 ∧ ((s.curWave c0).exited ||| s.active c0).getLsbD j = false :=
  ⟨issues (by decide), by decide, by decide, 63, by decide, by decide, by decide⟩

theorem witness_exit_pops : let s := guarded 0xF 0xF [{ mask := 0xF0, pc := 0x10010, waiting := false, clause := none }]
    Issues .exit s c0 ∧ s.active c0 ≠ 0 ∧ s.active c0 = (s.panel c0).mask ∧ (s.panel c0).status = .run ∧
    (∀ x ∈ (s.panel c0).stack, x.mask ≠ 0 ∧ x.mask &&& (s.panel c0).mask = 0) ∧
    ∃ j, j < (s.curWave c0).width ∧ j < 64 ∧ ((s.curWave c0).exited ||| s.active c0).getLsbD j = false :=
  ⟨issues (by decide), by decide, by decide, by decide, by decide, 63, by decide, by decide, by decide⟩

theorem witness_seams : Issues (.seam 7 7) ready c0 ∧ (ready.panel c0).stack = [] ∧
    (∀ e, e < 8 → e ≠ c0.entry → ((ready.curWave c0).panel e).valid = false) ∧
    let s := guarded 0xF 0xF [{ mask := 0xF0, pc := 0x10010, waiting := false, clause := none }]
    Issues (.seam 0xFFF 0) s c0 ∧ (∃ top rest, (s.panel c0).stack = top :: rest ∧ top.waiting = false) :=
  ⟨issues (by decide), by decide, by decide, issues (by decide), ⟨_, _, rfl, rfl⟩⟩

/-- A wave of two panels, the first at `ready`'s instruction. -/
def two (st : Status) : State :=
  { ready with waves := Sparse.put ready.waves 0 ((ready.wave 0).setPanel 1
    { (ready.wave 0).panel 0 with qmask := 0xFF00, mask := 0xFFFFFFFF00000000, status := st, seamk := 1, pc := 0x10010 }) }

theorem witness_seam_waits : Issues (.seam 7 1) (two .run) c0 ∧ ((two .run).panel c0).stack = [] ∧
    (∃ e, e < 8 ∧ e ≠ c0.entry ∧ (((two .run).curWave c0).panel e).valid = true) ∧
    ∀ e, e < 8 → e ≠ c0.entry → (((two .run).curWave c0).panel e).status = .run :=
  ⟨issues (by decide), by decide, ⟨1, by decide, by decide, by decide⟩, by decide⟩

theorem witness_seam_timeout : let s := { two .seamw with cycle := 256 }
    let p := (s.wave 0).panel 1
    p.valid = true ∧ p.status = .seamw ∧ s.waveRuns 0 = true ∧ p.seamk ≠ 0 ∧ p.seamk ≠ 7 ∧ p.since ≤ s.cycle ∧
    p.since + 64 * 4 ^ p.seamk.toNat ≤ s.cycle ∧ ∀ x, x < 8 → x ≠ 1 → ((s.wave 0).panel x).status ≠ .seamw := by
  decide

theorem hasHandler : Claim.HasHandler ready c0 fetchHandler := ⟨rfl, by decide, _, rfl, rfl⟩

theorem witness_traps_taken : Issues (.trap 255) ready c0 ∧ ready.active c0 ≠ 0 ∧
    Issues (.bkpt 0) ready c0 ∧ (ready.part (ready.laneAcc c0).part).dbgctl.getLsbD 1 = false ∧
    Claim.HasHandler ready c0 fetchHandler :=
  ⟨issues (by decide), by decide, issues (by decide), by decide, hasHandler⟩

theorem witness_arithmetic_traps : let s := ready.setPanel c0 { ready.panel c0 with fpc := 0x8080 }
    Issues .trapf s c0 ∧ Claim.HasHandler s c0 fetchHandler ∧
    ∃ k, k < 8 ∧ (s.panel c0).fpc.getLsbD k = true ∧ (s.panel c0).fpc.getLsbD (k + 8) = true :=
  ⟨issues (by decide), ⟨rfl, by decide, _, rfl, rfl⟩, 7, by decide, by decide, by decide⟩

theorem witness_decode_traps : (Instr.add (.v 192) (.v 0) (.v 0)).coded = true ∧ ready.cur = some c0 ∧
    (ready.curWave c0).alive = true ∧ (ready.panel c0).valid = true ∧
    (∃ cl, (ready.panel c0).clause = some cl ∧ decodeTrap (ready.curWave c0).regs (ready.curWave c0).width
      (ready.privileged c0) cl (.add (.v 192) (.v 0) (.v 0)) = some 0x01) ∧ Claim.HasHandler ready c0 fetchHandler :=
  ⟨rfl, rfl, by decide, by decide, ⟨_, rfl, by decide⟩, hasHandler⟩

theorem witness_trap_in_handler : (∃ cl, (handling.panel c0).clause = some cl ∧ decodeTrap (handling.curWave c0).regs
      (handling.curWave c0).width (handling.privileged c0) cl (.reservedOpcode 0xFFFFFFFF) = some 0x02) ∧
    (∃ wg l g, handling.wg? (handling.curWave c0).wg = some wg ∧ handling.launch? wg.lid = some l ∧
      handling.gang? wg.gid = some g ∧ g.done = false) ∧ (handling.panel c0).frame ≠ none :=
  ⟨⟨_, rfl, by decide⟩, ⟨_, _, _, rfl, rfl, rfl, rfl⟩, by decide⟩

/-! ### Issue and memory -/

theorem witness_clause_headers : ready.cur = some c0 ∧ (ready.curWave c0).alive = true ∧ (ready.panel c0).valid = true ∧
    (hdrN 0x10001800 ≠ 0 ∧ hdrSlot 0x10001800 ≠ 7 ∧ (0x10001800 : Word) &&& 0xF = 0) ∧ hdrN 0x00001800 = 0 := by
  decide

/-- The panel of `ready`, changed. -/
def withPanel (f : Panel → Panel) : State := ready.setPanel c0 (f (ready.panel c0))

/-- A result outstanding for some quads. -/
def pending (q : BitVec 16) : Outstanding :=
  { slot := some 0, quads := q, keys := [], issued := 0, instr := .yield, pc := 0, gen := 0, active := 0, asked := [], held := [], got := [] }

def first (s : State) : Panel := (s.wave 0).panel 0

theorem witness_stall_hint : let p := first (withPanel fun p => { p with hold := 1 })
    p.valid = true ∧ p.hold ≠ 0 ∧ p.yielded = false ∧ p.hold ≤ 1 := by decide

theorem witness_store_drain : let p := first (withPanel fun p => { p with undrained := 1 })
    p.valid = true ∧ p.undrained ≠ 0 := by decide

theorem witness_result : let p := first (withPanel fun p => { p with outst := [pending 0xFFFF] })
    p.valid = true ∧ p.outst[0]? = some (pending 0xFFFF) ∧ (pending 0xFFFF).quads &&& 1 ≠ 0 ∧
    (pending 0xFFFF).ofRays = false ∧ (pending 0xFFFF).held = [] ∧ ∀ y ∈ p.outst, y.quads ≠ 0 := by decide

/-- `ready` with the miss splits of its launch enabled, and a result late for the upper quads. -/
def late : State :=
  let s := withPanel fun p => { p with
    outst := [pending 0xFF00], clause := some { addr := 0x0FFFC, word := 0x1E081800, pos := 0, fresh := true } }
  { s with launches := s.launches.map (fun e => (e.1, { e.2 with spec := { e.2.spec with flags := 4, mthr := 0 } })), cycle := 100000 }

theorem witness_miss_splits : late.frontHold 0 0 = none ∧ (∃ cl g i len, (late.panel c0).clause = some cl ∧
      late.curSpec c0 = some g ∧ g.missSplits = true ∧ late.fetch c0 = .instr i len ∧
      late.onlyScoreboard { c0 with len := len } (late.wave 0) (late.panel c0) cl i = true ∧
      (late.panel c0).missQuads (late.wave 0) g (late.shapeOf c0 i) cl i late.cycle = some 0x00FF) ∧ (∀ k, k < 0 → late.missSplitOf 0 k = none) ∧
    ((late.wave 0).panel 1).valid = false ∧ (∀ k, k < 1 → ((late.wave 0).panel k).valid = true) ∧
    (late.wave 0).splitAt ≠ some late.cycle ∧
    (State.wave { late with waves := late.waves.map fun (e : Nat × Wave) => (e.1, { e.2 with splitAt := some 100000 }) } 0).splitAt =
      some late.cycle :=
  ⟨by decide, ⟨_, _, _, _, rfl, rfl, by decide, rfl, by decide, by decide⟩, by decide, by decide, by decide, by decide, by decide⟩

theorem witness_forced_fuse : let s := withPanel fun p =>
      { p with status := .ffw, wait := some { instr := .ballot (.g 0) 1, len := 1, since := 0, aux := 0 } }
    let p := (s.wave 0).panel 0
    p.valid = true ∧ p.status = .ffw ∧ s.waveRuns 0 = true ∧
    (∃ x, p.wait = some x ∧ s.needWidth { c0 with len := x.len } x.instr ≤ p.effWidth (s.wave 0)) :=
  ⟨by decide, by decide, by decide, _, rfl, by decide⟩

/-- The two panels of `two`, the first half as wide as the wave. -/
def halves (st : Status) : State :=
  let s := two st
  s.setPanel c0 { s.panel c0 with qmask := 0x00FF, mask := 0xFFFFFFFF }

theorem witness_narrow_panels (st : Status) (h : st = .run ∨ st = .ffw ∨ st = .seamw) : let s := halves st
    (Instr.ballot (.g 0) 1).coded = true ∧ s.cur = some c0 ∧ (s.curWave c0).alive = true ∧ (s.panel c0).valid = true ∧
    (∃ cl, (s.panel c0).clause = some cl ∧
      decodeTrap (s.curWave c0).regs (s.curWave c0).width (s.privileged c0) cl (.ballot (.g 0) 1) = none) ∧
    (s.panel c0).effWidth (s.curWave c0) < s.needWidth c0 (.ballot (.g 0) 1) := by
  obtain h | h | h := h <;> subst h <;>
    exact ⟨by decide, by decide, by decide, by decide, ⟨_, rfl, by decide⟩, by decide⟩

theorem witness_narrow_siblings :
    (∀ e, e < 8 → e ≠ c0.entry → (((halves .run).curWave c0).panel e).status = .run) ∧
    ∃ e, e < 8 ∧ e ≠ c0.entry ∧ (((halves .ffw).curWave c0).panel e).valid = true ∧
      (((halves .ffw).curWave c0).panel e).status = .ffw ∧ (((halves .ffw).curWave c0).panel e).pc ≠ ((halves .ffw).panel c0).pc :=
  ⟨by decide, 1, by decide, by decide, by decide, by decide, by decide⟩

/-- The other half waits in a forced fuse where the first one stands, or at a seam there. -/
def meeting (st : Status) : State :=
  { halves .run with waves := (halves .run).waves.map fun e => (e.1, e.2.setPanel 1 { e.2.panel 1 with status := st, pc := 0x10000 }) }

theorem witness_narrow_fuse : let s := meeting .ffw
    (s.panel c0).effWidth (s.curWave c0) < s.needWidth c0 (.ballot (.g 0) 1) ∧ ((s.curWave c0).panel 1).valid = true ∧
    ((s.curWave c0).panel 1).status = .ffw ∧ ((s.curWave c0).panel 1).pc = (s.panel c0).pc ∧
    stackCompatible (s.panel c0) ((s.curWave c0).panel 1) = true ∧
    (∀ x, x < 8 → x ≠ c0.entry → x ≠ 1 → ((s.curWave c0).panel x).valid = true → ((s.curWave c0).panel x).status ≠ .ffw) ∧
    ∀ e, e < 8 → e ≠ c0.entry → (((halves .seamw).curWave c0).panel e).valid = true →
      (((halves .seamw).curWave c0).panel e).status ≠ .ffw := by
  decide

theorem witness_seam_fuses : let s := meeting .seamw
    Issues (.seam 7 1) s c0 ∧ (s.panel c0).stack = [] ∧ ((s.curWave c0).panel 1).stack = [] ∧ (s.panel c0).frame = none ∧
    ((s.curWave c0).panel 1).frame = none ∧ ((s.curWave c0).panel 1).valid = true ∧ ((s.curWave c0).panel 1).status = .seamw ∧
    ((s.curWave c0).panel 1).pc = (s.panel c0).pc ∧
    ∀ x, x < 8 → x ≠ 1 → x ≠ c0.entry → ((s.curWave c0).panel x).valid = false :=
  ⟨issues (by decide), by decide, by decide, by decide, by decide, by decide, by decide, by decide, by decide⟩

theorem witness_global_loads : let m : MemWord := ⟨0x7FFFFF, 3, true, .b128⟩
    Issues (.ld m (.v 4) (.v 0)) (masked 0 0) c0 ∧ NoStreams (.ld m (.v 4) (.v 0)) ∧
    Claim.Granted (masked 0 0) c0 (Claim.accesses (masked 0 0) c0 (globalAddr ((masked 0 0).lanes c0) m (.v 0)) 16 false) ∧
    let m : MemWord := ⟨0, 0, false, .b32⟩
    let s := alone.setPanel c0 ((alone.panel c0).setG 4 0x18000)
    Issues (.ld m (.v 4) (.g 4)) s c0 ∧ NoStreams (.ld m (.v 4) (.g 4)) ∧
    Claim.Granted s c0 (Claim.accesses s c0 (globalAddr (s.lanes c0) m (.g 4)) 4 false) ∧
    Claim.lanesOf s c0 = [0] ∧ Claim.Clean s c0 ∧ Claim.Roomy s c0 :=
  ⟨issues (by decide), ⟨rfl, rfl⟩, ⟨by decide, by decide⟩, issues (by decide), ⟨rfl, rfl⟩, ⟨by decide, by decide⟩, by decide,
    ⟨by decide, fun _ _ => rfl⟩, ⟨by decide, by decide, fun _ _ => Or.inl rfl⟩⟩

/-- Lane 0 alone with an address in g4. -/
def pointing (x : DWord) : State := alone.setPanel c0 ((alone.panel c0).setG 4 x)

theorem witness_global_stores : let m : MemWord := ⟨0, 0, false, .b64⟩
    let s := pointing 0x1FFF8
    let addr := globalAddr (s.lanes c0) m (.g 4)
    Issues (.st m (.g 4) (.v 2)) s c0 ∧ NoStreams (.st m (.g 4) (.v 2)) ∧
    Claim.Granted s c0 (Claim.accesses s c0 addr 8 true) ∧ (s.curWave c0).releasing &&& s.active c0 = 0 ∧
    Claim.lanesOf s c0 = [0] ∧ Claim.Roomy s c0 ∧ (∀ x, Claim.storedAt s c0 [0] addr 8 x → Claim.writeBack x = true) ∧
    (∃ e pa, s.translate (s.laneAcc c0) ((addr 0 + 7) % 2 ^ 64) .write = .ok (.leaf e pa)) ∧
    ∀ k, k < 8 →
      (s.tlbIn (s.laneAcc c0).tlb1 (s.laneAcc c0).part (s.laneAcc c0).asn ((addr 0 + k) % 2 ^ 64)).isSome = true := by
  refine ⟨issues (by decide), ⟨rfl, rfl⟩, ⟨by decide, by decide⟩, by decide, by decide, ⟨by decide, by decide, fun _ _ => Or.inl rfl⟩,
    ?_, ⟨_, _, rfl⟩, by decide⟩
  rintro x ⟨j, k, hj, hk, h⟩
  obtain rfl := List.mem_singleton.mp hj
  interval_cases k <;> cases h <;> decide

theorem witness_global_faults : let m : MemWord := ⟨0, 0, false, .b32⟩
    Issues (.ld m (.v 0) (.g 4)) (pointing 0x20000) c0 ∧ NoStreams (.ld m (.v 0) (.g 4)) ∧
    ∃ cause sub addr, (pointing 0x20000).judge ((pointing 0x20000).laneAcc c0)
      (Claim.accesses (pointing 0x20000) c0 (globalAddr ((pointing 0x20000).lanes c0) m (.g 4)) 4 false) =
      .trap false (.fail cause sub addr) :=
  ⟨issues (by decide), ⟨rfl, rfl⟩, _, _, _, rfl⟩

theorem witness_local_loads : let m : MemWord := ⟨0, 0, false, .b32⟩
    Issues (.lds m (.v 0) (.g 4)) (pointing 0x20000000) c0 ∧ NoStreams (.lds m (.v 0) (.g 4)) ∧
    ∃ xs, (pointing 0x20000000).checkLocals c0 ((pointing 0x20000000).raceMode c0)
      (localAddr ((pointing 0x20000000).lanes c0) m (.g 4)) 4 (Claim.lanesOf (pointing 0x20000000) c0) = .ok xs :=
  ⟨issues (by decide), ⟨rfl, rfl⟩, _, rfl⟩

theorem witness_local_stores : let m : MemWord := ⟨0, 0, false, .b64⟩
    let s := pointing 0x20000000
    Issues (.sts m (.g 4) (.v 0)) s c0 ∧ NoStreams (.sts m (.g 4) (.v 0)) ∧ (s.curWave c0).releasing &&& s.active c0 = 0 ∧
    ∃ x, s.checkLocals c0 (s.raceMode c0) (localAddr (s.lanes c0) m (.g 4)) 8 (Claim.lanesOf s c0) = .ok [(0, x)] :=
  ⟨issues (by decide), ⟨rfl, rfl⟩, by decide, _, rfl⟩

theorem witness_local_faults : let m : MemWord := ⟨0, 0, false, .b32⟩
    let s := pointing 0x20000001
    Issues (.lds m (.v 0) (.g 4)) s c0 ∧ NoStreams (.lds m (.v 0) (.g 4)) ∧
    ∃ addr e, s.checkLocals c0 (s.raceMode c0) (localAddr (s.lanes c0) m (.g 4)) 4 (Claim.lanesOf s c0) = .error (addr, .fail e) :=
  ⟨issues (by decide), ⟨rfl, rfl⟩, _, _, rfl⟩

/-- Lane 0 at word 16 of the A store, in race-detection mode, with b0's record at the A store's start in generation 5 and a shadow
word. -/
def racing (w : Word) : State :=
  let s := pointing 0x20000040
  { s with
    aStore := [(0, 2), (12, 5)], shadow := [(16, w)]
    launches := s.launches.map fun e => (e.1, { e.2 with spec := { e.2.spec with flags := 8 } }) }

/-- R320's example has WRT 0x503 of a wave in slot 3 of the cluster's core 20; here it wrote in generation 5. -/
theorem witness_race_traps : let m : MemWord := ⟨0, 0, false, .b32⟩
    let s := racing 0x58503
    Issues (.lds m (.v 0) (.g 4)) s c0 ∧ NoStreams (.lds m (.v 0) (.g 4)) ∧ s.raceMode c0 = true ∧
    (∃ addr v, s.checkLocals c0 (s.raceMode c0) (localAddr (s.lanes c0) m (.g 4)) 4 (Claim.lanesOf s c0) = .error (addr, .race v)) ∧
    ∃ x b, s.findLocal (s.curWg c0) admitLane 4 0x20000040 4 = .ok x ∧ s.handlePlace (s.curWg c0) 0 = some b ∧
      Claim.touches 4 16 x = true ∧ ofBytes (Sparse.getBytes (s.store b.store) (storeIndex b.core (b.ofs + 12)) 2) = 5 ∧
      Claim.clusterWave c0.wid ≠ 0x503 :=
  ⟨issues (by decide), ⟨rfl, rfl⟩, by decide, ⟨_, _, rfl⟩, _, _, rfl, rfl, by decide, by decide, by decide⟩

/-- R320: the same wave's own word, and another generation's, are no race. -/
theorem test_no_race : let m : MemWord := ⟨0, 0, false, .b32⟩
    ((ran (.sts m (.g 4) (.lit 7)) (racing 0x58000)).map fun t => t.shadow) = some [(16, 0x58000)] ∧
    ((ran (.sts m (.g 4) (.lit 7)) (racing 0x48503)).map fun t => t.shadow) = some [(16, 0x58000)] ∧
    ((ran (.sts m (.g 4) (.lit 7)) (racing 0x58503)).map fun t => ((t.panel c0).xcause, t.shadow)) = some (0x5000018, [(16, 0x58503)]) := by
  decide

theorem witness_shadows : ([1] : List Byte) ≠ [] ∧ ∃ l wg, (racing 0).launches.head? = some l ∧ (racing 0).wgs.head? = some wg ∧
    l.2.spec.race = true ∧ 0 < wg.2.asize :=
  ⟨by decide, _, _, rfl, rfl, by decide, by decide⟩

theorem witness_stores_of_race_mode : let m : MemWord := ⟨0, 0, false, .b64⟩
    let s := racing 0
    Issues (.sts m (.g 4) (.v 0)) s c0 ∧ (s.curWave c0).releasing &&& s.active c0 = 0 ∧ s.raceMode c0 = true ∧
    ∃ x, s.checkLocals c0 (s.raceMode c0) (localAddr (s.lanes c0) m (.g 4)) 8 (Claim.lanesOf s c0) = .ok [(0, x)] :=
  ⟨issues (by decide), by decide, by decide, _, rfl⟩

theorem witness_logged_atomics : let i := Instr.atom .add (.int .n32) .ar .core true (.v 0) (.g 4) (.v 2)
    let s := pointing 0x20000000
    (∃ d a, Claim.atomicForm i = some (.ar, .core, true, d, a, .n32)) ∧ Issues i s c0 ∧ NoStreams i ∧
    (s.curWave c0).releasing &&& s.active c0 = 0 ∧ Claim.lanesOf s c0 = [0] ∧
    ∃ x, s.findLocal (s.curWg c0) admitAtomic 4 ((s.lanes c0).a32 (.g 4) 0).toNat 4 = .ok x :=
  ⟨⟨_, _, rfl⟩, issues (by decide), ⟨rfl, rfl⟩, by decide, by decide, _, rfl⟩

theorem witness_window_loads : let m : MemWord := ⟨0, 0, false, .b32⟩
    Issues (.ldp m (.v 0) 7 (.g 4)) (pointing 0) c0 ∧ NoStreams (.ldp m (.v 0) 7 (.g 4)) ∧ Claim.lanesOf (pointing 0) c0 = [0] ∧
    (((pointing 0).curWg c0).pw.getD 7 (0, 0)).2 = 0 ∧
    Issues (.ldp m (.v 0) 7 (.g 4)) (masked 0 0) c0 ∧ (masked 0 0).active c0 = 0 ∧
    let s := { pointing 4 with wgs := (pointing 4).wgs.map fun e => (e.1, { e.2 with pw := [(0x18000, 6)] }) }
    Issues (.ldp m (.v 0) 0 (.g 4)) s c0 ∧ ((s.curWg c0).pw.getD 0 (0, 0)).2 = 6 ∧
    (∀ j ∈ Claim.lanesOf s c0, localAddr (s.lanes c0) m (.g 4) j % 4 = 0) ∧
    Claim.Granted s c0 (((Claim.lanesOf s c0).filter fun j => localAddr (s.lanes c0) m (.g 4) j < 6).map fun j =>
      { lane := j, va := (0x18000 + localAddr (s.lanes c0) m (.g 4) j) % 2 ^ 64
        n := Nat.min 4 (6 - localAddr (s.lanes c0) m (.g 4) j), write := false }) :=
  ⟨issues (by decide), ⟨rfl, rfl⟩, by decide, by decide, issues (by decide), by decide, issues (by decide), by decide, by decide,
    by decide, by decide⟩

theorem witness_local_atomics : let i := Instr.cas .i64 .rlx .core true (.v 0) (.g 4) (.v 2) (.v 4)
    let s := (pointing 0x20000000).setPanel c0 { (pointing 0x20000000).panel c0 with mask := 3 }
    (∃ d a ty, Claim.atomicForm i = some (.rlx, .core, true, d, a, ty)) ∧ Issues i s c0 ∧ NoStreams i ∧
    Claim.lanesOf s c0 = [0, 1] ∧ (∀ j ∈ Claim.lanesOf s c0, ((s.lanes c0).a32 (.g 4) j).toNat = 0x20000000) ∧
    (∃ x, s.findLocal (s.curWg c0) admitAtomic 8 0x20000000 8 = .ok x) ∧
    (s.curWave c0).releasing &&& s.active c0 = 0 ∧ s.replaying c0 = false :=
  ⟨⟨_, _, _, rfl⟩, issues (by decide), ⟨rfl, rfl⟩, by decide, by decide, ⟨_, rfl⟩, by decide, by decide⟩

theorem witness_global_atomics : let s := pointing 0x18000
    let addr := fun j => ((s.lanes c0).a64 (.g 4) j).toNat
    (∃ d a, Claim.atomicForm (.atom .fadd .f32 .ar .sys false (.v 0) (.g 4) (.v 2)) = some (.ar, .sys, false, d, a, .n32)) ∧
    Issues (.atom .fadd .f32 .ar .sys false (.v 0) (.g 4) (.v 2)) s c0 ∧
    NoStreams (.atom .fadd .f32 .ar .sys false (.v 0) (.g 4) (.v 2)) ∧
    Issues (.atom .add (.int .n32) .rlx .core false (.v 0) (.g 4) (.v 2)) s c0 ∧ (s.curWave c0).releasing &&& s.active c0 = 0 ∧
    Claim.lanesOf s c0 = [0] ∧ addr 0 % 4 = 0 ∧ Claim.Granted s c0 (Claim.accesses s c0 addr 4 true) ∧
    s.replaying c0 = false ∧ (s.part (s.laneAcc c0).part).dbgctl.getLsbD 9 = false ∧
    ∃ e pa, s.translate (s.laneAcc c0) (addr 0) .write = .ok (.leaf e pa) ∧ s.poisonPlace (.leaf e pa) = false ∧ ptePeer e = false ∧
      ∀ ix, ixCore ix = c0.wid / 64 → ixKey ix = pteKey e → ixLine ix = pa / 128 → (s.l1At ix).written = 0 :=
  ⟨⟨_, _, rfl⟩, issues (by decide), ⟨rfl, rfl⟩, issues (by decide), by decide, by decide, by decide, ⟨by decide, by decide⟩, by decide,
    by decide, _, _, rfl, by decide, by decide, fun _ _ _ _ => rfl⟩

theorem witness_fences : Issues (.fence .ar .sys) ready c0 ∧ Issues (.fence .sc .core) ready c0 :=
  ⟨issues (by decide), issues (by decide)⟩

theorem witness_quad_loads (step : Nat) (h : step = 0 ∨ step = 3) : let m : MemWord := ⟨0, 0, false, .b32⟩
    let s := (pointing 0x1FFF0).setPanel c0 (((pointing 0x1FFF0).panel c0).setProgress (BitVec.ofNat 32 step))
    let addr := fun j => (globalAddr (s.lanes c0) m (.g 4) j + 4 * step) % 2 ^ 64
    Issues (.ldq m (.v 188) (.g 4)) s c0 ∧ NoStreams (.ldq m (.v 188) (.g 4)) ∧ (s.panel c0).progress.toNat % 4 = step ∧
    (∀ j ∈ Claim.lanesOf s c0, addr j % 4 = 0) ∧ Claim.Granted s c0 (Claim.accesses s c0 addr 4 false) := by
  obtain h | h := h <;> subst h <;> exact ⟨issues (by decide), ⟨rfl, rfl⟩, by decide, by decide, by decide, by decide⟩

theorem witness_quad_loads_that_fault : let m : MemWord := ⟨0, 0, false, .b32⟩
    let s := pointing 0x20000
    let addr := fun j => (globalAddr (s.lanes c0) m (.g 4) j + 4 * 0) % 2 ^ 64
    Issues (.ldq m (.v 188) (.g 4)) s c0 ∧ (s.panel c0).progress.toNat % 4 = 0 ∧ (∀ j ∈ Claim.lanesOf s c0, addr j % 4 = 0) ∧
    ∃ cause sub va, s.judge (s.laneAcc c0) (Claim.accesses s c0 addr 4 false) = .trap false (.fail cause sub va) :=
  ⟨issues (by decide), by decide, by decide, _, _, _, rfl⟩

/-- Lane 0 alone, with stream 3 of 16 words of 32 bits. -/
def streaming : State := alone.setPanel c0 ((alone.panel c0).setStream 3
  { defined := true, exh := false, rank := 1, fmt := 0xD, cursor := 0, ext := [16, 0, 0, 0, 0], strd := [4, 0, 0, 0, 0]
    base := 0x18000 })

theorem witness_random_elements : let x := (streaming.panel c0).stream 3
    Issues (.sread (.v 0) 3 (.v 1)) streaming c0 ∧ NoStreams (.sread (.v 0) 3 (.v 1)) ∧
    randomOk (streaming.curWave c0).regs x (dstRun (.v 0, (streaming.panel c0).elemWords 3)) = true ∧
    Claim.Granted streaming c0 (randomAccesses x (streaming.lanes c0) (.v 1) false) ∧
    Issues (.swrite (.v 0) 3 (.v 1)) streaming c0 ∧ NoStreams (.swrite (.v 0) 3 (.v 1)) ∧
    randomOk (streaming.curWave c0).regs x (srcRun (.v 0, (streaming.panel c0).elemWords 3)) = true ∧
    Claim.Granted streaming c0 (randomAccesses x (streaming.lanes c0) (.v 1) true) ∧
    Issues (.sread (.v 0) 2 (.v 1)) streaming c0 ∧ Issues (.swrite (.v 0) 2 (.v 1)) streaming c0 ∧
    ((streaming.panel c0).stream 2).defined = false :=
  ⟨issues (by decide), ⟨rfl, rfl⟩, by decide, ⟨by decide, by decide⟩, issues (by decide), ⟨rfl, rfl⟩, by decide, ⟨by decide, by decide⟩,
    issues (by decide), issues (by decide), by decide⟩

theorem witness_random_elements_of_8_bytes :
    let s := streaming.setPanel c0 ((streaming.panel c0).setStream 3 { (streaming.panel c0).stream 3 with fmt := 0xF, strd := [8, 0, 0, 0, 0] })
    Issues (.swrite .lane 3 (.v 1)) s c0 ∧ NoStreams (.swrite .lane 3 (.v 1)) ∧ (s.panel c0).elemWords 3 = 2 ∧
    Issues (.swrite (.v 0) 3 (.v 1)) s c0 ∧
    randomOk (s.curWave c0).regs ((s.panel c0).stream 3) (srcRun (.v 0, (s.panel c0).elemWords 3)) = true :=
  ⟨issues (by decide), ⟨rfl, rfl⟩, by decide, issues (by decide), by decide⟩

theorem witness_stream_values : let x := (streaming.panel c0).stream 3
    x.operandOk 1 = true ∧ Issues (.mov (.v 0) (.s 3)) streaming c0 ∧ (usesOf (.mov (.v 0) (.s 3))).dstStreams = [] ∧
    Issues (.mov (.s 3) (.v 1)) streaming c0 ∧ (usesOf (.mov (.s 3) (.v 1))).srcStreams = [] ∧
    ((Claim.lanesOf streaming c0).filter fun j => decide (x.cursor + j < x.count)) = [0] ∧
    Claim.Granted streaming c0 [{ lane := 0, va := x.addr x.cursor, n := fmtBytes x.fmt, write := false }] ∧
    Claim.Granted streaming c0 [{ lane := 0, va := x.addr x.cursor, n := fmtBytes x.fmt, write := true }] :=
  ⟨by decide, issues (by decide), by decide, issues (by decide), by decide, by decide, ⟨by decide, by decide⟩, by decide, by decide⟩

theorem witness_stream_operands : let i := Instr.add (.v 0) (.s 3) (.v 1)
    Issues i streaming c0 ∧ Claim.streamsOf i ≠ [] ∧ Claim.laneForm i = true ∧ Claim.streamsOk (streaming.panel c0) i = true ∧
    Claim.Granted streaming c0 (streamAccesses (streaming.panel c0) (streaming.active c0)
      (usesOf i).srcStreams (usesOf i).dstStreams) ∧
    Issues i ready c0 ∧ Claim.streamsOk (ready.panel c0) i = false :=
  ⟨issues (by decide), by decide, by decide, by decide, ⟨by decide, by decide⟩, issues (by decide), by decide⟩

/-! ### Streams, barriers, copies, flushes and posts -/

/-- A layout record by R118: 16 words of 32 bits from 0x18800, one dimension, the whole of it the box. -/
def recordBits : Nat := 0x18800 + 0xD * 2 ^ 64 + 1 * 2 ^ 72 + 16 * 2 ^ 128 + 4 * 2 ^ 320 + 16 * 2 ^ 800

/-- Lane 0 alone, with the record in the record cache and its handle in g4. -/
def recorded : State := { pointing 0x18000 with recCache := [(recKey 0 0 0 0x18000, toBytes 192 recordBits)] }

theorem witness_register_shapes :
    let s := alone.setPanel c0 ((((alone.panel c0).setG 9 0x18000).setG 10 16).setG 12 (0xD * 2 ^ 32 + 2 ^ 40))
    Issues (.sdef 7 (.regs 9) .zero 0) s c0 ∧ ((s.panel c0).greg 9).toNat < 2 ^ 57 ∧ ((s.panel c0).greg 12).toNat < 2 ^ 43 ∧
    Claim.legalShape [16, 0, 0, 0, 0] 0xD 1 ∧ Issues (.sdef 0 (.regs 23) .zero 0) alone c0 ∧
    ¬ Claim.legalShape [0, 0, 0, 0, 0] 0 0 :=
  ⟨issues (by decide), by decide, by decide, ⟨by decide, by decide, by decide, by decide, by decide⟩, issues (by decide),
    fun h => absurd h.1 (by decide)⟩

theorem witness_record_shapes : Issues (.sdef 0 (.record (.g 4)) .zero 0) recorded c0 ∧
    ∃ u r, recorded.layoutFor (clusterOf (c0.wid / 64)) (recorded.laneAcc c0) ((recorded.panel c0).gsrc (.g 4)).toNat = (u, .ok r) ∧
      r.kind = 0 ∧ r.cmp = false ∧ r.sparse = false ∧ (r.mom = true → r.fmt ≠ 0) ∧
      (∀ i, i < r.rank → r.origin.getD i 0 + r.size.getD i 0 ≤ r.ext.getD i 0) ∧
      Claim.legalShape r.size (if r.mom then 0x10 else r.fmt) r.rank :=
  ⟨issues (by decide), _, _, rfl, by decide, by decide, by decide, by decide, by decide,
    ⟨by decide, by decide, by decide, by decide, by decide⟩⟩

theorem witness_record_shapes_that_trap :
    let s := { recorded with recCache := [(recKey 0 0 0 0x18000, toBytes 192 (recordBits + 2 ^ 800))] }
    Issues (.sdef 0 (.record (.g 4)) .zero 0) s c0 ∧
    ∃ u r, s.layoutFor (clusterOf (c0.wid / 64)) (s.laneAcc c0) ((s.panel c0).gsrc (.g 4)).toNat = (u, .ok r) ∧
      ¬ ∀ i, i < r.rank → r.origin.getD i 0 + r.size.getD i 0 ≤ r.ext.getD i 0 :=
  ⟨issues (by decide), _, _, rfl, by decide⟩

theorem witness_skips : Issues (.sadvSkip 3 3 (.lit (-1))) streaming c0 ∧ ((streaming.panel c0).stream 3).defined = true ∧
    Issues (.sadvSkip 0 0 (.lit 0)) streaming c0 ∧ ((streaming.panel c0).stream 0).defined = false :=
  ⟨issues (by decide), by decide, issues (by decide), by decide⟩

/-- `streaming` at the end of its stream, and with another stream beside it: nothing of either is left to read. -/
def ended : State := streaming.setPanel c0
  (((streaming.panel c0).setStream 3 { (streaming.panel c0).stream 3 with cursor := 16 }).setStream 4
    { (streaming.panel c0).stream 3 with cursor := 16 })

theorem nothing_to_read (s : State) (x : Stream) (h : x.count ≤ x.cursor) : Claim.Readable s c0 x :=
  fun _ he hn => absurd (Nat.lt_of_le_of_lt he hn) (Nat.not_lt.mpr h)

theorem witness_skips_to_key : let s := ended
    let x := (s.panel c0).stream 3
    Issues (.sadvGe 0 3 (.lit 5)) s c0 ∧ x.defined = true ∧ x.fmt = 0x0D ∧ x.cursor < 2 ^ 64 ∧ x.count < 2 ^ 64 ∧
    Claim.Readable s c0 x ∧ ∀ e f, x.cursor ≤ e → e ≤ f → f < x.count → Claim.key s c0 x e ≤ Claim.key s c0 x f :=
  ⟨issues (by decide), by decide, by decide, by decide, by decide, nothing_to_read _ _ (by decide),
    fun e f he hf hn => absurd (Nat.lt_of_le_of_lt (Nat.le_trans he hf) hn) (by decide)⟩

/-- One element is left, and the core's L1 holds its line: it reads the same again and again. -/
def oneKey : State :=
  let s := streaming.setPanel c0
    ((streaming.panel c0).setStream 3 { (streaming.panel c0).stream 3 with cursor := 15 })
  (s.fetchBytes (s.laneAcc c0) 0x1803C 4).1

theorem witness_one_key_left : let x := (oneKey.panel c0).stream 3
    Issues (.sadvGe 0 3 (.lit 0)) oneKey c0 ∧ x.cursor < x.count ∧ Claim.Readable oneKey c0 x ∧
    ∀ e f, x.cursor ≤ e → e ≤ f → f < x.count → Claim.key oneKey c0 x e ≤ Claim.key oneKey c0 x f := by
  refine ⟨issues (by decide), by decide, fun e he hn => ?_, fun e f he hf hn => ?_⟩
  · have h1 : (15 : Nat) ≤ e := he
    have h2 : e < 16 := hn
    obtain rfl : e = 15 := by omega
    exact ⟨⟨by decide, by decide, by decide⟩, by decide +kernel⟩
  · have h1 : (15 : Nat) ≤ e := he
    have h2 : f < 16 := hn
    obtain rfl : e = f := by omega
    exact Nat.le_refl _

theorem witness_intersections : let s := ended
    let i := Instr.sxi (.v 0) 3 4 .zero 0 3 64
    let x := (s.panel c0).stream 3
    let y := (s.panel c0).stream 4
    Issues i s c0 ∧ NoStreams i ∧ (3 : Nat) ≠ 4 ∧ x.defined = true ∧ y.defined = true ∧
    x.fmt = 0x0D ∧ y.fmt = 0x0D ∧ x.cursor < 2 ^ 64 ∧ y.cursor < 2 ^ 64 ∧ (s.panel c0).progress = 0 ∧ x.count ≤ x.cursor :=
  ⟨issues (by decide), ⟨rfl, rfl⟩, by decide, by decide, by decide, by decide, by decide, by decide, by decide, by decide, by decide⟩

/-- One key is left in each of two streams. -/
def twoKeys : State := streaming.setPanel c0
  (((streaming.panel c0).setStream 3 { (streaming.panel c0).stream 3 with cursor := 15 }).setStream 4
    { (streaming.panel c0).stream 3 with cursor := 15 })

theorem witness_intersection_steps : let s := twoKeys
    let i := Instr.sxi (.v 0) 3 4 .zero 0 3 64
    let x := (s.panel c0).stream 3
    let y := (s.panel c0).stream 4
    Issues i s c0 ∧ x.defined = true ∧ y.defined = true ∧ x.fmt = 0x0D ∧ y.fmt = 0x0D ∧ s.active c0 ≠ 0 ∧ 
    (s.panel c0).progress = 0 ∧ 0 < (s.curWave c0).width ∧ x.cursor < x.count ∧ y.cursor < y.count ∧
    Claim.Granted s c0 [{ lane := 0, va := x.addr x.cursor, n := 4, write := false },
      { lane := 0, va := y.addr y.cursor, n := 4, write := false }] :=
  ⟨issues (by decide), by decide, by decide, by decide, by decide, by decide, by decide, by decide, by decide, by decide,
    by decide, by decide⟩

/-- Handle 0 of the workgroup names the record at the start of its A window: two arrivals expected, in generation 5. -/
def barrier : State := { ready with aStore := [(0, 2), (12, 5)] }

/-- The place of that record. -/
def place : LocalPlace := { store := .a, core := 0, ofs := 0 }

theorem barrier_names : Claim.Names barrier c0 0 place := ⟨by decide, by decide⟩

theorem witness_barrier_updates : Issues (.barr (.g 3) 0) barrier c0 ∧ Issues (.bexp .zero 0 (.lit (-1))) barrier c0 ∧
    Claim.Names barrier c0 0 place ∧ barrier.replaying c0 = false ∧
    (Claim.fieldsOf barrier place).arr + 1 ≤
      (Claim.fieldsOf barrier place).exp :=
  ⟨issues (by decide), issues (by decide), barrier_names, by decide, by decide⟩

theorem witness_barrier_traps : Issues (.barr (.g 3) 0) ready c0 ∧
    Claim.Names ready c0 0 place ∧
    (Claim.fieldsOf ready place).exp <
      (Claim.fieldsOf ready place).arr + 1 ∧
    let s := { ready with wgs := ready.wgs.map fun e => (e.1, { e.2 with handles := [] }) }
    Issues (.barr (.g 3) 0) s c0 ∧ handleBound ((s.curWg c0).handles.getD 0 0) = false :=
  ⟨issues (by decide), ⟨by decide, by decide⟩, by decide, issues (by decide), by decide⟩

theorem witness_barrier_waits : Issues (.bwait (.g 3) 0 (.lit 4)) barrier c0 ∧
    Claim.Names barrier c0 0 place ∧
    Claim.behind 32 (Claim.fieldsOf barrier place).gen 4 ∧ barrier.replaying c0 = false ∧
    Issues (.bwait (.g 3) 0 (.lit 5)) barrier c0 ∧
    ¬ Claim.behind 32 (Claim.fieldsOf barrier place).gen 5 := by
  refine ⟨issues (by decide), barrier_names, ⟨1, by decide, by decide, by decide⟩, by decide,
    issues (by decide), ?_⟩
  rintro ⟨d, h1, h2, h3⟩
  have h : (Claim.fieldsOf barrier place).gen = 5 := by decide
  rw [h] at h3
  omega

theorem witness_split_barriers : Issues (.sbar (.g 3) 0) barrier c0 ∧
    Claim.Names barrier c0 0 place ∧ barrier.replaying c0 = false ∧
    (barrier.panel c0).px = 0 ∧ (barrier.panel c0).frame = none ∧
    (Claim.fieldsOf barrier place).arr + 1 ≤ (Claim.fieldsOf barrier place).exp :=
  ⟨issues (by decide), barrier_names, by decide, by decide, by decide, by decide⟩

/-- A panel in BARW for the phase of generation 4. -/
def waitingFor (i : Instr) : State := barrier.setPanel c0 { barrier.panel c0 with
  status := .barw, wait := some { instr := i, len := 1, since := 0, aux := 4 } }

theorem witness_barrier_waits_end : let s := waitingFor (.bwait (.g 3) 0 (.lit 4))
    let u := waitingFor (.sbar (.g 3) 0)
    (s.panel c0).valid = true ∧ (s.panel c0).status = .barw ∧ s.waveRuns 0 = true ∧ s.replaying c0 = false ∧
    s.logStalls c0 1 = false ∧ Claim.behind 32 (Claim.fieldsOf s place).gen 4 ∧
    (u.panel c0).valid = true ∧ (u.panel c0).status = .barw ∧ u.waveRuns 0 = true ∧ u.replaying c0 = false ∧
    u.logStalls c0 1 = false ∧ Claim.behind 30 (Claim.fieldsOf u place).gen 4 ∧ (u.panel c0).frame = none ∧
    handleBound ((s.curWg c0).handles.getD 0 0) = true ∧
    s.findLocal (s.curWg c0) admitA 16 (handleAddr ((s.curWg c0).handles.getD 0 0)) 16 = .ok place :=
  ⟨by decide, by decide, by decide, by decide, by decide, ⟨1, by decide, by decide, by decide⟩, by decide, by decide, by decide,
    by decide, by decide, ⟨1, by decide, by decide, by decide⟩, by decide, by decide, by decide⟩

theorem witness_copies_start : let i := Instr.copy .plain false 0 false 0 (.g 5) (.g 4) 8
    let s := recorded.setPanel c0 ((recorded.panel c0).setG 5 0x20000000)
    ∃ u r record, Issues i s c0 ∧ (s.panel c0).progress = 0 ∧ (s.curWave c0).idx = s.producer (s.curWg c0) ∧
      s.layoutFor (clusterOf (c0.wid / 64)) (s.laneAcc c0) ((s.panel c0).gsrc (.g 4)).toNat = (u, .ok r) ∧
      (u.recordBytes (clusterOf (c0.wid / 64)) (u.laneAcc c0) r.handle).2 = .ok record ∧
      (Claim.copyOf s c0 .plain false none (.g 5) 8 r.handle record).ruleBroken (.g 5) = false ∧
      u.copyLocals (s.curWg c0) (Claim.copyOf s c0 .plain false none (.g 5) 8 r.handle record) = .ok () ∧
      (∃ place, Claim.Names u c0 0 place) ∧ s.active c0 ≠ 0 ∧
      (Claim.copyOf s c0 .plain false none (.g 5) 8 r.handle record).units ≠ 0 :=
  ⟨_, _, _, issues (by decide), by decide, by decide, rfl, rfl, by decide, by decide, ⟨place, by decide, by decide⟩,
    by decide, by decide⟩

theorem witness_copy_in_other_wave : let s := { ready with waves := ready.waves.map fun e => (e.1, { e.2 with idx := 1 }) }
    Issues (.copy .plain false 0 false 0 (.g 5) (.g 4) 8) s c0 ∧ (s.panel c0).progress = 0 ∧
    (s.curWave c0).idx ≠ s.producer (s.curWg c0) :=
  ⟨issues (by decide), by decide, by decide⟩

/-- A copy of the record's box to the A window, some rows issued and some landed. -/
def copying (issued landed : Nat) (bits : Nat) : State :=
  let s := recorded.setPanel c0 ((recorded.panel c0).setG 5 0x20000000)
  { s with threads := [(77, { wid := 0, entry := 0, quads := 0xFFFF, gid := (s.curWg c0).gid, core := 0, part := 0, asn := 0, gen := 0
                              pc := (s.panel c0).pc, bar := none, held := none, ray := none
                              engine := .copy { Claim.copyOf s c0 .plain false none (.g 5) 8 0x18000 (toBytes 192 bits) with
                                issued := issued, landed := landed } })] }

theorem witness_copies_land : let s := copying 1 0 recordBits
    ∃ th x u, s.thread? 77 = some th ∧ th.engine = .copy x ∧ s.threadRuns th = true ∧ s.fresh th = true ∧
      x.landed < x.issued ∧ s.copyUnit 77 th x = .ok u ∧ x.units ≤ x.landed + 1 :=
  ⟨_, _, _, rfl, rfl, by decide, by decide, by decide, rfl, by decide⟩

/-- A record of two rows of eight words. -/
def twoRows : Nat := 0x18800 + 0xD * 2 ^ 64 + 2 * 2 ^ 72 + 8 * 2 ^ 128 + 2 * 2 ^ 160 + 4 * 2 ^ 320 + 32 * 2 ^ 384 + 8 * 2 ^ 800 + 2 * 2 ^ 832

theorem witness_copies_land_more : let s := copying 1 0 twoRows
    ∃ th x u, s.thread? 77 = some th ∧ th.engine = .copy x ∧ s.threadRuns th = true ∧ s.fresh th = true ∧
      x.landed < x.issued ∧ s.copyUnit 77 th x = .ok u ∧ x.landed + 1 < x.units :=
  ⟨_, _, _, rfl, rfl, by decide, by decide, by decide, rfl, by decide⟩

/-- The copy of the record's 16 words, in either direction, to or from byte 64 of the A window; handle 0's record is at its start. -/
def mover (out : Bool) : Thread :=
  let s := recorded.setPanel c0 ((recorded.panel c0).setG 5 0x20000040)
  { wid := 0, entry := 0, quads := 0xFFFF, gid := (s.curWg c0).gid, core := 0, part := 0, asn := 0, gen := 0, pc := (s.panel c0).pc
    bar := some (handleAddr ((s.curWg c0).handles.getD 0 0)), held := none, ray := none
    engine := .copy { Claim.copyOf s c0 .plain out none (.g 5) 8 0x18000 (toBytes 192 recordBits) with issued := 1 } }

/-- The state in which it lands; its words are in the core's L1. -/
def moving (out : Bool) : State := { recorded with threads := [(77, mover out)], l1 := (recorded.fetchBytes (mover out).acc 0x18800 64).1.l1
                                                   tlb := (recorded.fetchBytes (mover out).acc 0x18800 64).1.tlb }

theorem witness_copies_move (out : Bool) : let s := moving out
    ∃ x u p y, (mover out).engine = .copy x ∧ Claim.PlainCopy x ∧ s.copyUnit 77 (mover out) x = .ok u ∧
      x.lay.rank = 1 ∧ x.landed = Claim.boxRow x [] ∧ x.out = out ∧
      s.threadLocal (mover out) admitAny 1 (x.loc + x.landed * 64) 64 = some p ∧
      s.threadLocal (mover out) admitA 16 (handleAddr ((recorded.curWg c0).handles.getD 0 0)) 16 = some y ∧ y.store = .a ∧
      storeIndex y.core y.ofs + 16 ≤ storeIndex p.core p.ofs ∧ (Claim.fieldsOf s y).arr ≤ (Claim.fieldsOf s y).exp ∧
      s.poison = [] ∧ ∀ i, i < 16 → Claim.inBox x i [] = true ∧ (s.fetchBytes (mover out).acc (Claim.boxAddr x i []) 4).1 = s := by
  cases out <;>
    exact ⟨_, _, _, _, rfl, ⟨rfl, ⟨by decide, by decide⟩, ⟨by decide, by decide⟩, ⟨by decide, by decide⟩⟩, rfl, by decide, by decide, rfl,
      rfl, rfl, rfl, by decide, by decide, rfl, by decide +kernel⟩

theorem witness_copies_go_on : let s := (copying 1 0 twoRows).setProgress c0 1
    Issues (.copy .plain false 0 false 0 (.g 5) (.g 4) 8) s c0 ∧ (s.panel c0).progress ≠ 0 ∧
    ∃ th y, s.copyAt c0 (s.panel c0).progress.toNat = some (77, th, y) :=
  ⟨issues (by decide), by decide, _, _, rfl⟩

theorem witness_record_flushes : Issues (.lflush true (.g 4)) (pointing 0x18000) c0 ∧ Issues (.lflush false (.g 4)) (pointing 1) c0 ∧
    let s := withPanel fun p => { p with wait := some { instr := .lflush true (.g 4), len := 1, since := 0, aux := 0x18000 } }
    (s.panel c0).valid = true ∧ (s.panel c0).status = .run ∧ ((s.panel c0).wait.map fun y => (y.instr, y.len)) = some (.lflush true (.g 4), 1) ∧
    clusterOf (0 / 64) < 9 ∧ (s.laneAcc c0).part < 8 ∧ (s.laneAcc c0).asn < 2 ^ 16 :=
  ⟨issues (by decide), issues (by decide), by decide, by decide, by decide, by decide, by decide, by decide⟩

/-- Queue 5 takes posts from address space 0 of partition 0: 16 slots, from 0x18800. -/
def posting (put : Nat) (addr : DWord) : State :=
  let s := alone.setPanel c0 (((alone.panel c0).setG 4 addr).setG 6 5)
  s.setQueue 5 { s.queue 5 with qcfg := 0x1000, qbase := 0x18800, qput := BitVec.ofNat 32 put }

theorem witness_queue_posts : let s := posting 0 0x18000
    Issues (.qpost true (.g 7) (.g 6) (.g 4)) s c0 ∧ ((s.panel c0).gsrc (.g 6)).toNat = 5 ∧ (s.queue 5).qcfg = 0x1000 ∧
    s.active c0 ≠ 0 ∧ ((s.queue 5).qput - (s.queue 5).qrd).toNat ≠ 16 ∧
    Claim.Granted s c0 [{ lane := 0, va := 0x18000, n := 128, write := false }, { lane := 0, va := 0x18800, n := 128, write := true }] :=
  ⟨issues (by decide), by decide, by decide, by decide, by decide, by decide, by decide⟩

theorem witness_queue_posts_of_no_lane : let s := posting 0 0x18000
    let u := s.setPanel c0 { s.panel c0 with mask := 0 }
    Issues (.qpost true (.g 7) (.g 6) (.g 4)) u c0 ∧ u.active c0 = 0 :=
  ⟨issues (by decide), by decide⟩

theorem witness_queue_posts_not : Issues (.qpost true (.g 7) (.g 6) (.g 4)) (posting 16 0x18000) c0 ∧
    (((posting 16 0x18000).queue 5).qput - ((posting 16 0x18000).queue 5).qrd).toNat = 16 ∧
    Claim.Granted (posting 16 0x18000) c0 [{ lane := 0, va := 0x18000, n := 128, write := false }] ∧
    Issues (.qpost true (.g 7) (.g 6) (.g 4)) (posting 0 0x18001) c0 ∧
    Issues (.qpost true (.g 7) .zero (.g 4)) (posting 0 0x18000) c0 ∧ ((posting 0 0x18000).queue 0).qcfg.getLsbD 12 = false :=
  ⟨issues (by decide), by decide, ⟨by decide, by decide⟩, issues (by decide), issues (by decide), by decide⟩

/-! ### Matrix loops and moments -/

/-- Lane 0 alone, with the operands of a loop in g20–g23: A at the A window's start, B at the W window's, C at the C
window's; format block 1 is of bytes with 32-bit integer accumulators. -/
def looping : State := alone.setPanel c0
  ((((alone.panel c0).setG 20 0x20000000).setG 21 0x40000000).setFormat 1 (BitVec.ofNat 128 (4 * 16 + 4 * 256 + 4096)))

def loop1 : Instr := .mloop none 20 0 1 1 false true false .zero

theorem witness_matrix_starts : (∃ e, Claim.matrixForm looping c0 loop1 = some (0, e, none)) ∧ Issues loop1 looping c0 ∧
    (looping.curWave c0).matrix = none ∧ Claim.Names looping c0 0 place :=
  ⟨⟨_, rfl⟩, issues (by decide), by decide, by decide, by decide⟩

theorem witness_matrix_waits : let s := { looping with waves := looping.waves.map fun e => (e.1, { e.2 with matrix := some 9 }) }
    (∃ bh e x, Claim.matrixForm s c0 loop1 = some (bh, e, x)) ∧ Issues loop1 s c0 ∧ (s.curWave c0).matrix ≠ none :=
  ⟨⟨_, _, _, rfl⟩, issues (by decide), by decide⟩

theorem witness_softmax_traps : let i := Instr.msoft .zero 20 0 false false true
    (∃ e x, Claim.matrixForm ready c0 i = some (0, e, some x)) ∧ Issues i ready c0 ∧ (ready.curWave c0).matrix = none :=
  ⟨⟨_, _, rfl⟩, issues (by decide), by decide⟩

/-- An engine at work for the panel of lane 0. -/
def worker (s : State) (e : Engine) : State :=
  { s with threads := [(77, { wid := 0, entry := 0, quads := 0xFFFF, gid := (s.curWg c0).gid, core := 0, part := 0, asn := 0, gen := 0
                              pc := 0, bar := none, held := none, ray := none, engine := e })] }

def loopOp : MatOp := Claim.loopOf looping c0 none 20 1 1 false true false .zero

theorem witness_matrix_ends :
    (∃ th, (worker looping (.mloop loopOp)).thread? 77 = some th ∧ (worker looping (.mloop loopOp)).matrixRuns 77 th = true ∧
      th.engine = .mloop loopOp ∧ loopOp.ksteps ≤ loopOp.kdone + 1) ∧
    (∃ th x, (worker looping (.mloop { loopOp with ksteps := 2 })).thread? 77 = some th ∧
      (worker looping (.mloop { loopOp with ksteps := 2 })).matrixRuns 77 th = true ∧ th.engine = .mloop x ∧ x.kdone + 1 < x.ksteps) ∧
    ∃ th x, (worker looping (.msoft { g := [], pout := 0, e4m3 := false, tri := false, first := false, rows := 62, flags := 0 })).thread? 77 =
        some th ∧
      (worker looping (.msoft { g := [], pout := 0, e4m3 := false, tri := false, first := false, rows := 62, flags := 0 })).matrixRuns 77 th =
        true ∧ th.engine = .msoft x ∧ x.rows + 1 < 64 :=
  ⟨⟨_, rfl, by decide, rfl, by decide⟩, ⟨_, _, rfl, by decide, rfl, by decide⟩, _, _, rfl, by decide, rfl, by decide⟩

theorem witness_integer_loops : ∃ th p, (worker looping (.mloop loopOp)).thread? 77 = some th ∧ th.engine = .mloop loopOp ∧
    loopOp.kdone = 0 ∧ loopOp.ksteps = 1 ∧ loopOp.areg = none ∧ loopOp.tri = false ∧ loopOp.sat = false ∧
    loopOp.written = List.replicate 64 true ∧ loopOp.fmts.mom = false ∧ loopOp.fmts.c = 1 ∧ loopOp.fmts.a = 4 ∧
    loopOp.fmts.b = 4 ∧ (worker looping (.mloop loopOp)).matrixRuns 77 th = true ∧ (worker looping (.mloop loopOp)).findLocal (Claim.window (worker looping (.mloop loopOp)) th) admitAny 1
      loopOp.cAddr 16384 = .ok p ∧ p.store = .c :=
  ⟨_, _, rfl, rfl, by decide, by decide, by decide, by decide, by decide, by decide, by decide, by decide, by decide, by decide,
    by decide, rfl, by decide⟩

theorem witness_softmax_rows : (f32.decode f32.nan).isNan = true ∧ ¬ (f32.decode 0).isNan = true := by decide

theorem witness_tile_moves : let s := pointing 0x40003FFC
    Issues (.maccGet false 0 (.g 4) 1 0) s c0 ∧ Issues (.maccPut false 0 (.g 4) 1 0) s c0 ∧
    (s.curWave c0).releasing &&& s.active c0 = 0 ∧ Claim.lanesOf s c0 = [0] ∧
    Claim.InTile s c0 false (((s.panel c0).gsrc (.g 4)).toNat % 2 ^ 32) 1 0 (fun _ _ => { store := .c, core := 0, ofs := 0x3FFC }) := by
  refine ⟨issues (by decide), issues (by decide), by decide, by decide, by decide, by decide, ?_⟩
  intro j hj k hk
  have h : Claim.lanesOf (pointing 0x40003FFC) c0 = [0] := by decide
  rw [h, List.mem_singleton] at hj
  have hk' : k < 1 := hk
  obtain rfl := hj
  obtain rfl : k = 0 := by omega
  exact ⟨by decide, by decide, rfl⟩

theorem witness_format_blocks : Issues (.fbset 7 .hi .zero (.g 31)) ready c0 := issues (by decide)

theorem witness_quick_matrices : Issues (.mmq 1 true 1 20) looping c0 ∧ looping.inMmq c0 = false ∧ looping.matrixOn (c0.wid / 64) = [] ∧
    looping.loopCauses (looping.curWg c0) (mmqOp (looping.panel c0) 1 true 20 0) = none ∧
    let s := looping.setWave 0 { (looping.wave 0).setPanel 0 { (((looping.panel c0).setProgress 2).setG 20 1) with mmq := some 9 } with
      matrix := some 9 }
    Issues (.mmq 1 true 3 20) s c0 ∧ s.inMmq c0 = true ∧ (s.panel c0).progress.toNat % 2 ^ 12 = 2 ∧
    ∃ cause, s.loopCauses (s.curWg c0) (mmqOp (s.panel c0) 1 true 20 2) = some cause :=
  ⟨issues (by decide), by decide, by decide, by decide, issues (by decide), by decide, by decide, _, rfl⟩

theorem witness_moments : (∃ x, Claim.momentForm (.maddLong true .pos 0 95 1) = some x) ∧ Issues (.maddLong true .pos 0 95 1) ready c0 ∧
    Issues (.mnl .relu 95 0) ready c0 ∧ Issues (.mcoll (.upper (.g 31)) (.v 0) 95) ready c0 ∧
    NoStreams (.mcoll (.upper (.g 31)) (.v 0) 95) :=
  ⟨⟨_, rfl⟩, issues (by decide), issues (by decide), issues (by decide), rfl, rfl⟩

/-! ### Texels, spools, rays and motion -/

theorem witness_texture_queries : ∃ u r, Claim.Finds recorded c0 (.g 4) u r ∧
    Issues (.texqSize (.v 0) (.g 4) (.v 2)) recorded c0 ∧ NoStreams (.texqSize (.v 0) (.g 4) (.v 2)) ∧ r.fmt ≠ 6 ∧
    Issues (.texqRes (.v 0) (.g 4) (.v 2)) recorded c0 ∧ NoStreams (.texqRes (.v 0) (.g 4) (.v 2)) ∧ r.sparse = false :=
  ⟨_, _, rfl, issues (by decide), ⟨rfl, rfl⟩, by decide, issues (by decide), ⟨rfl, rfl⟩, by decide⟩

theorem witness_texture_queries_that_trap :
    let s := { recorded with recCache := [(recKey 0 0 0 0x18000, toBytes 192 (recordBits - 7 * 2 ^ 64))] }
    Issues (.texqSize (.v 0) (.g 4) (.v 2)) s c0 ∧ Issues (.texqRes (.v 0) (.g 4) (.v 2)) s c0 ∧
    ∃ u r, Claim.Finds s c0 (.g 4) u r ∧ r.fmt = 6 :=
  ⟨issues (by decide), issues (by decide), _, _, rfl, by decide⟩

theorem witness_gathers : ∃ u r, Claim.Finds recorded c0 (.g 4) u r ∧ Issues (.gath 1 (some 7) (.v 8) 0 (.g 4)) recorded c0 ∧
    gathBad r (recorded.curWave c0) 1 0 (.v 8) = false ∧
    ((Claim.lanesOf recorded c0).filter fun j => (recorded.panel c0).progress.toNat % 2 ^ 7 ≤ j) = [0] ∧
    Claim.Granted ((u.keepRecord c0 r.handle).setProgress c0 0) c0 (Claim.gathered recorded c0 r 0 1 0) ∧
    Claim.Clean (u.keepRecord c0 r.handle) c0 ∧
    let s := recorded.setProgress c0 1
    Issues (.gath 1 (some 7) (.v 8) 0 (.g 4)) s c0 ∧
    ((Claim.lanesOf s c0).filter fun j => (s.panel c0).progress.toNat % 2 ^ 7 ≤ j) = [] ∧
    Issues (.gath 4 (some 7) (.v 8) 191 (.g 4)) recorded c0 ∧ gathBad r (recorded.curWave c0) 4 192 (.v 8) = true :=
  ⟨_, _, rfl, issues (by decide), by decide, by decide, ⟨by decide, by decide⟩, ⟨by decide, fun _ _ => rfl⟩, issues (by decide), by decide,
    issues (by decide), by decide⟩

/-- A texture by R118: one level of 4 by 4 texels of 32 bits; sparse, with its map's byte at 0x18000, or not. -/
def textureBits (base sparse : Nat) : Nat :=
  base + 0x40 * 2 ^ 64 + 2 * 2 ^ 72 + 1 * 2 ^ 80 + sparse * 2 ^ 89 + 4 * 2 ^ 128 + 4 * 2 ^ 160 + sparse * 0x18000 * 2 ^ 1024

def textured (base sparse : Nat) : State :=
  { recorded with
    recCache := [(recKey 0 0 0 0x18000, toBytes 192 (textureBits base sparse))], mem := Sparse.set 0 recorded.mem 0x18000 0xFF }

theorem witness_sample_traps : ∃ u r, Claim.Finds recorded c0 (.g 4) u r ∧ Issues (.sample .lod none 0 4 (.g 4)) recorded c0 ∧
    r.kind = 0 :=
  ⟨_, _, rfl, issues (by decide), by decide⟩

theorem witness_samples : ∃ u r, Claim.Finds (textured 0x18800 1) c0 (.g 4) u r ∧
    Issues (.sample .lod (some 7) 0 4 (.g 4)) (textured 0x18800 1) c0 ∧
    ¬ (r.kind = 0 ∨ r.rank ≠ 2 ∧ r.rank ≠ 3 ∨ r.fmt < 0x40) ∧
    (u.sampleAll c0 r .lod ((textured 0x18800 1).lanes c0) 4).toBool = true ∧ Claim.lanesOf (textured 0x18800 1) c0 = [0] ∧
    (match u.residency (u.laneAcc c0) r 0 0 0 with
      | .ok (_, m) => m
      | .error _ => 0) = 0xFF :=
  ⟨_, _, rfl, issues (by decide), by decide, by decide +kernel, by decide, by decide +kernel⟩

theorem witness_sample_waits : ∃ u r, Claim.Finds (textured 0x40000 0) c0 (.g 4) u r ∧
    Issues (.sample .lod (some 7) 0 4 (.g 4)) (textured 0x40000 0) c0 ∧
    ¬ (r.kind = 0 ∨ r.rank ≠ 2 ∧ r.rank ≠ 3 ∨ r.fmt < 0x40) ∧
    (match u.sampleAll c0 r .lod ((textured 0x40000 0).lanes c0) 4 with
      | .error (.trap _ (.fail _ _ _)) => true
      | _ => false) = true :=
  ⟨_, _, rfl, issues (by decide), by decide, by decide +kernel⟩

/-- A spool of two slots of 128 bytes in the A store of core 0, from an offset on. -/
def spoolAt (ofs : Nat) : SpoolUnit :=
  { lid := 0, nslot := 2, ssz := 128, mem := false, quad := false, bcst := false, hdr := 0, readers := [], tickets := []
    store := some (0, ofs), die := none, decl := ofs, fromRaster := false, toBlend := false, pending := [], held := none }

/-- Its storage by R260-R262, at some flags, with some records, the last of them the one before index 7, in slot 0. -/
def storage (l : List Host.Cell) (ofs flags n tag : Nat) (words : List Word) : List Host.Cell :=
  Sparse.setBytes (Sparse.setBytes (Sparse.setBytes l ofs
    (toBytes 4 (1 + 7 * 2 ^ 12) ++ toBytes 1 flags ++ toBytes 3 1 ++ toBytes 4 (7 - n) ++ toBytes 4 7)) (ofs + 64)
    (words.flatMap fun w => toBytes 4 w.toNat)) (ofs + 320) (toBytes 4 tag)

/-- Lane 0 alone in a workgroup whose first in-port and out-port are the spool. -/
def piped (flags n : Nat) : State :=
  { alone with
    spools := [(9, spoolAt 0x1000)], aStore := storage [] 0x1000 flags n (0x1108 + 6 * 2 ^ 16) [1, 2]
    wgs := alone.wgs.map fun e => (e.1, { e.2 with inPorts := [some 9], outPorts := [some 9] }) }

/-- The spool as its storage shows it. -/
def shown (flags n : Nat) : Spool := (piped flags n).viewSpool (spoolAt 0x1000)

/-- The conditions of `OnChip`, computed. -/
theorem on_chip {s : State} {x : Spool} (h : (decide (s.spool? 9 = some x) && decide (s.replicas 9 = [9]) && !s.deadSpool 9 &&
    decide (x.store = some (0, 0x1000)) && decide (x.nslot = 2) && decide (x.ssz = 128) && decide (seqFrom x.tail x.head ≤ x.nslot) &&
    !x.bcst && x.tickets.isEmpty && x.pending.isEmpty) = true) : Claim.OnChip s 9 0 0x1000 x := by
  simp only [Bool.and_eq_true, decide_eq_true_eq, Bool.not_eq_true', List.isEmpty_iff] at h
  obtain ⟨⟨⟨⟨⟨⟨⟨⟨⟨h1, h2⟩, h3⟩, h4⟩, h5⟩, h6⟩, h7⟩, h8⟩, h9⟩, h10⟩ := h
  exact ⟨h1, h2, h3, h4, ⟨1, by decide, h5⟩, by rw [h6]; decide, h7, h8, h9, h10⟩

theorem witness_emits : let i := Instr.emit true 0 (.v 191) (.lit 0x11)
    Issues i (piped 0 1) c0 ∧ (piped 0 1).openPort c0 0 = some 9 ∧ Claim.OnChip (piped 0 1) 9 0 0x1000 (shown 0 1) ∧
    (shown 0 1).toBlend = false ∧ Claim.units (piped 0 1) c0 (shown 0 1).quad ≠ [] ∧
    emitBad ((piped 0 1).lanes c0) (shown 0 1) (.v 191) 0x11 (Claim.units (piped 0 1) c0 (shown 0 1).quad) = false ∧
    (Claim.units (piped 0 1) c0 (shown 0 1).quad).length + (shown 0 1).records.length ≤ (shown 0 1).nslot :=
  ⟨issues (by decide), by decide, on_chip (by decide), by decide, by decide, by decide, by decide⟩

theorem witness_emit_waits : let i := Instr.emit true 0 (.v 191) (.lit 0x11)
    Issues i (piped 0 2) c0 ∧ Claim.OnChip (piped 0 2) 9 0 0x1000 (shown 0 2) ∧
    (shown 0 2).nslot < (Claim.units (piped 0 2) c0 false).length + (shown 0 2).records.length ∧
    Issues i alone c0 ∧ alone.openPort c0 0 = none ∧
    let s := (piped 0 0).setPanel c0 { (piped 0 0).panel c0 with mask := 0 }
    Issues i s c0 ∧ Claim.OnChip s 9 0 0x1000 (shown 0 0) ∧ Claim.units s c0 false = [] :=
  ⟨issues (by decide), on_chip (by decide), by decide, issues (by decide), by decide, issues (by decide), on_chip (by decide), by decide⟩

/-- The panel of `piped`, waiting with an instruction. -/
def blocked (flags n : Nat) (i : Instr) : State :=
  (piped flags n).setPanel c0 { (piped flags n).panel c0 with wait := some { instr := i, len := 1, since := 0, aux := 0 } }

theorem witness_emit_wakes : let s := blocked 0 0 (.emit false 0 (.v 0) (.lit 0x11))
    (s.panel c0).valid = true ∧ s.waveRuns 0 = true ∧ ((s.panel c0).wait.map fun y => (y.instr, y.len)) = some (.emit false 0 (.v 0) (.lit 0x11), 1) ∧
    s.openPort c0 0 = some 9 ∧ Claim.OnChip s 9 0 0x1000 (shown 0 0) ∧ (shown 0 0).toBlend = false ∧
    Claim.units s c0 false ≠ [] ∧ emitBad (s.lanes c0) (shown 0 0) (.v 0) 0x11 (Claim.units s c0 false) = false ∧
    (Claim.units s c0 false).length + (shown 0 0).records.length ≤ (shown 0 0).nslot :=
  ⟨by decide, by decide, by decide, by decide, on_chip (by decide), by decide, by decide, by decide, by decide⟩

theorem witness_closings : Issues (.emitClose true 0) (piped 0 0) c0 ∧ (piped 0 0).openPort c0 0 = some 9 ∧
    Claim.OnChip (piped 0 0) 9 0 0x1000 (shown 0 0) ∧ Issues (.emitClose true 7) (piped 0 0) c0 ∧ (piped 0 0).openPort c0 7 = none ∧
    Claim.OnChip (piped 2 1) 9 0 0x1000 (shown 2 1) ∧ (shown 2 1).cls = true ∧ (∀ r ∈ (shown 2 1).records, r.eos = false) ∧
    (shown 2 1).records.length < (shown 2 1).nslot :=
  ⟨issues (by decide), by decide, on_chip (by decide), issues (by decide), by decide, on_chip (by decide), by decide, by decide, by decide⟩

theorem witness_pulls : let i := Instr.pull false (.v 0) 0 2
    Issues i (piped 0 1) c0 ∧ (piped 0 1).inPort c0 0 = some (9, shown 0 1) ∧ Claim.OnChip (piped 0 1) 9 0 0x1000 (shown 0 1) ∧
    (shown 0 1).quad = false ∧ (shown 0 1).fromRaster = false ∧
    (piped 0 1).replaying c0 = false ∧ (piped 0 1).active c0 ≠ 0 ∧ Claim.Ready (piped 0 1) c0 false (shown 0 1) :=
  ⟨issues (by decide), by decide, on_chip (by decide), by decide, by decide, by decide, by decide, Or.inl (by decide)⟩

theorem witness_pull_waits : let i := Instr.pull true (.v 0) 0 2
    Issues i (piped 0 0) c0 ∧ (piped 0 0).inPort c0 0 = some (9, shown 0 0) ∧ Claim.OnChip (piped 0 0) 9 0 0x1000 (shown 0 0) ∧
    ¬ Claim.Ready (piped 0 0) c0 true (shown 0 0) ∧ Issues (.pull true (.v 0) 7 2) (piped 0 0) c0 ∧ (piped 0 0).inPort c0 7 = none ∧
    let s := blocked 0 1 i
    (s.panel c0).wait.map (fun y => (y.instr, y.len)) = some (i, c0.len) ∧ (s.panel c0).valid = true ∧ s.waveRuns c0.wid = true ∧
    s.logStalls c0 1 = false ∧ s.inPort c0 0 = some (9, shown 0 1) ∧ Claim.OnChip s 9 0 0x1000 (shown 0 1) ∧
    Claim.Ready s c0 true (shown 0 1) := by
  refine ⟨issues (by decide), by decide, on_chip (by decide), ?_, issues (by decide), by decide, by decide, by decide, by decide, by decide,
    by decide, on_chip (by decide), Or.inl (by decide)⟩
  rintro (h | ⟨r, hr, _⟩)
  · exact absurd h (by decide)
  · cases hr

theorem witness_traces_start : let i := Instr.trace none 0xFF true true 8 0 (.g 4)
    Issues i (pointing 0x18000) c0 ∧ (pointing 0x18000).traceBad c0 none = false ∧ (pointing 0x18000).active c0 ≠ 0 ∧
    Issues i (pointing 0x18001) c0 ∧ Issues i (pointing (2 ^ 57)) c0 ∧
    Issues (.trace (some 7) 0 false false 8 0 (.g 4)) (pointing 0) c0 ∧ (pointing 0).traceBad c0 (some 7) = true ∧
    Issues (.traceResume none 8 32 (.v 0)) (pointing 0) c0 ∧ NoStreams (.traceResume none 8 32 (.v 0)) :=
  ⟨issues (by decide), by decide, by decide, issues (by decide), issues (by decide), issues (by decide), by decide,
    issues (by decide), rfl, rfl⟩

/-- Two rays whose origins are NaN. -/
def strayRays : List RayState :=
  [{ lane := 0, words := List.replicate 32 0x7FC00000, resume := none, done := false },
   { lane := 1, words := List.replicate 32 0x7FC00000, resume := none, done := false }]

theorem witness_traces_end : ∃ th x, (worker alone (.trace none 8 strayRays)).thread? 77 = some th ∧
    th.engine = .trace none 8 strayRays ∧ (strayRays.find? fun y => y.lane == 0 && !y.done) = some x ∧
    (worker alone (.trace none 8 strayRays)).threadRuns th = true ∧ (worker alone (.trace none 8 strayRays)).fresh th = true ∧
    (∃ r fault, ((worker alone (.trace none 8 strayRays)).rayRun th.acc false x.words x.resume).2 = .done r fault) ∧
    (strayRays.any fun y => !y.done && y.lane != 0) = true ∧ x.resume = none ∧ Claim.notFinite x.words ∧
    (x.words.getD 18 0).getLsbD 1 = false :=
  ⟨_, _, rfl, rfl, rfl, by decide, by decide, ⟨_, _, rfl⟩, by decide, rfl, Or.inr (Or.inl (by decide)), by decide⟩

theorem witness_discards : Issues (.disc true 7) ready c0 ∧ Issues .discAll ready c0 ∧ (ready.curWave c0).tickets = [] ∧
    let s := (worker ready (.mloop loopOp)).setWave 0 { ready.wave 0 with matrix := some 77 }
    Issues .discAll s c0 ∧ (s.curWave c0).tickets = [] ∧
    ∃ th x, s.thread? 77 = some th ∧ th.engine = .mloop x ∧ th.wid = c0.wid ∧ (s.curWave c0).matrix = some 77 :=
  ⟨issues (by decide), issues (by decide), by decide, issues (by decide), by decide, _, _, rfl, rfl, rfl, by decide⟩

/-- A panel of the first display core. -/
def c1 : Cur := { wid := 384 * 64, entry := 0, len := 1 }

def display : State :=
  { ready with
    waves := [(384 * 64, ((ready.wave 0).setPanel 0 (((ready.panel c0).setG 4 (2 ^ 61 / 2 ^ 32 * 2 ^ 32 + 0x20000000)).setG 5 0x20001000)))]
    wgs := ready.wgs.map (fun e => (e.1, { e.2 with core := 384 })), cur := some c1 }

def search : MestOp :=
  { g := (List.range 3).map fun k => (display.panel c1).greg (4 + k), nbx := 1, cand := false, range := 1, blocks := 0, flags := 0 }

/-- The display core with a thread of `mest`. -/
def searching (x : MestOp) : State :=
  { display with threads := (worker display (.mest x)).threads.map fun (e : Nat × Thread) =>
      (e.1, { e.2 with wid := c1.wid, gid := (display.curWg c1).gid, core := 384 }) }

theorem witness_motion : Issues (.mest 29 0 1 true 64) ready c0 ∧ c0.wid / 64 < 384 ∧ Issues (.mest 4 0 1 false 1) display c1 ∧
    384 ≤ c1.wid / 64 ∧ display.mestCauses (display.curWg c1) search = none ∧ (∃ p, Claim.Names display c1 0 p) ∧ display.active c1 ≠ 0 ∧
    (∃ th, (searching search).thread? 77 = some th ∧ th.engine = .mest search ∧ (searching search).threadGoes th = true ∧
      search.nbx ≤ search.blocks + 1) ∧
    let x := { search with nbx := 2 }
    ∃ th, (searching x).thread? 77 = some th ∧ th.engine = .mest x ∧ (searching x).threadGoes th = true ∧ x.blocks + 1 < x.nbx :=
  ⟨issues (by decide), by decide, issues (by decide), by decide, by decide, ⟨{ store := .a, core := 384, ofs := 0 }, by decide, by decide⟩,
    by decide, ⟨_, rfl, rfl, by decide, by decide⟩, _, rfl, rfl, by decide, by decide⟩

/-! ### Contexts, held accesses, saves -/

/-- A handler of a translation fault. -/
def faulting : State := handling.setPanel c0 { handling.panel c0 with xcause := 0x10 }

theorem witness_contexts : Issues .ctxSkip ready c0 ∧ (∀ f, (ready.panel c0).frame = some f → f.onInstr = false) ∧
    Issues .ctxSkip handling c0 ∧ (∃ f, (handling.panel c0).frame = some f ∧ f.onInstr = true) ∧
    Issues (.ctxFwd .zero) ready c0 ∧ (ready.panel c0).frame = none ∧ Issues (.ctxFwd (.g 4)) faulting c0 ∧
    (faulting.panel c0).frame ≠ none ∧ (faulting.panel c0).xcause.toNat % 2 ^ 8 = 0x10 :=
  ⟨issues (by decide), by decide, issues (by decide), ⟨_, rfl, rfl⟩, issues (by decide), by decide, issues (by decide), by decide,
    by decide⟩

theorem witness_gangs_end : Issues (.ctxEnd (.lit 0x12) .zero) handling c0 ∧ (handling.panel c0).frame ≠ none ∧
    ∃ wg l g, handling.wg? (handling.curWave c0).wg = some wg ∧ handling.launch? wg.lid = some l ∧ handling.gang? wg.gid = some g ∧
      g.done = false :=
  ⟨issues (by decide), by decide, _, _, _, rfl, rfl, rfl, rfl⟩

/-- A fault ring of four slots with one record, and a fault that awaits its reply. -/
def ringed : State := ready.setPart 0 { ready.part 0 with fqsize := 4, fqhead := 1, fqbase := 0x18000, unreplied := [5], fqpend := 1 }

theorem witness_fault_rings : Issues (.ctxFqpop (.g 4)) ringed c0 ∧ (ringed.part (ringed.laneAcc c0).part).fqhead ≠ 0 ∧
    (ringed.part (ringed.laneAcc c0).part).fqtail = 0 ∧ (ringed.part (ringed.laneAcc c0).part).fqsize ≠ 0 ∧
    Issues (.ctxFqpop .zero) ready c0 ∧ (ready.part (ready.laneAcc c0).part).fqhead = (ready.part (ready.laneAcc c0).part).fqtail ∧
    Issues (.ctxReply .zero (.lit 5) .zero) ringed c0 ∧
    ((ringed.panel c0).gsrc (.lit 5)).toNat % 2 ^ 32 ∈ (ringed.part (ringed.laneAcc c0).part).unreplied ∧
    ((ringed.panel c0).gsrc (.lit (-1))).toNat % 2 ^ 32 ∉ (ringed.part (ringed.laneAcc c0).part).unreplied :=
  ⟨issues (by decide), by decide, by decide, by decide, issues (by decide), by decide, issues (by decide), by decide, by decide⟩

/-- Two panels, the second of which waits for a change of generation of address space 0. -/
def changingOver : State :=
  (two .run).setPanel { wid := 0, entry := 1, len := 1 } { (two .run).panel { wid := 0, entry := 1, len := 1 } with
    wait := some { instr := .genInc .zero .zero, len := 1, since := 0, aux := 0 } }

theorem witness_invalidations : Issues (.tlbi .range (.lit 0x10000) (.lit 0x10000)) ready c0 ∧
    ready.asnOk (ready.laneAcc c0).part (0x10000 % 2 ^ 16) = true ∧ ready.asnOk (ready.laneAcc c0).part 1 = false ∧
    Issues (.tlbi .all .zero .zero) ready c0 ∧ Issues (.tlbi .all (.lit 1) .zero) ready c0 ∧
    Issues (.genInc (.g 4) .zero) ready c0 ∧ ready.changing (ready.laneAcc c0).part 0 = false ∧ Issues (.genRd .zero (.lit (-1))) ready c0 ∧
    Issues (.genInc (.g 4) .zero) changingOver c0 ∧ changingOver.changing (changingOver.laneAcc c0).part 0 = true ∧
    changingOver.asnOk (changingOver.laneAcc c0).part 0 = true ∧
    let s := withPanel fun p => { p with wait := some { instr := .tlbi .asn .zero .zero, len := 1, since := 0, aux := 0 } }
    let v := withPanel fun p => { p with wait := some { instr := .genInc (.g 4) .zero, len := 1, since := 0, aux := 65535 } }
    (s.panel c0).valid = true ∧ s.waveEnds 0 = true ∧ (s.panel c0).wait.map (·.instr) = some (.tlbi .asn .zero .zero) ∧
    (v.panel c0).valid = true ∧ v.waveEnds 0 = true ∧ (v.panel c0).wait.map (·.instr) = some (.genInc (.g 4) .zero) :=
  ⟨issues (by decide), by decide, by decide, issues (by decide), issues (by decide), issues (by decide), by decide, issues (by decide),
    issues (by decide), by decide, by decide, by decide, by decide, by decide, by decide, by decide, by decide⟩

def altered (s : State) (f : Thread → Thread) : State := { s with threads := s.threads.map fun (e : Nat × Thread) => (e.1, f e.2) }

/-- A copy from a page that nothing maps. -/
def unmapped : State := copying 1 0 (recordBits - 0x18800 + 0x40000)

theorem witness_held_threads : (∃ th, unmapped.thread? 77 = some th ∧ unmapped.threadRuns th = true ∧
      ∃ cause sub va lane, unmapped.threadStop 77 th = some (.trap false (.fail cause sub va), lane)) ∧
    let s := altered (copying 1 0 recordBits) fun th => { th with gen := 5 }
    ∃ th va lane, s.thread? 77 = some th ∧ s.threadRuns th = true ∧ s.fresh th = false ∧ s.threadStop 77 th = none ∧
      s.threadTouches 77 th = some ((false, va), lane) :=
  ⟨⟨_, rfl, by decide, _, _, _, _, rfl⟩, _, _, _, rfl, by decide, by decide, rfl, rfl⟩

theorem witness_held_lanes :
    let h : HeldAccess := { lane := 0, va := 0x18000, n := 4, write := false, fid := 0, act := .load (.mem .b32) ⟨.v 4, 1, none⟩, evp := none }
    let x := { pending 0xFFFF with gen := 5, instr := .ld ⟨0, 0, false, .b32⟩ (.v 4) (.g 4), asked := [h] }
    let s := withPanel fun p => { p with outst := [x] }
    (s.panel c0).outst[0]? = some x ∧ s.rejectable c0 x ≠ [] := by
  decide

/-- `changingOver` with one lane that loads or stores. -/
def older : State := changingOver.setPanel c0 { (changingOver.panel c0).setG 4 0x18000 with mask := 1 }

theorem witness_held_issues : let st := Instr.st ⟨0, 0, false, .b32⟩ (.g 4) (.v 0)
    let ld := Instr.ld ⟨0, 0, false, .b32⟩ (.v 0) (.g 4)
    let s := older
    (Issues st s c0 ∧ NoStreams st ∧
      let xs := Claim.accesses s c0 (globalAddr (s.lanes c0) ⟨0, 0, false, .b32⟩ (.g 4)) 4 true
      s.judge (s.laneAcc c0) xs = .clear ∧ s.mustWait c0 xs = false ∧ ∃ x ∈ xs, s.rejects (s.laneAcc c0) x = true) ∧
    Issues ld s c0 ∧ NoStreams ld ∧
    let addr := globalAddr (s.lanes c0) ⟨0, 0, false, .b32⟩ (.g 4)
    let xs := Claim.accesses s c0 addr 4 false
    s.judge (s.laneAcc c0) xs = .clear ∧ s.mustWait c0 xs = false ∧
    (Claim.lanesOf s c0).filter (fun j => !s.rejects (s.laneAcc c0) { lane := j, va := addr j, n := 4, write := false }) ≠ Claim.lanesOf s c0 :=
  ⟨⟨issues (by decide), ⟨rfl, rfl⟩, by decide, by decide, by decide⟩, issues (by decide), ⟨rfl, rfl⟩, by decide, by decide, by decide⟩

/-- A held access of lane 0 under fault ID 5. -/
def heldAt (va : Nat) (write : Bool) (act : HeldAct) : HeldAccess :=
  { lane := 0, va := va, n := 4, write := write, fid := 5, act := act, evp := none }

/-- `ringed` with a panel that waits at its place, or with a result of which an access is held. -/
def waitsWith (y : Waiting) : State := ringed.setPanel c0 { ringed.panel c0 with wait := some y }
def resultOf (h : HeldAccess) : Outstanding := { pending 0xFFFF with instr := .ld ⟨0, 0, false, .b32⟩ (.v 4) (.g 4), held := [h] }
def owes (h : HeldAccess) : State := ringed.setPanel c0 { ringed.panel c0 with outst := [resultOf h] }

/-- The state in which a reply to fault 5 acts. -/
def replied (s : State) : State := s.setPart 0 { s.part 0 with unreplied := (s.part 0).unreplied.erase 5, fqpend := (s.part 0).fqpend - 1 }

theorem witness_replies_to_waits : let y (i : Instr) : Waiting := { instr := i, len := 1, since := 0, aux := 5 }
    5 ∈ (ringed.part 0).unreplied ∧ (5 : DWord).getLsbD 32 = false ∧ (5 + 2 ^ 32 : DWord).getLsbD 32 = true ∧ ringed.threads = [] ∧
    Claim.waiter (waitsWith (y (.sample .lod none 0 4 (.g 4)))) 0 5 = some (0, 0, .wait (y (.sample .lod none 0 4 (.g 4)))) ∧
    let s := (waitsWith (y (.ctxFwd .zero))).setPanel c0 { (waitsWith (y (.ctxFwd .zero))).panel c0 with frame := (handling.panel c0).frame }
    Claim.waiter s 0 5 = some (0, 0, .wait (y (.ctxFwd .zero))) ∧ (s.panel c0).frame.isSome = true := by
  decide

theorem witness_replies_to_accesses : let h := heldAt 0x18000 false .pass
    let y : Waiting := { instr := .ldq ⟨0, 0, false, .b32⟩ (.v 0) (.g 4), len := 1, since := 0, aux := 0, held := [h] }
    let u := replied (waitsWith y)
    Claim.waiter (waitsWith y) 0 5 = some (0, 0, .access y h) ∧
    u.retryAccess (u.retryAcc c0 ((waitsWith y).panel c0).got h) h = .clear := by
  decide

theorem witness_replies_to_results :
    let d : HeldDst := { dst := .v 4, words := 1, elem := none }
    let l := heldAt 0x18000 false (.load (.mem .b32) d)
    let n := heldAt 0x40000 false (.load (.mem .b32) d)
    let w := heldAt 0x18000 true (.store [1, 2, 3, 4])
    Claim.waiter (owes l) 0 5 = some (0, 0, .result 0 (resultOf l) l) ∧
    (replied (owes l)).retryAccess ((replied (owes l)).retryAcc c0 [] l) l = .clear ∧
    ((owes l).panel c0).outst[0]? = some (resultOf l) ∧ (∀ o ∈ ((owes l).panel c0).outst, o.quads ≠ 0) ∧
    variableLatency (resultOf l).instr = true ∧
    Claim.waiter (owes n) 0 5 = some (0, 0, .result 0 (resultOf n) n) ∧
    (match (replied (owes n)).retryAccess ((replied (owes n)).retryAcc c0 [] n) n with
      | .trap _ _ => true
      | _ => false) = true ∧
    Claim.waiter (owes w) 0 5 = some (0, 0, .result 0 (resultOf w) w) ∧
    (replied (owes w)).retryAccess ((replied (owes w)).retryAcc c0 [] w) w = .clear := by
  decide

theorem witness_replies_to_threads : let s := ringed.setPart 0 { ringed.part 0 with unreplied := [5, 6] }
    let t : State := { s with threads := (altered (copying 1 0 recordBits) fun th => { th with held := some 5 }).threads }
    5 ∈ (t.part 0).unreplied ∧ 7 ∉ (t.part 0).unreplied ∧ ∃ tid th, (t.threads.find? fun e => e.2.held == some 5 && e.2.part == 0) = some (tid, th) ∧
      th.ray = none :=
  ⟨by decide, by decide, _, _, rfl, rfl⟩

theorem witness_preemptions : (0 : Nat) < 8 ∧ ∃ gid g l, ready.gang? gid = some g ∧ ready.launch? g.lid = some l ∧ l.kind = .grid ∧
    l.queue = (0 : DWord).toNat % 2 ^ 13 ∧ l.part = 0 ∧ g.pre = .run ∧ g.done = false :=
  ⟨by decide, 1, _, _, rfl, rfl, rfl, rfl, rfl, rfl, rfl⟩

theorem witness_save_pools : (1 : DWord).getLsbD 0 = true ∧ (0x10000 : DWord).getLsbD 0 = false ∧ Writer.owner 7 = .owner 7 := by decide

/-- The page of the code as the TLB of the units that belong to no cluster holds it. -/
def modulePage : TlbEntry := { unit := moduleTlb, part := 0, asn := 0, page := 1, level := 1, bits := 0x1000F }

theorem witness_queue_posts_to_memory : let s := { posting 0 0x18000 with tlb := modulePage :: (posting 0 0x18000).tlb }
    Issues (.qpost true (.g 7) (.g 6) (.g 4)) s c0 ∧ s.active c0 ≠ 0 ∧ ((s.queue 5).qput - (s.queue 5).qrd).toNat ≠ 16 ∧
    Claim.Granted s c0 [{ lane := 0, va := 0x18000, n := 128, write := false }, { lane := 0, va := 0x18800, n := 128, write := true }] ∧
    (s.queue 5).qbase.toNat % 128 = 0 ∧
    (match (s.releaseL1 0).translate { s.laneAcc c0 with core := none } 0x18800 .write with
      | .ok (.leaf e _) => !ptePeer e
      | _ => false) = true :=
  ⟨issues (by decide), by decide, by decide, ⟨by decide, by decide⟩, by decide, by decide⟩

/-- The gang of `ready`, of 16 registers and no windows, in a partition with a pool of four units, in one of the states of pre-emption. -/
def pooled (x : PreState) : State :=
  let s := ready.setPart 0 { ready.part 0 with savectl := 3, savebase := 0x10000, savesize := 4 }
  { s with
    tlb := [modulePage]
    gangs := s.gangs.map fun (e : Nat × Gang) => (e.1, { e.2 with pre := x })
    launches := s.launches.map fun (e : Nat × Launch) => (e.1, { e.2 with spec := { e.2.spec with regs := 16, wsz := 0, asz := 0, csz := 0 } }) }

theorem witness_saves : let s := pooled .stopping
    ∃ g l, s.gang? 1 = some g ∧ s.launch? g.lid = some l ∧ g.done = false ∧ g.pre = .stopping ∧ s.stopsReached 1 g = true ∧
      let units := saveUnits l.spec g.wgs.length
      let va := (s.part l.part).areaVa 0
      s.saveArea l.part units = some (some 0) ∧ s.areaFault l.part va .write units = none ∧
      ∃ u, s.writeVa (s.ringAcc l.part) va (saveHeader units l.packet g.index l.queue) = .ok u :=
  ⟨_, _, rfl, rfl, rfl, rfl, by decide, by decide, by decide, _, rfl⟩

/-- The gang saved: in the reserve area, or in an area of the pool that memory has lost. -/
def stored (x : PreState) (reserve : Bool) : State :=
  { pooled x with
    gangs := (pooled x).gangs.map fun (e : Nat × Gang) =>
      (e.1, { e.2 with saved := some { area := 0, units := 1, reserve := reserve, wgs := [], replies := [] } }) }

theorem witness_restores (reserve : Bool) : let s := stored .saved reserve
    ∃ g l v plan, s.gang? 1 = some g ∧ s.launch? g.lid = some l ∧ g.done = false ∧ g.pre = .saved ∧ g.saved = some v ∧
      s.possible l.part l.spec g.wgs.length = true ∧ s.placeAgain g l = some plan ∧ s.othersFirst 1 l = false ∧ v.replies = [] ∧
      s.areaState l g v = (if reserve then .good [] else .changed) := by
  cases reserve
  · exact ⟨_, _, _, _, rfl, rfl, rfl, rfl, rfl, by decide, rfl, by decide +kernel, rfl, by decide⟩
  · exact ⟨_, _, _, _, rfl, rfl, rfl, rfl, rfl, by decide, rfl, by decide +kernel, rfl, by decide⟩

/-- Every write to the pool's page translates. -/
theorem pool_translates (need : Need) (hn : need.allowed 0x1000F = true) (va : Nat) (h : va / 65536 = 1) :
    (stored .saving false).translate ((stored .saving false).ringAcc 0) va need = .ok (.leaf 0x1000F (0x10000 + va % 65536)) := by
  have hp : (stored .saving false).leafOf ((stored .saving false).ringAcc 0) va = .ok (some (0x1000F, 1)) := by
    have : (stored .saving false).tlbFind ((stored .saving false).ringAcc 0) va = some (0x1000F, 1) := by
      simp [State.tlbFind, State.tlbIn, stored, pooled, modulePage, TlbEntry.covers, levelShift, h, State.ringAcc, Acc.tlb1]
      decide
    simp [State.leafOf, this]
  have hva : ¬ 2 ^ 57 ≤ va := by omega
  have hr : va % 2 ^ levelShift 1 = va % 65536 := rfl
  have hpa : pteAddr 0x1000F = 0x10000 := by decide
  have hm : ¬ memorySize ≤ 0x10000 + va % 65536 := by
    have : va % 65536 < 65536 := Nat.mod_lt _ (by decide)
    simp only [memorySize]; omega
  have hasn : (stored .saving false).asnOk ((stored .saving false).ringAcc 0).part ((stored .saving false).ringAcc 0).asn = true := by decide
  have hpo : (stored .saving false).poisoned
      ((stored .saving false).astAddr ((stored .saving false).ringAcc 0).part ((stored .saving false).ringAcc 0).asn) = false := by decide
  have hg : ((stored .saving false).part ((stored .saving false).ringAcc 0).part).grants 0x1000F 1 = true := by decide
  simp only [State.translate, hva, if_false, hasn, hpo, hp, hg, hn, hr, hpa, hm]
  simp

theorem translated {s : State} {a : Acc} {need : Need} :
    ∀ {l : List Nat}, (∀ va ∈ l, ∃ x, s.translate a va need = .ok x ∧ s.deadPlace x = false) →
      ∃ ps, s.translateAll a need l = .ok ps ∧ ps.any s.deadPlace = false
  | [], _ => ⟨[], rfl, rfl⟩
  | va :: vas, h => by
    obtain ⟨x, hx, hd⟩ := h va List.mem_cons_self
    obtain ⟨xs, hxs, hds⟩ := translated fun y hy => h y (List.mem_cons_of_mem _ hy)
    exact ⟨x :: xs, by simp [State.translateAll, hx, hxs], by rw [List.any_cons, hd, hds]; rfl⟩

theorem body_written (wgs : List SavedWg) : ∃ u, (stored .saving false).writeVa ((stored .saving false).ringAcc 0)
    (((stored .saving false).part 0).areaVa 0 + 64) (saveBody wgs 1) = .ok u := by
  have ha : ((stored .saving false).part 0).areaVa 0 = 0x10000 := by decide
  have hl : (saveBody wgs 1).length = 65472 := by simp [saveBody]
  obtain ⟨ps, hps, hd⟩ := translated (s := stored .saving false) (a := (stored .saving false).ringAcc 0) (need := .write)
    (l := spanOf (0x10000 + 64) 65472) fun va hva => by
      simp only [spanOf, List.mem_map, List.mem_range] at hva
      obtain ⟨i, hi, rfl⟩ := hva
      exact ⟨_, pool_translates .write (by decide) _ (by omega), rfl⟩
  exact ⟨_, by rw [State.writeVa, ha, hl, hps]; simp only [hd]; rfl⟩

theorem area_read (va n : Nat) (h : 0x10000 ≤ va) (hn : va + n ≤ 0x20000) :
    ∃ bs, ((stored .saving false).readVa ((stored .saving false).ringAcc 0) va n).2 = .ok bs := by
  obtain ⟨ps, hps, hd⟩ := translated (s := stored .saving false) (a := (stored .saving false).ringAcc 0) (need := .read)
    (l := spanOf va n) fun x hx => by
      simp only [spanOf, List.mem_map, List.mem_range] at hx
      obtain ⟨i, hi, rfl⟩ := hx
      exact ⟨_, pool_translates .read (by decide) _ (by omega), rfl⟩
  exact ⟨_, by rw [State.readVa, hps]; simp only [hd]; rfl⟩

theorem witness_areas_read : let s := stored .saving false
    ∃ g l v, s.gang? 1 = some g ∧ s.launch? g.lid = some l ∧ g.saved = some v ∧ v.reserve = false ∧
      s.areaFault l.part ((s.part l.part).areaVa v.area) .read v.units = none ∧
      s.areaPoisoned l.part ((s.part l.part).areaVa v.area) v.units = false ∧
      (∃ bs, (s.readVa (s.ringAcc l.part) ((s.part l.part).areaVa v.area) 64).2 = .ok bs) ∧
      ∃ body, (s.readVa (s.ringAcc l.part) ((s.part l.part).areaVa v.area + 64) (65536 * v.units - 64)).2 = .ok body := by
  refine ⟨_, _, _, rfl, rfl, rfl, rfl, by decide, by decide, ?_, ?_⟩
  · exact area_read 0x10000 64 (by decide) (by decide)
  · exact area_read 0x10040 65472 (by decide) (by decide)

theorem witness_save_completes : let s := stored .saving false
    ∃ g l v, s.gang? 1 = some g ∧ s.launch? g.lid = some l ∧ g.saved = some v ∧ g.done = false ∧ g.pre = .saving ∧ v.reserve = false ∧
    (let wgs := g.wgs.filterMap s.saveWg
     ∃ u, s.writeVa (s.ringAcc l.part) ((s.part l.part).areaVa v.area + 64) (saveBody wgs v.units) = .ok u) ∧
    ∀ k ∈ g.wgs, ∃ w, s.wg? k = some w ∧ ∀ n ∈ w.slots,
      (s.wave (w.core * 64 + n)).alive = true ∧ (s.wave (w.core * 64 + n)).wg = k := by
  refine ⟨_, _, _, rfl, rfl, rfl, rfl, rfl, rfl, ?_, fun k hk => ?_⟩
  · exact body_written _
  · obtain rfl := List.mem_singleton.mp hk
    exact ⟨_, rfl, by decide⟩

theorem witness_errors : (2 ^ 39 - 1 : Nat) < memorySize ∧ (0 : Nat) < memorySize ∧
    Sparse.get 0 ({ ready with coreErrors := [(387, 2)] } : State).coreErrors 387 = 2 := by decide

/-! ### Queues and placement -/

/-- Queue 1 of partition 0, enabled, with one packet of 128 bytes announced, and its page in the TLB of the units of no cluster. -/
def queued (bs : List Byte) : State :=
  { ready.setQueue 1 { ready.queue 1 with qcfg := 0xA0, qbase := 0x18000, qput := 1, qann := 1 } with
    mem := Sparse.setBytes ready.mem 0x18000 bs, tlb := [modulePage] }

/-- `QueueReads` of queue 1, computed. -/
def readsOk (s : State) (va n : Nat) : Bool :=
  decide (s.judge (s.queueAcc 1) [{ lane := 0, va := va % 2 ^ 64, n := n, write := false }] = .clear)

theorem reads {s : State} {va n : Nat} (h : readsOk s va n = true) : Claim.QueueReads s 1 va n :=
  of_decide_eq_true (p := s.judge (s.queueAcc 1) [{ lane := 0, va := va % 2 ^ 64, n := n, write := false }] = .clear) h

/-- The conditions of `Takes`, computed, and one on what is read. -/
def packetIn (s : State) (ok : List Byte → Bool) : Bool :=
  decide (s.nextQueue = some 1) && (s.queue 1).taken.isNone && s.asnOk (s.queue 1).part (s.queue 1).asn &&
    readsOk s (Claim.slotOf (s.queue 1)) 128 && ok (Claim.queueBytes s 1 (Claim.slotOf (s.queue 1)) 128)

theorem takes {s : State} {ok : List Byte → Bool} (h : packetIn s ok = true) : ∃ bs, Claim.Takes s 1 bs ∧ ok bs = true := by
  simp only [packetIn, Bool.and_eq_true, decide_eq_true_eq, Option.isNone_iff_eq_none] at h
  obtain ⟨⟨⟨⟨h1, h2⟩, h3⟩, h4⟩, h5⟩ := h
  exact ⟨_, ⟨h1, h2, h3, reads h4, rfl⟩, h5⟩

/-- A grid of one workgroup with one wave of 4 lanes and 16 registers. -/
def gridBytes : List Byte := [1, 0, 0, 0, 1, 1, 16, 0, 1, 0, 0, 0, 1, 0, 0, 0, 1]

/-- The same with a barrier table and a window table, both empty memory but for the first barrier. -/
def tabledBytes : List Byte :=
  gridBytes ++ List.replicate 5 0 ++ toBytes 2 1 ++ List.replicate 7 0 ++ [1] ++ toBytes 8 0x18800 ++ toBytes 8 0 ++ toBytes 8 0x18080 ++
    toBytes 8 0x18100 ++ List.replicate 64 0 ++ toBytes 4 (1 + 63 * 2 ^ 24)

theorem witness_queue_configs : (queued []).stage ≠ 7 ∧ ((queued []).queue 1).qcfg.getLsbD 7 = true ∧ ((queued []).queue 2).qcfg.getLsbD 7 = false ∧
    (0x80 : DWord).toNat / 2 ^ 4 % 2 ^ 3 = 0 ∧ (0xD0 : DWord).toNat / 2 ^ 4 % 2 ^ 3 = 5 ∧ ((queued []).queue 1).qcfg.getLsbD 12 = false := by
  decide

theorem witness_simple_packets : (∃ bs, Claim.Takes (queued [0]) 1 bs ∧ decide (byteAt bs 0 = 0) = true) ∧
    (∃ bs, Claim.Takes (queued [3]) 1 bs ∧ decide (byteAt bs 0 = 3) = true) ∧
    (∃ bs, Claim.Takes (queued [255]) 1 bs ∧ decide (5 ≤ byteAt bs 0) = true) ∧
    (∃ bs, Claim.Takes (queued [4, 0, 0, 0, 0, 0, 0, 0, 4]) 1 bs ∧ decide (byteAt bs 0 = 4 ∧ fieldAt bs 8 8 % 8 ≠ 0) = true) ∧
    ∃ bs, Claim.Takes (queued [4]) 1 bs ∧ decide (byteAt bs 0 = 4 ∧ fieldAt bs 8 8 % 8 = 0) = true :=
  ⟨takes (by decide +kernel), takes (by decide +kernel), takes (by decide +kernel), takes (by decide +kernel), takes (by decide +kernel)⟩

theorem witness_waits_satisfied : let s := (queued []).setQueue 1 { (queued []).queue 1 with waitFor := some (0x18000, 0) }
    (s.queue 1).waitFor = some (0x18000, 0) ∧ (s.queue 1).held = none ∧ Claim.QueueReads s 1 0x18000 8 ∧
    0 ≤ ofBytes (Claim.queueBytes s 1 0x18000 8) :=
  ⟨by decide, by decide, reads (by decide), Nat.zero_le _⟩

/-- A good grid packet, with the reads of its tables. -/
def goodGrid (bs : List Byte) : Bool :=
  let s := queued tabledBytes
  let g := gridFields false bs
  let u := Claim.taken s 1
  let v := (u.fetchBytes (u.queueAcc 1) (fieldAt bs 48 8) 4).1
  let pw := Claim.queueBytes v 1 (fieldAt bs 56 8) 128
  decide (byteAt bs 0 = 1) && !(bs.getD 1 0).getLsbD 0 && !g.malformed false bs && decide (g.nbar = 1) &&
  !g.rejected false true && decide (fieldAt bs 56 8 ≠ 0) && readsOk u (fieldAt bs 48 8) 4 &&
  readsOk v (fieldAt bs 56 8) 128 && !g.flags.testBit 3 &&
  decide (word32s (Claim.queueBytes u 1 (fieldAt bs 48 8) 4) 0 1 = [1 + 63 * 2 ^ 24]) &&
  ((List.range 8).map fun k => (fieldAt pw (16 * k) 8, fieldAt pw (16 * k + 8) 4)).all fun w => w == (0, 0)

theorem witness_grid_packets :
    (∃ bs, Claim.Takes (queued tabledBytes) 1 bs ∧ goodGrid bs = true) ∧
    (∃ bs, Claim.Takes (queued [1]) 1 bs ∧ (decide (byteAt bs 0 = 1) && !(bs.getD 1 0).getLsbD 0 && (gridFields false bs).malformed false bs) = true) ∧
    (let s := (queued [1, 1]).setQueue 1 { (queued [1, 1]).queue 1 with inFlight := 1 }
     ∃ bs, Claim.Takes s 1 bs ∧ decide ((bs.getD 1 0).getLsbD 0 = true ∧ 1 ≤ (s.queue 1).inFlight) = true) ∧
    (∃ bs, Claim.Takes (queued (gridBytes ++ List.replicate 12 0 ++ [1])) 1 bs ∧
      (decide (byteAt bs 0 = 1) && !(bs.getD 1 0).getLsbD 0 && !(gridFields false bs).malformed false bs &&
       decide ((gridFields false bs).cgn ≠ 0 ∧ (gridFields false bs).cglo < 4 ∧ (gridFields false bs).signal = 0)) = true) ∧
    let s := (queued []).setQueue 1 { (queued []).queue 1 with qcfg := 0x100A0 }
    s.nextQueue = some 1 ∧ (s.queue 1).taken = none ∧ s.asnOk (s.queue 1).part (s.queue 1).asn = false :=
  ⟨takes (by decide +kernel), takes (by decide +kernel), takes (by decide +kernel), takes (by decide +kernel), by decide⟩

/-- The tables of `tabledBytes` satisfy what a launch accepts. -/
theorem witness_tables (g : GridSpec) (h : g.flags.testBit 3 = false) : Claim.TablesOk g [1 + 63 * 2 ^ 24] [(0, 0)] :=
  ⟨fun e he => by obtain rfl := List.mem_singleton.mp he; exact ⟨by decide, by decide, Or.inl (by decide)⟩, by decide,
    fun h' => absurd h' (by rw [h]; decide)⟩

/-- A pattern of one program node that reads what it writes. -/
def patternBytes : List Byte :=
  [2, 0, 0, 0, 0, 0, 0, 0] ++ toBytes 8 0x18080 ++ toBytes 8 0x18200 ++ List.replicate 104 0 ++
  [1, 1] ++ List.replicate 126 0 ++
  [3, 0, 0, 0, 1, 1, 16, 0, 1, 0, 0, 0, 1, 0, 0, 0, 1] ++ List.replicate 79 0 ++ [0, 255, 255, 255, 255, 255, 255, 255] ++
  [0, 255, 255, 255, 255, 255, 255, 255] ++ List.replicate 16 0 ++ toBytes 4 7

theorem witness_pattern_packets :
    (∃ bs, Claim.Takes (queued patternBytes) 1 bs ∧
      (decide (byteAt bs 0 = 2) && !(bs.getD 1 0).getLsbD 0 &&
       decide (fieldAt bs 8 8 = 0x18080 ∧ fieldAt bs 16 8 = 0x18200) && !patternMalformed bs) = true) ∧
    (match (Claim.taken (queued patternBytes) 1).parsePattern ((queued patternBytes).queueAcc 1) (patternBytes.take 128) with
       | .ok (_, .ok (p, gs)) => decide (p.nodes.length = gs.length ∧ p.nodes.length = 1)
       | _ => false) = true ∧
    (∃ bs, Claim.Takes (queued [2]) 1 bs ∧ (decide (byteAt bs 0 = 2) && !(bs.getD 1 0).getLsbD 0 && patternMalformed bs) = true) ∧
    let s := (queued []).setQueue 1 { (queued []).queue 1 with qcfg := 0x100A0, taken := some [2], inFlight := 1 }
    s.nextQueue = some 1 ∧ (s.queue 1).taken = some [2] ∧ byteAt [2] 0 = 2 ∧ s.asnOk (s.queue 1).part (s.queue 1).asn = false ∧
    fieldAt [2] 96 8 = 0 :=
  ⟨takes (by decide +kernel), by decide +kernel, takes (by decide +kernel), by decide⟩

/-- The grid of `ready`, of 16 registers and no windows, with gangs left on die 0, on all clusters, in cycle 10,000. -/
def waitingGrid (gangs : List Nat) (reports : List Nat) : State :=
  let s := ready.setPart 0 { ready.part 0 with clus := 0xFF }
  { s with
    cycle := 10000, fab := 6666
    launches := s.launches.map fun (e : Nat × Launch) => (e.1, { e.2 with
      spec := { e.2.spec with regs := 16, wsz := 0, asz := 0, csz := 0, ex := 8 }
      chunks := [(0, gangs), (0, []), (0, []), (0, [])], reports := reports }) }

theorem witness_gang_starts : let s := waitingGrid [1, 2] [2, 0, 0, 0]
    ∃ l p u dep, s.nextPlacement 0 = some (0, 1, .start [p]) ∧ s.launch? 0 = some l ∧ s.hot = false ∧ s.depRead l = .ok (u, dep) ∧
      p.slots = [(1, 0, none)] ∧ l.spec.width ≤ 64 :=
  ⟨_, _, _, _, by with_unfolding_all rfl, rfl, rfl, rfl, rfl, by decide⟩

theorem witness_reports : Sparse.get 0 (waitingGrid [1] [0, 0, 0, 0]).reported 3 < (waitingGrid [1] [0, 0, 0, 0]).fab / 4096 ∧
    ∃ l, (waitingGrid [1] [0, 0, 0, 0]).launch? 0 = some l ∧ l.kind = .grid ∧ l.done = false ∧ 3 < l.reports.length :=
  ⟨by decide, _, rfl, rfl, rfl, by decide⟩

theorem witness_steals : let s := waitingGrid [1, 2] [2, 0, 0, 0]
    ∃ l, s.launch? 0 = some l ∧ l.kind = .grid ∧ l.done = false ∧ s.allReady l 1 = [] ∧ mostReady l.reports 1 = 0 ∧
      l.chunks.length = 4 ∧ (s.planGang 0 l.spec l.spec.gang (s.openClusters l.part [2, 3])).isSome = true :=
  ⟨_, rfl, rfl, rfl, by decide, by decide, by decide, by decide⟩

/-- A pattern of one program node of some registers, in a gang of some size, with its entry in the pattern's own launch. -/
def patterned (waves size regs depbm : Nat) : State :=
  let spec := { emptySpec with width := 64, nwav := waves, gang := size, regs := regs, ex := 1, ey := 1, ez := 1
                               flags := if depbm = 0 then 0 else 32, depbm := depbm, pex := 1, pey := 1, pez := 1 }
  let pat : PatternSpec :=
    { nrec := 0x18000, nodes := [{ kind := none, lid := 91, ins := [], outs := [], raster := none }], spools := [] }
  let s := queued []
  { s with launches := s.launches ++
      [(90, { newLaunch .pattern 0 0 0 2 0 90 emptySpec with pattern := some pat, live := 1, chunks := [] }),
       (91, newLaunch (.node 90 0) 0 0 0 2 0 90 spec)] }

/-- The launch of the pattern, as `PatternPlacements` takes it, and a condition on it and its pattern. -/
def patternCase (s : State) (ok : Launch → PatternSpec → Bool) : Bool :=
  match s.launch? 90 with
  | none => false
  | some l =>
    match l.pattern with
    | none => false
    | some p => decide (l.kind = .pattern) && !l.placed && !l.done && l.held.isNone && !s.hot && l.writes.isEmpty && !l.signalled &&
        decide (l.spec.signal = 0) && ok l p

theorem pattern_case {s : State} {ok : Launch → PatternSpec → Bool} (h : patternCase s ok = true) :
    ∃ l p, s.launch? 90 = some l ∧ l.pattern = some p ∧ l.kind = .pattern ∧ l.placed = false ∧ l.done = false ∧ l.held = none ∧
      s.hot = false ∧ l.writes = [] ∧ l.signalled = false ∧ l.spec.signal = 0 ∧ ok l p = true := by
  unfold patternCase at h
  split at h
  · cases h
  · rename_i l hl
    split at h
    · cases h
    · rename_i p hp
      simp only [Bool.and_eq_true, decide_eq_true_eq, Bool.not_eq_true', Option.isNone_iff_eq_none, List.isEmpty_iff] at h
      obtain ⟨⟨⟨⟨⟨⟨⟨⟨h1, h2⟩, h3⟩, h4⟩, h5⟩, h6⟩, h7⟩, h8⟩, h9⟩ := h
      exact ⟨l, p, hl, hp, h1, h2, h3, h4, h5, h6, h7, h8, h9⟩

theorem witness_pattern_misfits : patternCase (patterned 16 1 192 0) (fun l p =>
    ((patterned 16 1 192 0).emptied.placeWhole 90 l p).isNone) = true := by decide +kernel

/-- A pattern that would fit and is placed whole, with its node records written. -/
theorem witness_pattern_placements : patternCase (patterned 1 1 16 0) (fun l p =>
    let s := patterned 1 1 16 0
    (s.emptied.placeWhole 90 l p).isSome &&
    match s.nodesReady p.nodes with
    | .ok (u, false) =>
      (match u.placeWhole 90 l p with
       | some (v, fixed, made) =>
         v.tilesFit p && (v.spoolFails 90).isNone && (v.agentWrite (v.launchAcc l) p.nrec (v.nodeRecords p fixed made)).toBool
       | none => false)
    | _ => false) = true := by decide +kernel

/-- The same after a producer with an error: the error word behind its completion bitmap is not zero. -/
def failedProducer : State := { patterned 1 1 16 0x18000 with mem := Sparse.setBytes ready.mem 0x18000 (toBytes 16 (1 + 2 ^ 64)) }

theorem witness_pattern_dependences : patternCase failedProducer (fun l p =>
    (failedProducer.emptied.placeWhole 90 l p).isSome && match failedProducer.nodesReady p.nodes with
      | .ok (u, true) => decide (u.launches = failedProducer.launches)
      | _ => false) = true := by decide +kernel

/-! ### The debug port -/

/-- A command to the panel of entry 0 of wave 0. -/
def toPanel (op sel : Nat) : DWord := BitVec.ofNat 64 (op * 2 ^ 60 + sel)

/-- The panel of `ready` in STOP, by a captured `bkpt`, from one of its states. -/
def stopped (under : Status) : State := withPanel fun p => { p with status := .stop, under := under, stopAsked := some (some 3) }

theorem commands_to {s : State} {p op : Nat} {cmd : DWord} {every : Bool} (h : (decide (p < 8) && decide (cmd.toNat / 2 ^ 60 = op) &&
    decide ((s.part p).dbgstat.getLsbD 0 = false) && decide (cmd.toNat / 2 ^ 56 % 16 < 8 ∨ every = true ∧ cmd.toNat / 2 ^ 56 % 16 = 15) &&
    s.waveOf p (cmd.toNat / 2 ^ 32 % 2 ^ 15)) = true) : Claim.Commands s p op cmd every := by
  simp only [Bool.and_eq_true, decide_eq_true_eq] at h
  obtain ⟨⟨⟨⟨h1, h2⟩, h3⟩, h4⟩, h5⟩ := h
  exact ⟨h1, h2, h3, h4, h5⟩

theorem witness_command_errors : let cmd : DWord := 0x3F00000000000000
    let s := ready.setPart 0 { ready.part 0 with dbgstat := 1 }
    cmd.toNat / 2 ^ 60 = 3 ∧ (ready.part 0).dbgstat.getLsbD 0 = false ∧ (s.part 0).dbgstat.getLsbD 0 = true ∧
    ready.waveOf 0 0 = true ∧ ready.waveOf 0 1 = false ∧ ready.waveOf 1 0 = false ∧ Claim.Commands ready 0 3 (toPanel 3 0) false ∧
    ¬ Claim.Stopped ready (Claim.debugTarget (toPanel 3 0)) :=
  ⟨by decide, by decide, by decide, by decide, by decide, by decide, commands_to (by decide), fun h => absurd h.2 (by decide)⟩

theorem witness_stop_commands : Claim.Commands ready 0 0 0x0F00000000000000 true ∧
    ((Claim.named (ready.wave 0) 15).filter fun k => ((ready.wave 0).panel k).status != .stop) ≠ [] ∧
    Claim.Commands ready 0 0 0x0700000000000000 true ∧ Claim.named (ready.wave 0) 7 = [] ∧ Claim.Commands (stopped .run) 0 0 0 true ∧
    Claim.named ((stopped .run).wave 0) 0 ≠ [] ∧
    ((Claim.named ((stopped .run).wave 0) 0).filter fun k => (((stopped .run).wave 0).panel k).status != .stop) = [] :=
  ⟨commands_to (by decide), by decide, commands_to (by decide), by decide, commands_to (by decide), by decide, by decide⟩

theorem witness_stops_complete : let x := withPanel fun p => { p with stopAsked := some none }
    let s := x.setPart 0 { ready.part 0 with stops := [(0, 0)], dbgstat := 1 }
    let v := x.setPart 0 { ready.part 0 with stops := [(0, 0)], dbgstat := 0x51 }
    (s.wave 0).alive = true ∧ ((s.wave 0).panel 0).valid = true ∧ ((s.wave 0).panel 0).stopAsked = some none ∧
    ((s.wave 0).panel 0).status ≠ .stop ∧ ((s.wave 0).panel 0).outst = [] ∧ ((s.wave 0).panel 0).wait = none ∧
    (s.part (s.laneAcc c0).part).stops = [(0, 0)] ∧ (s.part (s.laneAcc c0).part).dbgstat = 1 ∧
    (v.part (v.laneAcc c0).part).stops = [(0, 0)] ∧ (v.part (v.laneAcc c0).part).dbgstat = 0x51 ∧
    (ready.part (ready.laneAcc c0).part).stops = [] := by
  refine ⟨by decide, by decide, by decide, by decide, by decide, by decide, by decide, by decide, by decide, by decide, by decide⟩

theorem witness_stops_of_gone :
    (let u : State := ready.setPart 0 { ready.part 0 with stops := [(64, 7)], dbgstat := 1 }
     (u.wave 64).alive = false ∧ (u.part 0).stops = [(64, 7)] ∧ (u.part 0).dbgstat = 1 ∧
     ∀ k, k < 8 → k ≠ 0 → (64, 7) ∉ (u.part k).stops) ∧
    let u : State := ready.setPart 0 { ready.part 0 with stops := [(0, 0)], dbgstat := 1 }
    ((u.wave 0).panel 0).valid = true ∧ ((u.wave 0).panel 0).stopAsked = none ∧ ((u.wave 0).panel 0).stepping = false ∧
    (u.part 0).stops = [(0, 0)] ∧ ∀ k, k < 8 → k ≠ 0 → (0, 0) ∉ (u.part k).stops :=
  ⟨⟨by decide, by decide, by decide, by decide⟩, by decide, by decide, by decide, by decide, by decide⟩

theorem witness_resumptions (op : Nat) (h : op = 1 ∨ op = 2) (st : Status) : let s := stopped st
    Claim.Stopped s (Claim.debugTarget (toPanel op 0)) ∧ (Claim.debugTarget (toPanel op 0)).entry < 8 ∧
    Claim.Commands s 0 op (toPanel op 0) false ∧ (s.panel (Claim.debugTarget (toPanel op 0))).under = st := by
  obtain h | h := h <;> subst h <;> cases st <;>
    exact ⟨⟨by decide, by decide⟩, by decide, commands_to (by decide), by decide⟩

theorem witness_debug_reads : Claim.Commands (stopped .run) 0 3 (toPanel 3 0x549) false ∧
    Claim.Stopped (stopped .run) (Claim.debugTarget (toPanel 3 0x549)) ∧
    (Claim.debugSelected (stopped .run) c0 63 0x549).isSome = true ∧ Claim.debugSelected (stopped .run) c0 0 0x550 = none ∧
    Claim.debugSelected (stopped .run) c0 0 0xD4 = none ∧ (Claim.debugSelected (stopped .run) c0 63 0xBF).isSome = true ∧
    Claim.Commands ready 0 5 (toPanel 5 0x8001) false ∧ Claim.Commands ready 0 5 (toPanel 5 2) false ∧
    Claim.Commands ready 0 7 (toPanel 7 0xF) false :=
  ⟨commands_to (by decide), ⟨by decide, by decide⟩, by decide, by decide, by decide, by decide, commands_to (by decide),
    commands_to (by decide), commands_to (by decide)⟩

theorem witness_panel_entries : (ready.panel c0).valid = true ∧ (ready.panel c0).pc % 4 = 0 ∧ (ready.panel c0).pc < 2 ^ 57 ∧
    (ready.panel c0).stack.length < 32 ∧ Panel.empty.valid = false := by decide

theorem witness_debug_writes : Claim.Stopped (stopped .run) (Claim.debugTarget (toPanel 4 0x40F)) ∧
    Claim.Commands (stopped .run) 0 4 (toPanel 4 0x40F) false ∧ (Claim.debugSelected (stopped .run) c0 0 0x40F).isSome = true ∧
    (Claim.debugSelected (stopped .run) c0 0 0xD3).isSome = true ∧ (Claim.debugSelected (stopped .run) c0 0 0x301).isSome = true ∧
    (Claim.debugSelected (stopped .run) c0 0 0x302).isSome = true ∧ Claim.debugSelected (stopped .run) c0 0 0x307 = none ∧
    Claim.Commands (stopped .run) 0 6 (toPanel 6 0) false ∧ (stopped .run).inMmq (Claim.debugTarget (toPanel 6 0)) = false :=
  ⟨⟨by decide, by decide⟩, commands_to (by decide), by decide, by decide, by decide, by decide, by decide, commands_to (by decide),
    by decide⟩

/-- Two panels, of which the first was sampled last, with a sample of the core due. -/
def sampled : State := { (two .run).setPart 0 { ready.part 0 with dbgctl := 8 } with
  cycle := 10000, fab := 6144, samplers := [(0, { Sampler.reset with entries := [(0, 0)] })] }

theorem witness_samples_due : sampled.fabric 0 % 2 ^ ((sampled.part 0).dbgctl.toNat / 2 ^ 4 % 2 ^ 4 + 10) < sampled.fabStep ∧
    { sampled with fab := 6666 }.fabStep ≤
      { sampled with fab := 6666 }.fabric 0 % 2 ^ ((sampled.part 0).dbgctl.toNat / 2 ^ 4 % 2 ^ 4 + 10) ∧ sampled.corePart 0 = some 0 ∧ sampled.corePart 47 = some 0 ∧ (sampled.part 0).dbgctl.getLsbD 3 = true ∧
    sampled.fabric 0 / 2 ^ ((sampled.part 0).dbgctl.toNat / 2 ^ 4 % 2 ^ 4 + 10) ≠
      (Sparse.get Sampler.reset sampled.samplers 0).last / 2 ^ ((sampled.part 0).dbgctl.toNat / 2 ^ 4 % 2 ^ 4 + 10) ∧
    (List.range 64).filter (fun k => (sampled.wave (0 * 64 + k)).alive) = [0] ∧
    (List.range 64).filter (fun k => (sampled.wave (47 * 64 + k)).alive) = [] ∧
    (Sparse.get Sampler.reset sampled.samplers 0).slot = 63 ∧ Sparse.get 8 (Sparse.get Sampler.reset sampled.samplers 0).entries 0 = 0 ∧
    (List.range 8).filter (fun e => ((sampled.wave 0).panel e).valid) = [0, 1] := by
  decide

theorem witness_log_gaps : let s := ready.setPart 7 { ready.part 7 with logGap := some 5, logsize := 1, logbase := 0x18000 }
    (s.part 7).logGap = some 5 ∧ 16 ≤ logFree (s.part 7) ∧ (s.part 7).logsize.toNat ≤ 65536 := by decide

/-- A log of 4096 bytes at 0x18000 with an atomic's outcome 9 in its first entry, for a launch with some FLAGS. -/
def logging (flags : Nat) : State :=
  { ready.setPart 0 { ready.part 0 with dbgctl := 0x200, logsize := 1, logbase := 0x18000 } with
    mem := Sparse.setBytes ready.mem 0x18000 (toBytes 16 (2 ^ 56 + 9 * 2 ^ 64)), tlb := [modulePage]
    launches := ready.launches.map fun e => (e.1, { e.2 with spec := { e.2.spec with flags := flags } }) }

theorem witness_logged_outcomes : ((logging 0).laneAcc c0).part = 0 ∧ (logging 0).replaying c0 = false ∧ (logging 16).replaying c0 = true ∧
    Claim.nextLogged (logging 16) 0 0 0 1 0 ∧ ∀ k, ¬ Claim.nextLogged ready 0 0 0 1 k := by
  refine ⟨by decide, by decide, by decide, ⟨by decide, by decide, by decide, fun j h => absurd h (by omega)⟩, fun k h => ?_⟩
  exact absurd h.1 (by simp [show (ready.part 0).logsize = 0 by decide])

theorem witness_log_entries : let s := logging 0
    let full := s.setPart 0 { s.part 0 with logtail := 16 }
    (s.part 0).logsize.toNat ≤ 65536 ∧ (ready.part 0).dbgctl.getLsbD 9 = false ∧ (s.part 0).dbgctl.getLsbD 9 = true ∧
    (s.part 0).logGap = none ∧ 16 ≤ logFree (s.part 0) ∧ (full.part 0).dbgctl.getLsbD 9 = true ∧ (full.part 0).logGap = none ∧
    logFree (full.part 0) < 16 ∧ ((s.part 0).logbase.toNat + (s.part 0).loghead.toNat % 4096) % 16 = 0 ∧
    (match s.translate (s.ringAcc 0) 0x18000 .write with | .ok (.leaf e _) => !ptePeer e | _ => false) = true := by decide

theorem witness_mirrors : (2 : DWord).getLsbD 1 = true ∧ (ready.part 7).mirctl.getLsbD 0 = false ∧ (ready.wave 0).alive = true ∧
    ((ready.setPart 0 { ready.part 0 with mirctl := 1 }).part 0).mirctl.getLsbD 0 = true := by decide

/-! ### Heads -/

/-- A surface of 4 by 4 texels of 32 bits at 0x18800 (R118). -/
def surfaceBytes : List Byte := toBytes 192 (textureBits 0x18800 0)

/-- A frame descriptor (R372) of a mode: CBM0 and CBM1 at 0x18000 with one bit a row, REC at 0x18100, ENTRY at 0x10000. -/
def frameDesc (mode : Nat) : FrameDesc :=
  { addr := 0x18200, btab := [], out := surfaceBytes, src0 := surfaceBytes, src1 := surfaceBytes, mot := surfaceBytes
    bytes := toBytes 128 (mode + 0x10000 * 2 ^ 320 + 0x18000 * 2 ^ 576 + 0x18000 * 2 ^ 640 + 2 ^ 704 + 2 ^ 736 + 0x18100 * 2 ^ 768) }

/-- A writeback head of 64 by 64 pixels that scans its first line, every bit of the inputs' bitmaps set. -/
def head : Head := { Head.reset with
  htim := BitVec.ofNat 64 (64 + 96 * 2 ^ 16 + 64 * 2 ^ 32 + 67 * 2 ^ 48), kcfg := 0x8000, hctl := 0x2000003, wbcbm := 0x18000
  running := true, started := true, desc := some (frameDesc 3), fdann := 1 }

def headed (x : Head) : State := { (ready.setHead 0 x) with mem := Sparse.set 0 ready.mem 0x18000 0xFF, tlb := modulePage :: ready.tlb }

/-- The two conditions of the statement on EN = 1, computed. -/
def headReserved (x : Head) (val : DWord) : Bool :=
  let f := fun n w => val.toNat / 2 ^ n % 2 ^ w
  let k := fun n w => x.kcfg.toNat / 2 ^ n % 2 ^ w
  decide (f 16 2 = 3 ∨ 7 ≤ f 8 4 ∨ f 6 2 = 3 ∨ f 24 8 < 2 ∨ 64 < f 24 8 ∨ 7 ≤ x.fdcfg.toNat / 2 ^ 16 % 16 ∨
    4 < k 0 3 ∨ k 12 8 = 0 ∨ 192 < k 12 8 ∨ k 12 8 % 8 ≠ 0 ∨ 1024 < (k 8 4 + 1) * (4 * 2 ^ k 0 3) ∨
    1024 < k 32 16 ∨ 768 < k 48 16 ∨ 512 < k 22 10)

def headMisfit (x : Head) (val : DWord) : Bool :=
  let f := fun n w => val.toNat / 2 ^ n % 2 ^ w
  let m := fun n => x.htim.toNat / 2 ^ n % 2 ^ 16
  let bits := if val.getLsbD 12 then 12 else 3 * (8 + 2 * f 16 2)
  decide (m 0 % 8 ≠ 0 ∨ m 0 < 64 ∨ 7680 < m 0 ∨ m 32 % 32 ≠ 0 ∨ m 32 < 64 ∨ 8192 < m 32 ∨ m 16 < m 0 + 32 ∨
    m 48 < m 32 + f 24 8 + 1 ∨
    (val.getLsbD 1 = false ∧ linkPayload (f 8 4) (f 6 2) < x.pclk.toNat % 2 ^ 32 * bits * 132))

theorem witness_head_switches : let s := headed { head with hctl := 0, running := false }
    (s.head 0).hctl.getLsbD 0 = false ∧ s.stage ≠ 7 ∧ headReserved (s.head 0) 0x2000003 = false ∧
    headMisfit (s.head 0) 0x2000003 = false ∧ headReserved (s.head 0) 0x3000003 = false ∧ headMisfit (s.head 0) 0x3000003 = true ∧
    headReserved (s.head 0) 0x1000003 = true := by
  decide

theorem witness_head_stops : ((headed head).head 0).hctl.getLsbD 0 = true ∧
    hctlKept .firmware ((headed head).head 0).hctl 0x2000002 = ((headed head).head 0).hctl &&& ~~~ 1#64 ∧
    hctlKept .firmware ((headed head).head 0).hctl 0 ≠ ((headed head).head 0).hctl &&& ~~~ 1#64 := by
  decide

theorem witness_take_points (n : Word) (h : n = 0 ∨ n = 4 ∨ n = 5) : let x := (headed { head with fdann := n, line := 32 }).head 0
    x.running = true ∧ x.nextTaken = false ∧ 32 ≤ x.line ∧ (x.fdann - x.fdrd) = n ∧ 2 ^ (x.fdcfg.toNat / 2 ^ 16 % 16 + 2) = 4 := by
  obtain h | h | h := h <;> subst h <;> decide

/-- A head with a band of a mode. -/
def banded (mode : Nat) (y : Band) : State := headed { head with desc := some (frameDesc mode), bands := [(0, y)] }

theorem witness_band_deadlines (published : Bool) : let y : Band := { launch := some 0, published := published, killed := false, code := none }
    let s := (banded 3 y).noteFailures 0
    (s.head 0).running = true ∧ 0 < (s.head 0).vact / 32 ∧ (∃ d, (s.head 0).target 0 = some (false, d, y) ∧ byteAt d.bytes 0 % 4 = 3 ∧
      s.ready0 0 0 false d = true ∧ s.ready1 0 0 false d = true) ∧ (s.head 0).reached false 0 = true ∧
    (∃ g, s.gang? 1 = some g ∧ g.lid = 0 ∧ g.done = false) ∧ Sparse.ordered s.gangs = true ∧ (s.gangs.map (·.1)) = [1] := by
  cases published
  · exact ⟨by decide, by decide, ⟨_, rfl, by decide, by decide, by decide⟩, by decide, ⟨_, rfl, rfl, rfl⟩, by decide, by decide⟩
  · exact ⟨by decide, by decide, ⟨_, rfl, by decide, by decide, by decide⟩, by decide, ⟨_, rfl, rfl, rfl⟩, by decide, by decide⟩

theorem witness_band_launches : (banded 3 Band.fresh).hot = false ∧ let u := (banded 3 Band.fresh).noteFailures 0
    ∃ d y p base, u.bandPlan 0 1 = some (false, d, y, [p]) ∧ u.bandFirst 0 1 false = false ∧ p.slots = [(0, base, none)] :=
  ⟨rfl, _, _, _, _, rfl, by decide +kernel, rfl⟩

theorem witness_fixed_filters : let y : Band := { launch := none, published := false, killed := false, code := some 1 }
    let s := headed { head with htim := 1 + 64 * 2 ^ 32, bands := [(0, y)] }
    (s.head 0).running = true ∧ ∃ d, (s.head 0).target 0 = some (false, d, y) ∧ y.code = some 1 ∧ y.published = false ∧
      (s.paint (s.headAcc 0) (FrameDesc.surface d.out) (fun v i j => v.filterAt (s.headAcc 0) d (s.head 0).hact (s.head 0).vact 0 i j)
        ((List.range 32).flatMap fun j => (List.range (s.head 0).hact).map fun i => (i, 32 * 0 + j))).toBool = true :=
  ⟨by decide, _, rfl, rfl, rfl, by decide +kernel⟩

theorem witness_scan_outs : let x := (banded 3 { launch := none, published := true, killed := false, code := some 0 }).head 0
    let z := (headed { head with desc := some (frameDesc 0), line := 33, nextTaken := true }).head 0
    x.running = true ∧ x.leadIn = false ∧ x.line < x.vact ∧ x.line + 1 < x.vtotal ∧ x.line = 0 ∧ x.started = true ∧ x.decided = true ∧
    x.repeating = false ∧ (∃ d, x.desc = some d ∧ byteAt d.bytes 0 % 4 ≠ 0) ∧ (∃ d, z.desc = some d ∧ byteAt d.bytes 0 % 4 = 0) ∧
    z.line % 32 ≠ 0 ∧ z.line < z.vact ∧ z.nextTaken = true ∧ z.decided = true ∧ z.hctl.getLsbD 1 = true ∧
    let l := (headed { head with desc := none, repeating := true, hctl := 0x2000001 }).head 0
    l.running = true ∧ l.leadIn = false ∧ l.line = 0 ∧ l.decided = true ∧ l.hctl.getLsbD 1 = false ∧ l.repeating = true :=
  ⟨by decide, by decide, by decide, by decide, by decide, by decide, by decide, by decide, ⟨_, rfl, by decide⟩, ⟨_, rfl, by decide⟩,
    by decide, by decide, by decide, by decide, by decide, by decide⟩

theorem witness_frame_starts : let s := headed { head with started := false }
    (s.head 0).running = true ∧ (s.head 0).hctl.getLsbD 1 = true ∧ (s.head 0).leadIn = false ∧ (s.head 0).started = false ∧
    (s.head 0).line = 0 ∧
    (s.agentWrite (s.headAcc 0) ((s.head 0).wbcbm.toNat + 32 * ((s.head 0).frame % 2)) (List.replicate 32 0)).toBool = true := by
  decide

/-- A head at a line behind its bands. -/
def blanking (line : Nat) (stopping : Bool) : Head := { head with line := line, nextTaken := true, recorded := true, stopping := stopping }

theorem witness_lines_pass (stopping : Bool) :
    let w := (headed { head with line := 40 }).head 0
    let l := (headed { head with leadIn := true, line := 0, nextTaken := true, hctl := 0x2000001 }).head 0
    let b := (headed (blanking 64 stopping)).head 0
    let e := (headed (blanking 66 stopping)).head 0
    (32 ≤ w.line ∧ w.nextTaken = false) ∧
    (l.running = true ∧ l.nextTaken = true ∧ l.decided = true ∧ l.leadIn = true ∧ l.hctl.getLsbD 1 = false ∧ l.line + 1 < l.vtotal) ∧
    (b.running = true ∧ b.nextTaken = true ∧ b.decided = true ∧ b.vact ≤ b.line ∧ b.started = true ∧ b.line + 1 < b.vtotal) ∧
    e.running = true ∧ e.nextTaken = true ∧ e.decided = true ∧ e.vact ≤ e.line ∧ e.started = true ∧ e.recorded = true ∧
    e.vtotal ≤ e.line + 1 ∧ e.stopping = stopping := by
  cases stopping <;> decide

theorem witness_frame_ends :
    let s := headed { head with line := 64, sources := [(0, some (surfaceBytes, 7))] }
    (s.head 0).running = true ∧ (s.head 0).leadIn = false ∧ (s.head 0).recorded = false ∧ (s.head 0).vact ≤ (s.head 0).line ∧
    (s.head 0).sources.any (fun e => e.2.isSome) = true ∧
    (∃ d, (s.head 0).desc = some d ∧ (s.agentWrite (s.headAcc 0) (fieldAt d.bytes 96 8) (fallbackBytes (s.head 0) d 0)).toBool = true) ∧
    ((headed { head with leadIn := true }).head 0).leadIn = true :=
  ⟨by decide, by decide, by decide, by decide, by decide, ⟨_, rfl, by decide⟩, by decide⟩

/-! ### Fixed nodes -/

/-- Raster state with scale 1 and the surface of 4 by 4 pixels. -/
def rasterState : RasterState :=
  { sx := 0x3FF0000000000000, sy := 0x3FF0000000000000, ox := 0, oy := 0, cull := 0, fcw := true, colour := surfaceBytes, depth := none }

/-- An open node of `ready` with in-port 0 on spool 9 and the out-port given. -/
def nodeOf (kind : NodeKind) (outs : List (Option Nat)) (held : List Record) (touched : List (Nat × Nat)) : Node :=
  { lid := 90, kind := kind, place := 0, ins := [some 9], outs := outs, state := some rasterState, heldRecords := held, touched := touched
    closed := false, held := none, heldAddr := 0 }

/-- That node with one record in its in-spool, by R262's tag and its words, and an empty spool 10. -/
def fed (n : Node) (tag : Nat) (words : List Word) : State :=
  { ready with
    nodes := [(50, n)], spools := [(9, spoolAt 0x1000), (10, spoolAt 0x2000)]
    aStore := storage (storage [] 0x1000 0 1 (tag + 6 * 2 ^ 16 + 8) words) 0x2000 0 0 0 [] }

/-- The record that the node finds, and a condition on it. -/
def fedWith (n : Node) (tag : Nat) (words : List Word) (ok : State → Record → Bool) : Bool :=
  (((fed n tag words).viewSpool (spoolAt 0x1000)).ahead 50).head?.any (ok (fed n tag words))

theorem feeds_of {s : State} {n : Node} {r : Record} (h1 : s.node? 50 = some n) (h2 : s.wg? 50 = none) (h3 : s.unit? 9 = some (spoolAt 0x1000))
    (h4 : n.closed = false) (h5 : n.held = none) (h6 : n.ins = [some 9])
    (h7 : seqFrom (s.viewSpool (spoolAt 0x1000)).tail (s.viewSpool (spoolAt 0x1000)).head ≤ 2)
    (h8 : ((s.viewSpool (spoolAt 0x1000)).ahead 50).head? = some r) :
    Claim.Feeds s 50 n n.kind 9 0 0x1000 (s.viewSpool (spoolAt 0x1000)) r :=
  have hz : (s.viewSpool (spoolAt 0x1000)).ssz = 128 := rfl
  have hb : (s.viewSpool (spoolAt 0x1000)).bcst = false := rfl
  { node := h1, alone := h2, kind := rfl, opened := h4, free := h5, port := by rw [h6]; rfl, spool := by simp [State.spool?, h3]
    store := rfl, slots := ⟨1, by decide, rfl⟩, size := by rw [hz]; decide, fits := h7
    readers := fun h => by rw [hb] at h; cases h
    first := h8 }

theorem fed_node (n : Node) (tag : Nat) (words : List Word) : (fed n tag words).node? 50 = some n := rfl
theorem fed_wg (n : Node) (tag : Nat) (words : List Word) : (fed n tag words).wg? 50 = none := rfl
theorem fed_unit (n : Node) (tag : Nat) (words : List Word) : (fed n tag words).unit? 9 = some (spoolAt 0x1000) := rfl

theorem feeds_any {s : State} {n : Node} {ok : State → Record → Bool} (h1 : s.node? 50 = some n) (h2 : s.wg? 50 = none)
    (h3 : s.unit? 9 = some (spoolAt 0x1000)) (h4 : n.closed = false) (h5 : n.held = none) (h6 : n.ins = [some 9])
    (h7 : seqFrom (s.viewSpool (spoolAt 0x1000)).tail (s.viewSpool (spoolAt 0x1000)).head ≤ 2)
    (h8 : ((s.viewSpool (spoolAt 0x1000)).ahead 50).head?.any (ok s) = true) :
    ∃ x r, Claim.Feeds s 50 n n.kind 9 0 0x1000 x r ∧ ok s r = true := by
  obtain ⟨r, hr, h⟩ := Option.any_eq_true .. |>.mp h8
  exact ⟨_, r, feeds_of h1 h2 h3 h4 h5 h6 h7 hr, h⟩

theorem feeds {n : Node} {tag : Nat} {words : List Word} {ok : State → Record → Bool} (h : fedWith n tag words ok = true)
    (h4 : n.closed = false) (h5 : n.held = none) (h6 : n.ins = [some 9])
    (h7 : seqFrom ((fed n tag words).viewSpool (spoolAt 0x1000)).tail ((fed n tag words).viewSpool (spoolAt 0x1000)).head ≤ 2) :
    ∃ x r, Claim.Feeds (fed n tag words) 50 n n.kind 9 0 0x1000 x r ∧ ok (fed n tag words) r = true :=
  feeds_any (fed_node ..) (fed_wg ..) (fed_unit ..) h4 h5 h6 h7 h

/-- The words of a triangle with the vertices (0, 0), (3, 0) and (0, 3), all with z = 0 and w = 1. -/
def corners : List Word := [0, 0, 0, 0x3F800000, 0x40400000, 0, 0, 0x3F800000, 0, 0x40400000, 0, 0x3F800000]
def triangle : Record := { seq := 0, kind := 1, lmask := 0, fault := false, eos := false, words := corners, ticket := none }

def rasterNode : Node := nodeOf .raster [some 10] [] []

theorem witness_triangles : rasterNode.heldRecords = [] ∧ rasterNode.state = some rasterState ∧
    (∃ x r, Claim.Feeds (fed rasterNode 0x100 corners) 50 rasterNode .raster 9 0 0x1000 x r ∧
      decide (r.eos = false ∧ r.fault = false ∧ r.kind = 1) = true) ∧
    (∃ x r, Claim.Feeds (fed rasterNode 4 []) 50 rasterNode .raster 9 0 0x1000 x r ∧ r.eos = true) ∧
    (∃ x r, Claim.Feeds (fed rasterNode 0x1100 []) 50 rasterNode .raster 9 0 0x1000 x r ∧
      decide (r.eos = false ∧ r.kind ≠ 1 ∧ r.kind ≠ 2) = true) ∧
    ∃ y, Claim.OutSpool (fed rasterNode 0x1100 []) rasterNode 9 0 0x1000 10 0 0x2000 (shown 0 1) y :=
  ⟨rfl, rfl, feeds (ok := fun _ r => decide (r.eos = false ∧ r.fault = false ∧ r.kind = 1)) (by decide) rfl rfl rfl (by decide),
    feeds (ok := fun _ r => r.eos) (by decide) rfl rfl rfl (by decide),
    feeds (ok := fun _ r => decide (r.eos = false ∧ r.kind ≠ 1 ∧ r.kind ≠ 2)) (by decide) rfl rfl rfl (by decide), _, rfl, by decide, rfl, rfl, rfl, by decide, rfl, by decide⟩

theorem witness_tiles : tileOwner [0, 96, 192, 288] 3 1 = some 288 ∧ tileOwner [5] 0 0 = some 5 := by decide
theorem witness_quads : (match rasterState.setup triangle with
    | none => false
    | some y => !(y.quads rasterState fun _ _ => true).isEmpty) = true := by
  decide +kernel

def blendNode : Node := nodeOf .blend [] [] []

theorem witness_blend_takes : blendNode.state = some rasterState ∧
    ∃ x r, Claim.Feeds (fed blendNode 0x1100 []) 50 blendNode .blend 9 0 0x1000 x r ∧ (!r.eos &&
      (blendNode.heldRecords.find? (blendable ((fed blendNode 0x1100 []).openTickets blendNode.lid blendNode.place)
        (blendNode.heldRecords ++ (fed blendNode 0x1100 []).blendQueue 50 blendNode))).isNone) = true :=
  ⟨rfl, feeds (ok := fun s r => !r.eos && (blendNode.heldRecords.find? (blendable (s.openTickets blendNode.lid blendNode.place)
      (blendNode.heldRecords ++ s.blendQueue 50 blendNode))).isNone) (by decide) rfl rfl rfl (by decide)⟩

/-- A colour record of one pixel with its ticket. -/
def colourRecord : Record :=
  { seq := 6, kind := 0x11, lmask := 2, fault := false, eos := false, words := [0, 0, 0, 0]
    ticket := some { tile := (0, 0), x := 2, y := 2, pseq := 0, z := [0, 0, 0, 0], coverage := 15 } }

theorem witness_blends : let n := nodeOf .blend [] [colourRecord] [(0, 0)]
    let s : State := { fed n 0 [] with aStore := storage [] 0x1000 0 0 0 [] }
    s.node? 50 = some n ∧ n.kind = .blend ∧ n.closed = false ∧ n.held = none ∧ n.state = some rasterState ∧ rasterState.depth = none ∧
    n.heldRecords.find? (blendable (s.openTickets n.lid n.place) (n.heldRecords ++ s.blendQueue 50 n)) = some colourRecord ∧
    (∃ u, colourRecord.ticket = some u ∧ n.touched.contains u.tile = true) ∧ 1 < 4 ∧
    ∀ i, i < 4 → colourRecord.lmask.getLsbD i = decide (i = 1) :=
  ⟨rfl, rfl, rfl, rfl, rfl, rfl, by decide, ⟨_, rfl, by decide⟩, by decide, by decide⟩

theorem witness_blend_ends : blendNode.state = some rasterState ∧ blendNode.heldRecords = [] ∧ blendNode.outs = [] ∧ blendNode.touched = [] ∧
    (∃ u, (fed blendNode 4 []).storeTiles blendNode rasterState blendNode.touched = .ok u) ∧
    ∃ x r, Claim.Feeds (fed blendNode 4 []) 50 blendNode .blend 9 0 0x1000 x r ∧ r.eos = true :=
  ⟨rfl, rfl, rfl, rfl, ⟨_, rfl⟩, feeds (ok := fun _ r => r.eos) (by decide) rfl rfl rfl (by decide)⟩

def travNode : Node := nodeOf .trav [some 10] [] []

theorem witness_travels : travNode.heldRecords = [] ∧
    (∃ x r u w, Claim.Feeds (fed travNode 0x2000 []) 50 travNode .trav 9 0 0x1000 x r ∧ decide (r.eos = false ∧ r.fault = false ∧ r.kind = 0x20) = true ∧
      (fed travNode 0x2000 []).rayRun ((fed travNode 0x2000 []).nodeAcc travNode) ((travNode.outs.getD 1 none).isSome) r.ray.1 r.ray.2 = (u, w)) ∧
    (∃ x r, Claim.Feeds (fed (nodeOf .trav [] [] []) 4 []) 50 (nodeOf .trav [] [] []) .trav 9 0 0x1000 x r ∧ r.eos = true) ∧
    (∃ x r, Claim.Feeds (fed travNode 2 []) 50 travNode .trav 9 0 0x1000 x r ∧ r.fault = true) ∧
    (∃ y, Claim.OutSpool (fed travNode 2 []) travNode 9 0 0x1000 10 0 0x2000 (shown 0 1) y) ∧
    let n := nodeOf .trav [some 10] [{ triangle with kind := 0x22 }] []
    (fed n 2 []).node? 50 = some n ∧ ∃ h, n.heldRecords = [h] ∧ ((fed n 2 []).nodeEmit n 0 h).isSome = true := by
  refine ⟨rfl, ?_, feeds (ok := fun _ r => r.eos) (by decide) rfl rfl rfl (by decide),
    feeds (ok := fun _ r => r.fault) (by decide) rfl rfl rfl (by decide), ⟨_, rfl, by decide, rfl, rfl, rfl, by decide, rfl, by decide⟩,
    rfl, _, rfl, by decide⟩
  obtain ⟨x, r, h, hr⟩ := feeds (n := travNode) (tag := 0x2000) (words := [])
    (ok := fun _ r => decide (r.eos = false ∧ r.fault = false ∧ r.kind = 0x20)) (by decide) rfl rfl rfl (by decide)
  exact ⟨x, r, _, _, h, hr, rfl⟩

/-! ### The platform -/

/-- A command in progress in a mailbox. -/
def commanded (s : State) (who : Writer) (i : Instr) : State := s.setMailbox who { Mailbox.reset with stat := 1, pending := some i }

theorem witness_mailboxes : (∃ m, ready.mailbox .platform = some m ∧ m.pending = none) ∧ ready.stage = 6 ∧
    ∃ m, (commanded ready (.owner 7) .idle).mailbox (.owner 7) = some m ∧ m.pending = some .idle :=
  ⟨⟨_, rfl, rfl⟩, by decide, _, rfl, rfl⟩

/-- The gangs that a PART_SET pre-empts which takes cluster 0 from partition 0. -/
def leavers (s : State) : List (Nat × Gang) := s.gangs.filter fun e => !e.2.done && e.2.pre != .saved && [0].contains e.2.cluster

theorem witness_partition_sets :
    (commanded ready .platform (.partSet 1 true 1 0 0 0 0)).command .platform = some (.partSet 1 true 1 0 0 0 0) ∧
    (ready.part 0).en = true ∧ (ready.part 0).clus &&& BitVec.ofNat 8 1 ≠ 0 ∧
    (let s := commanded ready .platform (.partSet 1 true 2 1 63 0 512)
     s.command .platform = some (.partSet 1 true 2 1 63 0 512) ∧ (s.part 1).clus = 0 ∧ ¬ (64 < 1 + 63 ∨ 512 < 0 + 512) ∧
     (∀ q, q < 8 → q ≠ 1 → (s.part q).clus &&& BitVec.ofNat 8 2 = 0 ∧ (s.part q).kfirst + (s.part q).kcnt ≤ 1)) ∧
    (let s := commanded (pooled .run) .platform (.partSet 0 true 2 0 0 0 0)
     s.command .platform = some (.partSet 0 true 2 0 0 0 0) ∧ (s.part 0).clus = 1 ∧ s.holdsPattern 0 = false ∧
     (∀ q, q < 8 → q ≠ 0 → (s.part q).en = false ∧ (s.part q).clus = 0) ∧
     (leavers s).length = 1 ∧ (State.areasFor (leavers s) s).isSome = true) ∧
    let s := commanded (ready.setPart 0 { ready.part 0 with rsvstat := 1 }) .platform (.partSet 0 true 2 0 0 0 0)
    s.command .platform = some (.partSet 0 true 2 0 0 0 0) ∧ (State.areasFor (leavers s) s).isNone = true :=
  ⟨by decide, by decide, by decide, ⟨by decide, by decide, by decide, by decide⟩,
    ⟨by decide, by decide, by decide, by decide, by decide, by decide⟩, by decide, by decide⟩

theorem witness_areas : let busy := ready.setPart 0 { ready.part 0 with rsvstat := 1 }
    ∃ e l, (pooled .run).gangs = [e] ∧ (pooled .run).launch? e.2.lid = some l ∧ e.2.pre ≠ .saving ∧ e.2.passed = false ∧
      (pooled .run).saveArea l.part (saveUnits l.spec e.2.wgs.length) = some (some 0) ∧
      ({ pooled .run with regs := ready.regs } : State).saveArea l.part (saveUnits l.spec e.2.wgs.length) = some none ∧
      ({ pooled .run with regs := busy.regs } : State).saveArea l.part (saveUnits l.spec e.2.wgs.length) = none :=
  ⟨_, _, rfl, rfl, by decide, by decide, by decide, by decide, by decide⟩

theorem witness_partition_resets : (commanded ready (.owner 0) (.partReset (.owner 0) 0)).command (.owner 0) =
    some (.partReset (.owner 0) 0) := by decide

theorem witness_keys (slot : Nat) (h : slot = 64 ∨ slot = 0 ∨ slot = 5) : let s := commanded ready .platform (.keyLoad .platform slot 0x18000)
    s.command .platform = some (.keyLoad .platform slot 0x18000) ∧ (s.mailRead .platform 0x18000 64).toBool = true ∧
    ((∃ q, q < 8 ∧ (s.part q).en = true ∧ (s.part q).kfirst ≤ slot ∧ slot < (s.part q).kfirst + (s.part q).kcnt) ↔ slot = 0) := by
  obtain h | h | h := h <;> subst h <;> exact ⟨by decide, by decide, by decide⟩

theorem witness_certificates (size : Nat) :
    let s := commanded ready .platform (.cert .platform 0 size)
    s.command .platform = some (.cert .platform 0 size) ∧ 0 < Config.certificateSize ∧
    ∃ u, s.mailWrite .platform 0 ((List.range Config.certificateSize).map Config.certificate) = .ok u := by
  refine ⟨rfl, Nat.succ_pos _, ?_⟩
  have := Config.certificateLength.isLt
  simp only [State.mailWrite, List.length_map, List.length_range, Config.certificateSize, memorySize]
  rw [if_neg (by omega)]
  exact ⟨_, rfl⟩

theorem report_length (s : State) (bs : List Byte) (h : bs.length = 64) : (s.report .platform bs).length = 512 := by
  simp [State.report, h]

theorem witness_reports_made : let s := commanded ready .platform (.attest .platform 0x18000 0x18400)
    s.command .platform = some (.attest .platform 0x18000 0x18400) ∧
    ∃ u bs, s.mailRead .platform 0x18000 64 = .ok (u, bs) ∧ ∃ v, u.bumpFree.mailWrite .platform 0x18400
      (u.report .platform bs ++ (List.range 512).map (Config.signature (u.report .platform bs))) = .ok v := by
  refine ⟨by decide, _, Sparse.getBytes (commanded ready .platform (.attest .platform 0x18000 0x18400)).mem 0x18000 64, rfl, ?_⟩
  simp only [State.mailWrite, List.length_append, List.length_map, List.length_range]
  rw [report_length _ _ (by decide), if_neg (by decide)]
  exact ⟨_, rfl⟩

/-- A Cersan image of its header alone, of a generation. -/
def imaged (gen : Nat) (magic : Nat) : State :=
  { (commanded ready (.owner 0) (.imageLoad 0 0x18000 0x18400 false 0)) with
    tlb := [modulePage]
    mem := Sparse.setBytes ready.mem 0x18000 (toBytes 64 (magic + 2 ^ 32 + gen * 2 ^ 48 + 64 * 2 ^ 64)) }

/-- What IMAGE_LOAD reads of the image, and a condition on it. -/
def imageCase (gen magic : Nat) (ok : List Byte → Bool) : Bool :=
  let a : Acc := { core := none, part := 0, asn := 0, gen := (imaged gen magic).genOf 0 0 }
  match (imaged gen magic).agentRead a 0x18000 64 with
  | .error _ => false
  | .ok (u, hd) =>
    match u.agentRead a 0x18000 (fieldAt hd 8 8) with
    | .error _ => false
    | .ok (_, bs) => ok bs

theorem witness_image_loads (gen magic : Nat) (h : (gen = 2 ∧ magic = 0x4E535243) ∨ (gen = 3 ∧ magic = 0x4E535243) ∨ (gen = 2 ∧ magic = 0)) :
    (imaged gen magic).command (.owner 0) = some (.imageLoad 0 0x18000 0x18400 false 0) ∧
    imageCase gen magic (fun bs => decide (imageHeader bs = decide (magic = 0x4E535243) ∧ byteAt bs 6 = gen)) = true := by
  obtain h | h | h := h <;> obtain ⟨rfl, rfl⟩ := h <;> exact ⟨by decide, by decide +kernel⟩

/-- An image of a header, one section entry and a code section of eight bytes. -/
def withCode : State :=
  { imaged 2 0x4E535243 with
    mem := Sparse.setBytes ready.mem 0x18000 (toBytes 104 (0x4E535243 + 2 ^ 32 + 2 * 2 ^ 48 + 2 ^ 56 + 104 * 2 ^ 64 + 2 ^ 512 +
      96 * 2 ^ 576 + 8 * 2 ^ 640 + 0x94000000 * 2 ^ 768)) }

theorem witness_code_sections : withCode.command (.owner 0) = some (.imageLoad 0 0x18000 0x18400 false 0) ∧
    let a : Acc := { core := none, part := 0, asn := 0, gen := withCode.genOf 0 0 }
    (match withCode.agentRead a 0x18000 64 with
      | .error _ => false
      | .ok (u, hd) => match u.agentRead a 0x18000 (fieldAt hd 8 8) with
        | .error _ => false
        | .ok (v, bs) => imageHeader bs && decide (byteAt bs 6 = 2) && v.images.isEmpty &&
          decide (((imageSections bs).filter (fun y => y.type == 1)).map (fun x => (x.ofs, x.size)) = [(96, 8)]) &&
          (imageSections bs).all (fun y => decide (y.type ≠ 3 ∧ y.type ≠ 5)) &&
          (v.agentWrite a 0x18400 ((bs.drop 96).take 8)).toBool) = true :=
  ⟨by decide, by decide +kernel⟩

theorem witness_firmware_updates : let s := commanded ready .platform (.fwUpdate 0)
    s.command .platform = some (.fwUpdate 0) ∧ ∃ bs, s.mailRead .platform 0 Config.firmwareSize = .ok (s, bs) := by
  have h : ¬ memorySize < 0 + Config.firmwareSize := by
    have := Config.firmwareLength.isLt
    unfold memorySize Config.firmwareSize
    omega
  exact ⟨by decide, _, if_neg h⟩

theorem witness_idle : (commanded ready .platform .idle).busyModule = true ∧ (commanded State.reset .platform .idle).busyModule = false ∧
    (∃ m, (commanded ready .platform .idle).mailbox .platform = some m ∧ m.pending = some .idle) ∧
    (∃ m, (commanded State.reset .platform .idle).mailbox .platform = some m ∧ m.pending = some .idle) ∧
    ∃ m, (commanded ready .platform .wake).mailbox .platform = some m ∧ m.pending = some .wake :=
  ⟨by decide, by decide, ⟨_, rfl, rfl⟩, ⟨_, rfl, rfl⟩, _, rfl, rfl⟩

theorem witness_bring_up (stage : Nat) (h : stage = 0 ∨ stage = 1 ∨ stage = 2 ∨ stage = 3 ∨ stage = 4 ∨ stage = 5) :
    let s : State := { State.reset with stage := stage, powered := true, good := true }
    s.powered = true ∧ s.tripped = false ∧ s.good = true ∧ s.stage = stage ∧ s.stage < 6 := by
  obtain h | h | h | h | h | h := h <;> subst h <;> exact ⟨rfl, rfl, rfl, rfl, by decide⟩

theorem witness_register_writes : ready.locked = false ∧ (ready.queue 8191).qcfg.getLsbD 7 = false ∧ ((queued []).queue 1).qcfg.getLsbD 7 = true ∧
    (ready.head 7).hctl.getLsbD 0 = false ∧ ((ready.queue 8191).qcfg.toNat / 2 ^ 8 % 8) = 0 := by decide

theorem witness_locked : let s : State := { ready with stage := 5, good := false }
    s.locked = true := by decide

theorem witness_outside_accesses : ready.locked = false ∧ let s : State := { ready with regs := { ready.regs with winctl := 0x1001F }, links := [(27, .up)] }
    s.regs.winctl.getLsbD 16 = true ∧ ready.regs.winctl.getLsbD 16 = false ∧ 2 ^ 34 - 1 + [(0 : Byte)].length ≤ 2 ^ 34 ∧
    Sparse.find s.links 27 = some .up ∧ memorySize < 2 ^ 39 + [(0 : Byte)].length ∧ 2 ^ 39 - 1 + [(0 : Byte)].length ≤ memorySize := by
  decide

theorem witness_link_commands (port : Nat) (h : port = 28 ∨ port = 27) : let i := Instr.linkDisable .platform port
    (commanded ready .platform i).command .platform = some i ∧ i ∈ [Instr.linkTrain .platform port, .linkRetrain .platform port, i] ∧
    ¬ ∃ p, Writer.platform = .owner p := by
  obtain h | h := h <;> subst h <;> exact ⟨by decide, by decide, fun ⟨_, e⟩ => by cases e⟩

theorem witness_link_failures : ready.pendingBehind 27 = [] ∧ ready.heldBehind 27 = [] := by decide

theorem witness_failed_links : let i := Instr.linkTrain .platform 27
    let s := { commanded ready .platform i with links := [(27, .failed)] }
    s.command .platform = some i ∧ Sparse.find s.links 27 = some .failed := by decide

/-- Every port is up. -/
def allUp : State := { ready with links := (List.range 28).map fun k => (k, .up) }

theorem witness_remote_accesses : allUp.locked = false ∧ (∃ k, k < 4 ∧ Sparse.find allUp.links (Config.uetPort k).val = some .up) ∧
    ¬ ∃ k, k < 4 ∧ Sparse.find ready.links (Config.uetPort k).val = some .up := by
  have h : ∀ p : Fin 28, Sparse.find allUp.links p.val = some .up ∧ Sparse.find ready.links p.val ≠ some .up := by decide
  exact ⟨by decide, ⟨0, by decide, (h _).1⟩, fun ⟨k, _, e⟩ => (h _).2 e⟩

/-! ### Decoding and steps -/

theorem witness_round_trip : (Instr.fence .ar .sys).coded = true ∧ (Instr.fence .ar .sys).WellFormed = true ∧
    (Instr.reservedOpcode 0xFFFFFFFF).coded = true ∧ (Instr.reservedOpcode 0xFFFFFFFF).WellFormed = true := by decide

/-- The first step's state with its turn taken, and the panels that issue in it. -/
def turned (s : State) : State := { s.tick with turns := [] }
def turnHeld (s : State) : List ((Nat × Nat) × Option Nat) := ((turned s).reasons (turned s)).filter fun r => r.1 == (0, 0)
def turnMarked (s : State) : State := (turned s).mark ((turned s).reasons (turned s))

theorem witness_steps : let s := State.reset.withFetchWord 32 0x94000000
    s.turns = .issue 0 0 :: [] ∧ s.powered = true ∧ s.tripped = false ∧ (∀ k, k < 8 → (turned s).narrow 0 k = false) ∧
    turnHeld s = [((0, 0), none)] ∧ (turnMarked s).holdReason 0 0 = none ∧
    (turned s).fetch c0 = .instr .exit 1 ∧ (turnMarked s).fetch c0 = .instr .exit 1 :=
  ⟨rfl, rfl, rfl, by decide +kernel, by decide +kernel, by decide +kernel, by decide +kernel, by decide +kernel⟩

theorem witness_steps_on_no_instruction : let s := State.reset.withFetchWord 32 (0xDD * 2 ^ 17)
    (turned s).fetch c0 = .bad 1 ∧ (turnMarked s).fetch c0 = .bad 1 :=
  ⟨by decide +kernel, by decide +kernel⟩

theorem witness_steps_on_headers : let r := State.reset.withFetchWord 32 0x1E001800
    let s := r.setPanel c0 { r.panel c0 with clause := none }
    s.turns = .issue 0 0 :: [] ∧ (∃ k, turnHeld s = [((0, 0), some k)]) ∧ (turned s).fetches 0 0 = true ∧
    ∃ w t, (turnMarked s).fetch c0 = .header w ∧ exec (.clauseHeader w) { turnMarked s with cur := some c0 } = .next t ∧
      ((t.wave 0).panel 0).frame = none :=
  ⟨rfl, ⟨_, rfl⟩, by decide +kernel, _, _, rfl, rfl, rfl⟩

theorem witness_steps_of_events : let s := commanded { State.reset with turns := [.act .idle], powered := true } .platform .idle
    s.turns = [.act .idle] ∧ announced .idle = false ∧ registerAct .idle = false ∧
    ∃ t, exec .idle { turned s with cur := none } = .next t ∧ t.powered = true ∧ t.tripped = false :=
  ⟨rfl, rfl, rfl, _, rfl, rfl, rfl⟩

theorem witness_issue_shown : Claim.IssueShown State.reset := fun w e _ h => absurd h (by
  have : (State.reset.wave w).alive = false := rfl
  simp [this])

theorem witness_step_from_reset : ∃ t, step State.reset = .next t := ⟨_, rfl⟩

theorem witness_issue_order : (0 : Nat) / 64 = 0 / 64 ∧ (two .run).cycle < 2 ^ 64 ∧ (((two .run).wave 0).panel 0).ready < 2 ^ 64 ∧
    (((two .run).wave 0).panel 1).ready < 2 ^ 64 := by decide

end Sys2Proof.Tests
end

section
/-! SUPPORT. What runs inside the module leaves the states of its links alone (20 R400): one lemma for each operation that a failing link
can set off, from the bytes of memory up to the reply to a held fault.

The sections from here on elaborate their proofs one after another: the check compiles the whole text in a fixed memory, of which every
thread that waits for another's proof reserves a stack. -/

set_option Elab.async false
namespace Sys2Proof.Machine

theorem foldl_links {α : Type} (f : State → α → State) (hf : ∀ s a, (f s a).links = s.links) (l : List α) (s : State) :
    (l.foldl f s).links = s.links := by
  induction l generalizing s with
  | nil => rfl
  | cons a l ih => exact (ih _).trans (hf s a)

/-! ### Memory, L1 and TLBs -/

@[simp] theorem State.rekeyLine_links (s : State) (slot line : Nat) : (s.rekeyLine slot line).links = s.links := by
  simp only [State.rekeyLine]
  split
  · rfl
  · split <;> rfl

@[simp] theorem State.writeKeyed_links (s : State) (slot pa : Nat) (b : Byte) : (s.writeKeyed slot pa b).links = s.links := by
  simp [State.writeKeyed]

@[simp] theorem State.writeKeyedBytes_links (slot : Nat) (bs : List Byte) (s : State) (pa : Nat) :
    (s.writeKeyedBytes slot pa bs).links = s.links := by
  induction bs generalizing s pa with
  | nil => rfl
  | cons b bs ih => simp [State.writeKeyedBytes, ih]

@[simp] theorem State.clearPoison_links (s : State) (line : Nat) : (s.clearPoison line).links = s.links := rfl

@[simp] theorem State.bumpFree_links (s : State) : s.bumpFree.links = s.links := rfl

@[simp] theorem State.cacheIn_links (s : State) (a : Acc) (va : Nat) (x : DWord × Nat) (unit : Nat) :
    (s.cacheIn a va x unit).links = s.links := by
  unfold State.cacheIn
  split <;> rfl

@[simp] theorem State.cacheLeaf_links (s : State) (a : Acc) (va : Nat) : (s.cacheLeaf a va).links = s.links := by
  unfold State.cacheLeaf
  split
  · rfl
  · split <;> simp

@[simp] theorem State.cacheLeaves_links (a : Acc) (vas : List Nat) (s : State) : (s.cacheLeaves a vas).links = s.links := by
  induction vas generalizing s with
  | nil => rfl
  | cons va vas ih => simp [State.cacheLeaves, ih]

@[simp] theorem State.setL1At_links (s : State) (ix : Nat) (x : L1Line) : (s.setL1At ix x).links = s.links := rfl

@[simp] theorem State.writeBackLine_links (s : State) (ix : Nat) : (s.writeBackLine ix).links = s.links := by
  have sent : ∀ (x : L1Line) (t : State), ((List.range 128).foldl (fun s i =>
      if x.written.getLsbD i then s.writeKeyed (ixKey ix) (128 * ixLine ix + i) (x.data.getD i 0) else s) t).links = t.links :=
    fun x => foldl_links _ (fun s i => by split <;> simp) _
  simp only [State.writeBackLine, State.setL1At_links]
  split
  · rw [State.clearPoison_links, sent]
  · exact sent _ _

@[simp] theorem State.makeRoom_links (s : State) (core ix : Nat) : (s.makeRoom core ix).links = s.links := by
  simp only [State.makeRoom]
  split
  · rfl
  · split <;> simp

@[simp] theorem State.giveUp_links (s : State) (ix : Nat) : (s.giveUp ix).links = s.links := by simp [State.giveUp]

@[simp] theorem State.soleLine_links (s : State) (ix : Nat) : (s.soleLine ix).links = s.links :=
  foldl_links _ State.giveUp_links _ _

@[simp] theorem State.renewLine_links (s : State) (gen ix : Nat) : (s.renewLine gen ix).links = s.links := by
  simp only [State.renewLine]
  split <;> simp

@[simp] theorem State.touchL1_links (s : State) (core gen evp ix i : Nat) : (s.touchL1 core gen evp ix i).links = s.links := by
  simp only [State.touchL1]
  split <;> simp [State.fillLine]

@[simp] theorem State.storeL1_links (s : State) (core gen evp ix i : Nat) (b : Byte) :
    (s.storeL1 core gen evp ix i b).links = s.links := by
  simp [State.storeL1]

@[simp] theorem State.releaseL1_links (s : State) (core : Nat) : (s.releaseL1 core).links = s.links :=
  foldl_links _ State.writeBackLine_links _ _

@[simp] theorem State.acquireL1_links (s : State) (core : Nat) : (s.acquireL1 core).links = s.links :=
  foldl_links _ (fun s ix => by dsimp only; split <;> rfl) _ _

@[simp] theorem State.bypass_links (s : State) (a : Acc) (key line : Nat) : (s.bypass a key line).links = s.links := by
  unfold State.bypass
  split
  · rfl
  · exact foldl_links _ State.giveUp_links _ _

@[simp] theorem State.touchPlaces_links (a : Acc) (ps : List Place) (s : State) : (s.touchPlaces a ps).links = s.links := by
  induction ps generalizing s with
  | nil => rfl
  | cons x xs ih =>
    rw [State.touchPlaces, ih]
    split <;> simp

@[simp] theorem State.readPlace_links (s : State) (a : Acc) (x : Place) : (s.readPlace a x).1.links = s.links := by
  cases x with
  | sparse => rfl
  | leaf e pa =>
    simp only [State.readPlace]
    split
    · rfl
    · split <;> simp

@[simp] theorem State.readEach_links (a : Acc) (ps : List Place) (s : State) : (s.readEach a ps).1.links = s.links := by
  induction ps generalizing s with
  | nil => rfl
  | cons x xs ih => simp [State.readEach, ih]

@[simp] theorem State.readPlaces_links (s : State) (a : Acc) (ps : List Place) : (s.readPlaces a ps).1.links = s.links := by
  simp [State.readPlaces]

@[simp] theorem State.writePlace_links (s : State) (a : Acc) (b : Byte) (x : Place) : (s.writePlace a b x).links = s.links := by
  cases x with
  | sparse => rfl
  | leaf e pa =>
    simp only [State.writePlace]
    split
    · rfl
    · split
      · split <;> simp
      · simp

@[simp] theorem State.writePlaces_links (a : Acc) (ps : List Place) (bs : List Byte) (s : State) :
    (s.writePlaces a ps bs).links = s.links := by
  induction ps generalizing bs s with
  | nil => cases bs <;> rfl
  | cons x xs ih =>
    cases bs with
    | nil => rfl
    | cons b bs => simp [State.writePlaces, ih]

@[simp] theorem State.clearCovered_links (s : State) (pas : List Nat) : (s.clearCovered pas).links = s.links :=
  foldl_links _ State.clearPoison_links _ _

@[simp] theorem State.readVa_links (s : State) (a : Acc) (va n : Nat) : (s.readVa a va n).1.links = s.links := by
  simp only [State.readVa]
  split
  · rfl
  · split
    · rfl
    · split <;> simp

theorem State.writeVa_links {s t : State} {a : Acc} {va : Nat} {bs : List Byte} (h : s.writeVa a va bs = .ok t) :
    t.links = s.links := by
  simp only [State.writeVa] at h
  split at h
  · cases h
  · split at h
    · cases h
    · cases h
      simp

/-- A read that is taken apart by what it answers. -/
theorem State.links_of_readVa {s t : State} {a : Acc} {va n : Nat} {r : Except XFail (List Byte)} (h : s.readVa a va n = (t, r)) :
    t.links = s.links := by
  rw [← State.readVa_links s a va n, h]

@[simp] theorem State.putBytes_links (s : State) (a : Acc) (va : Nat) (bs : List Byte) : (s.putBytes a va bs).links = s.links := by
  unfold State.putBytes
  split
  · exact State.writeVa_links ‹_›
  · rfl

@[simp] theorem State.fetchBytes_links (s : State) (a : Acc) (va n : Nat) : (s.fetchBytes a va n).1.links = s.links := by
  unfold State.fetchBytes
  split
  · rfl
  · split <;> exact State.links_of_readVa ‹_›

theorem State.agentRead_links {s t : State} {a : Acc} {va n : Nat} {bs : List Byte} (h : s.agentRead a va n = .ok (t, bs)) :
    t.links = s.links := by
  unfold State.agentRead at h
  split at h
  · rw [← State.fetchBytes_links s a (va % 2 ^ 64) n, Except.ok.inj h]
  · cases h

theorem State.agentWrite_links {s t : State} {a : Acc} {va : Nat} {bs : List Byte} (h : s.agentWrite a va bs = .ok t) :
    t.links = s.links := by
  unfold State.agentWrite at h
  split at h
  · cases h
    simp
  · cases h

/-! ### Local stores, rings and fault records -/

@[simp] theorem State.setStore_links (s : State) (k : Store) (l : List Host.Cell) : (s.setStore k l).links = s.links := by
  cases k <;> rfl

@[simp] theorem State.writeUnchecked_links (s : State) (core ofs : Nat) (bs : List Byte) :
    (s.writeUnchecked core ofs bs).links = s.links := by
  simp [State.writeUnchecked, State.writeStore, State.clearShadow]

@[simp] theorem State.flushRing_links (p : Nat) (rs : List FaultRec) (s : State) : (s.flushRing p rs).links = s.links := by
  induction rs generalizing s with
  | nil => rfl
  | cons r rs ih =>
    simp only [State.flushRing]
    split
    · rfl
    · split
      · rfl
      · rw [ih, State.setPart_links]
        exact State.writeVa_links ‹_›

@[simp] theorem State.recordFault_links (s : State) (p : Nat) (r : FaultRec) : (s.recordFault p r).1.links = s.links := by
  simp [State.recordFault, State.retryRing]

@[simp] theorem State.writeRing_links (p base size n : Nat) (head : Nat) (bs : List Byte) (s : State) :
    (s.writeRing p base size head bs n).links = s.links := by
  induction n generalizing s head bs with
  | zero => rfl
  | succ n ih =>
    rw [State.writeRing, ih]
    split
    · exact State.writeVa_links ‹_›
    · rfl

@[simp] theorem State.traceAppend_links (s : State) (p type rsn die : Nat) (body : List Byte) (len : Nat) :
    (s.traceAppend p type rsn die body len).links = s.links := by
  simp only [State.traceAppend]
  split <;> simp

@[simp] theorem State.traceRecord_links (s : State) (p type rsn die : Nat) (body : List Byte) (len : Nat) :
    (s.traceRecord p type rsn die body len).links = s.links := by
  simp only [State.traceRecord]
  split
  · rfl
  · split
    · split <;> simp
    · simp

@[simp] theorem State.logWrite_links (s : State) (p : Nat) (bs : List Byte) : (s.logWrite p bs).links = s.links := by
  simp only [State.logWrite, State.setPart_links]
  split
  · exact State.writeVa_links ‹_›
  · rfl

@[simp] theorem State.logGapWrite_links (s : State) (p : Nat) : (s.logGapWrite p).links = s.links := by
  simp only [State.logGapWrite]
  split
  · rfl
  · split <;> simp

@[simp] theorem State.logAppend_links (s : State) (p wid lane kind : Nat) (value : DWord) :
    (s.logAppend p wid lane kind value).links = s.links := by
  simp only [State.logAppend]
  split
  · rfl
  · split <;> simp

@[simp] theorem State.notReplayed_links (s t : State) (p : Nat) : (s.notReplayed t p).links = t.links := by
  simp only [State.notReplayed]
  split <;> rfl

@[simp] theorem State.outcome_links (s : State) (c : Cur) (lane kind : Nat) (value : DWord) :
    (s.outcome c lane kind value).1.links = s.links := by
  simp only [State.outcome]
  split
  · split <;> simp
  · simp

/-! ### Spools -/

@[simp] theorem State.writeSpool_links (s : State) (u : SpoolUnit) (k : Nat) (bs : List Byte) :
    (s.writeSpool u k bs).links = s.links := by
  unfold State.writeSpool
  split
  · simp
  · split
    · exact State.writeVa_links ‹_›
    · rfl

@[simp] theorem State.putSpool_links (s : State) (k : Nat) (x : Spool) : (s.putSpool k x).links = s.links := by
  simp [State.putSpool]

@[simp] theorem State.dropRecords_links (s : State) (k : Nat) (x : Spool) (n : Nat) : (s.dropRecords k x n).links = s.links := by
  simp only [State.dropRecords, State.putSpool_links]
  exact foldl_links _ (fun _ _ => State.writeSpool_links ..) _ _

@[simp] theorem State.sweep_links (s : State) (k : Nat) : (s.sweep k).links = s.links := by
  unfold State.sweep
  split
  · rfl
  · split <;> simp

@[simp] theorem State.writeSlot_links (s : State) (u : SpoolUnit) (r : Record) : (s.writeSlot u r).links = s.links := by
  simp [State.writeSlot]

@[simp] theorem State.placeIn_links (s : State) (k : Nat) (rs : List Record) : (s.placeIn k rs).links = s.links := by
  simp only [State.placeIn]
  split
  · simp
  · rw [State.putSpool_links, foldl_links _ (fun _ _ => State.writeSlot_links ..), State.sweep_links]

@[simp] theorem State.placeRecords_links (s : State) (k : Nat) (rs : List Record) : (s.placeRecords k rs).links = s.links :=
  foldl_links _ (fun s k => by split <;> simp) _ _

@[simp] theorem State.takeRecords_links (s : State) (k inst n : Nat) : (s.takeRecords k inst n).links = s.links := by
  unfold State.takeRecords
  split
  · rfl
  · split <;> simp

@[simp] theorem State.settleSpool_links (s : State) (k : Nat) : (s.settleSpool k).links = s.links := by
  unfold State.settleSpool
  split
  · rfl
  · split <;> simp

@[simp] theorem State.noteSpool_links (s : State) (k : Nat) (e : Bool × Bool) : (s.noteSpool k e).links = s.links := by
  unfold State.noteSpool
  split <;> simp

@[simp] theorem State.closeSpool_links (s : State) (k : Nat) (fault : Bool) : (s.closeSpool k fault).links = s.links :=
  foldl_links _ (fun _ _ => State.noteSpool_links ..) _ _

/-! ### Launches and gangs -/

theorem State.writeErrorWord_links {s t : State} {a : Acc} {addr code : Nat} (h : s.writeErrorWord a addr code = .ok t) :
    t.links = s.links := by
  unfold State.writeErrorWord at h
  split at h
  · cases h
  · have read := State.links_of_readVa ‹_›
    split at h
    · exact (State.writeVa_links h).trans read
    · cases h
      exact read

theorem State.schedWrite_links {s t : State} {l : Launch} {a : Acc} {w : SchedWrite} (h : s.schedWrite l a w = .ok t) :
    t.links = s.links := by
  cases w with
  | status addr => exact State.writeVa_links h
  | word addr bs => exact State.writeVa_links h
  | setBit addr k =>
    simp only [State.schedWrite] at h
    split at h
    · cases h
    · exact (State.writeVa_links h).trans (State.links_of_readVa ‹_›)
  | error addr code => exact State.writeErrorWord_links h
  | errorAgain addr => exact State.writeErrorWord_links h

@[simp] theorem State.schedWrites_links (lid : Nat) (l : Launch) (ws : List SchedWrite) (s : State) :
    (s.schedWrites lid l ws).links = s.links := by
  induction ws generalizing s with
  | nil => rfl
  | cons w ws ih =>
    rw [State.schedWrites]
    split
    · exact (ih _).trans (State.schedWrite_links ‹_›)
    · simp

@[simp] theorem State.addWrites_links (s : State) (lid : Nat) (ws : List SchedWrite) : (s.addWrites lid ws).links = s.links := by
  unfold State.addWrites
  split
  · rfl
  · split <;> simp

@[simp] theorem State.packetDone_links (s : State) (q code : Nat) : (s.packetDone q code).links = s.links := rfl

@[simp] theorem State.settleTop_links (s : State) (lid : Nat) : (s.settleTop lid).links = s.links := by
  have signalled : ∀ l : Launch, (if l.signalled then s else
      (s.putLaunch lid { l with signalled := true }).addWrites lid (signalWrites l)).links = s.links := by
    intro l
    split <;> simp
  simp only [State.settleTop]
  split
  · rfl
  · split
    · rfl
    · split
      · exact signalled _
      · split
        · exact signalled _
        · exact signalled _

@[simp] theorem State.nodeRetired_links (s : State) (pat : Nat) : (s.nodeRetired pat).links = s.links := by
  unfold State.nodeRetired
  split <;> simp

@[simp] theorem State.settleLaunch_links (s : State) (lid : Nat) : (s.settleLaunch lid).links = s.links := by
  unfold State.settleLaunch
  split
  · rfl
  · split
    · rfl
    · split
      · simp
      · simp
      · split <;> simp
      · simp

@[simp] theorem State.closePorts_links (s : State) (k : Nat) (fault : Bool) : (s.closePorts k fault).links = s.links := by
  unfold State.closePorts
  split
  · rfl
  · refine foldl_links _ (fun s e => ?_) _ _
    split
    · split <;> simp
    · rfl

@[simp] theorem State.dropWaves_links (s : State) (p k : Nat) (w : Workgroup) : (s.dropWaves p k w).links = s.links := by
  refine foldl_links _ (fun s wid => ?_) _ _
  simp only [State.dropWave]
  split <;> simp

@[simp] theorem State.publish_links (s : State) (lid h b frame : Nat) : (s.publish lid h b frame).links = s.links := by
  simp only [State.publish]
  split
  · split <;> simp
  · split <;> simp

@[simp] theorem State.gangDone_links (s : State) (lid : Nat) (err : Option Nat) (final : List SchedWrite) :
    (s.gangDone lid err final).links = s.links := by
  simp only [State.gangDone]
  split
  · rfl
  · rw [State.settleLaunch_links, State.addWrites_links]
    split
    · split <;> simp
    · simp
    · simp

@[simp] theorem State.settlePool_links (s : State) (p : Nat) : (s.settlePool p).links = s.links := by
  simp only [State.settlePool]
  split <;> simp

@[simp] theorem State.freeArea_links (s : State) (p gid : Nat) : (s.freeArea p gid).links = s.links := by
  simp only [State.freeArea]
  split
  · rfl
  · rw [State.settlePool_links]
    split
    · split <;> rfl
    · rfl

/-- The end of a gang changes no link. -/
@[simp] theorem State.endGang_links (s : State) (gid err : Nat) : (s.endGang gid err).links = s.links := by
  simp only [State.endGang]
  split
  · rfl
  · split
    · rfl
    · rw [State.gangDone_links, State.freeArea_links, State.putGang_links]
      refine foldl_links _ (fun s k => ?_) _ _
      split <;> simp

@[simp] theorem State.failRest_links (s : State) (lid code : Nat) : (s.failRest lid code).links = s.links := by
  simp only [State.failRest]
  split
  · rfl
  · exact foldl_links _ (fun _ _ => State.gangDone_links ..) _ _

@[simp] theorem State.failPattern_links (s : State) (pat code : Nat) : (s.failPattern pat code).links = s.links := by
  unfold State.failPattern
  split <;> simp [State.dropNodes]

@[simp] theorem State.completePacket_links (s : State) (q packet code : Nat) (g : GridSpec) :
    (s.completePacket q packet code g).links = s.links := by
  simp only [State.completePacket]
  split <;> simp [State.addLaunch]

@[simp] theorem State.failQueue_links (s : State) (q : Nat) : (s.failQueue q).links = s.links := by
  simp only [State.failQueue]
  split <;> simp

@[simp] theorem State.launchError_links (s : State) (lid code : Nat) : (s.launchError lid code).links = s.links := by
  unfold State.launchError
  split <;> simp

@[simp] theorem State.writeLost_links (s : State) (lid : Nat) (l : Launch) : (s.writeLost lid l).links = s.links := by
  unfold State.writeLost
  split <;> simp

end Sys2Proof.Machine
end

section
/-! SUPPORT. The same for rays, fixed nodes and held lane accesses, and for the replies that reach them. -/

set_option Elab.async false
namespace Sys2Proof.Machine

/-! ### Rays -/

theorem State.nodeFetch_links {s t : State} {a : Acc} {addr : Nat} {x : List Byte × Bool} (h : s.nodeFetch a addr = .ok (t, x)) :
    t.links = s.links := by
  unfold State.nodeFetch at h
  split at h
  · cases h
    rfl
  · split at h
    · cases h
    · cases h
      exact State.agentRead_links ‹_›

@[simp] theorem State.traverse_links (a : Acc) (port : Bool) (n : Nat) (r : Ray) (x : RayNext) (s : State) :
    (s.traverse a port n r x).1.links = s.links := by
  induction n generalizing s r x with
  | zero => rfl
  | succ n ih =>
    cases x with
    | stop e => rfl
    | pop =>
      rw [State.traverse]
      split
      · rfl
      · exact ih ..
    | visit addr kind kids =>
      rw [State.traverse]
      split
      · exact ih ..
      · split
        · rfl
        · split
          · rfl
          · exact (ih ..).trans (State.nodeFetch_links ‹_›)

/-- Whether a part of a ray's run goes on or ends the ray, it leaves the links as they are in `s`. -/
def KeepsLinks {α : Type} (s : State) : Except (State × RayEnd) (State × α) → Prop
  | .ok x => x.1.links = s.links
  | .error e => e.1.links = s.links

theorem State.fetchFor_links (s : State) (a : Acc) (r : Ray) (addr : Nat) : KeepsLinks s (s.fetchFor a r addr) := by
  unfold State.fetchFor
  split
  · rfl
  · split
    · rfl
    · exact State.nodeFetch_links ‹_›

theorem KeepsLinks.ok {α : Type} {s : State} {x : Except (State × RayEnd) (State × α)} {y : State × α} (h : KeepsLinks s x)
    (e : x = .ok y) : y.1.links = s.links := by
  subst e
  exact h

theorem KeepsLinks.error {α : Type} {s : State} {x : Except (State × RayEnd) (State × α)} {y : State × RayEnd} (h : KeepsLinks s x)
    (e : x = .error y) : y.1.links = s.links := by
  subst e
  exact h

theorem State.recordHit_links (s : State) (a : Acc) (r : Ray) (t : Word) : KeepsLinks s (s.recordHit a r t) := by
  unfold State.recordHit
  split
  · rfl
  · have leaf := State.fetchFor_links s a r r.leaf
    split
    · exact leaf.error ‹_›
    · rename_i u bs r' hu
      have hu : u.links = s.links := leaf.ok hu
      have inst := State.fetchFor_links u a r' r'.inst
      dsimp only
      split
      · rename_i h
        split at h
        · cases h
        · split at h
          · cases h
            exact (inst.error ‹_›).trans hu
          · cases h
      · rename_i v iid r'' h
        have hv : v.links = s.links := by
          split at h
          · cases h
            exact hu
          · split at h
            · cases h
            · cases h
              exact (inst.ok ‹_›).trans hu
        split <;> exact hv

theorem State.reenter_links (s : State) (a : Acc) (r : Ray) : KeepsLinks s (s.reenter a r) := by
  unfold State.reenter
  split
  · have inst := State.fetchFor_links s a r r.inst
    split
    · exact inst.error ‹_›
    · split <;> exact inst.ok ‹_›
  · rfl

@[simp] theorem State.rayRun_links (s : State) (a : Acc) (port : Bool) (ws : List Word) (resume : Option Word) :
    (s.rayRun a port ws resume).1.links = s.links := by
  simp only [State.rayRun]
  split
  · split
    · rfl
    · exact State.traverse_links ..
  · split
    · rfl
    · split
      · rfl
      · split
        · exact (State.recordHit_links ..).error ‹_›
        · have hit := (State.recordHit_links ..).ok ‹_›
          split
          · exact ((State.reenter_links ..).error ‹_›).trans hit
          · exact (State.traverse_links ..).trans (((State.reenter_links ..).ok ‹_›).trans hit)

@[simp] theorem State.endThread_links (s : State) (tid : Nat) : (s.endThread tid).links = s.links := rfl

@[simp] theorem State.setEngine_links (s : State) (tid : Nat) (e : Engine) : (s.setEngine tid e).links = s.links := by
  unfold State.setEngine
  split <;> simp

@[simp] theorem State.deliverRay_links (s : State) (tid : Nat) (t : Thread) (port : Option Nat) (d lane : Nat)
    (rays : List RayState) (words : List Word) : (s.deliverRay tid t port d lane rays words).links = s.links := by
  simp only [State.deliverRay]
  split <;> simp

/-! ### Fixed nodes -/

@[simp] theorem State.faultOutputs_links (s : State) (n : Node) : (s.faultOutputs n).links = s.links := by
  refine foldl_links _ (fun s k => ?_) _ _
  split
  · rfl
  · exact foldl_links _ (fun _ _ => State.noteSpool_links ..) _ _

@[simp] theorem State.retireNode_links (s : State) (nid : Nat) (n : Node) (fault : Bool) :
    (s.retireNode nid n fault).links = s.links := by
  simp only [State.retireNode, State.nodeRetired_links, State.putNode_links]
  exact foldl_links _ (fun s k => by split <;> simp) _ _

theorem State.nodeEmit_links {s t : State} {n : Node} {port : Nat} {r : Record} (h : s.nodeEmit n port r = some t) :
    t.links = s.links := by
  unfold State.nodeEmit at h
  split at h
  · cases h
    rfl
  · split at h
    · cases h
      simp
    · cases h

theorem State.travHit_links {s t : State} {n : Node} {r : Ray} {fault : Option Nat} (h : s.travHit n r fault = some t) :
    t.links = s.links :=
  (State.nodeEmit_links (s := s.bumpFree) h :)

/-- A node that emits and then goes on does so in the state that its emit left. -/
theorem orWait_map_eq_ok {o : Option State} {f : State → State} {t : State} (h : (orWait o).map f = .ok t) :
    ∃ u, o = some u ∧ t = f u := by
  cases o with
  | none => cases h
  | some u => exact ⟨u, rfl, (Except.ok.inj h).symm⟩

theorem State.travStep_links {s t : State} {nid : Nat} {n : Node} (h : s.travStep nid n = .ok t) : t.links = s.links := by
  unfold State.travStep at h
  split at h
  · obtain ⟨u, hu, rfl⟩ := orWait_map_eq_ok h
    simp [State.nodeEmit_links hu]
  · split at h
    · cases h
    · split at h
      · cases h
        simp
      · split at h
        · cases h
          simp
        · dsimp only at h
          split at h
          · obtain ⟨u, hu, rfl⟩ := orWait_map_eq_ok h
            simp [State.travHit_links hu]
          · obtain ⟨u, hu, rfl⟩ := orWait_map_eq_ok h
            simp [State.nodeEmit_links hu]
          · obtain ⟨u, hu, rfl⟩ := orWait_map_eq_ok h
            simp [State.travHit_links hu]
          · cases h
          · cases h

@[simp] theorem State.travFail_links (s : State) (nid : Nat) (n : Node) : (s.travFail nid n).links = s.links := by
  unfold State.travFail
  split <;> simp

@[simp] theorem State.placeQuads_links (n : Node) (cores : List Nat) (rs : List Record) (s : State) :
    (s.placeQuads n cores rs).1.links = s.links := by
  induction rs generalizing s with
  | nil => rfl
  | cons r rs ih =>
    rw [State.placeQuads]
    split
    · exact ih _
    · split
      · rw [ih, State.placeRecords_links]
      · rfl

@[simp] theorem State.rasterPlace_links (s : State) (nid : Nat) (n : Node) (rs : List Record) :
    (s.rasterPlace nid n rs).links = s.links := by
  simp only [State.rasterPlace]
  split <;> simp

theorem State.rasterStep_links {s t : State} {nid : Nat} {n : Node} (h : s.rasterStep nid n = .ok t) : t.links = s.links := by
  unfold State.rasterStep at h
  split at h
  · split at h
    · cases h
    · cases h
      simp
  · split at h
    · split at h
      · cases h
        simp
      · split at h
        · cases h
          simp
        · cases h
          simp
    · cases h

theorem State.blockRead_links {s t : State} {a : Acc} {r : Layout} {b : Nat} {x : Nat × List Byte}
    (h : s.blockRead a r b = .ok (t, x)) : t.links = s.links := by
  unfold State.blockRead at h
  split at h
  · cases h
  · have code := State.agentRead_links ‹_›
    split at h
    · cases h
      exact code
    · split at h
      · cases h
      · cases h
        exact (State.agentRead_links ‹_›).trans code

theorem State.surfaceRead_links {s t : State} {a : Acc} {r : Layout} {b : Nat} {bs : List Byte}
    (h : s.surfaceRead a r b = .ok (t, bs)) : t.links = s.links := by
  unfold State.surfaceRead at h
  split at h
  · cases hb : s.blockRead a r b with
    | error v => rw [hb] at h; cases h
    | ok x =>
      rw [hb] at h
      cases h
      exact State.blockRead_links hb
  · exact State.agentRead_links h

theorem State.loadBlocks_links {a : Acc} {r : Layout} {core ofs : Nat} {l : List (Nat × Nat × Nat)} {s t : State}
    (h : s.loadBlocks a r core ofs l = .ok t) : t.links = s.links := by
  induction l generalizing s with
  | nil => cases h; rfl
  | cons b l ih =>
    unfold State.loadBlocks at h
    split at h
    · cases h
    · rw [ih h, foldl_links _ fun _ _ => State.writeUnchecked_links ..]
      exact State.surfaceRead_links ‹_›

theorem State.touchTile_links {s t : State} {nid : Nat} {n : Node} {st : RasterState} {tile : Nat × Nat}
    (h : s.touchTile nid n st tile = .ok t) : t.links = s.links := by
  unfold State.touchTile at h
  split at h
  · cases h
    rfl
  · dsimp only at h
    split at h
    · cases h
    · have loaded := State.loadBlocks_links ‹_›
      split at h <;>
      · cases h
        split <;> simp [loaded]

theorem State.storeBlocks_links {a : Acc} {r : Layout} {core ofs : Nat} {l : List (Nat × Nat × Nat)} {s t : State}
    (h : s.storeBlocks a r core ofs l = .ok t) : t.links = s.links := by
  induction l generalizing s with
  | nil => cases h; rfl
  | cons b l ih =>
    unfold State.storeBlocks at h
    dsimp only at h
    split at h
    · cases h
    · have data := State.agentWrite_links ‹_›
      split at h
      · cases h
      · rename_i hc
        rw [ih h]
        split at hc
        · exact (State.agentWrite_links hc).trans data
        · cases hc
          exact data

theorem State.storeTiles_links {n : Node} {st : RasterState} {l : List (Nat × Nat)} {s t : State}
    (h : s.storeTiles n st l = .ok t) : t.links = s.links := by
  induction l generalizing s with
  | nil => cases h; rfl
  | cons b l ih =>
    unfold State.storeTiles at h
    split at h
    · cases h
    · exact (ih h).trans (State.storeBlocks_links ‹_›)

@[simp] theorem State.blendPixel_links (s : State) (n : Node) (st : RasterState) (ofs : Nat) (t : Ticket) (words : List Word)
    (j : Nat) : (s.blendPixel n st ofs t words j).links = s.links := by
  simp only [State.blendPixel]
  cases st.depthSurface with
  | none => simp
  | some d =>
    dsimp only
    split
    · rfl
    · split <;> simp

theorem State.blendApply_links {s t : State} {nid : Nat} {n : Node} {st : RasterState} {r : Record}
    (h : s.blendApply nid n st r = .ok t) : t.links = s.links := by
  unfold State.blendApply at h
  dsimp only at h
  split at h
  · cases h
    split <;> simp
  · split at h
    · cases h
    · have tile := State.touchTile_links ‹_›
      cases h
      split
      · rw [foldl_links _ fun s j => by split <;> simp]
        exact tile
      · rw [State.putNode_links, foldl_links _ fun s j => by split <;> simp]
        exact tile

theorem State.blendStep_links {s t : State} {nid : Nat} {n : Node} {fail : Bool} (h : s.blendStep nid n fail = .ok t) :
    t.links = s.links := by
  unfold State.blendStep at h
  dsimp only at h
  split at h
  · cases h
  · split at h
    · split at h
      · cases h
        exact State.blendApply_links ‹_›
      · cases h
        rfl
      · split at h
        · cases h
          rfl
        · cases h
    · split at h
      · cases h
      · split at h
        · cases h
        · split at h
          · cases h
            simp
          · cases h
            simp

theorem State.blendEnd_links {s t : State} {nid : Nat} {n : Node} {fail : Bool} (h : s.blendEnd nid n fail = .ok t) :
    t.links = s.links := by
  unfold State.blendEnd at h
  split at h
  · cases h
  · split at h
    · cases h
    · split at h
      · cases h
        rw [State.retireNode_links, State.storeTiles_links ‹_›]
      · cases h
        simp
      · split at h
        · cases h
          simp
        · cases h

/-- A step of a fixed node changes no link. -/
theorem State.nodeStep_links {s t : State} {nid : Nat} {n : Node} {fail : Bool} (h : s.nodeStep nid n fail = .ok t) :
    t.links = s.links := by
  unfold State.nodeStep at h
  split at h
  · exact State.rasterStep_links h
  · split at h
    · cases h
      simp
    · exact State.travStep_links h
  · split at h
    · exact State.blendEnd_links h
    · exact State.blendStep_links h

/-! ### Held lane accesses -/

@[simp] theorem State.holdAccesses_links (c : Cur) (a : Acc) (pc cause sub : Nat) (l : List HeldAccess) (s : State) :
    (s.holdAccesses c a pc cause sub l).1.links = s.links := by
  induction l generalizing s with
  | nil => rfl
  | cons x l ih => simp [State.holdAccesses, ih]

@[simp] theorem State.storeEach_links (s : State) (a : Acc) (xs : List (Access × List Byte)) : (s.storeEach a xs).links = s.links := by
  have stored := foldl_links (fun s (x : Access × List Byte) => s.putBytes a x.1.va x.2) (fun _ _ => State.putBytes_links ..) xs s
  simp only [State.storeEach]
  split
  · exact stored
  · rw [State.clearCovered_links, stored]

@[simp] theorem State.wrote_links (s : State) (c : Cur) (act : Mask) : (s.wrote c act).links = s.links := by
  simp only [State.wrote]
  split <;> simp

@[simp] theorem State.fillCode_links (s : State) (a : Acc) (core line : Nat) : (s.fillCode a core line).links = s.links := by
  have room : ∀ t : State, (t.codeRoom core).links = t.links := by
    intro t
    unfold State.codeRoom
    dsimp only
    split
    · rfl
    · split <;> rfl
  unfold State.fillCode
  dsimp only
  split
  · rfl
  · split <;> simp [room]

theorem State.recordBytes_links (s : State) (cluster : Nat) (a : Acc) (h : Nat) : (s.recordBytes cluster a h).1.links = s.links := by
  unfold State.recordBytes
  dsimp only
  split
  · rfl
  · split
    · rfl
    · split
      · rfl
      · split
        · exact (State.links_of_readVa ‹_› :)
        · exact State.readVa_links ..

@[simp] theorem State.acquireAt_links (s : State) (c : Cur) (scope : Scope) : (s.acquireAt c scope).links = s.links := by
  unfold State.acquireAt
  split <;> simp

@[simp] theorem State.releaseAt_links (s : State) (c : Cur) (scope : Scope) : (s.releaseAt c scope).links = s.links := by
  unfold State.releaseAt
  split <;> simp

@[simp] theorem State.homeRead_links (s : State) (a : Acc) (n : Nat) (x : Place) : (s.homeRead a n x).1.links = s.links := by
  cases x with
  | sparse => rfl
  | leaf e pa =>
    simp only [State.homeRead]
    split <;> simp

@[simp] theorem State.homeWrite_links (s : State) (n x : Nat) (p : Place) : (s.homeWrite n x p).links = s.links := by
  cases p with
  | sparse => rfl
  | leaf e pa =>
    simp only [State.homeWrite]
    split <;> simp

@[simp] theorem State.rmwHome_links (s : State) (c : Cur) (n : Nat) (rel : Option Scope) (f : Nat → Option Nat) (x : Place) :
    (s.rmwHome c n rel f x).1.links = s.links := by
  simp only [State.rmwHome]
  split
  · simp
  · rw [State.homeWrite_links]
    split <;> simp

theorem State.giveLane_links {s t : State} {c : Cur} {a : Acc} {i : Instr} {d : HeldDst} {got : List (Nat × List Byte)} {lane : Nat}
    {f : Nat → Word} {x : List HeldAccess × List (Nat × List Byte)} (h : s.giveLane c a i d got lane f = .ok (t, x)) :
    t.links = s.links := by
  unfold State.giveLane at h
  dsimp only at h
  split at h
  · cases h
    simp
  · split at h
    · cases h
      simp
    · cases h
    · cases h
      simp

theorem State.perform_links {s t : State} {c : Cur} {i : Instr} {got : List (Nat × List Byte)} {h : HeldAccess}
    {x : List HeldAccess × List (Nat × List Byte)} (e : s.perform c i got h = .ok (t, x)) : t.links = s.links := by
  unfold State.perform at e
  dsimp only at e
  split at e
  · split at e
    · cases e
      rfl
    · cases e
      simp
  · cases e
    simp
  · have read := State.recordBytes_links s (clusterOf (c.wid / 64)) (s.retryAcc c got h) h.va
    split at e <;>
    · rename_i hr
      rw [hr] at read
      cases e
      exact read
  · rw [State.giveLane_links e]
    simp
  · cases e
    simp
  · split at e
    · cases e
      rfl
    · split at e
      · cases e
      · rw [State.giveLane_links e]
        split
        · rw [State.acquireAt_links]
          split <;> simp
        · split <;> simp

/-- A retry changes no link, where what it does at its end changes none. -/
theorem State.retry_links (s : State) (c : Cur) (i : Instr) (pc : Nat) (got : List (Nat × List Byte)) (h : HeldAccess)
    (k : State → List HeldAccess → List (Nat × List Byte) → State) (hk : ∀ t l got, (k t l got).links = t.links) :
    (s.retry c i pc got h k).links = s.links := by
  unfold State.retry
  dsimp only
  split
  · simp
  · rw [hk, State.holdAccesses_links]
  · split
    · simp
    · rw [hk]
      exact State.perform_links ‹_›

@[simp] theorem State.takeTrap_links (s : State) (c : Cur) (x : Cause) (after onInstr : Bool) :
    (s.takeTrap c x after onInstr).links = s.links := by
  unfold State.takeTrap
  dsimp only
  split
  · rfl
  · split
    · unfold State.endWithRecord
      dsimp only
      split
      · rfl
      · split <;> simp
    · split <;> simp

/-! ### Replies -/

@[simp] theorem State.panelReply_links (s : State) (c : Cur) (fail : Bool) (h : PanelHold) : (s.panelReply c fail h).links = s.links := by
  cases h with
  | result idx x h =>
    simp only [State.panelReply]
    split
    · simp
    · exact State.retry_links _ _ _ _ _ _ _ fun _ _ _ => rfl
  | access x h =>
    simp only [State.panelReply]
    split
    · simp
    · exact State.retry_links _ _ _ _ _ _ _ fun _ _ _ => rfl
  | wait x =>
    simp only [State.panelReply]
    split
    · split <;> simp
    · split <;> simp

theorem State.replyThread_links {s t : State} {p fid : Nat} {fail : Bool} (h : s.replyThread p fid fail = some t) :
    t.links = s.links := by
  obtain ⟨e, -, rfl⟩ := Option.map_eq_some_iff.mp h
  dsimp only
  split
  · rfl
  · split
    · split <;> simp
    · rfl

theorem State.replyPanel_links {s t : State} {p fid : Nat} {fail : Bool} (h : s.replyPanel p fid fail = some t) :
    t.links = s.links := by
  obtain ⟨e, -, he⟩ := List.exists_of_findSome?_eq_some h
  split at he
  · cases he
  · obtain ⟨x, -, rfl⟩ := Option.map_eq_some_iff.mp he
    simp

theorem State.replyNode_links {s t : State} {p fid : Nat} {fail : Bool} (h : s.replyNode p fid fail = some t) :
    t.links = s.links := by
  obtain ⟨e, -, rfl⟩ := Option.map_eq_some_iff.mp h
  dsimp only
  split
  · rfl
  · split
    · exact (State.nodeStep_links ‹_› :)
    · rfl

theorem State.replySpool_links {s t : State} {p fid : Nat} (h : s.replySpool p fid = some t) : t.links = s.links := by
  obtain ⟨e, -, rfl⟩ := Option.map_eq_some_iff.mp h
  simp

theorem State.replyLaunch_links {s t : State} {p fid : Nat} {fail : Bool} (h : s.replyLaunch p fid fail = some t) :
    t.links = s.links := by
  obtain ⟨e, -, rfl⟩ := Option.map_eq_some_iff.mp h
  dsimp only
  split
  · rw [State.settleLaunch_links, State.schedWrites_links]
    split <;> simp
  · split
    · rfl
    · split <;> simp

theorem State.replyQueue_links {s t : State} {p fid : Nat} {fail : Bool} (h : s.replyQueue p fid fail = some t) :
    t.links = s.links := by
  obtain ⟨e, -, rfl⟩ := Option.map_eq_some_iff.mp h
  dsimp only
  split <;> simp

theorem State.replySaved_links {s t : State} {p fid : Nat} {fail : Bool} (h : s.replySaved p fid fail = some t) :
    t.links = s.links := by
  obtain ⟨e, -, he⟩ := List.exists_of_findSome?_eq_some h
  split at he
  · split at he
    · cases he
      rfl
    · cases he
  · cases he

@[simp] theorem State.replyTo_links (s : State) (p fid : Nat) (fail : Bool) : (s.replyTo p fid fail).links = s.links := by
  have keeps : ∀ t, (s.replyThread p fid fail).or ((s.replyPanel p fid fail).or ((s.replyNode p fid fail).or
      ((s.replySpool p fid).or ((s.replyLaunch p fid fail).or ((s.replyQueue p fid fail).or (s.replySaved p fid fail)))))) = some t →
      t.links = s.links := by
    intro t h
    simp only [Option.or_eq_some_iff] at h
    obtain h | ⟨-, h | ⟨-, h | ⟨-, h | ⟨-, h | ⟨-, h | ⟨-, h⟩⟩⟩⟩⟩⟩ := h
    · exact State.replyThread_links h
    · exact State.replyPanel_links h
    · exact State.replyNode_links h
    · exact State.replySpool_links h
    · exact State.replyLaunch_links h
    · exact State.replyQueue_links h
    · exact State.replySaved_links h
  unfold State.replyTo
  generalize Option.or _ _ = o at keeps ⊢
  cases o with
  | none => rfl
  | some t => exact keeps t rfl

/-- A reply to a held fault changes no link. -/
theorem State.applyReply_links {s t : State} {p fid : Nat} {fail : Bool} (h : s.applyReply p fid fail = some t) :
    t.links = s.links := by
  unfold State.applyReply at h
  dsimp only at h
  split at h
  · cases h
    simp
  · cases h

end Sys2Proof.Machine
end

section
/-! SUPPORT. Device memory as it is written under a key slot (20 R390, R399, 07 R137): which bytes and which keys of lines change. -/

set_option Elab.async false
namespace Sys2Proof.Machine

/-- Under its own key a line reads as its bytes are. -/
theorem State.readKeyed_of_lineKey {s : State} {slot pa : Nat} (h : Sparse.get 0 s.lineKey (pa / 128) = s.keyTag slot) :
    s.readKeyed slot pa = Sparse.get 0 s.mem pa := if_pos (.inr h)

/-- A line rekeyed changes in its bytes and its key alone. -/
theorem State.rekeyLine_eq (s : State) (slot line : Nat) :
    s.rekeyLine slot line = { s with mem := (s.rekeyLine slot line).mem, lineKey := (s.rekeyLine slot line).lineKey } := by
  simp only [State.rekeyLine]
  split
  · rfl
  · split <;> rfl

theorem State.rekeyLine_lineKey (s : State) (slot line l : Nat) :
    Sparse.get 0 (s.rekeyLine slot line).lineKey l = if l = line then s.keyTag slot else Sparse.get 0 s.lineKey l := by
  simp only [State.rekeyLine]
  split
  · split <;> simp_all
  · split <;> simp [Sparse.get_set]

/-- A byte keeps its value where its line is not rekeyed: it is another line, or it has the key. -/
theorem State.rekeyLine_mem (s : State) (slot line j : Nat) (h : Sparse.get 0 s.lineKey (j / 128) = s.keyTag slot ∨ j / 128 ≠ line) :
    Sparse.get 0 (s.rekeyLine slot line).mem j = Sparse.get 0 s.mem j := by
  simp only [State.rekeyLine]
  split
  · rfl
  · split
    · rfl
    · have other : j / 128 ≠ line := by
        rintro rfl
        simp_all
      exact Sparse.get_setBytes_other _ _ _ _ (by simp; omega)

theorem State.writeKeyed_eq (s : State) (slot pa : Nat) (b : Byte) :
    s.writeKeyed slot pa b = { s with mem := (s.writeKeyed slot pa b).mem, lineKey := (s.writeKeyed slot pa b).lineKey } := by
  simp only [State.writeKeyed]
  rw [State.rekeyLine_eq]

theorem State.writeKeyed_keyTag (s : State) (slot pa : Nat) (b : Byte) (k : Nat) : (s.writeKeyed slot pa b).keyTag k = s.keyTag k := by
  rw [State.writeKeyed_eq]
  rfl

theorem State.writeKeyed_lineKey (s : State) (slot pa : Nat) (b : Byte) (l : Nat) :
    Sparse.get 0 (s.writeKeyed slot pa b).lineKey l = if l = pa / 128 then s.keyTag slot else Sparse.get 0 s.lineKey l :=
  State.rekeyLine_lineKey ..

theorem State.writeKeyed_mem_same (s : State) (slot pa : Nat) (b : Byte) : Sparse.get 0 (s.writeKeyed slot pa b).mem pa = b :=
  Sparse.get_set_same ..

theorem State.writeKeyed_mem_other (s : State) (slot pa : Nat) (b : Byte) (j : Nat) (hj : j ≠ pa)
    (h : Sparse.get 0 s.lineKey (j / 128) = s.keyTag slot ∨ j / 128 ≠ pa / 128) :
    Sparse.get 0 (s.writeKeyed slot pa b).mem j = Sparse.get 0 s.mem j :=
  (Sparse.get_set_other _ _ _ _ _ hj).trans (State.rekeyLine_mem _ _ _ _ h)

/-- A keyed write changes bytes of memory and keys of lines only. -/
theorem State.writeKeyedBytes_eq (slot : Nat) (bs : List Byte) (s : State) (pa : Nat) :
    s.writeKeyedBytes slot pa bs =
      { s with mem := (s.writeKeyedBytes slot pa bs).mem, lineKey := (s.writeKeyedBytes slot pa bs).lineKey } := by
  induction bs generalizing s pa with
  | nil => rfl
  | cons b bs ih =>
    rw [State.writeKeyedBytes, ih, State.writeKeyed_eq]

theorem State.writeKeyedBytes_keyTag (slot : Nat) (bs : List Byte) (s : State) (pa k : Nat) :
    (s.writeKeyedBytes slot pa bs).keyTag k = s.keyTag k := by
  rw [State.writeKeyedBytes_eq]
  rfl

/-- A line that has the slot's key keeps it. -/
theorem State.writeKeyedBytes_lineKey_kept (slot : Nat) (bs : List Byte) (s : State) (pa l : Nat)
    (h : Sparse.get 0 s.lineKey l = s.keyTag slot) : Sparse.get 0 (s.writeKeyedBytes slot pa bs).lineKey l = s.keyTag slot := by
  induction bs generalizing s pa with
  | nil => exact h
  | cons b bs ih =>
    rw [State.writeKeyedBytes, ih, State.writeKeyed_keyTag]
    rw [State.writeKeyed_lineKey, State.writeKeyed_keyTag, h, ite_self]

/-- Each line written has the slot's key. -/
theorem State.writeKeyedBytes_lineKey_same (slot : Nat) (bs : List Byte) (s : State) (pa k : Nat) (h : k < bs.length) :
    Sparse.get 0 (s.writeKeyedBytes slot pa bs).lineKey ((pa + k) / 128) = s.keyTag slot := by
  induction bs generalizing s pa k with
  | nil => simp at h
  | cons b bs ih =>
    rw [State.writeKeyedBytes, ← State.writeKeyed_keyTag s slot pa b slot]
    cases k with
    | zero =>
      exact State.writeKeyedBytes_lineKey_kept _ _ _ _ _ (by rw [State.writeKeyed_lineKey, State.writeKeyed_keyTag]; simp)
    | succ k =>
      rw [show pa + (k + 1) = pa + 1 + k by omega]
      exact ih _ _ _ (by simpa using h)

theorem State.writeKeyedBytes_lineKey_other (slot : Nat) (bs : List Byte) (s : State) (pa l : Nat)
    (h : ∀ k, k < bs.length → l ≠ (pa + k) / 128) :
    Sparse.get 0 (s.writeKeyedBytes slot pa bs).lineKey l = Sparse.get 0 s.lineKey l := by
  induction bs generalizing s pa with
  | nil => rfl
  | cons b bs ih =>
    rw [State.writeKeyedBytes, ih, State.writeKeyed_lineKey, if_neg (show l ≠ pa / 128 from h 0 (by simp))]
    intro k hk
    rw [show pa + 1 + k = pa + (k + 1) by omega]
    exact h _ (by simpa using hk)

/-- A byte that is not written keeps its value where its line has the slot's key, or none of the line is written. -/
theorem State.writeKeyedBytes_mem_other (slot : Nat) (bs : List Byte) (s : State) (pa j : Nat) (hj : j < pa ∨ pa + bs.length ≤ j)
    (h : Sparse.get 0 s.lineKey (j / 128) = s.keyTag slot ∨ ∀ k, k < bs.length → j / 128 ≠ (pa + k) / 128) :
    Sparse.get 0 (s.writeKeyedBytes slot pa bs).mem j = Sparse.get 0 s.mem j := by
  induction bs generalizing s pa with
  | nil => rfl
  | cons b bs ih =>
    simp only [List.length_cons] at hj h
    rw [State.writeKeyedBytes, ih _ _ (by omega)]
    · exact State.writeKeyed_mem_other _ _ _ _ _ (by omega) (h.imp_right fun h => h 0 (by omega))
    · rw [State.writeKeyed_lineKey, State.writeKeyed_keyTag]
      refine h.imp (fun h => by rw [h, ite_self]) fun h k hk => ?_
      rw [show pa + 1 + k = pa + (k + 1) by omega]
      exact h _ (by omega)

theorem State.writeKeyedBytes_mem_same (slot : Nat) (bs : List Byte) (s : State) (pa k : Nat) (h : k < bs.length) :
    Sparse.get 0 (s.writeKeyedBytes slot pa bs).mem (pa + k) = bs.getD k 0 := by
  induction bs generalizing s pa k with
  | nil => simp at h
  | cons b bs ih =>
    rw [State.writeKeyedBytes]
    cases k with
    | zero =>
      rw [State.writeKeyedBytes_mem_other _ _ _ _ _ (by omega) (.inl (by
        rw [State.writeKeyed_lineKey, State.writeKeyed_keyTag]; simp))]
      exact State.writeKeyed_mem_same ..
    | succ k =>
      rw [show pa + (k + 1) = pa + 1 + k by omega, ih _ _ _ (by simpa using h)]
      rfl

/-- What was written under a slot is read under it. -/
theorem State.writeKeyedBytes_readKeyedBytes (slot : Nat) (bs : List Byte) (s : State) (pa : Nat) :
    (s.writeKeyedBytes slot pa bs).readKeyedBytes slot pa bs.length = bs := by
  refine List.ext_getElem (by simp [State.readKeyedBytes]) fun k hk hk' => ?_
  have keyed := (State.writeKeyedBytes_lineKey_same slot bs s pa k hk').trans (State.writeKeyedBytes_keyTag slot bs s pa slot).symm
  rw [List.getElem_eq_getD (h := hk') 0, ← State.writeKeyedBytes_mem_same slot bs s pa k hk', ← State.readKeyed_of_lineKey keyed]
  simp [State.readKeyedBytes]

/-- Lines of which no byte is written read under the slot as they did. -/
theorem State.writeKeyedBytes_readKeyed_other (slot : Nat) (bs : List Byte) (s : State) (pa j : Nat)
    (h : ∀ k, k < bs.length → j / 128 ≠ (pa + k) / 128) :
    (s.writeKeyedBytes slot pa bs).readKeyed slot j = s.readKeyed slot j := by
  have byte : ∀ i, i / 128 = j / 128 → Sparse.get 0 (s.writeKeyedBytes slot pa bs).mem i = Sparse.get 0 s.mem i := by
    intro i hi
    refine State.writeKeyedBytes_mem_other _ _ _ _ _ ?_ (.inr (hi ▸ h))
    by_contra inside
    exact h (i - pa) (by omega) (by rw [← hi]; congr 1; omega)
  have bytes : Sparse.getBytes (s.writeKeyedBytes slot pa bs).mem (j / 16 * 16) 16 = Sparse.getBytes s.mem (j / 16 * 16) 16 :=
    List.map_congr_left fun i hi => byte _ (by have := List.mem_range.mp hi; omega)
  simp only [State.readKeyed, State.writeKeyedBytes_lineKey_other slot bs s pa _ h, State.writeKeyedBytes_keyTag, byte j rfl, bytes]

theorem foldl_clearPoison_eq (f : Nat → Prop) [DecidablePred f] (l : List Nat) (s : State) :
    ∃ p, l.foldl (fun s line => if f line then s.clearPoison line else s) s = { s with poison := p } := by
  induction l generalizing s with
  | nil => exact ⟨_, rfl⟩
  | cons x l ih =>
    obtain ⟨p, hp⟩ := ih (if f x then s.clearPoison x else s)
    refine ⟨p, hp.trans ?_⟩
    split <;> rfl

/-- A write of device memory is a keyed write that clears the poison of some lines. -/
theorem State.writeDevice_eq (s : State) (slot pa : Nat) (bs : List Byte) :
    ∃ p, s.writeDevice slot pa bs = { s.writeKeyedBytes slot pa bs with poison := p } :=
  foldl_clearPoison_eq (fun line => 128 * line + 128 ≤ pa + bs.length) _ _

theorem State.writeDevice_frame (s : State) (slot pa : Nat) (bs : List Byte) :
    let t := s.writeDevice slot pa bs
    t = { s with mem := t.mem, lineKey := t.lineKey, poison := t.poison } := by
  obtain ⟨p, hp⟩ := s.writeDevice_eq slot pa bs
  simp only [hp]
  rw [State.writeKeyedBytes_eq]

theorem State.writeDevice_mem (s : State) (slot pa : Nat) (bs : List Byte) :
    (s.writeDevice slot pa bs).mem = (s.writeKeyedBytes slot pa bs).mem := by
  obtain ⟨p, hp⟩ := s.writeDevice_eq slot pa bs
  rw [hp]

theorem State.writeDevice_readKeyed (s : State) (slot pa : Nat) (bs : List Byte) (k j : Nat) :
    (s.writeDevice slot pa bs).readKeyed k j = (s.writeKeyedBytes slot pa bs).readKeyed k j := by
  obtain ⟨p, hp⟩ := s.writeDevice_eq slot pa bs
  rw [hp]
  rfl

theorem State.writeDevice_readKeyedBytes (s : State) (slot pa : Nat) (bs : List Byte) :
    (s.writeDevice slot pa bs).readKeyedBytes slot pa bs.length = bs := by
  simpa only [State.readKeyedBytes, State.writeDevice_readKeyed] using State.writeKeyedBytes_readKeyedBytes slot bs s pa

end Sys2Proof.Machine
end

section
/-! SUPPORT. What a write of a register does, by block of BAR0 (00 R5, 17 R324). -/

set_option Elab.async false
namespace Sys2Proof.Machine

/-! ### Where the registers lie -/

theorem blockOf_queue {q o : Nat} (hq : q < 8192) (ho : o < 256) (h8 : o % 8 = 0) : blockOf (0x100000 + 256 * q + o) = .queue q o := by
  simp only [blockOf, ite_eq_iff, reduceCtorEq, and_false, false_or, or_false, Block.queue.injEq]
  omega

theorem blockOf_translation {p o : Nat} (hp : p < 8) (ho : o < 0x1000) (h8 : o % 8 = 0) :
    blockOf (0x400000 + 0x1000 * p + o) = .translation p o := by
  simp only [blockOf, ite_eq_iff, reduceCtorEq, and_false, false_or, or_false, Block.translation.injEq]
  omega

theorem blockOf_head {h o : Nat} (hh : h < 8) (ho : o < 0x10000) (h8 : o % 8 = 0) : blockOf (0x800000 + 0x10000 * h + o) = .head h o := by
  simp only [blockOf, ite_eq_iff, reduceCtorEq, and_false, false_or, or_false, Block.head.injEq]
  omega

theorem blockOf_config {p o : Nat} (hp : p < 8) (ho : o < 0x1000) (h8 : o % 8 = 0) : blockOf (0xC00000 + 0x1000 * p + o) = .config p o := by
  simp only [blockOf, ite_eq_iff, reduceCtorEq, and_false, false_or, or_false, Block.config.injEq]
  omega

theorem blockOf_debug {p o : Nat} (hp : p < 8) (ho : o < 0x1000) (h8 : o % 8 = 0) : blockOf (0x1F00000 + 0x1000 * p + o) = .debug p o := by
  unfold blockOf
  repeat rw [if_neg (by omega)]
  rw [if_pos (by omega)]
  congr 1 <;> omega

theorem blockOf_mailbox_iff {ofs o : Nat} :
    blockOf ofs = .mailbox o ↔ (0x1000 ≤ ofs ∧ ofs < 0x2000 ∧ ofs % 8 = 0) ∧ o = ofs - 0x1000 := by
  simp only [blockOf, ite_eq_iff, reduceCtorEq, and_false, false_or, or_false, Block.mailbox.injEq]
  omega

theorem mayWrite_iff {w : Writer} {p : Nat} : mayWrite w p = true ↔ w = .firmware ∨ w = .owner p := by simp [mayWrite]

theorem exec_registerWrite (who : Writer) (ofs : Nat) (v : DWord) (s : State) :
    exec (.registerWrite who ofs v) s = execRegisterWrite who ofs v s := rfl

/-! ### Writes by block, while the module is not locked -/

section
variable {s : State} (who : Writer) (v : DWord) (unlocked : s.locked = false)
include unlocked

theorem registerWrite_platform {o : Nat} (ho : o < 0x1000) (h8 : o % 8 = 0) :
    exec (.registerWrite who o v) s = .next (s.writePlatform who o v) := by
  have block : blockOf o = .platform o := by
    unfold blockOf
    rw [if_neg (by omega), if_pos ho]
  simp [exec_registerWrite, execRegisterWrite, unlocked, block]

theorem registerWrite_queue {q o : Nat} (hq : q < 8192) (ho : o < 256) (h8 : o % 8 = 0) :
    exec (.registerWrite who (0x100000 + 256 * q + o) v) s = s.writeQueueReg who q o v := by
  simp [exec_registerWrite, execRegisterWrite, unlocked, blockOf_queue hq ho h8]

theorem registerWrite_translation {p o : Nat} (hp : p < 8) (ho : o < 0x1000) (h8 : o % 8 = 0) :
    exec (.registerWrite who (0x400000 + 0x1000 * p + o) v) s = s.writeTranslation who p o v := by
  simp [exec_registerWrite, execRegisterWrite, unlocked, blockOf_translation hp ho h8]

theorem registerWrite_head {h o : Nat} (hh : h < 8) (ho : o < 0x10000) (h8 : o % 8 = 0) :
    exec (.registerWrite who (0x800000 + 0x10000 * h + o) v) s = s.writeHeadReg who h o v := by
  simp [exec_registerWrite, execRegisterWrite, unlocked, blockOf_head hh ho h8]

/-- The words of a partition's configuration take no write (R388). -/
theorem registerWrite_config {p o : Nat} (hp : p < 8) (ho : o < 0x800) (h8 : o % 8 = 0) :
    exec (.registerWrite who (0xC00000 + 0x1000 * p + o) v) s = .next s := by
  simp [exec_registerWrite, execRegisterWrite, unlocked, blockOf_config hp (show o < 0x1000 by omega) h8, ho]

theorem registerWrite_debug {p o : Nat} (hp : p < 8) (ho : o < 0x1000) (h8 : o % 8 = 0) :
    exec (.registerWrite who (0x1F00000 + 0x1000 * p + o) v) s = s.writeDebug who p o v := by
  simp [exec_registerWrite, execRegisterWrite, unlocked, blockOf_debug hp ho h8]

theorem registerWrite_none {ofs : Nat} (h : blockOf ofs = .none) : exec (.registerWrite who ofs v) s = .next s := by
  simp [exec_registerWrite, execRegisterWrite, unlocked, h]

end

/-- After a failure of stage 5 the platform's mailbox alone takes a write (R407). -/
theorem registerWrite_locked (who : Writer) (ofs : Nat) (v : DWord) {s : State} (locked : s.locked = true) :
    exec (.registerWrite who ofs v) s = .next (if 0x1000 ≤ ofs ∧ ofs < 0x2000 ∧ ofs % 8 = 0
      then s.writeMailbox who .platform (ofs - 0x1000) v else s) := by
  rw [exec_registerWrite, execRegisterWrite, if_pos locked]
  split
  · rename_i o block
    obtain ⟨place, ho⟩ := blockOf_mailbox_iff.mp block
    rw [if_pos place, ho]
  · rename_i other
    rw [if_neg fun place => other _ (blockOf_mailbox_iff.mpr ⟨place, rfl⟩)]

section
variable {s : State} (who : Writer) (v : DWord)

/-- A register of a queue takes no write from who may not write it (R325). -/
theorem State.writeQueueReg_denied {q o : Nat} (ho : o ≠ 8) (h : mayWrite who (s.queue q).part = false) :
    s.writeQueueReg who q o v = .next s := by
  simp [State.writeQueueReg, ho, h]

theorem State.writeQueueReg_qbase {q : Nat} (h : mayWrite who (s.queue q).part = true) :
    s.writeQueueReg who q 0 v =
      .next (if (s.queue q).en then s else s.setQueue q { s.queue q with qbase := baseBits 7 v }) := by
  simp [State.writeQueueReg, h]

theorem State.writeTranslation_denied {p o : Nat} (h : mayWrite who p = false) : s.writeTranslation who p o v = .next s := by
  simp [State.writeTranslation, h]

theorem State.writeDebug_denied {p o : Nat} (h : mayWrite who p = false) : s.writeDebug who p o v = .next s := by
  simp [State.writeDebug, h]

theorem State.writeHeadReg_denied {h o : Nat} (hw : mayWrite who (s.head h).part = false) : s.writeHeadReg who h o v = .next s := by
  simp [State.writeHeadReg, hw]

/-- While a head is not enabled its registers take what is written (R367), but for those that are written at any time. -/
theorem State.writeHeadReg_stopped {h o : Nat} (hw : mayWrite who (s.head h).part = true) (off : (s.head h).en = false) (h0 : o ≠ 0)
    (h38 : o ≠ 0x38) (h48 : o ≠ 0x48) : s.writeHeadReg who h o v = .next (s.setHead h ((s.head h).write o v)) := by
  simp [State.writeHeadReg, hw, off, h0]

theorem State.writeHeadReg_fdann {h : Nat} (hw : mayWrite who (s.head h).part = true) :
    s.writeHeadReg who h 0x38 v = .next (s.setHead h { s.head h with fdann := v.setWidth 32 }) := by
  simp [State.writeHeadReg, hw]

end

end Sys2Proof.Machine
end

section
set_option Elab.async false
namespace Sys2Proof
open Machine

/-- A write by one who may change the partition `p`, and the same by any other. -/
theorem write_eq_ite {p : Nat} {who : Writer} {s t : State} {o : Out} (granted : mayWrite who p = true → o = .next t)
    (denied : mayWrite who p = false → o = .next s) :
    o = .next (if who = .firmware ∨ who = .owner p then t else s) := by
  cases h : mayWrite who p with
  | true => rw [granted h, if_pos (mayWrite_iff.mp h)]
  | false => rw [denied h, if_neg (by simp [← mayWrite_iff, h])]

theorem claim_registerWrites : Claim.RegisterWrites := by
  refine ⟨fun who ofs v s locked => registerWrite_locked who ofs v locked, fun who v s unlocked =>
    ⟨?_, ?_, ?_, registerWrite_none who v unlocked rfl, fun q hq => ⟨fun may off => ?_, fun barred => ?_, ?_⟩, fun p hp => ?_,
      fun h hh => ?_⟩⟩
  · rw [registerWrite_platform who v unlocked (by decide) (by decide)]
    by_cases h : who = .platform <;> simp [State.writePlatform, h]
  · rw [registerWrite_platform who v unlocked (by decide) (by decide)]
    by_cases h : who = .platform <;> simp [State.writePlatform, h, clampCap, bits]
  · rw [registerWrite_platform who v unlocked (by decide) (by decide)]
    simp [State.writePlatform]
  · rw [← Nat.add_zero (0x100000 + _), registerWrite_queue who v unlocked hq (by decide) (by decide),
      State.writeQueueReg_qbase who v (mayWrite_iff.mpr may), if_neg (by rw [Queue.en, off]; decide)]
    rfl
  · rw [← Nat.add_zero (0x100000 + _), registerWrite_queue who v unlocked hq (by decide) (by decide)]
    cases hm : mayWrite who (s.queue q).part with
    | false => exact State.writeQueueReg_denied who v (by decide) hm
    | true =>
      have on := barred.resolve_left (not_not.mpr (mayWrite_iff.mp hm))
      rw [State.writeQueueReg_qbase who v hm, if_pos (show (s.queue q).en = true from on)]
  · rw [registerWrite_queue who v unlocked hq (by decide) (by decide)]
    rfl
  · intro x may put
    have atTranslation : ∀ {o : Nat} {y : Partition}, o < 0x1000 → o % 8 = 0 →
        (mayWrite who p = true → s.writeTranslation who p o v = .next (s.setPart p y)) → put (0x400000 + 0x1000 * p + o) y :=
      fun ho h8 h => (registerWrite_translation who v unlocked hp ho h8).trans (write_eq_ite h (State.writeTranslation_denied who v))
    have atDebug : ∀ {o : Nat} {y : Partition}, o < 0x1000 → o % 8 = 0 →
        (mayWrite who p = true → s.writeDebug who p o v = .next (s.setPart p y)) → put (0x1F00000 + 0x1000 * p + o) y :=
      fun ho h8 h => (registerWrite_debug who v unlocked hp ho h8).trans (write_eq_ite h (State.writeDebug_denied who v))
    refine ⟨atTranslation (by decide) (by decide) fun h => ?_, atTranslation (by decide) (by decide) fun h => ?_,
      atDebug (o := 0) (by decide) (by decide) fun h => ?_, atDebug (by decide) (by decide) fun h => ?_,
      atDebug (by decide) (by decide) fun h => ?_, atDebug (by decide) (by decide) fun h => ?_,
      atDebug (by decide) (by decide) fun h => ?_, atDebug (by decide) (by decide) fun h => ?_,
      registerWrite_config (o := 0) who v unlocked hp (by decide) (by decide)⟩
    · simp [State.writeTranslation, h, baseBits, x]
    · simp [State.writeTranslation, h, x]
    all_goals simp [State.writeDebug, h, baseBits, ringSize, x]
  · intro x may at'
    have reg : ∀ {o : Nat}, o < 0x10000 → o % 8 = 0 → at' o = s.writeHeadReg who h o v := registerWrite_head who v unlocked hh
    refine ⟨fun hm off => ⟨?_, ?_⟩, fun hm => ?_, fun hm => ⟨?_, ?_⟩⟩
    · rw [reg (by decide) (by decide), State.writeHeadReg_stopped who v (mayWrite_iff.mpr hm) off (by decide) (by decide) (by decide)]
      rfl
    · rw [reg (by decide) (by decide), State.writeHeadReg_stopped who v (mayWrite_iff.mpr hm) off (by decide) (by decide) (by decide)]
      rfl
    · exact (reg (by decide) (by decide)).trans (State.writeHeadReg_fdann who v (mayWrite_iff.mpr hm))
    all_goals
      exact (reg (by decide) (by decide)).trans (State.writeHeadReg_denied who v (Bool.eq_false_iff.mpr (mt mayWrite_iff.mp hm)))

end Sys2Proof
end

section
/-! SUPPORT. LINK commands, failing links and accesses from outside (20 R387, R399-R401). -/

set_option Elab.async false
namespace Sys2Proof.Machine

/-! ### Mailboxes -/

theorem State.mailbox_setMailbox {s t : State} {who : Writer} {m : Mailbox} (h : s.mailbox who = some m) (x : Mailbox) :
    (t.setMailbox who x).mailbox who = some x := by
  cases who with
  | platform => rfl
  | owner p =>
    by_cases hp : p < 8
    · simp [State.setMailbox, State.mailbox, hp]
    · simp [State.mailbox, hp] at h
  | firmware => cases h
  | other => cases h

@[simp] theorem State.setMailbox_links (s : State) (who : Writer) (m : Mailbox) : (s.setMailbox who m).links = s.links := by
  cases who <;> rfl

@[simp] theorem State.setMailbox_waves (s : State) (who : Writer) (m : Mailbox) : (s.setMailbox who m).waves = s.waves := by
  cases who <;> rfl

@[simp] theorem State.setMailbox_mem (s : State) (who : Writer) (m : Mailbox) : (s.setMailbox who m).mem = s.mem := by
  cases who <;> rfl

@[simp] theorem State.endMail_links (s : State) (who : Writer) (r : Nat) : (s.endMail who r).links = s.links := by
  unfold State.endMail
  split <;> simp

@[simp] theorem State.endMail_waves (s : State) (who : Writer) (r : Nat) : (s.endMail who r).waves = s.waves := by
  unfold State.endMail
  split <;> simp

@[simp] theorem State.endMail_mem (s : State) (who : Writer) (r : Nat) : (s.endMail who r).mem = s.mem := by
  unfold State.endMail
  split <;> simp

/-- A mailbox whose command has ended has none in progress. -/
theorem State.endMail_command (s : State) (who : Writer) (r : Nat) : (s.endMail who r).command who = none := by
  unfold State.endMail State.command
  split
  · rename_i h
    rw [h]
    rfl
  · rename_i m h
    rw [State.mailbox_setMailbox h]
    rfl

/-! ### LINK -/

theorem Sparse.find_put {α : Type} (l : List (Nat × α)) (k j : Nat) (x : α) :
    Sparse.find (Sparse.put l k x) j = if j = k then some x else Sparse.find l j := by
  split
  · subst j
    exact Sparse.find_put_same ..
  · exact Sparse.find_put_other _ _ _ _ ‹_›

/-- A port is out of reach of an owner whose heads it does not drive (R387). -/
theorem State.portAllowed_eq_false_iff {s : State} {who : Writer} {port : Nat} : s.portAllowed who port = false ↔
    ∃ p, who = .owner p ∧ ∀ h, Config.portHead port = some h → (s.head h.val).hctl.toNat / 2 ^ 18 % 8 ≠ p := by
  cases who with
  | owner p =>
    unfold State.portAllowed
    dsimp only
    split
    · rename_i h hh
      simp only [Writer.owner.injEq, exists_eq_left', hh, Option.some.injEq, forall_eq', beq_eq_false_iff_ne]
      rfl
    · rename_i hh
      simp [hh]
  | _ => simp [State.portAllowed]

section
variable {s : State} {who : Writer} {port : Nat}

theorem State.train_missing (h : 28 ≤ port) : s.train who port = .error 2 := if_pos h

theorem State.train_denied (h : port < 28) (denied : s.portAllowed who port = false) : s.train who port = .error 1 := by
  simp [State.train, show ¬ 28 ≤ port by omega, denied]

/-- The state in which training leaves a port (assumption 39). -/
def State.trained (s : State) : LinkState := if (Config.free s.freeCtr 0).getLsbD 0 then .up else .down

theorem State.trained_eq (s : State) : s.trained = .up ∨ s.trained = .down := by
  unfold State.trained
  split <;> simp

theorem State.train_allowed (h : port < 28) (allowed : s.portAllowed who port = true) :
    s.train who port = .ok { s.bumpFree with links := Sparse.put s.links port s.trained } := by
  simp [State.train, show ¬ 28 ≤ port by omega, allowed, State.trained]

theorem exec_linkTrain (h : s.command who = some (.linkTrain who port)) :
    exec (.linkTrain who port) s = mailDone who s ((s.train who port).map fun t =>
      if Sparse.find s.links port = some .failed then { t with links := s.links } else t) := if_pos h

theorem exec_linkRetrain (h : s.command who = some (.linkRetrain who port)) :
    exec (.linkRetrain who port) s = mailDone who s (s.train who port) := if_pos h

theorem exec_linkDisable (h : s.command who = some (.linkDisable who port)) :
    exec (.linkDisable who port) s = mailDone who s (if 28 ≤ port then .error 2
      else if s.portAllowed who port = false then .error 1
      else .ok { s with links := Sparse.put s.links port .down }) := if_pos h

end

/-- A LINK command answers its requester: RESULT 2 for a port that there is not, 1 for one out of reach; else it leaves the port as `x`,
and the other ports, the waves and memory as they were (R387). -/
def LinkAnswers (s : State) (who : Writer) (port : Nat) (i : Instr) (x : LinkState) : Prop :=
  (28 ≤ port → exec i s = .next (s.endMail who 2)) ∧
  (port < 28 → s.portAllowed who port = false → exec i s = .next (s.endMail who 1)) ∧
  (port < 28 → s.portAllowed who port = true → ∃ t, exec i s = .next t ∧
    t.command who = none ∧ t.waves = s.waves ∧ t.mem = s.mem ∧
    (∀ k, k ≠ port → Sparse.find t.links k = Sparse.find s.links k) ∧ Sparse.find t.links port = some x)

section
variable {s : State} {who : Writer} {port : Nat}

/-- A command that is carried out ends in its mailbox, and keeps what it has left of the links. -/
theorem mailDone_links {u : State} {x : LinkState} (hw : u.waves = s.waves) (hm : u.mem = s.mem)
    (hl : ∀ k, Sparse.find u.links k = if k = port then some x else Sparse.find s.links k) :
    ∃ t, mailDone who s (.ok u) = .next t ∧ t.command who = none ∧ t.waves = s.waves ∧ t.mem = s.mem ∧
      (∀ k, k ≠ port → Sparse.find t.links k = Sparse.find s.links k) ∧ Sparse.find t.links port = some x := by
  refine ⟨u.endMail who 0, rfl, State.endMail_command .., by simpa using hw, by simpa using hm, fun k hk => ?_, ?_⟩
  · rw [State.endMail_links, hl, if_neg hk]
  · rw [State.endMail_links, hl, if_pos rfl]

theorem linkRetrain_answers (h : s.command who = some (.linkRetrain who port)) :
    LinkAnswers s who port (.linkRetrain who port) s.trained := by
  unfold LinkAnswers
  rw [exec_linkRetrain h]
  refine ⟨fun h => ?_, fun h denied => ?_, fun h allowed => ?_⟩
  · rw [State.train_missing h]
    rfl
  · rw [State.train_denied h denied]
    rfl
  · rw [State.train_allowed h allowed]
    exact mailDone_links rfl rfl fun k => Sparse.find_put ..

/-- A link that has failed stays failed under the plain training (R400). -/
theorem linkTrain_answers (h : s.command who = some (.linkTrain who port)) :
    LinkAnswers s who port (.linkTrain who port) (if Sparse.find s.links port = some .failed then .failed else s.trained) := by
  unfold LinkAnswers
  rw [exec_linkTrain h]
  refine ⟨fun h => ?_, fun h denied => ?_, fun h allowed => ?_⟩
  · rw [State.train_missing h]
    rfl
  · rw [State.train_denied h denied]
    rfl
  · rw [State.train_allowed h allowed]
    refine mailDone_links ?_ ?_ fun k => ?_
    · split <;> rfl
    · split <;> rfl
    · split
      · split <;> simp [*]
      · exact Sparse.find_put ..

theorem linkDisable_answers (h : s.command who = some (.linkDisable who port)) :
    LinkAnswers s who port (.linkDisable who port) .down := by
  unfold LinkAnswers
  rw [exec_linkDisable h]
  refine ⟨fun h => ?_, fun h denied => ?_, fun h allowed => ?_⟩
  · rw [if_pos h]
    rfl
  · rw [if_neg (by omega), if_pos denied]
    rfl
  · rw [if_neg (by omega), if_neg (by simp [allowed])]
    exact mailDone_links rfl rfl fun k => Sparse.find_put ..

end

/-! ### Failing links -/

/-- A link that fails is failed, whatever ends behind it (R400). -/
theorem linkFailure_links {port : Nat} (s : State) (h : port < 28) (hd : Config.portHead port = none) :
    ∃ t, exec (.ualinkLinkFailure port) s = .next t ∧ t.links = Sparse.put s.links port .failed ∧
      (s.pendingBehind port = [] → s.heldBehind port = [] → t = { s with links := t.links }) := by
  have run : exec (.ualinkLinkFailure port) s = .next ((s.heldBehind port).foldl (fun s e => (s.applyReply e.1 e.2 true).getD s)
      ((s.pendingBehind port).foldl (fun s gid => s.endGang gid 0x11) { s with links := Sparse.put s.links port .failed })) :=
    if_neg (by simp [hd, h])
  refine ⟨_, run, ?_, fun hp hh => by rw [hp, hh]; rfl⟩
  rw [foldl_links _ fun s e => ?_, foldl_links _ fun s gid => State.endGang_links ..]
  cases hr : s.applyReply e.1 e.2 true with
  | none => rfl
  | some t => exact State.applyReply_links hr

/-! ### Remote accesses -/

theorem State.uetUp_iff {s : State} : s.uetUp = true ↔ ∃ k, k < 4 ∧ Sparse.find s.links (Config.uetPort k).val = some .up := by
  simp [State.uetUp]

section
variable {s : State} {asn va : Nat} {data : List Byte} {write : Bool}

theorem exec_uetRemoteAccess : exec (.uetRemoteAccess asn va data write) s = execUetRemoteAccess asn va data write s := rfl

theorem uetRemoteAccess_closed (h : s.locked = true ∨ s.uetUp = false) : exec (.uetRemoteAccess asn va data write) s = .next s :=
  if_pos (by simpa using h)

theorem uetRemoteAccess_unregistered (unlocked : s.locked = false) (up : s.uetUp = true)
    (h : Config.uetRegion s.freeCtr asn va data.length = none) :
    exec (.uetRemoteAccess asn va data write) s = .next s.bumpFree := by
  simp [exec_uetRemoteAccess, execUetRemoteAccess, unlocked, up, h]

theorem uetRemoteAccess_write {p : BitVec 3} (unlocked : s.locked = false) (up : s.uetUp = true)
    (h : Config.uetRegion s.freeCtr asn va data.length = some p) :
    exec (.uetRemoteAccess asn va data true) s =
      .next ((s.bumpFree.agentWrite (s.bumpFree.remoteAcc p.toNat asn) va data).toOption.getD s.bumpFree) := by
  simp only [exec_uetRemoteAccess, execUetRemoteAccess, unlocked, up, h]
  cases s.bumpFree.agentWrite (s.bumpFree.remoteAcc p.toNat asn) va data <;> rfl

theorem uetRemoteAccess_read {p : BitVec 3} (unlocked : s.locked = false) (up : s.uetUp = true)
    (h : Config.uetRegion s.freeCtr asn va data.length = some p) :
    exec (.uetRemoteAccess asn va data false) s =
      .next (((s.bumpFree.agentRead (s.bumpFree.remoteAcc p.toNat asn) va data.length).map (·.1)).toOption.getD s.bumpFree) := by
  simp only [exec_uetRemoteAccess, execUetRemoteAccess, unlocked, up, h]
  cases s.bumpFree.agentRead (s.bumpFree.remoteAcc p.toNat asn) va data.length <;> rfl

end

/-! ### The host's window and UALink peers -/

theorem hostWindowAccess_closed {s : State} {ofs : Nat} {data : List Byte} {write : Bool}
    (h : s.locked = true ∨ 2 ^ 34 < ofs + data.length) : exec (.hostWindowAccess ofs data write) s = .next s :=
  if_pos h.symm

theorem hostWindowAccess_open {s : State} {ofs : Nat} {data : List Byte} {write : Bool} (unlocked : s.locked = false)
    (h : ofs + data.length ≤ 2 ^ 34) : exec (.hostWindowAccess ofs data write) s = .next
      (if write = true ∧ s.regs.winctl.getLsbD 16 = true then s.writeDevice s.windowKey (s.windowBase + ofs) data else s) :=
  if_neg (by simp [unlocked]; omega)

theorem ualinkPeerAccess_closed {s : State} {port pa : Nat} {data : List Byte} {write : Bool}
    (h : s.locked = true ∨ Sparse.find s.links port ≠ some .up ∨ memorySize < pa + data.length) :
    exec (.ualinkPeerAccess port pa data write) s = .next s :=
  if_pos (by tauto)

theorem ualinkPeerAccess_open {s : State} {port pa : Nat} {data : List Byte} {write : Bool} (unlocked : s.locked = false)
    (up : Sparse.find s.links port = some .up) (h : pa + data.length ≤ memorySize) :
    exec (.ualinkPeerAccess port pa data write) s = .next
      (if write then s.writeDevice (Config.peerKey port pa).toNat pa data else s) :=
  if_neg (by simp [unlocked, up, h])

end Sys2Proof.Machine
end

section
set_option Elab.async false
namespace Sys2Proof
open Machine

theorem claim_outsideAccesses : Claim.OutsideAccesses := by
  refine ⟨fun ofs data write s h => hostWindowAccess_closed h, fun ofs data write s unlocked fits => ?_,
    fun port pa data write s => ⟨?_, ?_⟩⟩
  · intro on slot pa
    have base : s.windowBase + ofs = pa := by simp [State.windowBase, bits, pa]
    refine ⟨fun h => ?_, fun hw hon => ⟨s.writeDevice slot pa data, ?_, State.writeDevice_frame .., fun k hk => ?_, fun b _ hb => ?_,
      State.writeDevice_readKeyedBytes ..⟩⟩
    · rw [hostWindowAccess_open unlocked fits, if_neg]
      rintro ⟨hw, hon⟩
      obtain h | h := h
      · simp [h] at hw
      · exact absurd (h.symm.trans hon) (by decide)
    · rw [hostWindowAccess_open unlocked fits, if_pos ⟨hw, hon⟩, base]
      rfl
    · rw [State.writeDevice_mem]
      exact State.writeKeyedBytes_mem_same _ _ _ _ _ hk
    · rw [State.writeDevice_readKeyed]
      exact State.writeKeyedBytes_readKeyed_other _ _ _ _ _ hb
  · intro h
    by_cases closed : s.locked = true ∨ Sparse.find s.links port ≠ some .up ∨ memorySize < pa + data.length
    · exact ualinkPeerAccess_closed closed
    · simp only [not_or, Bool.not_eq_true, not_not, Nat.not_lt] at closed
      obtain ⟨unlocked, up, fits⟩ := closed
      have read : write = false := by simpa [unlocked, up, Nat.not_lt.mpr fits] using h
      rw [ualinkPeerAccess_open unlocked up fits, read]
      rfl
  · intro unlocked up fits hw
    refine ⟨_, ualinkPeerAccess_open unlocked up fits, ?_⟩
    rw [if_pos hw]
    exact ⟨State.writeDevice_frame .., State.writeDevice_readKeyedBytes ..⟩

theorem claim_links : Claim.Links := by
  refine ⟨fun who port s => ?_, fun port s h hd => ?_,
    fun asn va data write s => ⟨fun h => ?_, fun unlocked up => ⟨fun h => ?_, fun p h => ?_⟩⟩⟩
  · intro other i hi hc
    obtain ⟨x, ⟨missing, denied, done⟩, disabled, failed, trained⟩ : ∃ x, LinkAnswers s who port i x ∧
        (i = .linkDisable who port → x = .down) ∧
        (i = .linkTrain who port → Sparse.find s.links port = some .failed → x = .failed) ∧
        (i ≠ .linkTrain who port ∨ Sparse.find s.links port ≠ some .failed → x = .up ∨ x = .down) := by
      simp only [List.mem_cons, List.not_mem_nil, or_false] at hi
      obtain rfl | rfl | rfl := hi
      · refine ⟨_, linkTrain_answers hc, nofun, fun _ h => if_pos h, fun h => ?_⟩
        rw [if_neg (h.resolve_left (not_not.mpr rfl))]
        exact s.trained_eq
      · exact ⟨_, linkRetrain_answers hc, nofun, nofun, fun _ => s.trained_eq⟩
      · exact ⟨_, linkDisable_answers hc, fun _ => rfl, nofun, fun _ => .inr rfl⟩
    refine ⟨missing, fun h ho => denied h (State.portAllowed_eq_false_iff.mpr ho), fun h ho => ?_⟩
    obtain ⟨t, run, ended, waves, mem, others, this⟩ := done h (by simpa using mt State.portAllowed_eq_false_iff.mp ho)
    exact ⟨t, run, ended, waves, mem, others, this ▸ fun h => congrArg some (disabled h),
      this ▸ fun h hf => congrArg some (failed h hf), this ▸ fun h => (trained h).imp (congrArg some) (congrArg some)⟩
  · obtain ⟨t, run, links, same⟩ := linkFailure_links s h hd
    refine ⟨t, run, by rw [links, Sparse.find_put_same], fun hp hh => ⟨same hp hh, fun k hk => ?_⟩⟩
    rw [links, Sparse.find_put_other _ _ _ _ hk]
  · exact uetRemoteAccess_closed (h.imp_right fun h => Bool.eq_false_iff.mpr (mt State.uetUp_iff.mp h))
  · exact uetRemoteAccess_unregistered unlocked (State.uetUp_iff.mpr up) h
  · have up := State.uetUp_iff.mpr up
    intro u a
    refine ⟨?_, ?_, ?_, ?_⟩
    · rintro rfl t (answer : s.bumpFree.agentWrite (s.bumpFree.remoteAcc p.toNat asn) va data = .ok t)
      rw [uetRemoteAccess_write unlocked up h, answer]
      rfl
    · rintro rfl v (answer : s.bumpFree.agentWrite (s.bumpFree.remoteAcc p.toNat asn) va data = .error v)
      rw [uetRemoteAccess_write unlocked up h, answer]
      rfl
    · rintro rfl t bs (answer : s.bumpFree.agentRead (s.bumpFree.remoteAcc p.toNat asn) va data.length = .ok (t, bs))
      rw [uetRemoteAccess_read unlocked up h, answer]
      rfl
    · rintro rfl v (answer : s.bumpFree.agentRead (s.bumpFree.remoteAcc p.toNat asn) va data.length = .error v)
      rw [uetRemoteAccess_read unlocked up h, answer]
      rfl

/-- Settles O55. The three claims: register writes by block of BAR0; accesses from outside as keyed writes of device memory; and links,
where no gang that ends and no reply that comes after a failure changes the state of a link. -/
theorem outsideWorld : Obligations.OutsideWorld :=
  ⟨claim_registerWrites, claim_outsideAccesses, claim_links⟩

end Sys2Proof
end

section
/-! SUPPORT. What the end of a gang leaves alone (20 R391, 18 R353): accesses to memory change what memory, L1s and TLBs hold and nothing
else; closing ports, making the scheduler's writes and recording faults change no key, no owner of a display core, no configuration of a
partition, and no word that enables a queue or a head. -/

set_option Elab.async false
namespace Sys2Proof.Machine

theorem foldl_keeps {α β : Type} (g : State → β) {f : State → α → State} (hf : ∀ s a, g (f s a) = g s) (l : List α) (s : State) :
    g (l.foldl f s) = g s := by
  induction l generalizing s with
  | nil => rfl
  | cons a l ih => exact (ih _).trans (hf s a)

/-! ### Accesses to memory -/

/-- The machine but for what its memory, L1s and TLBs hold, and the counter of open values that reads of a peer use up. -/
def State.bare (s : State) : State := { s with mem := [], lineKey := [], poison := [], l1 := [], tlb := [], freeCtr := 0 }

@[simp] theorem State.bumpFree_bare (s : State) : s.bumpFree.bare = s.bare := rfl

@[simp] theorem State.clearPoison_bare (s : State) (line : Nat) : (s.clearPoison line).bare = s.bare := rfl

@[simp] theorem State.setL1At_bare (s : State) (ix : Nat) (x : L1Line) : (s.setL1At ix x).bare = s.bare := rfl

@[simp] theorem State.writeKeyed_bare (s : State) (slot pa : Nat) (b : Byte) : (s.writeKeyed slot pa b).bare = s.bare := by
  rw [State.writeKeyed_eq]
  rfl

@[simp] theorem State.cacheIn_bare (s : State) (a : Acc) (va : Nat) (x : DWord × Nat) (unit : Nat) :
    (s.cacheIn a va x unit).bare = s.bare := by
  unfold State.cacheIn
  split <;> rfl

@[simp] theorem State.cacheLeaf_bare (s : State) (a : Acc) (va : Nat) : (s.cacheLeaf a va).bare = s.bare := by
  unfold State.cacheLeaf
  split
  · rfl
  · split <;> simp

@[simp] theorem State.cacheLeaves_bare (a : Acc) (vas : List Nat) (s : State) : (s.cacheLeaves a vas).bare = s.bare := by
  induction vas generalizing s with
  | nil => rfl
  | cons va vas ih => simp [State.cacheLeaves, ih]

@[simp] theorem State.writeBackLine_bare (s : State) (ix : Nat) : (s.writeBackLine ix).bare = s.bare := by
  have sent : ∀ (x : L1Line) (t : State), ((List.range 128).foldl (fun s i =>
      if x.written.getLsbD i then s.writeKeyed (ixKey ix) (128 * ixLine ix + i) (x.data.getD i 0) else s) t).bare = t.bare :=
    fun x => foldl_keeps State.bare (fun s i => by split <;> simp) _
  simp only [State.writeBackLine, State.setL1At_bare]
  split
  · rw [State.clearPoison_bare, sent]
  · exact sent _ _

@[simp] theorem State.makeRoom_bare (s : State) (core ix : Nat) : (s.makeRoom core ix).bare = s.bare := by
  simp only [State.makeRoom]
  split
  · rfl
  · split <;> simp

@[simp] theorem State.giveUp_bare (s : State) (ix : Nat) : (s.giveUp ix).bare = s.bare := by simp [State.giveUp]

@[simp] theorem State.soleLine_bare (s : State) (ix : Nat) : (s.soleLine ix).bare = s.bare :=
  foldl_keeps State.bare State.giveUp_bare _ _

@[simp] theorem State.renewLine_bare (s : State) (gen ix : Nat) : (s.renewLine gen ix).bare = s.bare := by
  simp only [State.renewLine]
  split <;> simp

@[simp] theorem State.touchL1_bare (s : State) (core gen evp ix i : Nat) : (s.touchL1 core gen evp ix i).bare = s.bare := by
  simp only [State.touchL1]
  split <;> simp [State.fillLine]

@[simp] theorem State.storeL1_bare (s : State) (core gen evp ix i : Nat) (b : Byte) :
    (s.storeL1 core gen evp ix i b).bare = s.bare := by
  simp [State.storeL1]

@[simp] theorem State.releaseL1_bare (s : State) (core : Nat) : (s.releaseL1 core).bare = s.bare :=
  foldl_keeps State.bare State.writeBackLine_bare _ _

@[simp] theorem State.bypass_bare (s : State) (a : Acc) (key line : Nat) : (s.bypass a key line).bare = s.bare := by
  unfold State.bypass
  split
  · rfl
  · exact foldl_keeps State.bare State.giveUp_bare _ _

@[simp] theorem State.touchPlaces_bare (a : Acc) (ps : List Place) (s : State) : (s.touchPlaces a ps).bare = s.bare := by
  induction ps generalizing s with
  | nil => rfl
  | cons x xs ih =>
    rw [State.touchPlaces, ih]
    split <;> simp

@[simp] theorem State.readPlace_bare (s : State) (a : Acc) (x : Place) : (s.readPlace a x).1.bare = s.bare := by
  cases x with
  | sparse => rfl
  | leaf e pa =>
    simp only [State.readPlace]
    split
    · rfl
    · split <;> simp

@[simp] theorem State.readEach_bare (a : Acc) (ps : List Place) (s : State) : (s.readEach a ps).1.bare = s.bare := by
  induction ps generalizing s with
  | nil => rfl
  | cons x xs ih => simp [State.readEach, ih]

@[simp] theorem State.writePlace_bare (s : State) (a : Acc) (b : Byte) (x : Place) : (s.writePlace a b x).bare = s.bare := by
  cases x with
  | sparse => rfl
  | leaf e pa =>
    simp only [State.writePlace]
    split
    · rfl
    · split
      · split <;> simp
      · simp

@[simp] theorem State.writePlaces_bare (a : Acc) (ps : List Place) (bs : List Byte) (s : State) :
    (s.writePlaces a ps bs).bare = s.bare := by
  induction ps generalizing bs s with
  | nil => cases bs <;> rfl
  | cons x xs ih =>
    cases bs with
    | nil => rfl
    | cons b bs => simp [State.writePlaces, ih]

/-- A read changes what memory, L1s and TLBs hold alone. -/
@[simp] theorem State.readVa_bare (s : State) (a : Acc) (va n : Nat) : (s.readVa a va n).1.bare = s.bare := by
  simp only [State.readVa]
  split
  · rfl
  · split
    · rfl
    · split <;> simp [State.readPlaces]

theorem State.bare_of_readVa {s t : State} {a : Acc} {va n : Nat} {r : Except XFail (List Byte)} (h : s.readVa a va n = (t, r)) :
    t.bare = s.bare := by
  rw [← State.readVa_bare s a va n, h]

/-- So does a write. -/
theorem State.bare_of_writeVa {s t : State} {a : Acc} {va : Nat} {bs : List Byte} (h : s.writeVa a va bs = .ok t) :
    t.bare = s.bare := by
  simp only [State.writeVa] at h
  split at h
  · cases h
  · split at h
    · cases h
    · cases h
      rw [State.clearCovered, foldl_keeps State.bare State.clearPoison_bare]
      simp

theorem State.regs_of_bare {s t : State} (h : t.bare = s.bare) : t.regs = s.regs :=
  (congrArg State.regs h : t.bare.regs = s.bare.regs)

/-! ### What stands while gangs end -/

/-- What PART_SET gives a partition, and what its mailbox and its image log hold (R387, R388, R395). -/
structure Grant where
  en : Bool
  clus : BitVec 8
  kfirst : Nat
  kcnt : Nat
  gbase : Nat
  gsize : Nat
  mbox : Mailbox
  imageLog : List Byte

def Partition.grant (x : Partition) : Grant :=
  { en := x.en, clus := x.clus, kfirst := x.kfirst, kcnt := x.kcnt, gbase := x.gbase, gsize := x.gsize, mbox := x.mbox,
    imageLog := x.imageLog }

/-- What no work inside the module changes: keys, owners of display cores, grants, QCFG and HCTL. -/
structure Standing where
  keys : List (Nat × Nat)
  owners : List (Nat × Nat)
  grant : Nat → Grant
  qcfg : Nat → DWord
  hctl : Nat → DWord

def State.standing (s : State) : Standing :=
  { keys := s.keys, owners := s.owners, grant := fun p => (s.part p).grant, qcfg := fun q => (s.queue q).qcfg
    hctl := fun h => (s.head h).hctl }

theorem State.standing_of_bare {s t : State} (h : t.bare = s.bare) : t.standing = s.standing :=
  (congrArg State.standing h : t.bare.standing = s.bare.standing)

/-- A write of a partition's registers that keeps its grant. -/
theorem State.setPart_standing {s : State} {p : Nat} {x : Partition} (hx : x.grant = (s.part p).grant := by rfl) :
    (s.setPart p x).standing = s.standing := by
  have grant : ∀ q, ((s.setPart p x).part q).grant = (s.part q).grant := by
    intro q
    by_cases hq : q = p
    · subst q
      rw [State.part_setPart, hx]
    · rw [State.part_setPart_other _ _ _ _ hq]
  exact congrArg (fun g => { s.standing with grant := g }) (funext grant)

theorem State.setQueue_standing {s : State} {q : Nat} {x : Queue} (hx : x.qcfg = (s.queue q).qcfg := by rfl) :
    (s.setQueue q x).standing = s.standing := by
  have qcfg : ∀ r, ((s.setQueue q x).queue r).qcfg = (s.queue r).qcfg := by
    intro r
    by_cases hr : r = q
    · subst r
      rw [State.queue_setQueue, hx]
    · rw [State.queue_setQueue_other _ _ _ _ hr]
  exact congrArg (fun g => { s.standing with qcfg := g }) (funext qcfg)

theorem State.setHead_standing {s : State} {h : Nat} {x : Head} (hx : x.hctl = (s.head h).hctl := by rfl) :
    (s.setHead h x).standing = s.standing := by
  have hctl : ∀ k, ((s.setHead h x).head k).hctl = (s.head k).hctl := by
    intro k
    by_cases hk : k = h
    · subst k
      rw [State.head_setHead, hx]
    · rw [State.head_setHead_other _ _ _ _ hk]
  exact congrArg (fun g => { s.standing with hctl := g }) (funext hctl)

@[simp] theorem State.setWave_standing (s : State) (k : Nat) (x : Wave) : (s.setWave k x).standing = s.standing := rfl
@[simp] theorem State.putWg_standing (s : State) (k : Nat) (x : Workgroup) : (s.putWg k x).standing = s.standing := rfl
@[simp] theorem State.putGang_standing (s : State) (k : Nat) (x : Gang) : (s.putGang k x).standing = s.standing := rfl
@[simp] theorem State.putLaunch_standing (s : State) (k : Nat) (x : Launch) : (s.putLaunch k x).standing = s.standing := rfl
@[simp] theorem State.putUnit_standing (s : State) (k : Nat) (x : SpoolUnit) : (s.putUnit k x).standing = s.standing := rfl

@[simp] theorem State.releaseL1_standing (s : State) (core : Nat) : (s.releaseL1 core).standing = s.standing :=
  State.standing_of_bare (State.releaseL1_bare ..)

theorem State.standing_of_writeVa {s t : State} {a : Acc} {va : Nat} {bs : List Byte} (h : s.writeVa a va bs = .ok t) :
    t.standing = s.standing := State.standing_of_bare (State.bare_of_writeVa h)

theorem State.standing_of_readVa {s t : State} {a : Acc} {va n : Nat} {r : Except XFail (List Byte)} (h : s.readVa a va n = (t, r)) :
    t.standing = s.standing := State.standing_of_bare (State.bare_of_readVa h)

/-! ### Rings and fault records -/

@[simp] theorem State.flushRing_standing (p : Nat) (rs : List FaultRec) (s : State) : (s.flushRing p rs).standing = s.standing := by
  induction rs generalizing s with
  | nil => exact State.setPart_standing
  | cons r rs ih =>
    simp only [State.flushRing]
    split
    · exact State.setPart_standing
    · split
      · exact State.setPart_standing
      · exact (ih _).trans (.trans State.setPart_standing (State.standing_of_writeVa ‹_›))

@[simp] theorem State.recordFault_standing (s : State) (p : Nat) (r : FaultRec) : (s.recordFault p r).1.standing = s.standing := by
  simp only [State.recordFault, State.retryRing, State.flushRing_standing]
  exact State.setPart_standing

@[simp] theorem State.writeRing_standing (p base size n : Nat) (head : Nat) (bs : List Byte) (s : State) :
    (s.writeRing p base size head bs n).standing = s.standing := by
  induction n generalizing s head bs with
  | zero => rfl
  | succ n ih =>
    rw [State.writeRing, ih]
    split
    · exact State.standing_of_writeVa ‹_›
    · rfl

@[simp] theorem State.traceAppend_standing (s : State) (p type rsn die : Nat) (body : List Byte) (len : Nat) :
    (s.traceAppend p type rsn die body len).standing = s.standing := by
  simp only [State.traceAppend]
  split
  · exact State.setPart_standing
  · exact Eq.trans State.setPart_standing (State.writeRing_standing ..)

@[simp] theorem State.traceRecord_standing (s : State) (p type rsn die : Nat) (body : List Byte) (len : Nat) :
    (s.traceRecord p type rsn die body len).standing = s.standing := by
  have filled : ∀ t : State, (t.setPart p { t.part p with gap := (t.part p).gap / 2 * 2 }).standing = t.standing :=
    fun _ => State.setPart_standing
  simp only [State.traceRecord]
  split
  · rfl
  · split
    · split
      · exact State.traceAppend_standing ..
      · rw [State.traceAppend_standing, filled, State.traceAppend_standing]
    · exact State.traceAppend_standing ..

/-! ### Spools -/

@[simp] theorem State.writeSpool_standing (s : State) (u : SpoolUnit) (k : Nat) (bs : List Byte) :
    (s.writeSpool u k bs).standing = s.standing := by
  unfold State.writeSpool
  split
  · rfl
  · split
    · exact State.standing_of_writeVa ‹_›
    · rfl

@[simp] theorem State.settleSpool_standing (s : State) (k : Nat) : (s.settleSpool k).standing = s.standing := by
  unfold State.settleSpool
  split
  · rfl
  · split <;> simp [State.putSpool]

@[simp] theorem State.noteSpool_standing (s : State) (k : Nat) (e : Bool × Bool) : (s.noteSpool k e).standing = s.standing := by
  unfold State.noteSpool
  split <;> simp

@[simp] theorem State.closeSpool_standing (s : State) (k : Nat) (fault : Bool) : (s.closeSpool k fault).standing = s.standing :=
  foldl_keeps State.standing (fun _ _ => State.noteSpool_standing ..) _ _

@[simp] theorem State.closePorts_standing (s : State) (k : Nat) (fault : Bool) : (s.closePorts k fault).standing = s.standing := by
  unfold State.closePorts
  split
  · rfl
  · refine foldl_keeps State.standing (fun s e => ?_) _ _
    split
    · split <;> simp
    · rfl

/-! ### Launches -/

theorem State.standing_of_writeErrorWord {s t : State} {a : Acc} {addr code : Nat} (h : s.writeErrorWord a addr code = .ok t) :
    t.standing = s.standing := by
  unfold State.writeErrorWord at h
  split at h
  · cases h
  · have read := State.standing_of_readVa ‹_›
    split at h
    · exact (State.standing_of_writeVa h).trans read
    · cases h
      exact read

theorem State.standing_of_schedWrite {s t : State} {l : Launch} {a : Acc} {w : SchedWrite} (h : s.schedWrite l a w = .ok t) :
    t.standing = s.standing := by
  cases w with
  | status addr => exact State.standing_of_writeVa h
  | word addr bs => exact State.standing_of_writeVa h
  | setBit addr k =>
    simp only [State.schedWrite] at h
    split at h
    · cases h
    · exact (State.standing_of_writeVa h).trans (State.standing_of_readVa ‹_›)
  | error addr code => exact State.standing_of_writeErrorWord h
  | errorAgain addr => exact State.standing_of_writeErrorWord h

@[simp] theorem State.schedWrites_standing (lid : Nat) (l : Launch) (ws : List SchedWrite) (s : State) :
    (s.schedWrites lid l ws).standing = s.standing := by
  induction ws generalizing s with
  | nil => rfl
  | cons w ws ih =>
    rw [State.schedWrites]
    split
    · exact (ih _).trans (State.standing_of_schedWrite ‹_›)
    · simp

@[simp] theorem State.addWrites_standing (s : State) (lid : Nat) (ws : List SchedWrite) : (s.addWrites lid ws).standing = s.standing := by
  unfold State.addWrites
  split
  · rfl
  · split <;> simp

@[simp] theorem State.packetDone_standing (s : State) (q code : Nat) : (s.packetDone q code).standing = s.standing :=
  State.setQueue_standing

@[simp] theorem State.settleTop_standing (s : State) (lid : Nat) : (s.settleTop lid).standing = s.standing := by
  have signalled : ∀ l : Launch, (if l.signalled then s else
      (s.putLaunch lid { l with signalled := true }).addWrites lid (signalWrites l)).standing = s.standing := by
    intro l
    split <;> simp
  simp only [State.settleTop]
  split
  · rfl
  · split
    · rfl
    · split
      · exact signalled _
      · split
        · exact (State.packetDone_standing ..).trans (signalled _)
        · exact signalled _

@[simp] theorem State.nodeRetired_standing (s : State) (pat : Nat) : (s.nodeRetired pat).standing = s.standing := by
  unfold State.nodeRetired
  split <;> simp

@[simp] theorem State.settleLaunch_standing (s : State) (lid : Nat) : (s.settleLaunch lid).standing = s.standing := by
  unfold State.settleLaunch
  split
  · rfl
  · split
    · rfl
    · split
      · simp
      · simp
      · split <;> simp
      · simp

@[simp] theorem State.publish_standing (s : State) (lid h b frame : Nat) : (s.publish lid h b frame).standing = s.standing := by
  simp only [State.publish]
  split
  · split
    · exact State.setHead_standing
    · rfl
  · split
    · exact State.setHead_standing
    · rfl

@[simp] theorem State.gangDone_standing (s : State) (lid : Nat) (err : Option Nat) (final : List SchedWrite) :
    (s.gangDone lid err final).standing = s.standing := by
  simp only [State.gangDone]
  split
  · rfl
  · rw [State.settleLaunch_standing, State.addWrites_standing]
    split
    · split <;> simp
    · simp
    · simp

/-! ### Gangs -/

@[simp] theorem State.dropWaves_standing (s : State) (p k : Nat) (w : Workgroup) : (s.dropWaves p k w).standing = s.standing := by
  refine foldl_keeps State.standing (fun s wid => ?_) _ _
  simp only [State.dropWave]
  split <;> simp

@[simp] theorem State.settlePool_standing (s : State) (p : Nat) : (s.settlePool p).standing = s.standing := by
  simp only [State.settlePool]
  split
  · exact State.setPart_standing
  · rfl

@[simp] theorem State.setReserve_standing (s : State) (p : Nat) (busy : Bool) : (s.setReserve p busy).standing = s.standing :=
  State.setPart_standing

@[simp] theorem State.freeArea_standing (s : State) (p gid : Nat) : (s.freeArea p gid).standing = s.standing := by
  simp only [State.freeArea]
  split
  · rfl
  · rename_i g _
    rw [State.settlePool_standing]
    split
    · split
      · exact (State.setReserve_standing (s.putGang gid { g with saved := none }) p false :)
      · rfl
    · rfl

@[simp] theorem State.endGang_standing (s : State) (gid err : Nat) : (s.endGang gid err).standing = s.standing := by
  simp only [State.endGang]
  split
  · rfl
  · split
    · rfl
    · rw [State.gangDone_standing, State.freeArea_standing, State.putGang_standing]
      refine foldl_keeps State.standing (fun s k => ?_) _ _
      split <;> simp

@[simp] theorem State.failRest_standing (s : State) (lid code : Nat) : (s.failRest lid code).standing = s.standing := by
  simp only [State.failRest]
  split
  · rfl
  · exact foldl_keeps State.standing (fun _ _ => State.gangDone_standing ..) _ _

@[simp] theorem State.failPattern_standing (s : State) (pat code : Nat) : (s.failPattern pat code).standing = s.standing := by
  unfold State.failPattern
  split
  · rfl
  · exact State.settleTop_standing ..

@[simp] theorem State.dropFixed_standing (s : State) (pat : Nat) : (s.dropFixed pat).standing = s.standing := by
  unfold State.dropFixed
  split
  · rfl
  · exact State.settleTop_standing ..

/-- The end of every gang of a partition leaves what stands. -/
@[simp] theorem State.endPart_standing (s : State) (p code : Nat) : (s.endPart p code).standing = s.standing := by
  simp only [State.endPart]
  rw [foldl_keeps State.standing fun s lid => ?_, foldl_keeps State.standing fun _ _ => State.endGang_standing ..]
  split
  · rfl
  · split
    · split <;> simp
    · simp

end Sys2Proof.Machine
end

section
/-! SUPPORT. Mailboxes, PART_SET and PART_RESET (20 R387-R389, R391, R409, 18 R362). -/

set_option Elab.async false
namespace Sys2Proof.Machine

/-! ### Sparse maps -/

theorem Sparse.get_filter {α : Type} (d : α) (l : List (Nat × α)) (q : Nat → Bool) (k : Nat) :
    Sparse.get d (l.filter fun e => q e.1) k = if q k = true then Sparse.get d l k else d := by
  unfold Sparse.get
  cases h : q k with
  | true => rw [Sparse.find?_filter_keep l k q h, if_pos rfl]
  | false => rw [Sparse.find?_filter_drop l k q h, if_neg Bool.false_ne_true]

theorem Sparse.get_map {α : Type} {d : α} {f : α → α} (hd : f d = d) (l : List (Nat × α)) (k : Nat) :
    Sparse.get d (l.map fun e => (e.1, f e.2)) k = f (Sparse.get d l k) := by
  simp only [Sparse.get, List.find?_map, Function.comp_def]
  cases l.find? (fun e => e.1 == k) with
  | none => exact hd.symm
  | some e => rfl

/-! ### Mailboxes -/

theorem mbstatOf_free (r : Nat) : mbstatOf false r = BitVec.ofNat 64 (256 * r) := by simp [mbstatOf]

/-- A mailbox after its command has ended with a RESULT. -/
def Mailbox.ended (m : Mailbox) (r : Nat) : Mailbox := { m with stat := BitVec.ofNat 64 (256 * r), pending := none }

theorem State.endMail_of_mailbox {s : State} {who : Writer} {m : Mailbox} (h : s.mailbox who = some m) (r : Nat) :
    s.endMail who r = s.setMailbox who (m.ended r) := by
  simp only [State.endMail, h, mbstatOf_free]
  rfl

theorem State.endMail_mailbox {s : State} {who : Writer} {m : Mailbox} (h : s.mailbox who = some m) (r : Nat) :
    (s.endMail who r).mailbox who = some (m.ended r) := by
  rw [State.endMail_of_mailbox h, State.mailbox_setMailbox h]

theorem State.endMail_platform (s : State) (r : Nat) :
    s.endMail .platform r = { s with regs := { s.regs with mbox := s.regs.mbox.ended r } } :=
  State.endMail_of_mailbox rfl r

theorem State.endMail_owner {s : State} {p : Nat} (hp : p < 8) (r : Nat) :
    s.endMail (.owner p) r = s.setPart p { s.part p with mbox := (s.part p).mbox.ended r } :=
  State.endMail_of_mailbox (who := .owner p) (if_pos hp) r

theorem State.endMail_owner_part {s : State} {p : Nat} (hp : p < 8) (r : Nat) :
    (s.endMail (.owner p) r).part p = { s.part p with mbox := (s.part p).mbox.ended r } := by
  rw [State.endMail_owner hp, State.part_setPart]

/-- The end of a command changes the registers of its mailbox alone. -/
theorem State.endMail_eq (s : State) (who : Writer) (r : Nat) :
    ∃ m ps, s.endMail who r = { s with regs := { s.regs with mbox := m, parts := ps } } := by
  unfold State.endMail
  split
  · exact ⟨_, _, rfl⟩
  · cases who <;> exact ⟨_, _, rfl⟩

theorem State.endMail_part (s : State) (who : Writer) (r q : Nat) : ∃ m, (s.endMail who r).part q = { s.part q with mbox := m } := by
  unfold State.endMail
  split
  · exact ⟨_, rfl⟩
  · cases who with
    | owner p =>
      by_cases hq : q = p
      · subst q
        exact ⟨_, State.part_setPart ..⟩
      · exact ⟨_, State.part_setPart_other _ _ _ _ hq⟩
    | _ => exact ⟨_, rfl⟩

/-- Only the platform and the owner of a partition have a mailbox. -/
theorem State.part_lt_of_command {s : State} {p : Nat} {i : Instr} (h : s.command (.owner p) = some i) : p < 8 := by
  by_contra hp
  simp [State.command, State.mailbox, hp] at h

section
variable {s : State} {who : Writer} {m : Mailbox} (h : s.mailbox who = some m) {code : Nat}
include h

theorem State.postCommand_busy {i : Instr} (busy : m.pending = some i) :
    (s.postCommand who code).mailbox who = some { m with stat := mbstatOf true 4 } := by
  simp only [State.postCommand, h, busy, Option.isSome_some, if_true]
  exact State.mailbox_setMailbox h _

variable (free : m.pending = none) (accepted : s.accepts code = true)
include free accepted

theorem State.postCommand_taken {i : Instr} (hc : mailCommand who m.args code = .ok i) :
    (s.postCommand who code).mailbox who = some { m with stat := mbstatOf true 0, pending := some i } := by
  simp only [State.postCommand, h, free, accepted, hc, Option.isSome_none, Bool.false_eq_true, Bool.true_eq_false, if_false]
  exact State.mailbox_setMailbox h _

theorem State.postCommand_refused {r : Nat} (hc : mailCommand who m.args code = .bad r) :
    (s.postCommand who code).mailbox who = some { m with stat := mbstatOf false r } := by
  simp only [State.postCommand, h, free, accepted, hc, Option.isSome_none, Bool.false_eq_true, Bool.true_eq_false, if_false]
  exact State.mailbox_setMailbox h _

end

/-! ### What clearing cores takes (R391) -/

theorem State.clearCores_wave (s : State) (f : Nat → Bool) (w : Nat) :
    (s.clearCores f).wave w = if f (w / 64) = true then Wave.empty else s.wave w := by
  refine (Sparse.get_filter Wave.empty s.waves (fun k => !f (k / 64)) w).trans ?_
  cases f (w / 64) <;> rfl

theorem clearsTlb_core {f : Nat → Bool} {core : Nat} (h : core < 384) (hf : f core = true) : clearsTlb f core = true := by
  rw [clearsTlb, if_pos (by unfold clusterTlb; omega), hf]

/-- The TLB of a cluster goes with any of its cores. -/
theorem clearsTlb_cluster {f : Nat → Bool} {core : Nat} (h : core < 384) (hf : f core = true) :
    clearsTlb f (clusterTlb (clusterOf core)) = true := by
  have place : 48 * (clusterTlb (clusterOf core) - clusterTlb 0) + core % 48 = core := by
    simp only [clusterTlb, clusterOf]
    omega
  rw [clearsTlb, if_neg (by simp [clusterTlb])]
  simp only [Bool.and_eq_true, decide_eq_true_eq, List.any_eq_true, List.mem_range]
  refine ⟨?_, core % 48, by omega, by rw [place, hf]⟩
  simp only [clusterTlb, clusterOf]
  omega

/-- Nothing of a cleared core is left in TLBs, caches and local stores. -/
theorem State.clearCores_caches (s : State) {f : Nat → Bool} {core : Nat} (h : core < 384) (hf : f core = true) :
    let t := s.clearCores f
    (∀ e ∈ t.tlb, e.unit ≠ core ∧ e.unit ≠ clusterTlb (clusterOf core)) ∧ (∀ e ∈ t.l1, ixCore e.1 ≠ core) ∧
      (∀ e ∈ t.icache, codeCore e.1 ≠ core) ∧ ∀ e ∈ [t.wStore, t.aStore, t.cStore].flatten, e.1 / 2 ^ 21 ≠ core := by
  intro t
  have gone : ∀ {α : Type} {l : List α} {k : α → Bool} {e : α}, e ∈ l.filter (fun e => !k e) → k e ≠ true := fun he hk => by
    simp [hk] at he
  refine ⟨fun e he => ⟨fun hc => gone he (hc ▸ clearsTlb_core h hf), fun hc => gone he (hc ▸ clearsTlb_cluster h hf)⟩,
    fun e he hc => gone he (hc.symm ▸ hf), fun e he hc => gone he (hc.symm ▸ hf), fun e he hc => ?_⟩
  simp only [List.flatten_cons, List.flatten_nil, List.append_nil, List.mem_append] at he
  obtain he | he | he := he
  all_goals exact gone he (hc.symm ▸ hf)

/-! ### PART_SET -/

/-- Two ranges of key slots overlap. -/
theorem slots_overlap_iff {a n b m : Nat} :
    (∃ k, a ≤ k ∧ k < a + n ∧ b ≤ k ∧ k < b + m) ↔ a < b + m ∧ b < a + n ∧ n ≠ 0 ∧ m ≠ 0 := by
  constructor
  · rintro ⟨k, h⟩
    omega
  · intro h
    exact ⟨max a b, by omega⟩

theorem State.mem_others {s : State} {p : Nat} {x : Partition} :
    x ∈ s.others p ↔ ∃ q, q < 8 ∧ q ≠ p ∧ (s.part q).en = true ∧ x = s.part q := by
  simp only [State.others, List.mem_filterMap, List.mem_filter, List.mem_range, bne_iff_ne, and_assoc]
  simp only [Option.ite_none_right_eq_some, Option.some.injEq, eq_comm (a := x)]

theorem State.partBad_iff {s : State} {p clus kfirst kcnt gbase gsize : Nat} : s.partBad p clus kfirst kcnt gbase gsize = true ↔
    64 < kfirst + kcnt ∨ 512 < gbase + gsize ∨ ∃ q, q < 8 ∧ q ≠ p ∧ (s.part q).en = true ∧
      ((s.part q).clus &&& BitVec.ofNat 8 clus ≠ 0 ∨
        ∃ k, kfirst ≤ k ∧ k < kfirst + kcnt ∧ (s.part q).kfirst ≤ k ∧ k < (s.part q).kfirst + (s.part q).kcnt) := by
  simp only [State.partBad, slots_overlap_iff, Bool.or_eq_true, Bool.and_eq_true, decide_eq_true_eq, List.any_eq_true, bne_iff_ne, or_assoc,
    and_assoc]
  refine or_congr_right (or_congr_right ?_)
  constructor
  · rintro ⟨x, hx, h⟩
    obtain ⟨q, hq, hp, he, rfl⟩ := State.mem_others.mp hx
    exact ⟨q, hq, hp, he, h⟩
  · rintro ⟨q, hq, hp, he, h⟩
    exact ⟨_, State.mem_others.mpr ⟨q, hq, hp, he, rfl⟩, h⟩

/-- Each of some partitions is changed once. -/
theorem foldl_setPart_part (f : Partition → Partition) {l : List Nat} (hl : l.Nodup) (s : State) (q : Nat) :
    (l.foldl (fun s q => s.setPart q (f (s.part q))) s).part q = if q ∈ l then f (s.part q) else s.part q := by
  induction l generalizing s with
  | nil => rfl
  | cons a l ih =>
    obtain ⟨ha, hl⟩ := List.nodup_cons.mp hl
    rw [List.foldl_cons, ih hl]
    by_cases hq : q = a
    · subst q
      simp [ha]
    · simp [hq, State.part_setPart_other _ _ _ _ hq]

theorem foldl_setPart_eq (f : Partition → Partition) (l : List Nat) (s : State) :
    ∃ ps, l.foldl (fun s q => s.setPart q (f (s.part q))) s = { s with regs := { s.regs with parts := ps } } := by
  induction l generalizing s with
  | nil => exact ⟨_, rfl⟩
  | cons a l ih => exact ih (s.setPart a (f (s.part a)))

/-- The compute cores that change partition as p is given some clusters. -/
def State.coresMoved (s : State) (p clus core : Nat) : Bool :=
  decide (core < 384) && ((s.part p).clus ^^^ BitVec.ofNat 8 clus).getLsbD (clusterOf core)

section
variable {s : State} {p : Nat} {en : Bool} {clus kfirst kcnt gbase gsize : Nat}

theorem State.configure_eq : ∃ ps, s.configure p en clus kfirst kcnt gbase gsize =
    { s.clearCores (s.coresMoved p clus) with regs := { s.regs with parts := ps } } := by
  obtain ⟨ps, h⟩ := foldl_setPart_eq (fun x => { x with clus := x.clus &&& ~~~ BitVec.ofNat 8 clus })
    ((List.range 8).filter (· != p)) (s.clearCores (s.coresMoved p clus))
  exact ⟨_, congrArg (fun t => t.setPart p { t.part p with
    en := en, clus := BitVec.ofNat 8 clus, kfirst := kfirst, kcnt := kcnt, gbase := gbase, gsize := gsize
    imageLog := List.replicate 64 0 }) h⟩

theorem State.configure_part_same : (s.configure p en clus kfirst kcnt gbase gsize).part p = { s.part p with
    en := en, clus := BitVec.ofNat 8 clus, kfirst := kfirst, kcnt := kcnt, gbase := gbase, gsize := gsize
    imageLog := List.replicate 64 0 } := by
  simp only [State.configure, State.part_setPart]
  rw [foldl_setPart_part (fun x => { x with clus := x.clus &&& ~~~ BitVec.ofNat 8 clus }) (List.nodup_range.filter _),
    if_neg (by simp)]
  rfl

theorem State.configure_part_other {q : Nat} (h : q ≠ p) (hq : q < 8) : (s.configure p en clus kfirst kcnt gbase gsize).part q =
    { s.part q with clus := (s.part q).clus &&& ~~~ BitVec.ofNat 8 clus } := by
  simp only [State.configure, State.part_setPart_other _ _ _ _ h]
  rw [foldl_setPart_part (fun x => { x with clus := x.clus &&& ~~~ BitVec.ofNat 8 clus }) (List.nodup_range.filter _),
    if_pos (by simp [h, hq])]
  rfl

/-- PART_SET as its mailbox's command in progress. -/
theorem exec_partSet (h : s.command .platform = some (.partSet p en clus kfirst kcnt gbase gsize)) :
    exec (.partSet p en clus kfirst kcnt gbase gsize) s =
      if s.partBad p clus kfirst kcnt gbase gsize = true then .next (s.endMail .platform 2)
      else if (s.handedOver p clus).any s.holdsPattern = true ∨
          (State.areasFor (s.gangsIn (s.handedOver p clus)) s).isNone = true then .next (s.endMail .platform 1)
      else if (s.gangsIn (s.handedOver p clus)).isEmpty = true then
        .next ((s.configure p en clus kfirst kcnt gbase gsize).endMail .platform 0)
      else .next ((((s.gangsIn (s.handedOver p clus)).filter fun e => e.2.pre == .run).map (·.1)).foldl State.stopGang s) := if_pos h

end

/-- A gang that is asked to stop. -/
def Gang.asked (g : Gang) : Gang := if g.pre = .run ∧ g.done = false then { g with pre := .stopping } else g

theorem Gang.asked_asked (g : Gang) : g.asked.asked = g.asked := by
  unfold Gang.asked
  split <;> simp_all

theorem State.stopGang_gang? (s : State) (gid k : Nat) :
    (s.stopGang gid).gang? k = if k = gid then (s.gang? k).map Gang.asked else s.gang? k := by
  unfold State.stopGang
  cases hg : s.gang? gid with
  | none =>
    by_cases hk : k = gid
    · subst k
      simp [hg]
    · simp [hk]
  | some g =>
    by_cases hk : k = gid
    · subst k
      simp only [hg, Gang.asked, if_true, Option.map_some]
      split <;> simp [hg]
    · simp only [hk, if_false]
      split
      · exact Sparse.find_put_other _ _ _ _ hk
      · rfl

theorem foldl_stopGang_gang? (l : List Nat) (s : State) (k : Nat) :
    (l.foldl State.stopGang s).gang? k = if k ∈ l then (s.gang? k).map Gang.asked else s.gang? k := by
  induction l generalizing s with
  | nil => rfl
  | cons a l ih =>
    rw [List.foldl_cons, ih, State.stopGang_gang?]
    by_cases hk : k = a <;> simp [hk, Function.comp_def, Gang.asked_asked]

/-- Asking gangs to stop changes gangs alone. -/
theorem foldl_stopGang_eq (l : List Nat) (s : State) :
    l.foldl State.stopGang s = { s with gangs := (l.foldl State.stopGang s).gangs } := by
  have rest : { l.foldl State.stopGang s with gangs := [] } = { s with gangs := [] } :=
    foldl_keeps (fun s : State => { s with gangs := [] }) (fun s gid => by
      unfold State.stopGang
      split
      · rfl
      · split <;> rfl) l s
  exact congrArg (fun t : State => { t with gangs := (l.foldl State.stopGang s).gangs }) rest

/-! ### Areas for saves -/

section
variable {e : Nat × Gang} {es : List (Nat × Gang)} {l : Launch} {s : State} (launched : s.launch? e.2.lid = some l)
  (running : e.2.pre ≠ .saving) (kept : e.2.passed = false)
include launched running kept

/-- A gang's area in the reserve area, or in the pool, is taken for those after it. -/
theorem State.areasFor_reserve (h : s.saveArea l.part (saveUnits l.spec e.2.wgs.length) = some none) :
    State.areasFor (e :: es) s = State.areasFor es ((s.setReserve l.part true).putGang e.1 { e.2 with
      saved := some { area := 0, units := saveUnits l.spec e.2.wgs.length, reserve := true, wgs := [], replies := [] } }) := by
  simp [State.areasFor, launched, running, kept, h]

theorem State.areasFor_pool {a : Nat} (h : s.saveArea l.part (saveUnits l.spec e.2.wgs.length) = some (some a)) :
    State.areasFor (e :: es) s = State.areasFor es (s.putGang e.1 { e.2 with
      saved := some { area := a, units := saveUnits l.spec e.2.wgs.length, reserve := false, wgs := [], replies := [] } }) := by
  simp [State.areasFor, launched, running, kept, h]

end

theorem State.setReserve_busy (s : State) (p : Nat) : ((s.setReserve p true).part p).reserveBusy = true := by
  simp [State.setReserve, Partition.reserveBusy]

/-! ### PART_RESET -/

theorem State.coreOf_of_standing {s t : State} (h : t.standing = s.standing) (p core : Nat) : t.coreOf p core = s.coreOf p core := by
  have clus : (t.part p).clus = (s.part p).clus := congrArg (fun x => (x.grant p).clus) h
  have owners : t.owners = s.owners := congrArg Standing.owners h
  rw [State.coreOf, State.coreOf, clus, owners]

/-- A queue, and a head, as PART_RESET of a partition leaves it. -/
def Queue.disabled (p : Nat) (x : Queue) : Queue := if x.part = p then { x with qcfg := x.qcfg &&& ~~~ 0x80#64 } else x

def Head.disabled (p : Nat) (x : Head) : Head :=
  if x.part = p then { x with hctl := hctlRest x.hctl, stopping := x.stopping || x.running } else x

theorem State.disablePart_queue (s : State) (p q : Nat) : (s.disablePart p).queue q = (s.queue q).disabled p :=
  Sparse.get_map (f := Queue.disabled p) (by unfold Queue.disabled; split <;> rfl) s.regs.queues q

theorem State.disablePart_head (s : State) (p h : Nat) : (s.disablePart p).head h = (s.head h).disabled p :=
  Sparse.get_map (f := Head.disabled p) (by unfold Head.disabled; split <;> rfl) s.regs.heads h

theorem Queue.disabled_qcfg (p : Nat) (x : Queue) :
    (x.disabled p).qcfg = if x.part = p then x.qcfg &&& ~~~ 0x80#64 else x.qcfg := by
  unfold Queue.disabled
  split <;> rfl

theorem Head.disabled_hctl (p : Nat) (x : Head) : (x.disabled p).hctl = if x.part = p then x.hctl &&& ~~~ 1#64 else x.hctl := by
  unfold Head.disabled
  split <;> rfl

end Sys2Proof.Machine
end

section
set_option Elab.async false
namespace Sys2Proof
open Machine

theorem claim_mailboxes : Claim.Mailboxes := by
  intro s who m r h
  refine ⟨State.endMail_mailbox h r, fun i busy code => State.postCommand_busy h busy, ?_⟩
  rintro free stage rfl
  have accepted : ∀ code, s.accepts code = true := fun code => by simp [State.accepts, stage]
  exact ⟨State.postCommand_taken h free (accepted 9) rfl, State.postCommand_taken h free (accepted 10) rfl,
    State.postCommand_taken h free (accepted 8) rfl, State.postCommand_taken h free (accepted 5) rfl,
    State.postCommand_refused h free (accepted 6) rfl⟩

theorem claim_partitionSets : Claim.PartitionSets := by
  intro p en clus kfirst kcnt gbase gsize s i x new bad leaving there stuck changed h
  have bad_iff : s.partBad p clus kfirst kcnt gbase gsize = true ↔ bad := State.partBad_iff
  have stuck_iff : ((s.handedOver p clus).any s.holdsPattern = true ∨
      (State.areasFor (s.gangsIn (s.handedOver p clus)) s).isNone = true) ↔ stuck := by
    rw [List.any_eq_true, Option.isNone_iff_eq_none]
    rfl
  have empty_iff : (s.gangsIn (s.handedOver p clus)).isEmpty = true ↔ there = [] := List.isEmpty_iff
  have run := exec_partSet h
  refine ⟨fun hb => ?_, fun hb hs => ?_, fun hb hs empty => ?_, fun hb hs held => ?_⟩
  · rw [run, if_pos (bad_iff.mpr hb)]
  · rw [run, if_neg (mt bad_iff.mp hb), if_pos (stuck_iff.mpr hs)]
  · rw [if_neg (mt bad_iff.mp hb), if_neg (mt stuck_iff.mp hs), if_pos (empty_iff.mpr empty)] at run
    obtain ⟨ps, frame⟩ := State.configure_eq (s := s) (p := p) (en := en) (clus := clus) (kfirst := kfirst) (kcnt := kcnt)
      (gbase := gbase) (gsize := gsize)
    have moved : ∀ core, changed core ↔ s.coresMoved p clus core = true := fun core => by simp [changed, x, new, State.coresMoved]
    refine ⟨_, s.regs.mbox, run, rfl, ?_, State.configure_part_same, fun q => State.configure_part_other, ?_⟩
    · rw [State.endMail_mailbox (m := s.regs.mbox) (by rw [frame]; rfl)]
      rfl
    · rw [State.endMail_platform, frame]
      refine ⟨rfl, rfl, rfl, fun core hc => ?_, fun w hw => ?_, fun w hw => ?_⟩
      · exact State.clearCores_caches s hc.1 ((moved core).mp hc)
      · exact (State.clearCores_wave ..).trans (if_pos ((moved _).mp hw))
      · exact (State.clearCores_wave ..).trans (if_neg (mt (moved _).mpr hw))
  · rw [if_neg (mt bad_iff.mp hb), if_neg (mt stuck_iff.mp hs), if_neg (mt empty_iff.mp held)] at run
    refine ⟨_, run, foldl_stopGang_eq .., fun k g hk hg => ?_⟩
    have live : g.done = false := by simpa using And.left (And.left (by simpa using (List.mem_filter.mp hg).2))
    rw [foldl_stopGang_gang?, hk]
    by_cases running : g.pre = .run
    · have asked : k ∈ ((s.gangsIn (s.handedOver p clus)).filter fun e => e.2.pre == .run).map (·.1) :=
        List.mem_map.mpr ⟨(k, g), List.mem_filter.mpr ⟨hg, by simp [running]⟩, rfl⟩
      rw [if_pos asked]
      simp [Gang.asked, running, live]
    · simp [Gang.asked, running]

theorem claim_areasFound : Claim.AreasFound := by
  intro e es l s hl n
  refine ⟨rfl, fun saving => ?_, fun running nowhere => ?_, fun a running kept area => ?_⟩
  · simp [State.areasFor, hl, saving]
  · obtain passed | (full : s.saveArea l.part (saveUnits l.spec e.2.wgs.length) = none) := nowhere
    · simp [State.areasFor, hl, running, passed]
    · simp [State.areasFor, hl, running, full]
  · cases a with
    | none =>
      exact ⟨_, State.areasFor_reserve hl running kept area, fun _ => State.setReserve_busy .., _, State.gang_putGang .., rfl, rfl, nofun⟩
    | some a =>
      exact ⟨_, State.areasFor_pool hl running kept area, nofun, _, State.gang_putGang .., rfl, rfl, fun b => Option.some.inj⟩

theorem claim_partitionResets : Claim.PartitionResets := by
  intro who p s h
  have run : exec (.partReset who p) s = .next ((s.resetPart p).endMail who 0) := if_pos h
  have stands := State.endPart_standing s p 0x12
  obtain ⟨m, ps, frame⟩ := State.endMail_eq (s.resetPart p) who 0
  have qcfg : ∀ q, ((s.endPart p 0x12).queue q).qcfg = (s.queue q).qcfg := fun q => congrArg (Standing.qcfg · q) stands
  have hctl : ∀ k, ((s.endPart p 0x12).head k).hctl = (s.head k).hctl := fun k => congrArg (Standing.hctl · k) stands
  have queue : ∀ q, (((s.resetPart p).endMail who 0).queue q).qcfg =
      if (s.queue q).part = p then (s.queue q).qcfg &&& ~~~ 0x80#64 else (s.queue q).qcfg := fun q => by
    have disabled : ((s.resetPart p).endMail who 0).queue q = ((s.endPart p 0x12).queue q).disabled p := by
      rw [frame]
      exact State.disablePart_queue ..
    rw [disabled, Queue.disabled_qcfg, Queue.part, qcfg]
    rfl
  have head : ∀ k, (((s.resetPart p).endMail who 0).head k).hctl =
      if (s.head k).part = p then (s.head k).hctl &&& ~~~ 1#64 else (s.head k).hctl := fun k => by
    have disabled : ((s.resetPart p).endMail who 0).head k = ((s.endPart p 0x12).head k).disabled p := by
      rw [frame]
      exact State.disablePart_head ..
    rw [disabled, Head.disabled_hctl, Head.part, hctl]
    rfl
  refine ⟨_, run, ?_, State.endMail_command .., fun q hq => ?_, fun q hq => ?_, fun k hk => ?_, fun w hw => ?_, fun q => ?_⟩
  · rw [frame]
    exact congrArg Standing.keys stands
  · exact (queue q).trans (if_pos hq)
  · exact (queue q).trans (if_neg hq)
  · exact (head k).trans (if_pos hk)
  · rw [frame]
    refine (State.clearCores_wave ..).trans (if_pos ?_)
    exact (State.coreOf_of_standing stands p (w / 64)).trans hw
  · obtain ⟨m, part⟩ := State.endMail_part (s.resetPart p) who 0 q
    have grant : ((s.resetPart p).part q).grant = (s.part q).grant := congrArg (Standing.grant · q) stands
    rw [part]
    exact ⟨congrArg Grant.en grant, congrArg Grant.clus grant, congrArg Grant.kfirst grant, congrArg Grant.kcnt grant,
      congrArg Grant.gbase grant, congrArg Grant.gsize grant⟩

end Sys2Proof
end

section
/-! SUPPORT. Keys, reports, images and firmware (20 R390-R396). -/

set_option Elab.async false
namespace Sys2Proof.Machine

/-! ### Keys -/

theorem Sparse.get_put {α : Type} (d : α) (l : List (Nat × α)) (k j : Nat) (x : α) :
    Sparse.get d (Sparse.put l k x) j = if j = k then x else Sparse.get d l j := by
  have get_find : ∀ (l : List (Nat × α)) j, Sparse.get d l j = (Sparse.find l j).getD d := fun l j => by
    unfold Sparse.get Sparse.find
    cases l.find? (fun e => e.1 == j) <;> rfl
  rw [get_find, get_find, Sparse.find_put]
  split <;> rfl

theorem Partition.ownsSlot_iff {x : Partition} {slot : Nat} :
    x.ownsSlot slot = true ↔ x.kfirst ≤ slot ∧ slot < x.kfirst + x.kcnt := by
  simp [Partition.ownsSlot]

theorem State.slotBarred_iff {s : State} {who : Writer} {slot : Nat} : s.slotBarred who slot = true ↔
    (∃ p, who = .owner p ∧ ¬ (s.part p).ownsSlot slot = true) ∨
      ∃ q, q < 8 ∧ (s.part q).en = true ∧ (s.part q).ownsSlot slot = true ∧ who ≠ .owner q := by
  simp only [State.slotBarred, Bool.or_eq_true, List.any_eq_true, List.mem_range, Bool.and_eq_true, bne_iff_ne, and_assoc]
  refine or_congr_left ?_
  cases who <;> simp

section
variable {s : State} {who : Writer} {slot : Nat} {adr : DWord}

theorem exec_keyLoad (h : s.command who = some (.keyLoad who slot adr)) :
    exec (.keyLoad who slot adr) s = mailDone who s (s.loadKey who slot adr.toNat) := if_pos h

theorem State.loadKey_of_read {u : State} {bs : List Byte} {adr : Nat} (hs : slot < 64) (hb : ¬ s.slotBarred who slot = true)
    (read : s.mailRead who adr 64 = .ok (u, bs)) :
    s.loadKey who slot adr = .ok { u with keys := Sparse.put u.keys slot (ofBytes bs + 1) } := by
  simp [State.loadKey, Nat.not_le.mpr hs, hb, read]

/-- The end of a command and a change of keys do not touch one another. -/
theorem State.endMail_withKeys (s : State) (who : Writer) (r : Nat) (keys : List (Nat × Nat)) :
    { s with keys := keys }.endMail who r = { s.endMail who r with keys := keys } := by
  unfold State.endMail
  change (match s.mailbox who with | none => _ | some m => _) = _
  cases s.mailbox who with
  | none => rfl
  | some m => cases who <;> rfl

end

/-! ### Reports -/

theorem exec_attest {who : Writer} {nonce report : DWord} {s : State} (h : s.command who = some (.attest who nonce report)) :
    exec (.attest who nonce report) s = mailDone who s (s.attestTo who nonce.toNat report.toNat) := if_pos h

theorem exec_cert {who : Writer} {buf : DWord} {size : Nat} {s : State} (h : s.command who = some (.cert who buf size)) :
    exec (.cert who buf size) s = mailDone who s (if size < Config.certificateSize then .error 2
      else s.mailWrite who buf.toNat ((List.range Config.certificateSize).map Config.certificate)) := if_pos h

theorem ofBytes_toBytes (n x : Nat) : ofBytes (toBytes n x) = x % 256 ^ n := by
  induction n generalizing x with
  | zero => simp [toBytes, ofBytes, Nat.mod_one]
  | succ n ih =>
    rw [toBytes, ofBytes, ih, BitVec.toNat_ofNat, show 256 ^ (n + 1) = 256 * 256 ^ n from Nat.pow_succ']
    exact Nat.mod_mul.symm

/-- A field of 8 bytes at the place where it was put. -/
theorem fieldAt_of_drop {l rest : List Byte} {k : Nat} {x : DWord} (h : l.drop k = toBytes 8 x.toNat ++ rest) :
    fieldAt l k 8 = x.toNat := by
  rw [fieldAt, h, List.take_left' (toBytes_length ..), ofBytes_toBytes]
  exact Nat.mod_eq_of_lt x.isLt

theorem byteAt_of_drop {l rest : List Byte} {k x : Nat} (h : l.drop k = toBytes 1 x ++ rest) : byteAt l k = x % 256 := by
  have first : l[k]? = some (BitVec.ofNat 8 x) := by
    rw [← Nat.add_zero k, ← List.getElem?_drop, h]
    rfl
  rw [byteAt, List.getD_eq_getElem?_getD, first]
  exact BitVec.toNat_ofNat ..

/-- A partition's report field by field (R393), where its image log is as long as a digest. -/
theorem State.report_owner (s : State) (p : Nat) (bs : List Byte) (hl : (s.part p).imageLog.length = 64) :
    s.report (.owner p) bs = bs ++ (sha512 s.runningFirmware ++ (sha512 (toBytes 8 ((s.part p).config 0).toNat ++
      toBytes 8 ((s.part p).config 1).toNat ++ toBytes 8 ((s.part p).config 2).toNat) ++ ((s.part p).imageLog ++
      (toBytes 8 s.regs.ident.toNat ++ (toBytes 8 s.regs.errata.toNat ++ (toBytes 1 p ++ (toBytes 1 s.rollback ++
      List.replicate 238 0))))))) := by
  simp [State.report, hl, List.range_succ]

/-! ### Images -/

theorem exec_imageLoad {p asn : Nat} {image dest : DWord} {emul : Bool} {s : State}
    (h : s.command (.owner p) = some (.imageLoad p image dest emul asn)) :
    exec (.imageLoad p image dest emul asn) s = mailDone (.owner p) s (s.loadImage p image.toNat dest.toNat emul asn) := if_pos h

/-- A generation that rises changes no register. -/
theorem State.incGen_regs (s : State) (p asn : Nat) : (s.incGen p asn).1.regs = s.regs := by
  have flushed : ∀ t : State, (t.flushSpace p asn).regs = t.regs := fun t =>
    State.regs_of_bare (foldl_keeps State.bare State.writeBackLine_bare (t.spaceLines p asn) t)
  have settled : ∀ t : State, (t.settleSpace p asn).regs = t.regs := fun t => by
    simp only [State.settleSpace]
    rw [foldl_keeps State.regs fun s ix => ?_]
    · refine foldl_keeps State.regs (fun s e => ?_) _ _
      split <;> rfl
    · split
      · rfl
      · exact State.regs_of_bare (State.giveUp_bare s ix)
  exact (settled _).trans (flushed s)

theorem State.incGen_part (s : State) (p asn q : Nat) : (s.incGen p asn).1.part q = s.part q :=
  congrArg (fun r : Regs => Sparse.get Partition.reset r.parts q) (State.incGen_regs s p asn)

/-- The generation of the address space rises, the image log is extended, and the new generation is returned (R395). -/
def State.withImage (w : State) (p asn : Nat) (bs : List Byte) : State :=
  let x := (w.incGen p asn).1.part p
  (w.incGen p asn).1.setPart p { x with
    imageLog := sha512 (x.imageLog ++ sha512 bs)
    mbox := { x.mbox with args := x.mbox.args.set 0 (BitVec.ofNat 64 (w.incGen p asn).2) } }

theorem State.withImage_mem (w : State) (p asn : Nat) (bs : List Byte) : (w.withImage p asn bs).mem = (w.incGen p asn).1.mem :=
  State.setPart_mem ..

theorem State.withImage_icache (w : State) (p asn : Nat) (bs : List Byte) :
    (w.withImage p asn bs).icache = (w.incGen p asn).1.icache := State.setPart_icache ..

theorem State.withImage_part (w : State) (p asn : Nat) (bs : List Byte) : (w.withImage p asn bs).part p = { w.part p with
    imageLog := sha512 ((w.part p).imageLog ++ sha512 bs)
    mbox := { (w.part p).mbox with
      args := (w.part p).mbox.args.set 0 (BitVec.ofNat 64 ((w.genOf p asn + 1) % 2 ^ 16)) } } := by
  rw [State.withImage, State.part_setPart, State.incGen_part]
  rfl

section
variable {s u v : State} {p asn image dest : Nat} {emul : Bool} {hd bs : List Byte}
  (first : s.agentRead { core := none, part := p, asn := asn, gen := s.genOf p asn } image 64 = .ok (u, hd))
  (whole : u.agentRead { core := none, part := p, asn := asn, gen := s.genOf p asn } image (fieldAt hd 8 8) = .ok (v, bs))
include first whole

theorem State.loadImage_headless (h : imageHeader bs = false) : s.loadImage p image dest emul asn = .error 2 := by
  simp [State.loadImage, first, whole, h]

theorem State.loadImage_later (h : imageHeader bs = true) (later : 2 < byteAt bs 6) (he : emul = false) :
    s.loadImage p image dest emul asn = .error 1 := by
  simp [State.loadImage, first, whole, h, later, he]

theorem State.loadImage_done (h : imageHeader bs = true) (runs : byteAt bs 6 ≤ 2 ∨ emul = true) {w : State}
    (written : (v.translated bs dest).1.agentWrite { core := none, part := p, asn := asn, gen := s.genOf p asn } dest
      (v.translated bs dest).2 = .ok w) :
    s.loadImage p image dest emul asn = .ok (w.withImage p asn bs) := by
  have notLater : ¬ (2 < byteAt bs 6 ∧ emul = false) := by
    rintro ⟨later, he⟩
    obtain h | h := runs
    · omega
    · simp [he] at h
  simp only [State.loadImage, first, whole, h, notLater, written, Bool.true_eq_false, if_false]
  rfl

end

theorem imageHeader_eq_false {bs : List Byte} (h : fieldAt bs 0 4 ≠ 0x4E535243 ∨ fieldAt bs 4 2 ≠ 1) : imageHeader bs = false := by
  obtain h | h := h <;> simp [imageHeader, h]

/-- An image of one code section, without relocations and patches, is loaded as it is. -/
theorem patched_of_code {bs : List Byte} {x : Section} (code : (imageSections bs).filter (fun y => y.type == 1) = [x])
    (plain : ∀ y ∈ imageSections bs, y.type ≠ 3 ∧ y.type ≠ 5) (dest : Nat) (a : DWord) : patched bs dest a = x.bytes bs := by
  have noRelocations : (imageSections bs).filter (fun y => y.type == 3) = [] :=
    List.filter_eq_nil_iff.mpr fun y hy => by simp [(plain y hy).1]
  have noPatches : (imageSections bs).filter (fun y => y.type == 5) = [] :=
    List.filter_eq_nil_iff.mpr fun y hy => by simp [(plain y hy).2]
  simp [patched, imagePatches, noPatches, relocatedCode, code, noRelocations]

theorem State.translated_cached {s : State} {bs : List Byte} {dest : Nat} {x : Translated}
    (h : s.images.find? (fun x => x.digest == sha512 bs && x.applied == imagePmask bs &&& s.regs.errata) = some x) :
    s.translated bs dest = (s, x.code) := by
  simp only [State.translated, h]

theorem State.translated_fresh {s : State} {bs : List Byte} {dest : Nat}
    (h : s.images.find? (fun x => x.digest == sha512 bs && x.applied == imagePmask bs &&& s.regs.errata) = none) :
    s.translated bs dest =
      let code := patched bs dest (imagePmask bs &&& s.regs.errata)
      ({ s with images :=
        { digest := sha512 bs, applied := imagePmask bs &&& s.regs.errata, pmask := imagePmask bs, code := code } :: s.images }, code) := by
  simp only [State.translated, h]

/-! ### Firmware -/

theorem exec_fwUpdate {image : DWord} {s : State} (h : s.command .platform = some (.fwUpdate image)) :
    exec (.fwUpdate image) s = mailDone .platform s (s.updateFirmware image.toNat) := if_pos h

theorem State.acceptsFirmware_iff {s : State} {image : List Byte} : s.acceptsFirmware image = true ↔
    Config.authentic image = true ∧ s.rollback ≤ (Config.rollbackOf image).toNat := by
  simp [State.acceptsFirmware]

section
variable {s : State} {image : Nat} {bs : List Byte} (read : s.mailRead .platform image Config.firmwareSize = .ok (s, bs))
include read

theorem State.updateFirmware_refused (h : ¬ s.acceptsFirmware bs = true) : s.updateFirmware image = .error 3 := by
  simp [State.updateFirmware, read, h]

theorem State.updateFirmware_accepted (h : s.acceptsFirmware bs = true) : ∃ ident, s.updateFirmware image = .ok { s with
    firmware := some bs, good := true, rollback := (Config.rollbackOf bs).toNat, stage := if s.stage = 5 then 6 else s.stage
    images := s.images.filter fun x => (x.pmask &&& s.regs.errata) == (x.pmask &&& Config.errataOf bs)
    regs := { s.regs with errata := Config.errataOf bs, ident := ident } } := by
  have rises : Nat.max s.rollback (Config.rollbackOf bs).toNat = (Config.rollbackOf bs).toNat :=
    Nat.max_eq_right (State.acceptsFirmware_iff.mp h).2
  simp only [State.updateFirmware, State.runFirmware, read, h, Bool.true_eq_false, if_false, rises]
  by_cases h5 : s.stage = 5
  · rw [if_pos h5, if_pos h5]
    exact ⟨_, rfl⟩
  · rw [if_neg h5, if_neg h5]
    exact ⟨s.regs.ident, rfl⟩

end

end Sys2Proof.Machine
end

section
set_option Elab.async false
namespace Sys2Proof
open Machine

/-- KEY_LOAD by what its slot is. -/
theorem keyLoad_answers (who : Writer) (slot : Nat) (adr : DWord) (s : State) (h : s.command who = some (.keyLoad who slot adr)) :
    (64 ≤ slot → exec (.keyLoad who slot adr) s = .next (s.endMail who 2)) ∧
    (slot < 64 → s.slotBarred who slot = true → exec (.keyLoad who slot adr) s = .next (s.endMail who 1)) ∧
    (slot < 64 → ¬ s.slotBarred who slot = true → ∀ u bs, s.mailRead who adr.toNat 64 = .ok (u, bs) →
      ∃ t, exec (.keyLoad who slot adr) s = .next t ∧ t.keyId slot = ofBytes bs + 1 ∧ (∀ k, k ≠ slot → t.keyId k = u.keyId k) ∧
        t = { (u.endMail who 0) with keys := t.keys }) := by
  rw [exec_keyLoad h]
  refine ⟨fun hs => ?_, fun hs hb => ?_, fun hs hb u bs read => ?_⟩
  · rw [State.loadKey, if_pos hs]
    rfl
  · rw [State.loadKey, if_neg (by omega), if_pos hb]
    rfl
  · rw [State.loadKey_of_read hs hb read, mailDone, State.endMail_withKeys]
    refine ⟨_, rfl, ?_, fun k hk => ?_, rfl⟩
    · exact (Sparse.get_put ..).trans (if_pos rfl)
    · exact (Sparse.get_put ..).trans (if_neg hk)

/-- The layout of a report (R393). -/
theorem report_layout (p : Nat) (s : State) (bs : List Byte) (hb : bs.length = 64) (hl : (s.part p).imageLog.length = 64) :
    let r := s.report (.owner p) bs
    r.length = 512 ∧ r.take 64 = bs ∧
    (r.drop 64).take 64 = sha512 s.runningFirmware ∧
    (r.drop 128).take 64 = sha512 (toBytes 8 ((s.part p).config 0).toNat ++ toBytes 8 ((s.part p).config 1).toNat ++
      toBytes 8 ((s.part p).config 2).toNat) ∧
    (r.drop 192).take 64 = (s.part p).imageLog ∧ fieldAt r 256 8 = s.regs.ident.toNat ∧ fieldAt r 264 8 = s.regs.errata.toNat ∧
    byteAt r 272 = p % 256 ∧ byteAt r 273 = s.rollback % 256 ∧ r.drop 274 = List.replicate 238 0 := by
  intro r
  have hr : r = _ := s.report_owner p bs hl
  have next : ∀ {k n : Nat} {a b : List Byte}, r.drop k = a ++ b → a.length = n → r.drop (k + n) = b := fun h hn => by
    rw [← List.drop_drop, h, List.drop_left' hn]
  have firmware := next (k := 0) hr hb
  have config := next firmware (sha512_length _)
  have log := next config (sha512_length _)
  have ident := next log hl
  have errata := next ident (toBytes_length ..)
  have number := next errata (toBytes_length ..)
  have rollback := next number (toBytes_length ..)
  refine ⟨?_, ?_, ?_, ?_, ?_, fieldAt_of_drop ident, fieldAt_of_drop errata, byteAt_of_drop number, byteAt_of_drop rollback,
    next rollback (toBytes_length ..)⟩
  · rw [hr]
    simp only [List.length_append, hb, hl, sha512_length, toBytes_length, List.length_replicate]
  · rw [hr, List.take_left' hb]
  · rw [show r.drop 64 = _ from firmware, List.take_left' (sha512_length _)]
  · rw [show r.drop 128 = _ from config, List.take_left' (sha512_length _)]
  · rw [show r.drop 192 = _ from log, List.take_left' hl]

theorem claim_keysAndReports : Claim.KeysAndReports := by
  refine ⟨fun who slot adr s h => ?_, fun who buf size s h => ⟨fun small => ?_, fun fits u written => ?_⟩,
    fun who nonce report s u v bs h read written => ?_, report_layout⟩
  · intro owns barred
    have barred_iff : s.slotBarred who slot = true ↔ barred := by
      simp only [State.slotBarred_iff, Partition.ownsSlot_iff]
      rfl
    simpa only [barred_iff] using keyLoad_answers who slot adr s h
  · rw [exec_cert h, if_pos small]
    rfl
  · rw [exec_cert h, if_neg (by omega), written]
    rfl
  · have done : s.attestTo who nonce.toNat report.toNat = .ok v := by simpa [State.attestTo, read] using written
    rw [exec_attest h, done]
    rfl

theorem claim_imageLoads : Claim.ImageLoads := by
  intro p asn image dest emul s u v hd bs i a h first whole
  have run := exec_imageLoad h
  refine ⟨fun headless => ?_, fun header later he => ?_, fun header runs => ?_⟩
  · rw [run, State.loadImage_headless first whole (imageHeader_eq_false headless)]
    rfl
  · rw [run, State.loadImage_later first whole header later he]
    rfl
  intro d e r
  refine ⟨fun x hx => State.translated_cached hx, fun fresh => ?_, fun fresh x code plain => ?_, fun w written => ?_⟩
  · have hr : r = _ := State.translated_fresh fresh
    rw [hr]
    exact ⟨rfl, rfl⟩
  · exact (congrArg Prod.snd (State.translated_fresh fresh)).trans (patched_of_code code plain ..)
  · rw [run, State.loadImage_done first whole header runs written, mailDone]
    have hp := State.part_lt_of_command h
    have part := State.endMail_owner_part (s := w.withImage p asn bs) hp 0
    rw [State.withImage_part] at part
    refine ⟨_, rfl, ?_, ?_, by rw [part], State.endMail_command .., by rw [part]; rfl, fun args => ?_⟩
    · rw [State.endMail_mem, State.withImage_mem]
    · rw [State.endMail_owner hp, State.setPart_icache, State.withImage_icache]
    · rw [part]
      change ((w.part p).mbox.args.set 0 _).getD 0 0 = _
      rw [List.getD_eq_getElem _ _ (by simpa using args), List.getElem_set_self]

theorem claim_firmwareUpdates : Claim.FirmwareUpdates := by
  intro image s bs h read good
  have accepts : s.acceptsFirmware bs = true ↔ good := State.acceptsFirmware_iff
  rw [exec_fwUpdate h]
  refine ⟨fun bad => ?_, fun ok => ?_⟩
  · rw [State.updateFirmware_refused read (mt accepts.mp bad)]
    rfl
  · obtain ⟨ident, updated⟩ := State.updateFirmware_accepted read (accepts.mpr ok)
    rw [updated]
    refine ⟨_, rfl, rfl, rfl, rfl, State.endMail_command .., rfl, rfl, rfl, fun x => ?_⟩
    exact List.mem_filter.trans (and_congr_right fun _ => beq_iff_eq)

end Sys2Proof
end

section
/-! SUPPORT. Idle and wake, bring-up, reset and power (20 R392, R402-R409). -/

set_option Elab.async false
namespace Sys2Proof.Machine

/-- A stage shows in IDENT (R386), and changes nothing else. -/
theorem State.atStage_eq (s : State) (n : Nat) : ∃ ident, (s.atStage n).regs.ident = ident ∧
    s.atStage n = { s with stage := n, regs := { s.regs with ident := ident } } := ⟨_, rfl, rfl⟩

theorem State.atStage_ident (s : State) {n : Nat} (h : n < 16) : (s.atStage n).regs.ident.toNat % 16 = n := by
  simp only [State.atStage, State.showIdent, State.identWord, BitVec.toNat_ofNat]
  omega

/-! ### Idle and wake -/

/-- The TLBs of the compute cores and of their clusters. -/
theorem clearsTlb_compute {unit : Nat} : clearsTlb (fun c => decide (c < 384)) unit = true ↔
    unit < 384 ∨ (clusterTlb 0 ≤ unit ∧ unit < clusterTlb 8) := by
  have first : clusterTlb 0 = 512 := rfl
  have last : clusterTlb 8 = 520 := rfl
  rw [clearsTlb, first, last]
  split
  · rw [decide_eq_true_eq]
    omega
  · rw [Bool.and_eq_true, decide_eq_true_eq, List.any_eq_true]
    constructor
    · rintro ⟨_, j, hj, compute⟩
      have := of_decide_eq_true compute
      omega
    · intro h
      exact ⟨by omega, 0, by decide, decide_eq_true (by omega)⟩

theorem exec_idle {s : State} (h : s.regs.mbox.pending = some .idle) : exec .idle s =
    if s.busyModule = true then .next (s.endMail .platform 1)
    else .next ((State.atStage { s.clearCores (fun c => decide (c < 384)) with
      recCache := s.recCache.filter fun e => decide (recKey 8 0 0 0 ≤ e.1), idle := true } 7).endMail .platform 0) := if_pos h

theorem exec_wake {s : State} (h : s.regs.mbox.pending = some .wake) : exec .wake s = .next (s.wakeUp.endMail .platform 0) :=
  if_pos h

/-- Waking changes the stage alone. -/
theorem State.wakeUp_eq (s : State) :
    ∃ ident, s.wakeUp = { s with stage := if s.stage = 7 then 1 else s.stage, regs := { s.regs with ident := ident } } := by
  unfold State.wakeUp
  split
  · exact ⟨_, rfl⟩
  · exact ⟨s.regs.ident, rfl⟩

theorem State.busyModule_iff {s : State} : s.busyModule = true ↔
    (∃ e ∈ s.regs.queues, e.2.qcfg.getLsbD 7 = true) ∨ (∃ e ∈ s.regs.heads, e.2.hctl.getLsbD 0 = true) ∨
      (∃ e ∈ s.gangs, e.2.done = false ∧ e.2.pre ≠ .saved) ∨ s.spools ≠ [] ∨ ∃ e ∈ s.nodes, e.2.closed = false := by
  simp only [State.busyModule, Queue.en, Head.en, Bool.or_eq_true, List.any_eq_true, Bool.and_eq_true, Bool.not_eq_true', bne_iff_ne,
    List.isEmpty_eq_false_iff, or_assoc]

/-! ### Bring-up -/

theorem exec_bringupStage (good : Bool) (s : State) : exec (.bringupStage good) s = execBringupStage good s := rfl

/-- Stage 2 leads to stage 3, or to stage 6 while the module wakes, and ends the wake. -/
theorem State.wakes_or_rises (t : State) : (if t.idle = true then State.atStage { t with idle := false } 6 else t.atStage 3) =
    State.atStage { t with idle := false } (if t.idle = true then 6 else 2 + 1) := by
  cases h : t.idle with
  | true => rfl
  | false => exact congrArg (fun b => State.atStage { t with idle := b } 3) h

/-- What lasts through every stage. -/
def State.lasting (s : State) : List Host.Cell × List (Nat × Nat) × List (Nat × Partition) × Nat × Nat :=
  (s.mem, s.keys, s.regs.parts, s.rollback, s.fab)

theorem State.mem_retireUnits {s : State} {size c : Nat} : c ∈ (s.retireUnits size).retired ↔
    (c < 384 ∧ (Config.free s.freeCtr (c / size)).getLsbD 0 = true ∧ c ∉ s.retired) ∨ c ∈ s.retired := by
  simp [State.retireUnits]

/-- A core that is retired takes those of its unit with it. -/
theorem State.retireUnits_whole {s : State} {size c d : Nat} (hd : d < 384) (unit : c / size = d / size)
    (hc : c ∈ (s.retireUnits size).retired) (new : c ∉ s.retired) : d ∈ (s.retireUnits size).retired := by
  obtain ⟨_, failed, _⟩ := (State.mem_retireUnits.mp hc).resolve_right new
  by_cases old : d ∈ s.retired
  · exact State.mem_retireUnits.mpr (.inr old)
  · exact State.mem_retireUnits.mpr (.inl ⟨hd, unit ▸ failed, old⟩)

section
variable {good : Bool} {s : State} (powered : s.powered = true) (cool : s.tripped = false) (well : s.good = true)
include powered cool well

/-- A stage that fails where the module has nothing to retire holds it there (R407). -/
theorem bringupStage_stuck (h : s.stage = 0 ∨ s.stage = 3) : exec (.bringupStage false) s = .next { s with good := false } := by
  rw [exec_bringupStage]
  obtain h | h := h <;> simp [execBringupStage, powered, cool, well, h]

theorem bringupStage_unverified (h : s.stage = 5) (bad : good = false ∨ s.acceptsFirmware s.runningFirmware = false) :
    exec (.bringupStage good) s = .next { s with good := false } := by
  have : ¬ (good = true ∧ s.acceptsFirmware s.runningFirmware = true) := by
    rintro ⟨hg, ha⟩
    simp [hg, ha] at bad
  rw [exec_bringupStage]
  simp only [execBringupStage, powered, cool, well, h, this]
  rfl

/-- A stage that completes goes on to the next one (R407), or from stage 2 to stage 6 while the module wakes (R404). -/
theorem bringupStage_rises (hs : s.stage < 6) (goes : good = true ∨ s.stage = 1 ∨ s.stage = 2 ∨ s.stage = 4)
    (verified : s.stage = 5 → s.acceptsFirmware s.runningFirmware = true) :
    ∃ u : State, exec (.bringupStage good) s = .next (u.atStage (if s.stage = 2 ∧ s.idle = true then 6 else s.stage + 1)) ∧
      u.lasting = s.lasting ∧ u.fabUp = (if s.stage = 1 then s.fab else s.fabUp) ∧
      (u.retired = s.retired ∨ good = false ∧ ∃ size, (s.stage = 1 ∧ size = 96 ∨ s.stage = 2 ∧ size = 8) ∧
        u.retired = (s.retireUnits size).retired) := by
  rw [exec_bringupStage]
  unfold execBringupStage
  rw [if_neg (by simp [powered, cool, well])]
  obtain h | h | h | h | h | h : s.stage = 0 ∨ s.stage = 1 ∨ s.stage = 2 ∨ s.stage = 3 ∨ s.stage = 4 ∨ s.stage = 5 := by omega
  all_goals simp only [h] at goes verified ⊢
  · obtain rfl : good = true := by simpa using goes
    exact ⟨s, rfl, rfl, rfl, .inl rfl⟩
  · cases good with
    | true => exact ⟨{ s with fabUp := s.fab, samplers := [] }, rfl, rfl, rfl, .inl rfl⟩
    | false =>
      exact ⟨{ s.retireUnits 96 with fabUp := s.fab, samplers := [] }, rfl, rfl, rfl, .inr ⟨rfl, 96, .inl ⟨trivial, rfl⟩, rfl⟩⟩
  · simp only [true_and]
    cases good with
    | true => exact ⟨{ s with idle := false }, congrArg _ s.wakes_or_rises, rfl, rfl, .inl rfl⟩
    | false =>
      exact ⟨{ s.retireUnits 8 with idle := false }, congrArg _ (s.retireUnits 8).wakes_or_rises, rfl, rfl,
        .inr ⟨rfl, 8, .inr rfl, rfl⟩⟩
  · obtain rfl : good = true := by simpa using goes
    exact ⟨s, rfl, rfl, rfl, .inl rfl⟩
  · exact ⟨s.trainLinks good, rfl, rfl, rfl, .inl rfl⟩
  · obtain rfl : good = true := by simpa using goes
    exact ⟨s.runFirmware s.runningFirmware, by simp [verified], rfl, rfl, .inl rfl⟩

end

/-! ### The clock and its sensors -/

/-- The module with its clock at `n` and its sensors read (R403). -/
def State.throttled (s : State) (n : Nat) : State :=
  let temps := (Config.free s.freeCtr 0).toNat % 2 ^ 40
  { s.bumpFree with
    regs := { s.regs with clkstat := BitVec.ofNat 64 n, therm := BitVec.ofNat 64 ((decide (n < 33)).toNat * 2 ^ 40 + temps) }
    hot := n == 15 && (sensorAt temps 96 || (Config.free s.freeCtr 1).getLsbD 0) }

/-- The module is hot at the lowest clock only, where a sensor reads more than 95 °C (R403). -/
theorem State.throttled_cool (s : State) {n : Nat} (h : n ≠ 15) : (s.throttled n).hot = false := by
  simp [State.throttled, h]

theorem State.throttled_hot {s : State} (h : sensorAt ((Config.free s.freeCtr 0).toNat % 2 ^ 40) 96 = true) :
    (s.throttled 15).hot = true := by
  simp only [State.throttled, h]
  rfl

theorem exec_clockThrottle {n : Nat} {s : State} (lo : 15 ≤ n) (hi : n ≤ 33) (unlocked : s.locked = false) :
    exec (.clockThrottle n) s = .next (if sensorAt ((Config.free s.freeCtr 0).toNat % 2 ^ 40) 110 = true then (s.throttled n).trip
      else s.throttled n) :=
  if_neg (by simp [unlocked]; omega)

theorem clockThrottle_locked {s : State} (n : Nat) (locked : s.locked = true) : exec (.clockThrottle n) s = .next s :=
  if_pos (.inr (.inr locked))

/-- What THERM holds: the clock's step in bit 40, and five readings below it. -/
theorem State.throttled_therm (s : State) (n : Nat) :
    (s.throttled n).regs.therm.toNat = (decide (n < 33)).toNat * 2 ^ 40 + (Config.free s.freeCtr 0).toNat % 2 ^ 40 := by
  have step := (decide (n < 33)).toNat_le
  simp only [State.throttled, BitVec.toNat_ofNat]
  omega

theorem State.throttled_step (s : State) (n : Nat) : (s.throttled n).regs.therm.getLsbD 40 = decide (n < 33) := by
  rw [BitVec.getLsbD, State.throttled_therm, Nat.testBit_eq_decide_div_mod_eq]
  cases decide (n < 33) <;> simp

theorem State.throttled_sensor {s : State} {n limit : Nat} : sensorAt ((Config.free s.freeCtr 0).toNat % 2 ^ 40) limit = true ↔
    ∃ k, k < 5 ∧ limit ≤ (s.throttled n).regs.therm.toNat / 256 ^ k % 256 := by
  have reading : ∀ k, k < 5 → (s.throttled n).regs.therm.toNat / 256 ^ k % 256 =
      (Config.free s.freeCtr 0).toNat % 2 ^ 40 / 256 ^ k % 256 := by
    intro k hk
    rw [State.throttled_therm]
    interval_cases k <;> omega
  simp only [sensorAt, List.any_eq_true, List.mem_range, decide_eq_true_eq]
  exact exists_congr fun k => and_congr_right fun hk => by rw [reading k hk]

/-- Nothing but the clock's registers, the module's heat and the counter of open values differs. -/
theorem State.throttled_frame (s : State) (n : Nat) :
    ∃ therm hot, (s.throttled n).regs.therm = therm ∧ (s.throttled n).hot = hot ∧ s.throttled n = { s with
      regs := { s.regs with clkstat := BitVec.ofNat 64 n, therm := therm }, hot := hot, freeCtr := s.freeCtr + 1 } :=
  ⟨_, _, rfl, rfl, rfl⟩

end Sys2Proof.Machine
end

section
set_option Elab.async false
namespace Sys2Proof
open Machine

theorem claim_idleAndWake : Claim.IdleAndWake := by
  intro s m hm
  obtain rfl : s.regs.mbox = m := Option.some.inj hm
  refine ⟨fun h busy => ?_, fun h quiet => ?_, fun h => ?_, State.busyModule_iff⟩
  · rw [exec_idle h, if_pos busy]
  · obtain ⟨ident, _, shown⟩ := State.atStage_eq { s.clearCores (fun c => decide (c < 384)) with
      recCache := s.recCache.filter fun e => decide (recKey 8 0 0 0 ≤ e.1), idle := true } 7
    rw [exec_idle h, if_neg (by simp [quiet]), State.endMail_platform, shown]
    refine ⟨_, rfl, rfl, rfl, rfl, rfl, rfl, rfl, fun e => ?_, rfl, fun w => ?_⟩
    · exact List.mem_filter.trans (and_congr_right fun _ => by rw [Bool.not_eq_true', ← Bool.not_eq_true, clearsTlb_compute])
    · exact (State.clearCores_wave s (fun c => decide (c < 384)) w).trans (if_congr decide_eq_true_iff rfl rfl)
  · obtain ⟨ident, woken⟩ := s.wakeUp_eq
    rw [exec_wake h, State.endMail_platform, woken]
    exact ⟨_, rfl, rfl, rfl, rfl, rfl, rfl⟩

theorem claim_bringUp : Claim.BringUp := by
  intro good s powered cool well stuck
  refine ⟨fun h bad => ?_, bringupStage_unverified powered cool well, fun hs goes verified => ?_⟩
  · subst bad
    exact bringupStage_stuck powered cool well h
  · obtain ⟨u, run, lasting, fabUp, retired⟩ := bringupStage_rises powered cool well hs goes verified
    simp only [State.lasting, Prod.mk.injEq] at lasting
    obtain ⟨mem, keys, parts, rollback, fab⟩ := lasting
    have stage := u.atStage_ident (n := if s.stage = 2 ∧ s.idle = true then 6 else s.stage + 1) (by split <;> omega)
    obtain ⟨ident, hi, shown⟩ := u.atStage_eq (if s.stage = 2 ∧ s.idle = true then 6 else s.stage + 1)
    rw [shown] at run
    refine ⟨_, run, mem, keys, parts, rollback, fab, fabUp, rfl, hi ▸ stage, ?_, ?_, ?_⟩
    · obtain same | ⟨bad, size, stage, _⟩ := retired
      · exact fun _ => same
      · intro h
        simp only [bad, Bool.false_eq_true, false_or] at h
        omega
    · obtain same | ⟨_, size, _, units⟩ := retired
      · exact fun c hc => same.symm ▸ hc
      · exact fun c hc => units.symm ▸ State.mem_retireUnits.mpr (.inr hc)
    · intro c d _ hd dies groups hc new
      obtain same | ⟨_, size, stage, units⟩ := retired
      · exact absurd (same ▸ hc) new
      · have unit : c / size = d / size := by
          obtain ⟨h, rfl⟩ | ⟨h, rfl⟩ := stage
          · exact dies h
          · exact groups h
        exact units.symm ▸ State.retireUnits_whole hd unit (units ▸ hc) new

theorem claim_powerAndReset : Claim.PowerAndReset := by
  refine ⟨fun s => ⟨_, rfl, rfl, rfl, rfl, rfl, rfl, rfl, rfl, rfl, rfl, rfl, rfl⟩,
    fun s => ⟨_, rfl, rfl, rfl, rfl, rfl, rfl, rfl, rfl, rfl, rfl⟩, fun n s => clockThrottle_locked n, fun n s lo hi unlocked => ?_,
    fun s => ⟨_, rfl, rfl, rfl, rfl, rfl, rfl, rfl, rfl, rfl⟩⟩
  obtain ⟨therm, hot, ht, hh, frame⟩ := s.throttled_frame n
  have step : therm.getLsbD 40 = decide (n < 33) := ht ▸ s.throttled_step n
  have sensor : ∀ limit, sensorAt ((Config.free s.freeCtr 0).toNat % 2 ^ 40) limit = true ↔
      ∃ k, k < 5 ∧ limit ≤ therm.toNat / 256 ^ k % 256 := fun limit => ht ▸ State.throttled_sensor
  have cool : n ≠ 15 → hot = false := fun hn => hh ▸ s.throttled_cool hn
  have warm : n = 15 → (∃ k, k < 5 ∧ 96 ≤ therm.toNat / 256 ^ k % 256) → hot = true := by
    rintro rfl reads
    exact hh ▸ State.throttled_hot ((sensor 96).mpr reads)
  rw [exec_clockThrottle lo hi unlocked, frame]
  by_cases trips : sensorAt ((Config.free s.freeCtr 0).toNat % 2 ^ 40) 110 = true
  · rw [if_pos trips]
    exact ⟨_, rfl, rfl, step, rfl, rfl, cool, warm, fun _ => ⟨rfl, rfl, rfl, rfl, rfl⟩, fun below => absurd ((sensor 110).mp trips) below⟩
  · rw [if_neg trips]
    exact ⟨_, rfl, rfl, step, rfl, rfl, cool, warm, fun reads => absurd ((sensor 110).mpr reads) trips, fun _ => rfl⟩

/-- Settles O54. The ten claims, each from what its command or event answers: mailboxes; PART_SET, whose areas are found one after another;
PART_RESET, where the end of a partition's gangs leaves what stands; keys and reports; images; firmware; idle and wake; bring-up; reset and
power. -/
theorem platform : Obligations.Platform :=
  ⟨claim_mailboxes, claim_partitionSets, claim_areasFound, claim_partitionResets, claim_keysAndReports, claim_imageLoads,
    claim_firmwareUpdates, claim_idleAndWake, claim_bringUp, claim_powerAndReset⟩

end Sys2Proof
end

section
/-! SUPPORT. What a cycle shows of the panels that issue (02 R18, 16 R313), and the order in which ready panels issue (17 R342). -/

set_option Elab.async false
namespace Sys2Proof.Machine

/-! ### Every panel of a wave -/

theorem Wave.mem_entries {w : Wave} {e : Nat} : e ∈ w.entries ↔ e < 8 ∧ (w.panel e).valid = true := by
  simp [Wave.entries]

theorem Wave.entries_nodup (w : Wave) : w.entries.Nodup := List.nodup_range.filter _

/-- A change of some entries' panels, one after another, each from its own panel. -/
theorem Wave.foldl_setPanel_panel (f : Panel → Panel) {l : List Nat} (hl : l.Nodup) (w : Wave) (e : Nat) :
    (l.foldl (fun w e => w.setPanel e (f (w.panel e))) w).panel e = if e ∈ l then f (w.panel e) else w.panel e := by
  induction l generalizing w with
  | nil => simp
  | cons a l ih =>
    obtain ⟨ha, hl⟩ := List.nodup_cons.mp hl
    rw [List.foldl_cons, ih hl]
    by_cases h : e = a
    · subst h
      simp [ha]
    · simp [h, Wave.panel_setPanel_other _ _ _ _ h]

theorem Wave.mapPanels_panel (w : Wave) (f : Panel → Panel) (e : Nat) :
    (w.mapPanels f).panel e = if e ∈ w.entries then f (w.panel e) else w.panel e :=
  Wave.foldl_setPanel_panel f w.entries_nodup w e

theorem Wave.foldl_setPanel_eq (f : Panel → Panel) (l : List Nat) (w : Wave) :
    l.foldl (fun w e => w.setPanel e (f (w.panel e))) w =
      { w with panels := (l.foldl (fun w e => w.setPanel e (f (w.panel e))) w).panels } := by
  induction l generalizing w with
  | nil => rfl
  | cons a l ih => exact ih _

/-- Nothing but the panels changes. -/
theorem Wave.mapPanels_eq (w : Wave) (f : Panel → Panel) : w.mapPanels f = { w with panels := (w.mapPanels f).panels } :=
  Wave.foldl_setPanel_eq f w.entries w

@[simp] theorem Wave.mapPanels_alive (w : Wave) (f : Panel → Panel) : (w.mapPanels f).alive = w.alive := by rw [Wave.mapPanels_eq]

/-! ### What a cycle shows -/

theorem Panel.shown_stall {p : Panel} (h : p.shown.iss = true) : p.shown.stall = 0 := by
  unfold Panel.shown at h ⊢
  cases hp : p.iss with
  | true => simp
  | false => simp [hp] at h

@[simp] theorem Panel.shown_valid (p : Panel) : p.shown.valid = p.valid := by
  unfold Panel.shown
  split <;> rfl

theorem State.shown_wave (s : State) (k : Nat) :
    s.shown.wave k = if (s.wave k).alive then (s.wave k).mapPanels Panel.shown else s.wave k := by
  have hd : (if Wave.empty.alive then Wave.empty.mapPanels Panel.shown else Wave.empty) = Wave.empty := rfl
  rw [State.wave, State.wave, ← Sparse.get_map (f := fun w : Wave => if w.alive then w.mapPanels Panel.shown else w) hd]
  congr 1
  refine List.map_congr_left fun e _ => ?_
  split <;> rfl

/-- Whatever a cycle did, a panel that is shown as one that issued shows no stall reason. -/
theorem State.shown_issueShown (s : State) : Claim.IssueShown s.shown := by
  intro wid e he ha hv hi
  have alive : (s.wave wid).alive = true := by
    rw [State.shown_wave] at ha
    cases h : (s.wave wid).alive with
    | true => rfl
    | false => simp [h] at ha
  rw [State.shown_wave, if_pos alive, Wave.mapPanels_panel] at hv hi ⊢
  by_cases hm : e ∈ (s.wave wid).entries
  · rw [if_pos hm] at hi ⊢
    exact Panel.shown_stall hi
  · rw [if_neg hm] at hv
    exact absurd (Wave.mem_entries.mpr ⟨he, hv⟩) hm

/-- Every step ends with what the cycle shows. -/
theorem step_shows {s t : State} (h : step s = .next t) : ∃ w d, t = { State.shown w with dispPart := d } := by
  obtain ⟨acts, who, ts, hr⟩ := nextTurn_runs s
  obtain ⟨_, _, w, _, _, _, ht⟩ := runCycle_eq_next.mp (hr.symm.trans h)
  exact ⟨w, _, ht.symm⟩

/-! ### Who issues -/

section
variable {α : Type}

theorem mem_insertBy {key : α → Nat} {x y : α} {l : List α} : y ∈ insertBy key x l ↔ y = x ∨ y ∈ l := by
  induction l with
  | nil => simp [insertBy]
  | cons a l ih =>
    unfold insertBy
    split
    · simp
    · simp only [List.mem_cons, ih]
      tauto

@[simp] theorem mem_sortBy {key : α → Nat} {y : α} {l : List α} : y ∈ sortBy key l ↔ y ∈ l := by
  induction l with
  | nil => simp [sortBy]
  | cons a l ih =>
    show y ∈ insertBy key a (sortBy key l) ↔ _
    rw [mem_insertBy, ih, List.mem_cons]

theorem insertBy_sorted {key : α → Nat} {x : α} {l : List α} (h : l.Pairwise fun a b => key a ≤ key b) :
    (insertBy key x l).Pairwise fun a b => key a ≤ key b := by
  induction l with
  | nil => simp [insertBy]
  | cons a l ih =>
    obtain ⟨ha, hl⟩ := List.pairwise_cons.mp h
    unfold insertBy
    split
    · next hx =>
      refine List.pairwise_cons.mpr ⟨fun b hb => ?_, h⟩
      rcases List.mem_cons.mp hb with rfl | hb
      · exact hx
      · exact hx.trans (ha b hb)
    · next hx =>
      refine List.pairwise_cons.mpr ⟨fun b hb => ?_, ih hl⟩
      rcases mem_insertBy.mp hb with rfl | hb
      · omega
      · exact ha b hb

theorem sortBy_sorted (key : α → Nat) (l : List α) : (sortBy key l).Pairwise fun a b => key a ≤ key b := by
  induction l with
  | nil => exact List.Pairwise.nil
  | cons a l ih => exact insertBy_sorted ih

end

/-- The class of the work that a panel does; work of no known launch counts as the last (R342). -/
def State.classOf (s : State) (x : Nat × Nat) : Nat :=
  match s.launch? (s.curWg { wid := x.1, entry := x.2, len := 1 }).lid with
  | none => 4
  | some l => l.cls

theorem State.classOf_eq_zero_iff {s : State} {x : Nat × Nat} :
    s.classOf x = 0 ↔ ∃ l, s.launch? (s.curWg { wid := x.1, entry := x.2, len := 1 }).lid = some l ∧ l.cls = 0 := by
  unfold State.classOf
  cases s.launch? (s.curWg { wid := x.1, entry := x.2, len := 1 }).lid <;> simp

/-- Since when a ready panel is ready, as its rank counts it. -/
def State.since (s : State) (x : Nat × Nat) : Nat := ((s.wave x.1).panel x.2).readySince s.cycle

/-- The part of a panel's rank that urgency, class and readiness give (R342). -/
def State.precedence (s : State) (x : Nat × Nat) : Nat :=
  ((if s.since x + 192 ≤ s.cycle then 0 else 2) + (if s.classOf x = 0 then 0 else 1)) * 2 ^ 64 + s.since x

theorem State.rank_eq (s : State) (x : Nat × Nat) :
    s.rank x = s.precedence x * 2 ^ 32 + x.1 % 64 * 2 ^ 16 + x.1 / 64 * 8 + x.2 := rfl

/-- On one core the lower slot and entry come first among panels of one precedence. -/
theorem State.rank_lt_iff {s : State} {x y : Nat × Nat} (hx : x.2 < 8) (hy : y.2 < 8) (core : x.1 / 64 = y.1 / 64) :
    s.rank x < s.rank y ↔ s.precedence x < s.precedence y ∨
      (s.precedence x = s.precedence y ∧ (x.1 % 64 < y.1 % 64 ∨ (x.1 = y.1 ∧ x.2 < y.2))) := by
  rw [State.rank_eq, State.rank_eq]
  omega

/-- No two panels of a core have one rank. -/
theorem State.rank_inj {s : State} {x y : Nat × Nat} (hx : x.2 < 8) (hy : y.2 < 8) (core : x.1 / 64 = y.1 / 64)
    (h : s.rank x = s.rank y) : x = y := by
  rw [State.rank_eq, State.rank_eq] at h
  refine Prod.ext ?_ ?_ <;> omega

/-- In the order of the ranks a panel is selected where none before it holds one of its slices. -/
theorem State.mem_selected {s : State} {l : List (Nat × Nat)} (sorted : l.Pairwise fun a b => s.rank a ≤ s.rank b)
    (inj : ∀ a ∈ l, ∀ b ∈ l, s.rank a = s.rank b → a = b) (taken : BitVec 16) (x : Nat × Nat) :
    x ∈ s.selected l taken ↔ x ∈ l ∧ s.slicesOf x &&& taken = 0 ∧
      ∀ y ∈ l, s.rank y < s.rank x → s.slicesOf y &&& s.slicesOf x = 0 := by
  induction l generalizing taken with
  | nil => simp [State.selected]
  | cons a l ih =>
    obtain ⟨ha, hl⟩ := List.pairwise_cons.mp sorted
    have rest := ih hl (fun b hb c hc => inj b (List.mem_cons_of_mem _ hb) c (List.mem_cons_of_mem _ hc))
      (taken ||| s.slicesOf a)
    have free : s.slicesOf x &&& (taken ||| s.slicesOf a) = 0 ↔
        s.slicesOf x &&& taken = 0 ∧ s.slicesOf a &&& s.slicesOf x = 0 := by
      rw [BitVec.and_comm (s.slicesOf a), BitVec.and_or_distrib_left]
      exact BitVec.or_eq_zero_iff
    have unfolded : x ∈ s.selected (a :: l) taken ↔
        (x = a ∧ s.slicesOf a &&& taken = 0) ∨ x ∈ s.selected l (taken ||| s.slicesOf a) := by
      simp only [State.selected]
      split
      · next h => simp [h]
      · next h => exact ⟨.inr, fun hx => hx.resolve_left fun hx => h hx.2⟩
    rw [unfolded, rest, free]
    by_cases h : x = a
    · subst h
      have least : ∀ y ∈ x :: l, ¬ s.rank y < s.rank x := by
        intro y hy
        rcases List.mem_cons.mp hy with rfl | hy
        · exact lt_irrefl _
        · exact not_lt.mpr (ha y hy)
      constructor
      · rintro (⟨-, h⟩ | ⟨-, ⟨h, -⟩, -⟩) <;> exact ⟨List.mem_cons_self, h, fun y hy lt => absurd lt (least y hy)⟩
      · rintro ⟨-, h, -⟩
        exact .inl ⟨rfl, h⟩
    · have before : x ∈ l → s.rank a < s.rank x := fun hx => lt_of_le_of_ne (ha x hx) fun e =>
        h (inj x (List.mem_cons_of_mem _ hx) a List.mem_cons_self e.symm)
      simp only [h, false_and, false_or, List.mem_cons, forall_eq_or_imp]
      tauto

/-- R16, R342. -/
theorem claim_issueSelected : Claim.IssueSelected := by
  intro s ready he x
  have inj : ∀ k, ∀ a ∈ sortBy s.rank (ready.filter fun x => x.1 / 64 == k),
      ∀ b ∈ sortBy s.rank (ready.filter fun x => x.1 / 64 == k), s.rank a = s.rank b → a = b := by
    intro k a ha b hb h
    simp only [mem_sortBy, List.mem_filter, beq_iff_eq] at ha hb
    exact State.rank_inj (he a ha.1) (he b hb.1) (ha.2.trans hb.2.symm) h
  simp only [State.arbitrate, mem_sortBy, List.mem_flatMap, List.mem_eraseDups, List.mem_map,
    State.mem_selected (sortBy_sorted _ _) (inj _), List.mem_filter, beq_iff_eq]
  constructor
  · rintro ⟨k, -, ⟨hx, rfl⟩, -, free⟩
    exact ⟨hx, fun y hy core lt => free y ⟨hy, core⟩ lt⟩
  · rintro ⟨hx, free⟩
    exact ⟨x.1 / 64, ⟨x, hx, rfl⟩, ⟨hx, rfl⟩, BitVec.and_zero, fun y hy lt => free y hy.1 hy.2 lt⟩

/-- Urgency first, then realtime work, then the earliest ready: as one number. -/
theorem precedence_iff {u v r q : Prop} [Decidable u] [Decidable v] [Decidable r] [Decidable q] {a b : Nat} (ha : a < 2 ^ 64)
    (hb : b < 2 ^ 64) :
    let x := (if u then 0 else 2) + (if r then 0 else 1)
    let y := (if v then 0 else 2) + (if q then 0 else 1)
    (x * 2 ^ 64 + a < y * 2 ^ 64 + b ↔ (u ∧ ¬ v) ∨ ((u ↔ v) ∧ ((r ∧ ¬ q) ∨ ((r ↔ q) ∧ a < b)))) ∧
    (x * 2 ^ 64 + a = y * 2 ^ 64 + b ↔ (u ↔ v) ∧ (r ↔ q) ∧ a = b) := by
  intro x y
  have lt : x * 2 ^ 64 + a < y * 2 ^ 64 + b ↔ x < y ∨ x = y ∧ a < b := by omega
  have eq : x * 2 ^ 64 + a = y * 2 ^ 64 + b ↔ x = y ∧ a = b := by omega
  rw [lt, eq]
  by_cases hu : u <;> by_cases hv : v <;> by_cases hr : r <;> by_cases hq : q <;> simp [x, y, hu, hv, hr, hq]

theorem State.since_lt {s : State} {x : Nat × Nat} {n : Nat} (hr : ((s.wave x.1).panel x.2).ready < n) (hn : s.cycle < n) :
    s.since x < n := by
  unfold State.since Panel.readySince
  split <;> assumption

/-- R342. -/
theorem claim_issueOrder : Claim.IssueOrder := by
  intro s x y hx hy core now hrx hry
  have precedence := precedence_iff (u := s.since x + 192 ≤ s.cycle) (v := s.since y + 192 ≤ s.cycle)
    (r := s.classOf x = 0) (q := s.classOf y = 0) (State.since_lt hrx now) (State.since_lt hry now)
  have nested : ∀ {A B R Q E : Prop} {a b : Nat},
      ((A ∧ ¬ B ∨ (A ↔ B) ∧ (R ∧ ¬ Q ∨ (R ↔ Q) ∧ a < b)) ∨ ((A ↔ B) ∧ (R ↔ Q) ∧ a = b) ∧ E) ↔
        (A ∧ ¬ B) ∨ ((A ↔ B) ∧ ((R ∧ ¬ Q) ∨ ((R ↔ Q) ∧ (a < b ∨ (a = b ∧ E))))) := by
    intro A B R Q E a b
    by_cases hu : (A ↔ B) <;> by_cases hr : (R ↔ Q) <;> simp [hu, hr]
  rw [State.rank_lt_iff hx hy core, State.precedence, State.precedence, precedence.1, precedence.2,
    State.classOf_eq_zero_iff, State.classOf_eq_zero_iff]
  exact nested

end Sys2Proof.Machine

namespace Sys2Proof

open Machine

/-- Settles O59. Every step ends by showing its cycle, and what is shown keeps no stall reason beside an issue; the ranks of a core's
panels differ and encode the order of R342, in which the greedy choice takes what no panel before holds. -/
theorem stepsShowIssue : Obligations.StepsShowIssue := by
  refine ⟨fun s t _ h => ?_, claim_issueSelected, claim_issueOrder⟩
  obtain ⟨w, d, rfl⟩ := step_shows h
  exact State.shown_issueShown w

end Sys2Proof
end

section
/-! SUPPORT. What writing records leaves alone (16 R315, R321, 18 R350): an access to memory changes what memory, L1s and TLBs hold, a
record the registers of its partition besides. -/

set_option Elab.async false
namespace Sys2Proof.Machine

/-- The machine but for what accesses to memory change and the registers of the partitions. -/
def State.unlogged (s : State) : State := { s.bare with regs := { s.regs with parts := [] } }

theorem State.unlogged_of_bare {s t : State} (h : t.bare = s.bare) : t.unlogged = s.unlogged := by
  unfold State.unlogged
  rw [h, State.regs_of_bare h]

theorem State.waves_of_unlogged {s t : State} (h : t.unlogged = s.unlogged) : t.waves = s.waves :=
  (congrArg State.waves h : t.unlogged.waves = s.unlogged.waves)

theorem State.wave_of_waves {s t : State} (h : t.waves = s.waves) (k : Nat) : t.wave k = s.wave k := by
  rw [State.wave, State.wave, h]

@[simp] theorem State.setPart_unlogged (s : State) (p : Nat) (x : Partition) : (s.setPart p x).unlogged = s.unlogged := rfl

theorem State.unlogged_of_writeVa {s t : State} {a : Acc} {va : Nat} {bs : List Byte} (h : s.writeVa a va bs = .ok t) :
    t.unlogged = s.unlogged := State.unlogged_of_bare (State.bare_of_writeVa h)

@[simp] theorem State.flushRing_unlogged (p : Nat) (rs : List FaultRec) (s : State) : (s.flushRing p rs).unlogged = s.unlogged := by
  induction rs generalizing s with
  | nil => rfl
  | cons r rs ih =>
    simp only [State.flushRing]
    split
    · rfl
    · split
      · rfl
      · rw [ih, State.setPart_unlogged]
        exact State.unlogged_of_writeVa ‹_›

@[simp] theorem State.recordFault_unlogged (s : State) (p : Nat) (r : FaultRec) :
    (s.recordFault p r).1.unlogged = s.unlogged := by
  simp only [State.recordFault, State.retryRing, State.flushRing_unlogged, State.setPart_unlogged]

@[simp] theorem State.writeRing_unlogged (p base size n : Nat) (head : Nat) (bs : List Byte) (s : State) :
    (s.writeRing p base size head bs n).unlogged = s.unlogged := by
  induction n generalizing s head bs with
  | zero => rfl
  | succ n ih =>
    rw [State.writeRing, ih]
    split
    · exact State.unlogged_of_writeVa ‹_›
    · rfl

@[simp] theorem State.traceAppend_unlogged (s : State) (p type rsn die : Nat) (body : List Byte) (len : Nat) :
    (s.traceAppend p type rsn die body len).unlogged = s.unlogged := by
  simp only [State.traceAppend]
  split
  · rfl
  · rw [State.setPart_unlogged, State.writeRing_unlogged]

@[simp] theorem State.traceRecord_unlogged (s : State) (p type rsn die : Nat) (body : List Byte) (len : Nat) :
    (s.traceRecord p type rsn die body len).unlogged = s.unlogged := by
  simp only [State.traceRecord]
  split
  · rfl
  · split
    · split
      · exact State.traceAppend_unlogged ..
      · rw [State.traceAppend_unlogged, State.setPart_unlogged, State.traceAppend_unlogged]
    · exact State.traceAppend_unlogged ..

/-- A record of a panel's event changes no wave. -/
@[simp] theorem State.eventRecord_unlogged (s : State) (wid e type rsn : Nat) :
    (s.eventRecord wid e type rsn).unlogged = s.unlogged := by
  simp only [State.eventRecord]
  split
  · rfl
  · split
    · rfl
    · exact State.traceRecord_unlogged ..

@[simp] theorem State.eventRecord_waves (s : State) (wid e type rsn : Nat) : (s.eventRecord wid e type rsn).waves = s.waves :=
  State.waves_of_unlogged (State.eventRecord_unlogged ..)

@[simp] theorem State.eventRecord_wave (s : State) (wid e type rsn k : Nat) : (s.eventRecord wid e type rsn).wave k = s.wave k :=
  State.wave_of_waves (State.eventRecord_waves ..) k

end Sys2Proof.Machine
end

section
/-! SUPPORT. What happens to a panel between its issues (02 R20, 08 R142-R144). -/

set_option Elab.async false
namespace Sys2Proof.Machine

theorem map_zipIdx_eq_modify {α : Type} (f : α → α) (l : List α) (k : Nat) :
    (l.zipIdx.map fun x => if x.2 = k then f x.1 else x.1) = l.modify k f := by
  refine List.ext_getElem? fun j => ?_
  rw [List.getElem?_map, List.getElem?_zipIdx, List.getElem?_modify]
  cases l[j]? with
  | none => rfl
  | some x => simp [eq_comm]

/-- A delivered result stays outstanding for the quads that it has not come for, and goes when there are none. -/
theorem deliver_eq_afterDelivery {l : List Outstanding} {k : Nat} {x : Outstanding} (hx : l[k]? = some x)
    (owed : ∀ y ∈ l, y.quads ≠ 0) (q : BitVec 16) : deliver l k q = Claim.afterDelivery l k x q := by
  obtain ⟨hk, rfl⟩ := List.getElem?_eq_some_iff.mp hx
  have kept : ∀ m : List Outstanding, (∀ y ∈ m, y ∈ l) → m.filter (fun y => y.quads != 0) = m :=
    fun m hm => List.filter_eq_self.mpr fun y hy => by simpa using owed y (hm y hy)
  unfold deliver Claim.afterDelivery
  rw [map_zipIdx_eq_modify (fun y : Outstanding => { y with quads := y.quads &&& ~~~ q }), List.modify_eq_take_cons_drop hk,
    List.filter_append, List.filter_cons, kept _ fun y => List.mem_of_mem_take, kept _ fun y => List.mem_of_mem_drop,
    List.append_assoc]
  by_cases h : l[k].quads &&& ~~~ q = 0#16 <;> simp [h]

theorem stallHintExpiry_past {s : State} {w e : Nat} (valid : ((s.wave w).panel e).valid = true) (hinted : ((s.wave w).panel e).hold ≠ 0)
    (noYield : ((s.wave w).panel e).yielded = false) (past : ((s.wave w).panel e).hold ≤ s.cycle) :
    exec (.stallHintExpiry w e) s = .next (s.setWave w ((s.wave w).setPanel e { (s.wave w).panel e with hold := 0 })) := by
  show execStallHintExpiry w e s = _
  simp [execStallHintExpiry, valid, hinted, noYield, past]

theorem storeDrain_accepted {s : State} {w e : Nat} (valid : ((s.wave w).panel e).valid = true)
    (due : ((s.wave w).panel e).undrained ≠ 0) :
    exec (.storeDrain w e) s =
      .next (s.setWave w ((s.wave w).setPanel e { (s.wave w).panel e with undrained := ((s.wave w).panel e).undrained - 1 })) := by
  show execStoreDrain w e s = _
  simp [execStoreDrain, valid, due]

theorem variableLatencyResult_arrives {s : State} {w e k : Nat} {q : BitVec 16} {x : Outstanding}
    (valid : ((s.wave w).panel e).valid = true) (hx : ((s.wave w).panel e).outst[k]? = some x) (some : x.quads &&& q ≠ 0#16)
    (noRay : x.ofRays = false) (free : x.held = []) :
    exec (.variableLatencyResult w e k q) s = .next (s.setWave w ((s.wave w).setPanel e
      { (s.wave w).panel e with outst := deliver ((s.wave w).panel e).outst k q })) := by
  show execVariableLatencyResult w e k q s = _
  simp [execVariableLatencyResult, valid, hx, some, noRay, free]

end Sys2Proof.Machine

namespace Sys2Proof

open Machine

/-- Settles O23, event by event; what is left of the outstanding results is the list with one of them cut. -/
theorem betweenIssues : Obligations.BetweenIssues := by
  refine ⟨fun s w e => stallHintExpiry_past, fun s w e => storeDrain_accepted, ?_⟩
  intro s w e k q x p valid hx some noRay free owed
  rw [variableLatencyResult_arrives valid hx some noRay free, deliver_eq_afterDelivery hx owed]

end Sys2Proof
end

section
/-! SUPPORT. Masks of lanes and of quads (02 R16, R24). -/

set_option Elab.async false
namespace Sys2Proof.Machine

theorem getLsbD_quadLanes (q : BitVec 16) {j : Nat} (hj : j < 64) : (quadLanes q).getLsbD j = q.getLsbD (j / 4) :=
  getLsbD_maskOf _ j hj

theorem getLsbD_ofBoolListLE_range {n : Nat} (f : Nat → Bool) {i : Nat} (hi : i < n) :
    (BitVec.ofBoolListLE ((List.range n).map f)).getLsbD i = f i := by
  rw [BitVec.getLsbD_ofBoolListLE, List.getD_eq_getElem?_getD, List.getElem?_map, List.getElem?_range hi]
  rfl

theorem getLsbD_lanesQuads_iff {m : Mask} {i : Nat} (hi : i < 16) :
    (lanesQuads m).getLsbD i = true ↔ ∃ k, k < 4 ∧ m.getLsbD (4 * i + k) = true := by
  have bit : (lanesQuads m).getLsbD i =
      (m.getLsbD (4 * i) || m.getLsbD (4 * i + 1) || m.getLsbD (4 * i + 2) || m.getLsbD (4 * i + 3)) :=
    getLsbD_ofBoolListLE_range _ hi
  rw [bit]
  constructor
  · intro h
    simp only [Bool.or_eq_true] at h
    rcases h with ((h | h) | h) | h
    exacts [⟨0, by omega, h⟩, ⟨1, by omega, h⟩, ⟨2, by omega, h⟩, ⟨3, by omega, h⟩]
  · rintro ⟨k, hk, h⟩
    interval_cases k <;> simp_all

theorem lanesQuads_eq_zero_iff {m : Mask} : lanesQuads m = 0 ↔ m = 0 := by
  constructor
  · intro h
    refine BitVec.eq_of_getLsbD_eq fun j hj => ?_
    cases hm : m.getLsbD j with
    | false => simp
    | true =>
      have := (getLsbD_lanesQuads_iff (m := m) (i := j / 4) (by omega)).mpr ⟨j % 4, by omega, by rwa [Nat.div_add_mod]⟩
      simp [h] at this
  · rintro rfl
    rfl

theorem quadsOf_eq_lanesQuads (m : Mask) : Claim.quadsOf m = lanesQuads m := by
  refine BitVec.eq_of_getLsbD_eq fun i hi => Bool.eq_iff_iff.mpr ?_
  rw [getLsbD_lanesQuads_iff hi, Claim.quadsOf, BitVec.getLsbD_ofFnLE]
  simp [hi]

/-- No quad has lanes of both minds where each is of one. -/
theorem quadsAgree_iff {mask taken : Mask} :
    Claim.quadsAgree mask taken = true ↔ lanesQuads (mask &&& taken) &&& lanesQuads (mask &&& ~~~ taken) = 0 := by
  have clash : ∀ i, i < 16 → ((lanesQuads (mask &&& taken) &&& lanesQuads (mask &&& ~~~ taken)).getLsbD i = true ↔
      (∃ k, k < 4 ∧ mask.getLsbD (4 * i + k) = true ∧ taken.getLsbD (4 * i + k) = true) ∧
        ∃ k, k < 4 ∧ mask.getLsbD (4 * i + k) = true ∧ taken.getLsbD (4 * i + k) = false) := by
    intro i hi
    rw [BitVec.getLsbD_and, Bool.and_eq_true, getLsbD_lanesQuads_iff hi, getLsbD_lanesQuads_iff hi]
    have lane : ∀ k, k < 4 → 4 * i + k < 64 := fun k hk => by omega
    refine and_congr (exists_congr fun k => ?_) (exists_congr fun k => and_congr_right fun hk => ?_)
    · simp
    · simp [lane k hk]
  have agree : Claim.quadsAgree mask taken = true ↔
      ∀ i, i < 16 → ¬ (lanesQuads (mask &&& taken) &&& lanesQuads (mask &&& ~~~ taken)).getLsbD i = true := by
    simp only [Claim.quadsAgree, List.all_eq_true, List.mem_range, Bool.or_eq_true, List.mem_filter, Bool.not_eq_true']
    refine forall_congr' fun i => forall_congr' fun hi => ?_
    rw [clash i hi, not_and_or]
    constructor
    · rintro (h | h)
      · exact .inr fun ⟨k, hk, hm, ht⟩ => by simp [h k ⟨hk, hm⟩] at ht
      · exact .inl fun ⟨k, hk, hm, ht⟩ => by simp [h k ⟨hk, hm⟩] at ht
    · rintro (h | h)
      · exact .inr fun k ⟨hk, hm⟩ => by simpa using fun ht => h ⟨k, hk, hm, ht⟩
      · exact .inl fun k ⟨hk, hm⟩ => by simpa using fun ht => h ⟨k, hk, hm, ht⟩
  rw [agree]
  constructor
  · intro h
    exact BitVec.eq_of_getLsbD_eq fun i hi => by simpa using h i hi
  · intro h i _
    simp [h]

/-- The quads that take a branch split off where each quad is of one mind (R24). -/
theorem takenQuads_eq {mask taken : Mask} (taking : taken ≠ 0) (notAll : taken ≠ mask) (sub : mask &&& taken = taken) :
    takenQuads mask taken = if Claim.quadsAgree mask taken = true then some (Claim.quadsOf taken) else none := by
  have others : mask &&& ~~~ taken ≠ 0 := by
    intro h
    apply notAll
    calc taken = mask &&& taken := sub.symm
      _ = (mask &&& taken) ||| (mask &&& ~~~ taken) := by rw [h]; simp
      _ = mask := by rw [← BitVec.and_or_distrib_left, BitVec.or_not_self, BitVec.and_allOnes]
  simp only [takenQuads, quadsAgree_iff, quadsOf_eq_lanesQuads, sub, ne_eq, lanesQuads_eq_zero_iff, taking, others,
    not_false_eq_true, and_true]

end Sys2Proof.Machine
end
section
/-! SUPPORT. What splits, fuses and seams make of the panels of a wave (02 R22, R24-R30, R33-R35). -/

set_option Elab.async false
namespace Sys2Proof.Machine

/-! ### Free entries and splits -/

theorem Wave.freeEntry_eq_some {w : Wave} {n : Nat} (hn : n < 8) (free : (w.panel n).valid = false)
    (below : ∀ e, e < n → (w.panel e).valid = true) : w.freeEntry = some n := by
  rw [Wave.freeEntry, List.find?_range_eq_some]
  exact ⟨by simp [free], List.mem_range.mpr hn, fun e he => by simp [below e he]⟩

theorem Wave.freeEntry_eq_none {w : Wave} (full : ∀ e, e < 8 → (w.panel e).valid = true) : w.freeEntry = none := by
  rw [Wave.freeEntry, List.find?_eq_none]
  intro e he
  simp [full e (List.mem_range.mp he)]

section
variable {w : Wave} {e n : Nat} {q : BitVec 16} {origin : BitVec 2} {pc : Nat} {cl : Option Clause} {now : Nat}

/-- The panel that keeps its entry keeps the quads that have not split off (R26). -/
theorem Wave.split_panel_old (h : n ≠ e) : (w.split e n q origin pc cl now).panel e = (w.panel e).part (~~~ q) := by
  rw [Wave.split, Wave.panel_setPanel_other _ _ _ _ h.symm, Wave.panel_setPanel]

theorem Wave.split_panel_new : (w.split e n q origin pc cl now).panel n = { (w.panel e).part q with
    origin := origin, pc := pc, clause := cl, status := .run, since := 0, waitct := 0, undrained := (w.panel e).undrained,
    stepping := false, stopAsked := none, wait := none } :=
  Wave.panel_setPanel ..

theorem Wave.split_panel_other {k : Nat} (he : k ≠ e) (hn : k ≠ n) : (w.split e n q origin pc cl now).panel k = w.panel k := by
  rw [Wave.split, Wave.panel_setPanel_other _ _ _ _ hn, Wave.panel_setPanel_other _ _ _ _ he]
  rfl

theorem Wave.split_splitAt : (w.split e n q origin pc cl now).splitAt = some now := rfl

end

/-! ### Fusing -/

theorem lowestQuad_eq_of_first {q : BitVec 16} {k : Nat} (hk : k < 16) (bit : q.getLsbD k = true)
    (first : ∀ i, i < k → q.getLsbD i = false) : lowestQuad q = k := by
  have : (List.range 16).find? (fun i => q.getLsbD i) = some k :=
    List.find?_range_eq_some.mpr ⟨bit, List.mem_range.mpr hk, fun i hi => by simp [first i hi]⟩
  rw [lowestQuad, this]
  rfl

theorem lowestQuad_gt {q : BitVec 16} {k : Nat} (hk : k < 16) (clear : ∀ i, i ≤ k → q.getLsbD i = false) : k < lowestQuad q := by
  unfold lowestQuad
  cases h : (List.range 16).find? (fun i => q.getLsbD i) with
  | none => simpa using hk
  | some i =>
    have bit := List.find?_some h
    by_contra hi
    simp only [Option.getD_some, not_lt] at hi
    simp [clear i hi] at bit

/-- Of two panels about to fuse the one that holds the lowest quad leads (R35). -/
theorem lead_eq {p q : BitVec 16} {k : Nat} (hk : k < 16) (bit : (p ||| q).getLsbD k = true)
    (first : ∀ i, i < k → (p ||| q).getLsbD i = false) : lowestQuad p ≤ lowestQuad q ↔ p.getLsbD k = true := by
  have lower : ∀ i, i < k → p.getLsbD i = false ∧ q.getLsbD i = false := fun i hi => by simpa using first i hi
  have atLeast : ∀ x : BitVec 16, (∀ i, i < k → x.getLsbD i = false) → k ≤ lowestQuad x := by
    intro x hx
    cases h : x.getLsbD k with
    | true => exact (lowestQuad_eq_of_first hk h hx).ge
    | false =>
      refine (lowestQuad_gt hk fun i hi => ?_).le
      rcases Nat.lt_or_eq_of_le hi with hi | rfl
      exacts [hx i hi, h]
  cases hp : p.getLsbD k with
  | true =>
    rw [lowestQuad_eq_of_first hk hp fun i hi => (lower i hi).1]
    simpa using atLeast q fun i hi => (lower i hi).2
  | false =>
    have hq : q.getLsbD k = true := by simpa [hp] using bit
    have : k < lowestQuad p := lowestQuad_gt hk fun i hi => by
      rcases Nat.lt_or_eq_of_le hi with hi | rfl
      exacts [(lower i hi).1, hp]
    rw [lowestQuad_eq_of_first hk hq fun i hi => (lower i hi).2]
    simpa using this

theorem groupDiffers_of_copiesDiffer {p q : Panel} (h : Claim.CopiesDiffer p q) : groupDiffers p q = true := by
  simp only [groupDiffers, Bool.or_eq_true, bne_iff_ne, fpcControl, mcrControl]
  rcases h with ⟨n, h⟩ | h | ⟨n, h⟩ | ⟨n, h⟩ | h | h
  · exact .inl (.inl (.inl (.inl (.inl fun e => h (by rw [Panel.greg, Panel.greg, e])))))
  · exact .inl (.inl (.inl (.inl (.inr h))))
  · exact .inl (.inl (.inl (.inr fun e => h (by rw [Panel.stream, Panel.stream, e]))))
  · exact .inl (.inl (.inr fun e => h (by rw [Panel.format, Panel.format, e])))
  · exact .inl (.inr h)
  · exact .inr h

/-- The flags of a fused panel: control fields of the one that leads, the sticky flags of both, and GDIV (R35). -/
theorem Panel.fuse_fpc (p q : Panel) : (p.fuse q).fpc =
    fpcControl (if lowestQuad p.qmask ≤ lowestQuad q.qmask then p else q).fpc ||| (p.fpc ||| q.fpc) &&& 0xFF |||
      if groupDiffers p q then 0x80 else 0 := rfl

theorem Panel.fuse_mcr (p q : Panel) : (p.fuse q).mcr =
    mcrControl (if lowestQuad p.qmask ≤ lowestQuad q.qmask then p else q).mcr ||| (p.mcr ||| q.mcr) &&& 0x100 := rfl

/-- What lies outside a mask does not show through it. -/
theorem or_and_of_and_eq_zero {n : Nat} {x y m : BitVec n} (h : y &&& m = 0) : (x &&& m ||| y) &&& m = x &&& m := by
  rw [BitVec.and_or_distrib_right, BitVec.and_assoc, BitVec.and_self, h]
  exact BitVec.or_zero

theorem Panel.fuse_flag (p q : Panel) {k : Nat} (hk : k < 8) : (p.fuse q).fpc.getLsbD k =
    ((p.fpc.getLsbD k || q.fpc.getLsbD k) || (groupDiffers p q && decide (k = 7))) := by
  rw [Panel.fuse_fpc]
  generalize (if lowestQuad p.qmask ≤ lowestQuad q.qmask then p else q).fpc = x
  cases groupDiffers p q <;> interval_cases k <;> simp [fpcControl]

theorem fused_fuse (p q : Panel) (hv : p.valid = true) (hw : q.valid = true) : Claim.Fused p q (p.fuse q) := by
  refine ⟨?_, rfl, rfl, rfl, rfl, rfl, rfl, ?_, ?_, ?_, ?_, ?_⟩
  · show (if lowestQuad p.qmask ≤ lowestQuad q.qmask then p else q).valid = true
    split <;> assumption
  · intro k hk
    rw [Panel.fuse_flag p q (by omega)]
    simp [show k ≠ 7 by omega]
  · rw [Panel.fuse_mcr]
    simp [mcrControl]
  · intro h
    rw [Panel.fuse_flag p q (by omega)]
    rcases h with h | h
    · rw [h, Bool.true_or]
    · simp [groupDiffers_of_copiesDiffer h]
  · rintro ⟨hg, hgp, hs, hfb, hfpc, hmcr⟩
    rw [Panel.fuse_flag p q (by omega)]
    simp [groupDiffers, hg, hgp, hs, hfb, hfpc, hmcr]
  · intro k hk bit first
    have lead : (if lowestQuad p.qmask ≤ lowestQuad q.qmask then p else q) = if p.qmask.getLsbD k = true then p else q := by
      simp only [lead_eq hk bit first]
    have leads : ∀ {α : Type} (f : Panel → α), f (if lowestQuad p.qmask ≤ lowestQuad q.qmask then p else q) =
        f (if p.qmask.getLsbD k = true then p else q) := fun f => congrArg f lead
    refine ⟨leads Panel.g, leads Panel.gp, leads Panel.s, leads Panel.fb, ?_, ?_⟩
    · have sticky : ((p.fpc ||| q.fpc) &&& 0xFF ||| if groupDiffers p q = true then 0x80 else 0) &&& (0x0007FF00 : Word) = 0 := by
        rw [BitVec.and_or_distrib_right, BitVec.and_assoc]
        cases groupDiffers p q <;> simp
      rw [Panel.fuse_fpc, lead, BitVec.or_assoc]
      exact or_and_of_and_eq_zero sticky
    · have sticky : (p.mcr ||| q.mcr) &&& 0x100 &&& (0xF : Word) = 0 := by
        rw [BitVec.and_assoc]
        simp
      rw [Panel.fuse_mcr, lead]
      exact or_and_of_and_eq_zero sticky

end Sys2Proof.Machine
end
section
/-! SUPPORT. What passing seams and forced fuses leave of a wave (02 R28-R30, R33). -/

set_option Elab.async false
namespace Sys2Proof.Machine

/-! ### Fusing panels of a wave -/

theorem Wave.fuseAll_eq (w : Wave) (lo : Nat) (es : List Nat) : w.fuseAll lo es = { w with panels := (w.fuseAll lo es).panels } := by
  induction es generalizing w with
  | nil => rfl
  | cons e es ih => exact ih _

theorem Wave.fuseAll_panel_other {w : Wave} {lo k : Nat} {es : List Nat} (hlo : k ≠ lo) (hes : k ∉ es) :
    (w.fuseAll lo es).panel k = w.panel k := by
  induction es generalizing w with
  | nil => rfl
  | cons e es ih =>
    obtain ⟨he, hes⟩ := not_or.mp (fun h => hes (List.mem_cons.mpr h))
    rw [Wave.fuseAll, List.foldl_cons]
    refine (ih hes).trans ?_
    rw [Wave.fuseInto, Wave.panel_setPanel_other _ _ _ _ he, Wave.panel_setPanel_other _ _ _ _ hlo]

theorem leastOf_mem (e : Nat) (es : List Nat) : leastOf e es ∈ e :: es := by
  induction es generalizing e with
  | nil => simp [leastOf]
  | cons a es ih =>
    have h := ih (Nat.min e a)
    rw [leastOf, List.foldl_cons]
    rcases List.mem_cons.mp h with h | h
    · rcases Nat.le_total e a with hl | hl
      · exact List.mem_cons.mpr (.inl (h.trans (Nat.min_eq_left hl)))
      · exact List.mem_cons_of_mem _ (List.mem_cons.mpr (.inl (h.trans (Nat.min_eq_right hl))))
    · exact List.mem_cons_of_mem _ (List.mem_cons_of_mem _ h)

/-! ### Other waves, and all of the wave but its panels -/

/-- Of a wave a step changes at most the panels and what its threads owe them. -/
def Wave.KeepsLanes (w x : Wave) : Prop := x = { w with panels := x.panels, owed := x.owed }

theorem Wave.KeepsLanes.refl (w : Wave) : w.KeepsLanes w := rfl

theorem Wave.KeepsLanes.trans {w x y : Wave} (h : w.KeepsLanes x) (g : x.KeepsLanes y) : w.KeepsLanes y := by
  unfold Wave.KeepsLanes at *
  rw [g, h]

theorem Wave.keepsLanes_setPanel (w : Wave) (e : Nat) (p : Panel) : w.KeepsLanes (w.setPanel e p) := rfl

theorem State.fuseAt_wave (s : State) (wid e : Nat) (es : List Nat) : (s.wave wid).KeepsLanes ((s.fuseAt wid e es).wave wid) := by
  unfold State.fuseAt
  split
  · rfl
  · rw [State.wave_setWave, Wave.fuseAll_eq]
    rfl

theorem State.fuseAt_wave_other (s : State) {wid k : Nat} (e : Nat) (es : List Nat) (h : k ≠ wid) :
    (s.fuseAt wid e es).wave k = s.wave k := by
  unfold State.fuseAt
  split
  · rfl
  · exact State.wave_setWave_other _ _ _ _ h

@[simp] theorem State.fuseAt_cycle (s : State) (wid e : Nat) (es : List Nat) : (s.fuseAt wid e es).cycle = s.cycle := by
  unfold State.fuseAt
  split <;> rfl

theorem State.fuseAt_panel_other (s : State) (wid : Nat) {e k : Nat} {es : List Nat} (h : k ∉ e :: es) :
    ((s.fuseAt wid e es).wave wid).panel k = (s.wave wid).panel k := by
  unfold State.fuseAt
  split
  · rfl
  · rw [State.wave_setWave]
    refine Wave.fuseAll_panel_other (fun hk => h (hk ▸ leastOf_mem e es)) fun hk => h (List.mem_filter.mp hk).1

theorem State.fuseAt_nil (s : State) (wid e : Nat) : s.fuseAt wid e [] = s := rfl

/-- Two panels fuse in the lower entry, and the other entry is empty (R27). -/
theorem State.fuseAt_two (s : State) (wid : Nat) {e x : Nat} (h : x ≠ e) :
    ((s.fuseAt wid e [x]).wave wid).panel (Nat.min e x) =
      ((s.wave wid).panel (Nat.min e x)).fuse ((s.wave wid).panel (Nat.max e x)) ∧
    ((s.fuseAt wid e [x]).wave wid).panel (Nat.max e x) = Panel.empty := by
  have least : leastOf e [x] = Nat.min e x := rfl
  have others : ([e, x].filter fun y => y != Nat.min e x) = [Nat.max e x] := by
    rcases Nat.lt_or_gt_of_ne h with hl | hl
    · rw [show Nat.min e x = x from Nat.min_eq_right hl.le, show Nat.max e x = e from Nat.max_eq_left hl.le]
      simp [Ne.symm h]
    · rw [show Nat.min e x = e from Nat.min_eq_left hl.le, show Nat.max e x = x from Nat.max_eq_right hl.le]
      simp [h]
  have distinct : Nat.min e x ≠ Nat.max e x := by
    show min e x ≠ max e x
    omega
  have fused : (s.fuseAt wid e [x]).wave wid = { (s.wave wid).fuseInto (Nat.min e x) (Nat.max e x) with
      owed := ((s.fuseAt wid e [x]).wave wid).owed } := by
    simp only [State.fuseAt, least, others, List.isEmpty_cons, Bool.false_eq_true, if_false, State.wave_setWave]
    rfl
  have panel : ∀ k, ((s.fuseAt wid e [x]).wave wid).panel k = ((s.wave wid).fuseInto (Nat.min e x) (Nat.max e x)).panel k := by
    intro k
    rw [fused]
    rfl
  rw [panel, panel, Wave.fuseInto, Wave.panel_setPanel, Wave.panel_setPanel_other _ _ _ _ distinct, Wave.panel_setPanel]
  exact ⟨rfl, rfl⟩

/-! ### Passing a seam -/

/-- A panel that passes the seam at its PC (R30). -/
def Panel.pass (p : Panel) (now : Nat) : Panel := { p with status := .run, waitct := 0 }.advance 1 now

theorem State.passSeam_wave_eq (s : State) (wid e : Nat) (es : List Nat) : (s.passSeam wid e es).wave wid =
    ((s.fuseAt wid e es).wave wid).setPanel (leastOf e es)
      ((((s.fuseAt wid e es).wave wid).panel (leastOf e es)).pass s.cycle) := by
  simp only [State.passSeam]
  split
  · rw [State.wave_setWave, State.fuseAt_cycle]
    rfl
  · rw [State.eventRecord_wave, State.wave_setWave, State.fuseAt_cycle]
    rfl

theorem State.passSeam_wave (s : State) (wid e : Nat) (es : List Nat) : (s.wave wid).KeepsLanes ((s.passSeam wid e es).wave wid) := by
  rw [State.passSeam_wave_eq]
  exact (State.fuseAt_wave ..).trans (Wave.keepsLanes_setPanel ..)

theorem State.passSeam_wave_other (s : State) {wid k : Nat} (e : Nat) (es : List Nat) (h : k ≠ wid) :
    (s.passSeam wid e es).wave k = s.wave k := by
  simp only [State.passSeam]
  split
  · rw [State.wave_setWave_other _ _ _ _ h, State.fuseAt_wave_other _ _ _ h]
  · rw [State.eventRecord_wave, State.wave_setWave_other _ _ _ _ h, State.fuseAt_wave_other _ _ _ h]

/-- A panel that does not pass the seam stays as it is. -/
theorem State.passSeam_panel_other (s : State) (wid : Nat) {e k : Nat} {es : List Nat} (h : k ∉ e :: es) :
    ((s.passSeam wid e es).wave wid).panel k = (s.wave wid).panel k := by
  rw [State.passSeam_wave_eq, Wave.panel_setPanel_other _ _ _ _ (fun hk : k = leastOf e es => h (hk ▸ leastOf_mem e es)),
    State.fuseAt_panel_other _ _ h]

/-- With nobody to fuse with a panel passes the seam alone. -/
theorem State.passSeam_nil (s : State) (wid e : Nat) :
    s.passSeam wid e [] = s.setWave wid ((s.wave wid).setPanel e (((s.wave wid).panel e).pass s.cycle)) := rfl

/-! ### Seams that time out -/

theorem Wave.status_of_mem_seamMates {w : Wave} {e x : Nat} (h : x ∈ w.seamMates e) : (w.panel x).status = .seamw := by
  simp only [Wave.seamMates, Wave.seamWaiters, List.mem_filter, Bool.and_eq_true, beq_iff_eq] at h
  exact h.1.2.1

/-- One entry's turn in letting the seam waiters of a wave leave. -/
def State.settleSeam (wid : Nat) (s : State) (e : Nat) : State :=
  if ((s.wave wid).panel e).valid && ((s.wave wid).panel e).status == .seamw && (s.wave wid).seamLeaves e s.cycle then
    s.passSeam wid e ((s.wave wid).seamMates e)
  else s

theorem State.settleSeams_eq (s : State) (wid : Nat) : s.settleSeams wid = (List.range 8).foldl (State.settleSeam wid) s := rfl

theorem State.settleSeam_cases (wid : Nat) (s : State) (e : Nat) : s.settleSeam wid e = s ∨
    ((s.wave wid).panel e).status = .seamw ∧ s.settleSeam wid e = s.passSeam wid e ((s.wave wid).seamMates e) := by
  unfold State.settleSeam
  split
  · next h =>
    simp only [Bool.and_eq_true, beq_iff_eq] at h
    exact .inr ⟨h.1.2, rfl⟩
  · exact .inl rfl

/-- Of a wave only panels change that wait at a seam. -/
theorem State.settleSeams_panel (s : State) (wid : Nat) {k : Nat} (h : ((s.wave wid).panel k).status ≠ .seamw) :
    ((s.settleSeams wid).wave wid).panel k = (s.wave wid).panel k := by
  rw [State.settleSeams_eq]
  generalize List.range 8 = l
  induction l generalizing s with
  | nil => rfl
  | cons e l ih =>
    have turn : ((s.settleSeam wid e).wave wid).panel k = (s.wave wid).panel k := by
      rcases State.settleSeam_cases wid s e with he | ⟨hs, he⟩
      · rw [he]
      · rw [he]
        refine State.passSeam_panel_other _ _ fun hk => h ?_
        rcases List.mem_cons.mp hk with rfl | hk
        · exact hs
        · exact Wave.status_of_mem_seamMates hk
    rw [List.foldl_cons, ih _ (by rwa [turn]), turn]

theorem State.settleSeams_wave (s : State) (wid : Nat) : (s.wave wid).KeepsLanes ((s.settleSeams wid).wave wid) := by
  rw [State.settleSeams_eq]
  generalize List.range 8 = l
  induction l generalizing s with
  | nil => rfl
  | cons e l ih =>
    refine Wave.KeepsLanes.trans ?_ (ih _)
    rcases State.settleSeam_cases wid s e with he | ⟨-, he⟩
    · rw [he]
      rfl
    · rw [he]
      exact State.passSeam_wave ..

theorem State.settleSeams_wave_other (s : State) {wid k : Nat} (h : k ≠ wid) : (s.settleSeams wid).wave k = s.wave k := by
  rw [State.settleSeams_eq]
  generalize List.range 8 = l
  induction l generalizing s with
  | nil => rfl
  | cons e l ih =>
    rw [List.foldl_cons, ih]
    rcases State.settleSeam_cases wid s e with he | ⟨-, he⟩
    · rw [he]
    · rw [he]
      exact State.passSeam_wave_other _ _ _ h

/-- Nothing changes where no panel that waits at a seam leaves it. -/
theorem State.settleSeams_eq_self {s : State} {wid : Nat} (h : ∀ e, e < 8 → ((s.wave wid).panel e).status = .seamw →
    (s.wave wid).seamLeaves e s.cycle = false) : s.settleSeams wid = s := by
  rw [State.settleSeams_eq]
  refine List.foldlRecOn (motive := fun t => t = s) _ _ rfl fun t ht e he => ?_
  subst ht
  unfold State.settleSeam
  split
  · next hl =>
    simp only [Bool.and_eq_true, beq_iff_eq] at hl
    exact absurd hl.2 (by simp [h e (List.mem_range.mp he) hl.1.2])
  · rfl

/-! ### Siblings -/

theorem filter_range_eq_singleton {n e : Nat} {f : Nat → Bool} (he : e < n) (h : ∀ x, x < n → (f x = true ↔ x = e)) :
    (List.range n).filter f = [e] := by
  have : (List.range n).filter f = (List.range n).filter (· == e) :=
    List.filter_congr fun x hx => Bool.eq_iff_iff.mpr (by simpa using h x (List.mem_range.mp hx))
  rw [this, List.filter_beq, List.count_range]
  simp [he]

theorem Wave.mem_siblings {w : Wave} {e x : Nat} : x ∈ w.siblings e ↔ x < 8 ∧ (w.panel x).valid = true ∧ x ≠ e := by
  simp [Wave.siblings, Wave.mem_entries, and_assoc]

theorem Wave.siblings_eq (w : Wave) (e : Nat) : w.siblings e = (List.range 8).filter fun x => (w.panel x).valid && x != e := by
  rw [Wave.siblings, Wave.entries, List.filter_filter]
  exact List.filter_congr fun x _ => Bool.and_comm ..

theorem Wave.siblings_eq_nil {w : Wave} {e : Nat} (h : ∀ x, x < 8 → x ≠ e → (w.panel x).valid = false) : w.siblings e = [] := by
  rw [List.eq_nil_iff_forall_not_mem]
  intro x hx
  obtain ⟨h8, hv, he⟩ := Wave.mem_siblings.mp hx
  simp [h x h8 he] at hv

theorem Wave.siblings_eq_singleton {w : Wave} {e x : Nat} (hx : x < 8) (hv : (w.panel x).valid = true) (he : x ≠ e)
    (h : ∀ y, y < 8 → y ≠ x → y ≠ e → (w.panel y).valid = false) : w.siblings e = [x] := by
  rw [Wave.siblings_eq]
  refine filter_range_eq_singleton hx fun y hy => ⟨fun hf => ?_, ?_⟩
  · by_contra hne
    simp only [Bool.and_eq_true, bne_iff_ne, ne_eq] at hf
    simp [h y hy hne hf.2] at hf
  · rintro rfl
    simp [hv, he]

end Sys2Proof.Machine
end

section
/-! SUPPORT. Branches that diverge and branches that split their wave (02 R21, R24, 09 R200). -/

set_option Elab.async false
namespace Sys2Proof.Machine

/-- A transfer changes the PC, and what the panel keeps of its clause and its instruction's time. -/
theorem Panel.jump_eq (p : Panel) (target now : Nat) : p.jump target now = { p with
    pc := target % 2 ^ 57, clause := none, hold := (p.jump target now).hold, hinted := (p.jump target now).hinted, doneAt := now
    got := [] } := by
  unfold Panel.jump
  rw [Panel.advance_eq]

/-- The panel after a divergent branch (R21, R200): the lanes that take it go on at the target, those that do not are pushed. -/
def Panel.diverge (p : Panel) (target len now : Nat) (taken : Mask) : Panel :=
  { p.jump target now with
    mask := taken
    stack := { mask := p.mask &&& ~~~ taken, pc := (p.pc + 4 * len) % 2 ^ 57, waiting := false, clause := none } ::
      (p.jump target now).stack }

/-- What a branch does that some lanes of the panel take and some do not, given the quads that may split off, whether the wave has split
in this cycle, and the free entry (R24, R26). -/
def State.diverge (s : State) (c : Cur) (target : Nat) (taken : Mask) : Option (BitVec 16) → Bool → Option Nat → Out
  | some _, true, _ => .next s
  | some q, false, some n => .next ((s.setWave c.wid (((s.curWave c).setPanel c.entry ((s.panel c).advance c.len s.cycle)).split
      c.entry n q 1 target none s.cycle)).eventRecord c.wid n 0x04 1)
  | _, _, _ =>
    if 16 ≤ (s.panel c).stack.length then .next (s.takeTrap c { cause := 0x07 })
    else .next (s.setPanel c ((s.panel c).diverge target c.len s.cycle taken))

/-- Without quads to split off, or without an entry for them, the lanes that do not take the branch are pushed. -/
theorem State.diverge_pushes {s : State} {c : Cur} {target : Nat} {taken : Mask} {q : Option (BitVec 16)} {b : Bool} {e : Option Nat}
    (h : q = none ∨ b = false ∧ e = none) : s.diverge c target taken q b e =
      if 16 ≤ (s.panel c).stack.length then .next (s.takeTrap c { cause := 0x07 })
      else .next (s.setPanel c ((s.panel c).diverge target c.len s.cycle taken)) := by
  rcases h with rfl | ⟨rfl, rfl⟩
  · rfl
  · cases q <;> rfl

section
variable {s : State} {c : Cur} {disp : BitVec 30} {taken : Mask}

/-- A branch of any form is one of the lanes that take it. -/
theorem exec_branch {i : Instr} (form : Claim.branchForm s c i = some (disp, taken)) (h : Issues i s c) :
    ∃ x, x &&& (s.panel c).mask = taken ∧ exec i s = branch c s disp x (Claim.isBra i) (Claim.isSplit i) := by
  have lanes : ∀ x y : Mask, (x &&& y) &&& (s.panel c).mask = (s.panel c).mask &&& x &&& y := fun x y => by
    rw [BitVec.and_comm, BitVec.and_assoc]
  cases i <;> simp only [Claim.branchForm, Option.some.injEq, Prod.mk.injEq, reduceCtorEq] at form
  case bra d =>
    obtain ⟨rfl, rfl⟩ := form
    exact ⟨_, BitVec.and_comm .., issue_eq h fun c s => branch c s d ((s.panel c).guard (s.wave c.wid)) true false⟩
  case brc neg q d =>
    obtain ⟨rfl, rfl⟩ := form
    exact ⟨_, lanes .., issue_eq h fun c s =>
      branch c s d ((s.panel c).guard (s.wave c.wid) &&& branchPred (s.wave c.wid) neg q) false false⟩
  case brcSplit neg q d =>
    obtain ⟨rfl, rfl⟩ := form
    exact ⟨_, lanes .., issue_eq h fun c s =>
      branch c s d ((s.panel c).guard (s.wave c.wid) &&& branchPred (s.wave c.wid) neg q) false true⟩

theorem branch_diverging {x : Mask} {uncond split : Bool} (hx : x &&& (s.panel c).mask = taken) (taking : taken ≠ 0)
    (notAll : taken ≠ (s.panel c).mask) : branch c s disp x uncond split = s.diverge c (Claim.target (s.panel c) disp) taken
      (if split then (if Claim.quadsAgree (s.panel c).mask taken then some (Claim.quadsOf taken) else none) else none)
      ((s.curWave c).splitAt == some s.cycle) (s.curWave c).freeEntry := by
  have lanes : (s.panel c).mask ≠ 0 := fun hz => taking (by rw [← hx, hz]; exact BitVec.and_zero)
  have sub : (s.panel c).mask &&& taken = taken := by
    rw [← hx, BitVec.and_comm x, ← BitVec.and_assoc, BitVec.and_self]
  unfold branch
  simp only [show s.wave c.wid = s.curWave c from rfl, show (s.curWave c).panel c.entry = s.panel c from rfl, hx, lanes, notAll,
    taking, if_false, takenQuads_eq taking notAll sub]
  rfl

/-- A branch that some lanes of the panel take and some do not. -/
theorem exec_branch_diverging {i : Instr} (form : Claim.branchForm s c i = some (disp, taken)) (h : Issues i s c) (taking : taken ≠ 0)
    (notAll : taken ≠ (s.panel c).mask) : exec i s = s.diverge c (Claim.target (s.panel c) disp) taken
      (if Claim.isSplit i then (if Claim.quadsAgree (s.panel c).mask taken then some (Claim.quadsOf taken) else none) else none)
      ((s.curWave c).splitAt == some s.cycle) (s.curWave c).freeEntry := by
  obtain ⟨x, hx, he⟩ := exec_branch form h
  rw [he, branch_diverging hx taking notAll]

end

theorem target_mod (p : Panel) (disp : BitVec 30) : Claim.target p disp % 2 ^ 57 = Claim.target p disp := by
  unfold Claim.target
  omega

theorem claim_divergentBranches : Claim.DivergentBranches := by
  intro i s c disp taken form h taking notAll noSplit
  have pushes := (exec_branch_diverging form h taking notAll).trans <| State.diverge_pushes <| by
    cases hs : Claim.isSplit i with
    | false => exact .inl rfl
    | true =>
      rcases noSplit hs with agree | ⟨now, full⟩
      · exact .inl (by simp [agree])
      · exact .inr ⟨by simpa using now, Wave.freeEntry_eq_none full⟩
  by_cases depth : (s.panel c).stack.length < 16
  · rw [if_pos depth]
    rw [if_neg (not_le.mpr depth)] at pushes
    refine ⟨_, pushes, panelOnly_setPanel .., ?_⟩
    rw [State.panel_setPanel, Panel.diverge, Panel.jump_eq, target_mod]
  · rw [if_neg depth]
    rwa [if_pos (not_lt.mp depth)] at pushes

theorem claim_splitBranches : Claim.SplitBranches := by
  intro neg q disp taken s c form h taking notAll agree
  have execs := exec_branch_diverging form h taking notAll
  rw [show Claim.isSplit (.brcSplit neg q disp) = true from rfl, if_pos rfl, if_pos agree] at execs
  refine ⟨fun now => ?_, fun n now hn free below => ?_⟩
  · rw [execs, now, beq_self_eq_true]
    rfl
  have apart : n ≠ c.entry := by
    rintro rfl
    exact Bool.false_ne_true (free.symm.trans h.valid)
  rw [beq_eq_false_iff_ne.mpr now, Wave.freeEntry_eq_some hn free below] at execs
  refine ⟨_, execs, ?_⟩
  intro p a b
  have wave : ∀ (w : Wave) (k : Nat), ((s.setWave c.wid w).eventRecord c.wid n 0x04 1).wave k = (s.setWave c.wid w).wave k :=
    fun w k => State.eventRecord_wave ..
  have old : a = (p.advance c.len s.cycle).part (~~~ Claim.quadsOf taken) := by
    simp only [a, State.panel, wave, State.wave_setWave, Wave.split_panel_old apart, Wave.panel_setPanel]
    rfl
  have new : b = { (p.advance c.len s.cycle).part (Claim.quadsOf taken) with
      origin := 1, pc := Claim.target p disp, clause := none, status := .run, since := 0, waitct := 0
      undrained := (p.advance c.len s.cycle).undrained, stepping := false, stopAsked := none, wait := none } := by
    simp only [b, State.curWave, wave, State.wave_setWave, Wave.split_panel_new, Wave.panel_setPanel]
    rfl
  have part_mask : ∀ j, j < 64 → ∀ x : BitVec 16, ((p.advance c.len s.cycle).part x).mask.getLsbD j =
      (p.mask.getLsbD j && x.getLsbD (j / 4)) := fun j hj x => by
    rw [Panel.part, Panel.advance_mask, BitVec.getLsbD_and, getLsbD_quadLanes _ hj]
  rw [old, new]
  refine ⟨?_, rfl, ?_, rfl, ?_, ?_, fun j hj => ?_, fun j hj => part_mask j hj _, ?_, ?_, ?_, ?_, ?_, ?_, ?_, ?_, fun w hw => ?_,
    fun e he hne => ?_⟩
  case refine_5 =>
    rw [part_mask j hj, BitVec.getLsbD_not]
    simp [show j / 4 < 16 by omega]
  case refine_14 => rw [wave, State.wave_setWave_other _ _ _ _ hw]
  case refine_15 =>
    simp only [State.curWave, wave, State.wave_setWave, Wave.split_panel_other he hne, Wave.panel_setPanel_other _ _ _ _ he]
  all_goals simp [Panel.part]
  exact h.valid

end Sys2Proof.Machine

namespace Sys2Proof

open Machine

/-- Settles O17: a branch that diverges is `State.diverge`, whose cases the two claims name. -/
theorem branchSplit : Obligations.BranchSplit := ⟨claim_splitBranches, claim_divergentBranches⟩

end Sys2Proof
end

section
/-! SUPPORT. Arriving at a seam, the fuse there, and the end of a wait (02 R22, R27-R30, R35). -/

set_option Elab.async false
namespace Sys2Proof.Machine

/-- A panel that has reached the seam of an instruction (R28). -/
def Panel.reaches (p : Panel) (k : BitVec 3) (ident : BitVec 12) : Panel := { p with seamk := k, seamid := ident }

/-- Arriving at a seam with an empty stack (R22, R29). -/
theorem exec_seam_nil {ident : BitVec 12} {k : BitVec 3} {s : State} {c : Cur} (h : Issues (.seam ident k) s c)
    (bare : (s.panel c).stack = []) : exec (.seam ident k) s =
      .next ((s.setPanel c ((s.panel c).reaches k ident)).fuseStep c k) := by
  refine (issue_eq h fun c s =>
    match resolveStack (s.panel c).pc (s.panel c).clause (s.panel c).mask (s.panel c).stack with
    | .resumed mask pc stack => .next (s.setPanel c { (s.panel c).jump pc s.cycle with mask := mask, stack := stack })
    | .fuseStep mask stack =>
      .next ((s.setPanel c { s.panel c with mask := mask, stack := stack, seamk := k, seamid := ident }).fuseStep c k)).trans ?_
  simp only [bare, resolveStack]
  rw [Panel.reaches, bare]

/-- Arriving at a seam with a pending path on top of the stack (R22). -/
theorem exec_seam_pending {ident : BitVec 12} {k : BitVec 3} {s : State} {c : Cur} {top : StackEntry} {rest : List StackEntry}
    (h : Issues (.seam ident k) s c) (stack : (s.panel c).stack = top :: rest) (pending : top.waiting = false) :
    exec (.seam ident k) s = .next (s.setPanel c { (s.panel c).jump top.pc s.cycle with
      mask := top.mask
      stack := { mask := (s.panel c).mask, pc := (s.panel c).pc, waiting := true, clause := (s.panel c).clause } :: rest }) := by
  refine (issue_eq h fun c s =>
    match resolveStack (s.panel c).pc (s.panel c).clause (s.panel c).mask (s.panel c).stack with
    | .resumed mask pc stack => .next (s.setPanel c { (s.panel c).jump pc s.cycle with mask := mask, stack := stack })
    | .fuseStep mask stack =>
      .next ((s.setPanel c { s.panel c with mask := mask, stack := stack, seamk := k, seamid := ident }).fuseStep c k)).trans ?_
  simp only [stack, resolveStack, pending, Bool.false_eq_true, if_false]

theorem Panel.pass_eq (p : Panel) (now : Nat) : p.pass now = { p with
    pc := (p.pc + 4) % 2 ^ 57, clause := (p.pass now).clause, hold := (p.pass now).hold, hinted := (p.pass now).hinted, doneAt := now
    got := [], status := .run, waitct := 0 } := by
  unfold Panel.pass
  rw [Panel.advance_eq]

section
variable {s : State} {c : Cur} {k : BitVec 3}

/-- The fuse step where every other panel of the wave can leave with the arriving one (R29). -/
theorem State.fuseStep_passes
    (h : ((s.curWave c).siblings c.entry).all (fun e => ((s.curWave c).seamMates c.entry).contains e)) :
    s.fuseStep c k = s.passSeam c.wid c.entry ((s.curWave c).seamMates c.entry) :=
  if_pos (Bool.or_eq_true_iff.mpr (.inl h))

/-- The fuse step where no other panel waits at the seam (R29). -/
theorem State.fuseStep_waits {e : Nat} (he : e ∈ (s.curWave c).siblings c.entry) (hk : k ≠ 0)
    (alone : (s.curWave c).seamWaiters c.entry (s.panel c).pc = []) :
    s.fuseStep c k = (s.setPanel c { s.panel c with status := .seamw, since := s.cycle, waitct := 0 }).settleSeams c.wid := by
  have alone' : (s.wave c.wid).seamWaiters c.entry ((s.wave c.wid).panel c.entry).pc = [] := alone
  have stay : ((s.wave c.wid).siblings c.entry).all (fun _ => false) = false := by
    rw [List.all_eq_false]
    exact ⟨e, he, Bool.false_ne_true⟩
  simp only [State.fuseStep, alone', List.filter_nil, List.contains_nil, stay, Bool.false_or, beq_iff_eq, hk, if_false,
    List.isEmpty_nil, Bool.not_true, Bool.false_and, Bool.false_eq_true]
  rfl

end

/-- A panel waits on at its seam where a sibling runs, none waits there and its limit is not yet reached (R30). -/
theorem Wave.seamLeaves_eq_false {w : Wave} {e x now : Nat} (hx : x ∈ w.siblings e)
    (running : ∀ y ∈ w.siblings e, (w.panel y).status = .run) (since : (w.panel e).since = now) : w.seamLeaves e now = false := by
  have nobody : w.seamMates e = [] := by
    refine List.eq_nil_iff_forall_not_mem.mpr fun y hy => ?_
    have waits := Wave.status_of_mem_seamMates hy
    simp only [Wave.seamMates, Wave.seamWaiters, List.mem_filter] at hy
    rw [running y hy.1.1] at waits
    exact absurd waits (by decide)
  have noFfw : w.ffwElsewhere e (w.panel e).pc = false := by
    rw [Wave.ffwElsewhere, List.any_eq_false]
    intro y hy
    simp [running y hy]
  have stay : (w.siblings e).all (fun _ => false) = false := by
    rw [List.all_eq_false]
    exact ⟨x, hx, Bool.false_ne_true⟩
  have limit : ¬ seamLimit (w.panel e).seamk.toNat ≤ 0 := by
    have : 0 < 64 * 4 ^ (w.panel e).seamk.toNat := by positivity
    exact Nat.not_le.mpr this
  simp [Wave.seamLeaves, nobody, noFfw, stay, since, limit]

theorem panelOnly_passSeam_nil (s : State) (c : Cur) : PanelOnly s (s.passSeam c.wid c.entry []) c :=
  panelOnly_setPanel s c ((s.panel c).pass s.cycle)

/-- The panel after it has passed a seam alone (R29). -/
theorem passSeam_nil_panel (s : State) (c : Cur) : (s.passSeam c.wid c.entry []).panel c = (s.panel c).pass s.cycle := by
  rw [State.passSeam_nil]
  exact State.panel_setPanel s c _

theorem PanelOnly.trans {s t u : State} {c : Cur} (h : PanelOnly s t c) (g : PanelOnly t u c) : PanelOnly s u c where
  rest := by rw [g.rest, h.rest]
  waves w hw := (g.waves w hw).trans (h.waves w hw)
  wave := by rw [g.wave, h.wave]
  panels e he := (g.panels e he).trans (h.panels e he)

theorem PanelOnly.keepsLanes {s t : State} {c : Cur} (h : PanelOnly s t c) : (s.curWave c).KeepsLanes (t.curWave c) := by
  rw [Wave.KeepsLanes, h.wave]

theorem claim_seamArrivals : Claim.SeamArrivals := by
  intro ident k s c h
  refine ⟨fun top rest stack pending => ?pending, fun bare alone => ?alone, fun bare hc hk sibling running => ?waits⟩
  case pending =>
    refine ⟨_, exec_seam_pending h stack pending, panelOnly_setPanel .., ?_⟩
    rw [State.panel_setPanel, Panel.jump_eq]
  case alone =>
    obtain ⟨t, ht⟩ : ∃ t, t = s.setPanel c ((s.panel c).reaches k ident) := ⟨_, rfl⟩
    have only : PanelOnly s t c := ht ▸ panelOnly_setPanel ..
    have panel : t.panel c = (s.panel c).reaches k ident := by rw [ht, State.panel_setPanel]
    have noSibling : (t.curWave c).siblings c.entry = [] :=
      Wave.siblings_eq_nil fun x h8 hx => by rw [only.panels x hx, alone x h8 hx]
    have noMate : (t.curWave c).seamMates c.entry = [] := by
      rw [Wave.seamMates, Wave.seamWaiters, noSibling, List.filter_nil, List.filter_nil]
    have passes : t.fuseStep c k = t.passSeam c.wid c.entry [] := by
      rw [State.fuseStep_passes (by rw [noSibling]; rfl), noMate]
    refine ⟨_, (exec_seam_nil h bare).trans (by rw [← ht, passes]), only.trans (panelOnly_passSeam_nil t c), ?_⟩
    rw [passSeam_nil_panel, Panel.pass_eq, panel]
    rfl
  case waits =>
    obtain ⟨e, h8, he, hv⟩ := sibling
    obtain ⟨t, ht⟩ : ∃ t, t = s.setPanel c ((s.panel c).reaches k ident) := ⟨_, rfl⟩
    obtain ⟨u, hu⟩ : ∃ u, u = t.setPanel c { t.panel c with status := .seamw, since := t.cycle, waitct := 0 } := ⟨_, rfl⟩
    have only : PanelOnly s t c := ht ▸ panelOnly_setPanel ..
    have only' : PanelOnly t u c := hu ▸ panelOnly_setPanel ..
    have cycle : t.cycle = s.cycle := by rw [ht]; rfl
    have panel : t.panel c = (s.panel c).reaches k ident := by rw [ht, State.panel_setPanel]
    have panel' : u.panel c = { t.panel c with status := .seamw, since := t.cycle, waitct := 0 } := by rw [hu, State.panel_setPanel]
    have others : ∀ x, x ≠ c.entry → (u.curWave c).panel x = (s.curWave c).panel x := (only.trans only').panels
    have isSibling : e ∈ (t.curWave c).siblings c.entry := Wave.mem_siblings.mpr ⟨h8, by rw [only.panels e he]; exact hv, he⟩
    have noWaiter : (t.curWave c).seamWaiters c.entry (t.panel c).pc = [] := by
      refine List.eq_nil_iff_forall_not_mem.mpr fun x hx => ?_
      obtain ⟨mem, waits⟩ := List.mem_filter.mp hx
      obtain ⟨hx8, -, hne⟩ := Wave.mem_siblings.mp mem
      simp [only.panels x hne, running x hx8 hne] at waits
    have stays : u.settleSeams c.wid = u := by
      refine State.settleSeams_eq_self fun x hx8 hx => ?_
      by_cases hne : x = c.entry
      · subst hne
        refine Wave.seamLeaves_eq_false (x := e) (Wave.mem_siblings.mpr ⟨h8, ?_, he⟩) (fun y hy => ?_) ?_
        · rw [show (u.wave c.wid).panel e = _ from others e he]
          exact hv
        · obtain ⟨hy8, -, hy⟩ := Wave.mem_siblings.mp hy
          rw [show (u.wave c.wid).panel y = _ from others y hy, running y hy8 hy]
        · rw [show (u.wave c.wid).panel c.entry = u.panel c from rfl, panel', show u.cycle = t.cycle by rw [hu]; rfl]
      · rw [show (u.wave c.wid).panel x = _ from others x hne, running x hx8 hne] at hx
        exact absurd hx (by decide)
    refine ⟨u, (exec_seam_nil h bare).trans ?_, only.trans only', by rw [panel', panel, cycle]; rfl⟩
    rw [← ht, State.fuseStep_waits isSibling hk noWaiter, ← hu, stays]

theorem claim_seamTimeouts : Claim.SeamTimeouts := by
  intro s w e p _ valid waits runs hk hk7 since limit alone
  have noMate : (s.wave w).seamMates e = [] := by
    refine List.eq_nil_iff_forall_not_mem.mpr fun x hx => ?_
    have waits := Wave.status_of_mem_seamMates hx
    simp only [Wave.seamMates, Wave.seamWaiters, List.mem_filter] at hx
    obtain ⟨h8, -, hne⟩ := Wave.mem_siblings.mp hx.1.1
    exact alone x h8 hne waits
  have passes : exec (.seamTimeout w e) s = .next (s.passSeam w e []) := by
    show execSeamTimeout w e s = _
    have first : Nat.min s.cycle p.since = p.since := Nat.min_eq_right since
    have limit : p.since + seamLimit p.seamk.toNat ≤ s.cycle := limit
    simp only [execSeamTimeout, noMate, List.foldl_cons, List.foldl_nil]
    rw [if_pos]
    simp only [show ((s.wave w).panel e) = p from rfl, first, limit, decide_true, runs, valid, waits, Bool.and_eq_true, bne_iff_ne]
    exact ⟨⟨⟨⟨⟨trivial, rfl⟩, trivial⟩, hk⟩, hk7⟩, trivial⟩
  refine ⟨_, passes, panelOnly_passSeam_nil s { wid := w, entry := e, len := 1 }, ?_⟩
  have panel := passSeam_nil_panel s { wid := w, entry := e, len := 1 }
  rw [show ((s.passSeam w e []).wave w).panel e = _ from panel, Panel.pass_eq]
  rfl

/-- What the fuse of two panels joins is no part of what a pass of the seam changes. -/
theorem fused_pass {p q r : Panel} (h : Claim.Fused p q r) (now : Nat) : Claim.Fused p q (r.pass now) := by
  rw [Panel.pass_eq]
  exact h

/-- Which seam two panels show is no part of what their fuse joins. -/
theorem fused_of_reaches {p q r : Panel} {k₁ k₂ : BitVec 3} {i₁ i₂ : BitVec 12} (h : Claim.Fused (p.reaches k₁ i₁) (q.reaches k₂ i₂) r) :
    Claim.Fused p q r := by
  obtain ⟨valid, origin, qmask, mask, discarded, outst, stack, flags, mcr, differ, same, lead⟩ := h
  refine ⟨valid, origin, qmask, mask, discarded, outst, stack, flags, mcr, differ, same, fun k hk bit least => ?_⟩
  have copies := lead k hk bit least
  dsimp only at copies ⊢
  rw [show (p.reaches k₁ i₁).qmask = p.qmask from rfl] at copies
  split at copies
  · next holds =>
    rw [if_pos holds]
    exact copies
  · next lacks =>
    rw [if_neg lacks]
    exact copies

theorem Panel.fuse_pc {p q : Panel} {x : Nat} (hp : p.pc = x) (hq : q.pc = x) : (p.fuse q).pc = x := by
  show (if lowestQuad p.qmask ≤ lowestQuad q.qmask then p else q).pc = x
  split <;> assumption

/-- Two panels that pass a seam together pass it as one, in the lower of their entries (R27, R30). -/
theorem passSeam_two (s : State) (wid : Nat) {e x pc : Nat} (hx : x ≠ e) (hp : ((s.wave wid).panel e).pc = pc)
    (hq : ((s.wave wid).panel x).pc = pc) (vp : ((s.wave wid).panel e).valid = true) (vq : ((s.wave wid).panel x).valid = true) :
    let r := ((s.passSeam wid e [x]).wave wid).panel (Nat.min e x)
    Claim.Fused ((s.wave wid).panel (Nat.min e x)) ((s.wave wid).panel (Nat.max e x)) r ∧ r.status = .run ∧
    r.pc = (pc + 4) % 2 ^ 57 ∧ r.waitct = 0 ∧ ((s.passSeam wid e [x]).wave wid).panel (Nat.max e x) = Panel.empty := by
  obtain ⟨fused, gone⟩ := s.fuseAt_two wid hx
  have both : ∀ y, y = e ∨ y = x → ((s.wave wid).panel y).pc = pc ∧ ((s.wave wid).panel y).valid = true := by
    rintro y (rfl | rfl)
    · exact ⟨hp, vp⟩
    · exact ⟨hq, vq⟩
  obtain ⟨pcLo, validLo⟩ := both (Nat.min e x) (by show min e x = e ∨ min e x = x; omega)
  obtain ⟨pcHi, validHi⟩ := both (Nat.max e x) (by show max e x = e ∨ max e x = x; omega)
  have distinct : Nat.max e x ≠ Nat.min e x := by
    show max e x ≠ min e x
    omega
  have panel : ((s.passSeam wid e [x]).wave wid).panel (Nat.min e x) =
      (((s.wave wid).panel (Nat.min e x)).fuse ((s.wave wid).panel (Nat.max e x))).pass s.cycle := by
    rw [State.passSeam_wave_eq, show leastOf e [x] = Nat.min e x from rfl, Wave.panel_setPanel, fused]
  intro r
  rw [show r = _ from panel]
  refine ⟨fused_pass (fused_fuse _ _ validLo validHi) _, ?_, ?_, ?_, ?_⟩
  · rw [Panel.pass_eq]
  · rw [Panel.pass_eq, Panel.fuse_pc pcLo pcHi]
  · rw [Panel.pass_eq]
  · rw [State.passSeam_wave_eq, show leastOf e [x] = Nat.min e x from rfl, Wave.panel_setPanel_other _ _ _ _ distinct, gone]

theorem claim_seamFuses : Claim.SeamFuses := by
  intro ident k s c e h hc he hne p q bare bareq hframe hframeq validq waits pc alone
  obtain ⟨t, ht⟩ : ∃ t, t = s.setPanel c ((s.panel c).reaches k ident) := ⟨_, rfl⟩
  have only : PanelOnly s t c := ht ▸ panelOnly_setPanel ..
  have panel : t.panel c = (s.panel c).reaches k ident := by rw [ht, State.panel_setPanel]
  have other : (t.curWave c).panel e = q := only.panels e hne
  have siblings : (t.curWave c).siblings c.entry = [e] :=
    Wave.siblings_eq_singleton he (by rw [other]; exact validq) hne fun y hy hye hyc => by rw [only.panels y hyc, alone y hy hye hyc]
  have compatible : stackCompatible (t.panel c) q = true := by
    simp [stackCompatible, panel, Panel.reaches, show (s.panel c).stack = [] from bare, bareq, hframeq, show (s.panel c).frame = none from hframe]
  have mates : (t.curWave c).seamMates c.entry = [e] := by
    have here : (t.curWave c).panel c.entry = t.panel c := rfl
    rw [Wave.seamMates, Wave.seamWaiters, siblings, List.filter_cons_of_pos, List.filter_nil, List.filter_cons_of_pos, List.filter_nil]
    · rw [here, other]
      exact compatible
    · simp [here, other, waits, pc, panel, Panel.reaches, p]
  have passes : t.fuseStep c k = t.passSeam c.wid c.entry [e] := by
    rw [State.fuseStep_passes (by rw [siblings, mates]; simp), mates]
  refine ⟨_, (exec_seam_nil h bare).trans (by rw [← ht, passes]), ?_⟩
  have pcs : (t.panel c).pc = p.pc := by rw [panel]; rfl
  obtain ⟨fused, run, pc', waitct, gone⟩ := passSeam_two t c.wid hne pcs (show ((t.curWave c).panel e).pc = p.pc by rw [other, pc])
    (show (t.panel c).valid = true by rw [panel]; exact h.valid) (show ((t.curWave c).panel e).valid = true by rw [other]; exact validq)
  have lanes : (s.curWave c).KeepsLanes ((t.passSeam c.wid c.entry [e]).curWave c) :=
    only.keepsLanes.trans (State.passSeam_wave t c.wid c.entry [e])
  refine ⟨?_, run, pc', waitct, gone, by rw [lanes], by rw [lanes]⟩
  have old : ∀ y, ∃ k' i', (t.wave c.wid).panel y = ((s.curWave c).panel y).reaches k' i' := fun y => by
    by_cases hy : y = c.entry
    · subst hy
      exact ⟨k, ident, panel⟩
    · exact ⟨_, _, only.panels y hy⟩
  obtain ⟨k₁, i₁, lo⟩ := old (Nat.min c.entry e)
  obtain ⟨k₂, i₂, hi⟩ := old (Nat.max c.entry e)
  rw [lo, hi] at fused
  exact fused_of_reaches fused

end Sys2Proof.Machine

namespace Sys2Proof

open Machine

/-- Settles O19: `State.passSeam` says what passing a seam does, alone (`passSeam_nil_panel`) and for two (`passSeam_two`). -/
theorem seams : Obligations.Seams := ⟨claim_seamArrivals, claim_seamFuses, claim_seamTimeouts⟩

end Sys2Proof
end

section
/-! SUPPORT. Splits by miss (02 R25, R26), and panels narrower than their instruction needs (R33, R34). -/

set_option Elab.async false
namespace Sys2Proof.Machine
theorem laneOp_issue (i : Instr) (d : Dst) (n : Nat) (s : State) (f : Lanes → Nat → Nat × Word) :
    ∃ body, laneOp i d n s f = issue i s body := ⟨_, rfl⟩
theorem lanePred_issue (i : Instr) (p : Nat) (s : State) (f : Lanes → Nat → Bool) :
    ∃ body, lanePred i p s f = issue i s body := ⟨_, rfl⟩
theorem groupOp_issue (i : Instr) (s : State) (f : Panel → Panel) : ∃ body, groupOp i s f = issue i s body := ⟨_, rfl⟩
theorem momentOp_issue (i : Instr) (d : Nat) (s : State) (f : Lanes → Nat → MomentOut) :
    ∃ body, momentOp i d s f = issue i s body := ⟨_, rfl⟩
theorem loadGlobal_issue (i : Instr) (m : MemWord) (d : Dst) (a : Src) (s : State) :
    ∃ body, loadGlobal i m d a s = issue i s body := ⟨_, rfl⟩

theorem maccIssue_issue (i : Instr) (mom write : Bool) (c0 : GSrc) (nreg : Nat) (str : Half) (s : State)
    (k : Cur → Lanes → Nat → State → Out) : ∃ body, maccIssue i mom write c0 nreg str s k = issue i s body := ⟨_, rfl⟩
theorem atomic_issue (i : Instr) (ty : IntTy) (ord : Order) (scope : Scope) (loc : Bool) (d : Dst) (a : Src) (f : Lanes → Nat → Rmw)
    (s : State) : ∃ body, atomic i ty ord scope loc d a f s = issue i s body := ⟨_, rfl⟩

theorem execWred_issue (op : RedOp) (ty : RedTy) (d : RedDst) (a : Src) (s : State) :
    ∃ body, execWred op ty d a s = issue (.wred op ty d a) s body := by
  unfold execWred
  cases d with
  | lane d => exact laneOp_issue ..
  | g n => exact ⟨_, rfl⟩

theorem execPlog_issue (grp : Bool) (d a b : Nat) (table : BitVec 4) (s : State) :
    ∃ body, execPlog grp d a b table s = issue (.plog grp d a b table) s body := by
  unfold execPlog
  cases grp with
  | false =>
    rw [if_neg Bool.false_ne_true]
    exact lanePred_issue ..
  | true =>
    rw [if_pos rfl]
    exact groupOp_issue ..

/-- Every form of the code issues (R158). -/
theorem exec_coded {i : Instr} (h : i.coded = true) (s : State) : ∃ body, exec i s = issue i s body := by
  cases i <;> unfold exec
  case wred => exact execWred_issue ..
  case plog => exact execPlog_issue ..
  case sxi =>
    unfold execSxi
    exact ⟨_, rfl⟩
  case gath =>
    unfold execGath
    exact ⟨_, rfl⟩
  case ld => exact loadGlobal_issue ..
  case atom | cas => exact atomic_issue ..
  case maccGet | maccPut => exact maccIssue_issue ..
  case madd | maddLong | mmul | mmulLong | mnl => exact momentOp_issue ..
  case icmp | fcmp | dcmp | vote | pmask => exact lanePred_issue ..
  case gadd | gsub | gmul | gand | gor | gxor | gshLeft | gshRight | gmov | gmovCtl | gcmp => exact groupOp_issue ..
  case ballot | gread | bra | brc | brcSplit | call | ret | retTret | exit | seam | yield | trapf | trap | bkpt | st | lds | sts | ldp |
      fence | sdef | sadvSkip | sadvGe | barr | bwait | bexp | copy | lflush | qpost | sread | swrite | mloop | msoft | fbset | mcoll |
      mmq | ldq | sbar | sample | texqSize | texqRes | emit | emitClose | pull | trace | traceResume | disc | discAll | mest | ctxSkip |
      ctxFwd | ctxEnd | ctxFqpop | ctxReply | tlbi | genInc | genRd | reservedOpcode => exact ⟨_, rfl⟩
  all_goals first | exact absurd h Bool.false_ne_true | exact laneOp_issue ..

/-! ### Miss splits -/

theorem range_eq_append_cons {n e : Nat} (he : e < n) : List.range n = List.range e ++ e :: List.range' (e + 1) (n - (e + 1)) := by
  rw [List.range_eq_range', List.range_eq_range', show e :: List.range' (e + 1) (n - (e + 1)) = List.range' (0 + e) (n - e) by
    rw [Nat.zero_add, show n - e = n - (e + 1) + 1 by omega, List.range'_succ], List.range'_append_1]
  congr
  omega

/-- The first of a wave's panels, in the order of their entries, for which something is so (R25). -/
theorem Wave.findSome?_entries {α : Type} {w : Wave} {f : Nat → Option α} {e : Nat} {x : α} (he : e < 8)
    (valid : (w.panel e).valid = true) (hx : f e = some x) (least : ∀ k, k < e → f k = none) : w.entries.findSome? f = some x := by
  rw [Wave.entries, range_eq_append_cons he, List.filter_append, List.filter_cons_of_pos (by exact valid), List.findSome?_append,
    List.findSome?_eq_none_iff.mpr fun k hk => least k (List.mem_range.mp (List.mem_filter.mp hk).1), List.findSome?_cons, hx]
  rfl

/-- A panel that splits by miss is one that its front end does not hold. -/
theorem State.valid_of_frontHold {s : State} {w e : Nat} (h : s.frontHold w e = none) :
    ((s.wave w).panel e).valid = true := by
  unfold State.frontHold at h
  dsimp only at h
  split at h
  · exact absurd h (Option.some_ne_none _)
  · next hv => exact (Bool.and_eq_true _ _ ▸ eq_true_of_ne_false hv).2

theorem State.missSplitOf_eq {s : State} {w e len : Nat} {cl : Clause} {g : GridSpec} {i : Instr}
    (front : s.frontHold w e = none) (clause : ((s.wave w).panel e).clause = some cl)
    (spec : s.curSpec { wid := w, entry := e, len := 1 } = some g) (enabled : g.missSplits = true)
    (fetch : s.fetch { wid := w, entry := e, len := 1 } = .instr i len)
    (board : s.onlyScoreboard { wid := w, entry := e, len := len } (s.wave w) ((s.wave w).panel e) cl i = true) :
    s.missSplitOf w e =
      ((s.wave w).panel e).missQuads (s.wave w) g (s.shapeOf { wid := w, entry := e, len := 1 } i) cl i s.cycle := by
  simp only [State.missSplitOf, front, clause, spec, enabled, fetch, board, Bool.true_eq_false, if_false, if_true]

theorem claim_missSplits : Claim.MissSplits := by
  intro s w e n len cl g i q c p he front clause spec enabled fetch board quads least hn free full
  have entry : (s.wave w).freeEntry = some n := Wave.freeEntry_eq_some hn free full
  refine ⟨fun again => ?_, fun first => ?_⟩
  · show execMissSplit w e s = _
    simp only [execMissSplit, State.missSplit, again, if_true]
  · have lowest : s.missSplit w = some (e, q) := by
      rw [State.missSplit, if_neg first]
      refine Wave.findSome?_entries he (State.valid_of_frontHold front) ?_ fun k hk => by rw [least k hk, Option.map_none]
      exact congrArg (Option.map fun q => (e, q)) ((State.missSplitOf_eq front clause spec enabled fetch board).trans quads)
    have distinct : n ≠ e := fun hne => by
      have valid := State.valid_of_frontHold front
      rw [← hne, free] at valid
      exact absurd valid Bool.false_ne_true
    obtain ⟨u, hu⟩ : ∃ u, u = (s.wave w).split e n q 2 p.pc p.clause s.cycle := ⟨_, rfl⟩
    have splits : exec (.missSplit w e) s = .next ((s.setWave w u).eventRecord w n 0x04 2) := by
      show execMissSplit w e s = _
      rw [hu]
      simp only [execMissSplit, lowest, entry, ne_eq, not_true_eq_false, if_false]
      rfl
    have wave : ((s.setWave w u).eventRecord w n 0x04 2).wave w = u := by rw [State.eventRecord_wave, State.wave_setWave]
    have old : u.panel e = p.part (~~~ q) := hu ▸ Wave.split_panel_old distinct
    have new := hu ▸ Wave.split_panel_new (w := s.wave w) (e := e) (n := n) (q := q) (origin := 2) (pc := p.pc) (cl := p.clause)
      (now := s.cycle)
    refine ⟨_, splits, ?_⟩
    rw [wave, old, new]
    exact ⟨rfl, rfl, clause, clause, State.valid_of_frontHold front, rfl, rfl, rfl, rfl, rfl, rfl, rfl,
      by rw [hu, Wave.split_splitAt], fun k hk hk' => by rw [hu, Wave.split_panel_other hk hk']⟩

/-! ### Forced fuse -/

theorem claim_forcedFuseEnds : Claim.ForcedFuseEnds := by
  intro s w e x p valid waits runs wait wide
  show execForcedFuseIssue w e s = _
  have ready : (p.valid && p.status == .ffw && s.waveRuns w) = true := by simp [valid, waits, runs]
  simp only [execForcedFuseIssue, show (s.wave w).panel e = p from rfl, ready, wait]
  exact if_neg (Nat.not_lt.mpr wide)

/-- A code form that passes the checks of decode does not execute in a panel too narrow for it (R33). -/
theorem issue_narrow {i : Instr} {s : State} {c : Cur} {cl : Clause} (hc : s.cur = some c) (ha : (s.curWave c).alive = true)
    (hv : (s.panel c).valid = true) (hcl : (s.panel c).clause = some cl)
    (hd : decodeTrap (s.curWave c).regs (s.curWave c).width (s.privileged c) cl i = none)
    (narrow : (s.panel c).effWidth (s.curWave c) < s.needWidth c i) (body : Cur → State → Out) :
    issue i s body = .next (s.enterFfw c i) := by
  have hp : (s.curWave c).panel c.entry = s.panel c := rfl
  have hw : s.wave c.wid = s.curWave c := rfl
  unfold issue
  simp only [hc, hw, hp, ha, hv, hcl, hd, Bool.and_self]
  rw [if_pos narrow]

/-- The panel that waits in FFW to issue an instruction (R33). -/
def Panel.tooNarrow (p : Panel) (i : Instr) (len now : Nat) : Panel :=
  { p with status := .ffw, since := now, waitct := 0, wait := some { instr := i, len := len, since := now, aux := 0 } }

section
variable {s : State} {c : Cur} {i : Instr}

/-- No sibling in FFW waits elsewhere or with another stack: the panel waits with those that do (R33). -/
theorem State.enterFfw_waits (h : ∀ x ∈ (s.curWave c).siblings c.entry, ((s.curWave c).panel x).status = .ffw →
      ((s.curWave c).panel x).pc = (s.panel c).pc ∧ stackCompatible (s.panel c) ((s.curWave c).panel x) = true) :
    s.enterFfw c i = (((s.setPanel c ((s.panel c).tooNarrow i c.len s.cycle)).fuseForced c.wid c.entry)).settleSeams c.wid := by
  refine if_neg (Bool.not_eq_true _ ▸ List.any_eq_false.mpr fun x hx => ?_)
  by_cases ffw : ((s.curWave c).panel x).status = .ffw
  · obtain ⟨pc, compatible⟩ := h x hx ffw
    have here : (s.wave c.wid).panel c.entry = s.panel c := rfl
    simp [here, show (s.wave c.wid).panel x = (s.curWave c).panel x from rfl, pc, compatible]
  · simp [show (s.wave c.wid).panel x = (s.curWave c).panel x from rfl, ffw]

theorem State.enterFfw_conflict {x : Nat} (hx : x ∈ (s.curWave c).siblings c.entry) (ffw : ((s.curWave c).panel x).status = .ffw)
    (h : ((s.curWave c).panel x).pc ≠ (s.panel c).pc ∨ stackCompatible (s.panel c) ((s.curWave c).panel x) = false) :
    s.enterFfw c i = s.takeTrap c { cause := 0x06 } := by
  refine if_pos (List.any_eq_true.mpr ⟨x, hx, ?_⟩)
  have here : (s.wave c.wid).panel c.entry = s.panel c := rfl
  simp only [here, show (s.wave c.wid).panel x = (s.curWave c).panel x from rfl, ffw, beq_self_eq_true, Bool.true_and, Bool.or_eq_true,
    bne_iff_ne, Bool.not_eq_true']
  exact h

end

/-- The panels in FFW with which the panel of an entry fuses (R33). -/
def Wave.ffwMates (w : Wave) (e : Nat) : List Nat :=
  (w.siblings e).filter fun x =>
    (w.panel x).status == .ffw && (w.panel x).pc == (w.panel e).pc && stackCompatible (w.panel e) (w.panel x)

theorem State.fuseForced_eq (s : State) (wid e : Nat) : s.fuseForced wid e =
    if ((s.wave wid).ffwMates e).isEmpty then s
    else (s.fuseAt wid e ((s.wave wid).ffwMates e)).eventRecord wid (leastOf e ((s.wave wid).ffwMates e)) 0x05 3 := rfl

theorem Wave.ffwMates_eq_nil {w : Wave} {e : Nat} (h : ∀ x ∈ w.siblings e, (w.panel x).status ≠ .ffw) : w.ffwMates e = [] := by
  refine List.filter_eq_nil_iff.mpr fun x hx => ?_
  simp [h x hx]

theorem Wave.ffwMates_eq_singleton {w : Wave} {e x : Nat} (hx : x ∈ w.siblings e) (ffw : (w.panel x).status = .ffw)
    (pc : (w.panel x).pc = (w.panel e).pc) (compatible : stackCompatible (w.panel e) (w.panel x) = true)
    (h : ∀ y ∈ w.siblings e, y ≠ x → (w.panel y).status ≠ .ffw) : w.ffwMates e = [x] := by
  have hx' := Wave.mem_siblings.mp hx
  rw [Wave.ffwMates, Wave.siblings_eq, List.filter_filter]
  refine filter_range_eq_singleton hx'.1 fun y hy => ⟨fun hf => ?_, ?_⟩
  · by_contra hne
    simp only [Bool.and_eq_true, beq_iff_eq, bne_iff_ne] at hf
    exact h y (Wave.mem_siblings.mpr ⟨hy, hf.2.1, hf.2.2⟩) hne hf.1.1.1
  · rintro rfl
    simp [ffw, pc, compatible, hx'.2.1, hx'.2.2]

theorem Panel.fuse_status {p q : Panel} {x : Status} (hp : p.status = x) (hq : q.status = x) : (p.fuse q).status = x := by
  show (if lowestQuad p.qmask ≤ lowestQuad q.qmask then p else q).status = x
  split <;> assumption

theorem claim_narrowPanels : Claim.NarrowPanels := by
  intro i s c cl coded hc ha hv hcl hd narrow waiting
  obtain ⟨body, form⟩ := exec_coded coded s
  have enters : exec i s = .next (s.enterFfw c i) := form.trans (issue_narrow hc ha hv hcl hd narrow body)
  obtain ⟨t, ht⟩ : ∃ t, t = s.setPanel c ((s.panel c).tooNarrow i c.len s.cycle) := ⟨_, rfl⟩
  have only : PanelOnly s t c := ht ▸ panelOnly_setPanel ..
  have panel : t.panel c = waiting := by
    rw [ht, State.panel_setPanel]
    rfl
  have others : ∀ e, e ≠ c.entry → (t.wave c.wid).panel e = (s.curWave c).panel e := only.panels
  have sibling : ∀ x, x ∈ (t.wave c.wid).siblings c.entry ↔ x ∈ (s.curWave c).siblings c.entry := fun x => by
    simp only [Wave.mem_siblings]
    exact and_congr_right fun _ => ⟨fun h => ⟨others x h.2 ▸ h.1, h.2⟩, fun h => ⟨(others x h.2).symm ▸ h.1, h.2⟩⟩
  have alone : (∀ e, e < 8 → e ≠ c.entry → ((s.curWave c).panel e).valid = true → ((s.curWave c).panel e).status ≠ .ffw) →
      exec i s = .next (t.settleSeams c.wid) := fun h => by
    have noFfw : ∀ x ∈ (s.curWave c).siblings c.entry, ((s.curWave c).panel x).status ≠ .ffw := fun x hx => by
      obtain ⟨h8, hv, hne⟩ := Wave.mem_siblings.mp hx
      exact h x h8 hne hv
    rw [enters, State.enterFfw_waits fun x hx ffw => absurd ffw (noFfw x hx), ← ht, State.fuseForced_eq, Wave.ffwMates_eq_nil fun x hx => ?_,
      List.isEmpty_nil, if_pos rfl]
    rw [others x (Wave.mem_siblings.mp hx).2.2]
    exact noFfw x ((sibling x).mp hx)
  refine ⟨fun run => ?_, fun h => ⟨_, alone h, ?_⟩, fun e hc8 he hne hve ffw pc compatible h => ?_, ?_⟩
  · rw [alone fun e h8 hne _ => by rw [run e h8 hne]; decide, State.settleSeams_eq_self fun e h8 waits => ?_, ht]
    · rfl
    · by_cases hne : e = c.entry
      · rw [hne, show (t.wave c.wid).panel c.entry = waiting from panel] at waits
        exact absurd waits (by show Status.ffw ≠ .seamw; decide)
      · rw [others e hne, run e h8 hne] at waits
        exact absurd waits (by decide)
  · refine (State.settleSeams_panel t c.wid ?_).trans panel
    rw [show (t.wave c.wid).panel c.entry = waiting from panel]
    show Status.ffw ≠ .seamw
    decide
  · have only_e : ∀ x ∈ (s.curWave c).siblings c.entry, x ≠ e → ((s.curWave c).panel x).status ≠ .ffw := fun x hx hxe => by
      obtain ⟨h8, hv, hne⟩ := Wave.mem_siblings.mp hx
      exact h x h8 hne hxe hv
    have isSibling : e ∈ (s.curWave c).siblings c.entry := Wave.mem_siblings.mpr ⟨he, hve, hne⟩
    have mates : (t.wave c.wid).ffwMates c.entry = [e] := by
      have here : (t.wave c.wid).panel c.entry = waiting := panel
      refine Wave.ffwMates_eq_singleton ((sibling e).mpr isSibling) ?_ ?_ ?_ fun y hy hye => ?_
      · rw [others e hne, ffw]
      · rw [others e hne, here, pc]
      · rw [others e hne, here]
        exact compatible
      · rw [others y (Wave.mem_siblings.mp hy).2.2]
        exact only_e y ((sibling y).mp hy) hye
    obtain ⟨u, hu⟩ : ∃ u, u = (t.fuseAt c.wid c.entry [e]).eventRecord c.wid (leastOf c.entry [e]) 0x05 3 := ⟨_, rfl⟩
    have fuses : exec i s = .next (u.settleSeams c.wid) := by
      rw [enters, State.enterFfw_waits fun x hx hffw => ?_, ← ht, State.fuseForced_eq, mates, hu]
      · rfl
      · by_cases hxe : x = e
        · rw [hxe]
          exact ⟨pc, compatible⟩
        · exact absurd hffw (only_e x hx hxe)
    have wave : u.wave c.wid = (t.fuseAt c.wid c.entry [e]).wave c.wid := by rw [hu, State.eventRecord_wave]
    obtain ⟨fused, gone⟩ := t.fuseAt_two c.wid hne
    rw [← wave] at fused gone
    have stays : ∀ k, ((u.wave c.wid).panel k).status ≠ .seamw → ((u.settleSeams c.wid).curWave c).panel k = (u.wave c.wid).panel k :=
      fun k hk => State.settleSeams_panel u c.wid hk
    have before : ∀ k, (t.wave c.wid).panel k = if k = c.entry then waiting else (s.curWave c).panel k := fun k => by
      split
      · next hk => rw [hk]; exact panel
      · next hk => exact others k hk
    have both : ∀ k, k = c.entry ∨ k = e → ((t.wave c.wid).panel k).valid = true ∧ ((t.wave c.wid).panel k).status = .ffw ∧
        ((t.wave c.wid).panel k).pc = (s.panel c).pc := by
      rintro k (rfl | rfl)
      · rw [show (t.wave c.wid).panel c.entry = waiting from panel]
        exact ⟨hv, rfl, rfl⟩
      · rw [others k hne]
        exact ⟨hve, ffw, pc⟩
    obtain ⟨validLo, ffwLo, pcLo⟩ := both (Nat.min c.entry e) (by show min c.entry e = c.entry ∨ min c.entry e = e; omega)
    obtain ⟨validHi, ffwHi, pcHi⟩ := both (Nat.max c.entry e) (by show max c.entry e = c.entry ∨ max c.entry e = e; omega)
    have status := Panel.fuse_status ffwLo ffwHi
    refine ⟨_, fuses, ?_⟩
    dsimp only
    rw [stays _ (by rw [fused, status]; decide), stays _ (by rw [gone]; decide), fused, gone, ← before, ← before]
    exact ⟨fused_fuse _ _ validLo validHi, status, Panel.fuse_pc pcLo pcHi, rfl⟩
  · rintro ⟨e, h8, hne, valid, ffw, conflict⟩
    rw [enters, State.enterFfw_conflict (Wave.mem_siblings.mpr ⟨h8, valid, hne⟩) ffw conflict]

end Sys2Proof.Machine

namespace Sys2Proof

open Machine

/-- Settles O29: miss splits are `Wave.split`, and what a narrow panel does is `State.enterFfw`, for every form of the code
(`exec_coded`). -/
theorem widthChanges : Obligations.WidthChanges := ⟨claim_missSplits, claim_forcedFuseEnds, claim_narrowPanels⟩

end Sys2Proof
end

section
/-! SUPPORT. What the accounts of gangs and launches leave alone (17 R331, R335, 12 R264): completing launches, closing ports and the
scheduler's writes change no wave, gang, node or thread. -/

set_option Elab.async false
namespace Sys2Proof.Machine

/-- The machine but for what accesses, records, spools, workgroups' and launches' accounts and queues hold. -/
def State.running (s : State) : State :=
  { s.unlogged with
    wStore := [], aStore := [], cStore := [], shadow := [], wgs := [], launches := [], spools := []
    regs := { s.unlogged.regs with queues := [] } }

theorem State.running_of_unlogged {s t : State} (h : t.unlogged = s.unlogged) : t.running = s.running := by
  unfold State.running
  rw [h]

theorem State.running_of_bare {s t : State} (h : t.bare = s.bare) : t.running = s.running :=
  State.running_of_unlogged (State.unlogged_of_bare h)

theorem State.waves_of_running {s t : State} (h : t.running = s.running) : t.waves = s.waves :=
  (congrArg State.waves h : t.running.waves = s.running.waves)

theorem State.heads_of_running {s t : State} (h : t.running = s.running) : t.regs.heads = s.regs.heads :=
  (congrArg (fun x => x.regs.heads) h : t.running.regs.heads = s.running.regs.heads)

theorem State.running_of_writeVa {s t : State} {a : Acc} {va : Nat} {bs : List Byte} (h : s.writeVa a va bs = .ok t) :
    t.running = s.running := State.running_of_bare (State.bare_of_writeVa h)

theorem State.running_of_readVa {s t : State} {a : Acc} {va n : Nat} {r : Except XFail (List Byte)} (h : s.readVa a va n = (t, r)) :
    t.running = s.running := State.running_of_bare (State.bare_of_readVa h)

@[simp] theorem State.putWg_running (s : State) (k : Nat) (x : Workgroup) : (s.putWg k x).running = s.running := rfl
@[simp] theorem State.putLaunch_running (s : State) (k : Nat) (x : Launch) : (s.putLaunch k x).running = s.running := rfl
@[simp] theorem State.putUnit_running (s : State) (k : Nat) (x : SpoolUnit) : (s.putUnit k x).running = s.running := rfl
@[simp] theorem State.setPart_running (s : State) (k : Nat) (x : Partition) : (s.setPart k x).running = s.running := rfl
@[simp] theorem State.setQueue_running (s : State) (k : Nat) (x : Queue) : (s.setQueue k x).running = s.running := rfl

@[simp] theorem State.recordFault_running (s : State) (p : Nat) (r : FaultRec) : (s.recordFault p r).1.running = s.running :=
  State.running_of_unlogged (State.recordFault_unlogged ..)

@[simp] theorem State.traceRecord_running (s : State) (p type rsn die : Nat) (body : List Byte) (len : Nat) :
    (s.traceRecord p type rsn die body len).running = s.running := State.running_of_unlogged (State.traceRecord_unlogged ..)

@[simp] theorem State.releaseL1_running (s : State) (core : Nat) : (s.releaseL1 core).running = s.running :=
  State.running_of_bare (State.releaseL1_bare ..)

/-! ### Spools -/

@[simp] theorem State.writeSpool_running (s : State) (u : SpoolUnit) (k : Nat) (bs : List Byte) :
    (s.writeSpool u k bs).running = s.running := by
  unfold State.writeSpool
  split
  · rfl
  · split
    · exact State.running_of_writeVa ‹_›
    · rfl

@[simp] theorem State.settleSpool_running (s : State) (k : Nat) : (s.settleSpool k).running = s.running := by
  unfold State.settleSpool
  split
  · rfl
  · split <;> simp [State.putSpool]

@[simp] theorem State.noteSpool_running (s : State) (k : Nat) (e : Bool × Bool) : (s.noteSpool k e).running = s.running := by
  unfold State.noteSpool
  split <;> simp

@[simp] theorem State.closeSpool_running (s : State) (k : Nat) (fault : Bool) : (s.closeSpool k fault).running = s.running :=
  foldl_keeps State.running (fun _ _ => State.noteSpool_running ..) _ _

@[simp] theorem State.closePorts_running (s : State) (k : Nat) (fault : Bool) : (s.closePorts k fault).running = s.running := by
  unfold State.closePorts
  split
  · rfl
  · refine foldl_keeps State.running (fun s e => ?_) _ _
    split
    · split <;> simp
    · rfl

/-! ### Launches -/

theorem State.running_of_writeErrorWord {s t : State} {a : Acc} {addr code : Nat} (h : s.writeErrorWord a addr code = .ok t) :
    t.running = s.running := by
  unfold State.writeErrorWord at h
  split at h
  · cases h
  · have read := State.running_of_readVa ‹_›
    split at h
    · exact (State.running_of_writeVa h).trans read
    · cases h
      exact read

theorem State.running_of_schedWrite {s t : State} {l : Launch} {a : Acc} {w : SchedWrite} (h : s.schedWrite l a w = .ok t) :
    t.running = s.running := by
  cases w with
  | status addr => exact State.running_of_writeVa h
  | word addr bs => exact State.running_of_writeVa h
  | setBit addr k =>
    simp only [State.schedWrite] at h
    split at h
    · cases h
    · exact (State.running_of_writeVa h).trans (State.running_of_readVa ‹_›)
  | error addr code => exact State.running_of_writeErrorWord h
  | errorAgain addr => exact State.running_of_writeErrorWord h

@[simp] theorem State.schedWrites_running (lid : Nat) (l : Launch) (ws : List SchedWrite) (s : State) :
    (s.schedWrites lid l ws).running = s.running := by
  induction ws generalizing s with
  | nil => rfl
  | cons w ws ih =>
    rw [State.schedWrites]
    split
    · exact (ih _).trans (State.running_of_schedWrite ‹_›)
    · simp

@[simp] theorem State.addWrites_running (s : State) (lid : Nat) (ws : List SchedWrite) : (s.addWrites lid ws).running = s.running := by
  unfold State.addWrites
  split
  · rfl
  · split <;> simp

@[simp] theorem State.packetDone_running (s : State) (q code : Nat) : (s.packetDone q code).running = s.running := rfl

@[simp] theorem State.settleTop_running (s : State) (lid : Nat) : (s.settleTop lid).running = s.running := by
  have signalled : ∀ l : Launch, (if l.signalled then s else
      (s.putLaunch lid { l with signalled := true }).addWrites lid (signalWrites l)).running = s.running := by
    intro l
    split <;> simp
  simp only [State.settleTop]
  split
  · rfl
  · split
    · rfl
    · split
      · exact signalled _
      · split
        · exact (State.packetDone_running ..).trans (signalled _)
        · exact signalled _

@[simp] theorem State.nodeRetired_running (s : State) (pat : Nat) : (s.nodeRetired pat).running = s.running := by
  unfold State.nodeRetired
  split <;> simp

@[simp] theorem State.settleLaunch_running (s : State) (lid : Nat) : (s.settleLaunch lid).running = s.running := by
  unfold State.settleLaunch
  split
  · rfl
  · split
    · rfl
    · split
      · simp
      · simp
      · split <;> simp
      · simp

/-- A gang that ends with an error publishes no band (R377). -/
@[simp] theorem State.gangDone_running (s : State) (lid e : Nat) (final : List SchedWrite) :
    (s.gangDone lid (some e) final).running = s.running := by
  simp only [State.gangDone]
  split
  · rfl
  · rw [State.settleLaunch_running, State.addWrites_running]
    split
    · split <;> simp
    · contradiction
    · simp

@[simp] theorem State.publish_waves (s : State) (lid h b frame : Nat) : (s.publish lid h b frame).waves = s.waves := by
  simp only [State.publish]
  split
  · split <;> rfl
  · split <;> rfl

@[simp] theorem State.gangDone_waves (s : State) (lid : Nat) (err : Option Nat) (final : List SchedWrite) :
    (s.gangDone lid err final).waves = s.waves := by
  simp only [State.gangDone]
  split
  · rfl
  · rw [State.waves_of_running (State.settleLaunch_running ..), State.waves_of_running (State.addWrites_running ..)]
    split
    · split <;> rfl
    · exact State.publish_waves ..
    · rfl

/-- A workgroup that retires changes no wave (R38). -/
theorem State.retireCheck_waves (s : State) (k : Nat) : (s.retireCheck k).waves = s.waves := by
  have closed : ∀ core, ((s.releaseL1 core).closePorts k false).waves = s.waves := fun core =>
    State.waves_of_running ((State.closePorts_running ..).trans (State.releaseL1_running ..))
  have bits : ∀ (t : State) (r : Bool) (l : Launch) (lid : Nat) (wg : Workgroup),
      (if r then t else t.addWrites lid (bitWrites l [wg])).waves = t.waves := fun t r l lid wg => by
    split
    · rfl
    · exact State.waves_of_running (State.addWrites_running ..)
  have last : ∀ (t : State) (b : Bool) (gid lid : Nat) (g : Gang) (ws : List SchedWrite),
      (if b then (t.putGang gid g).gangDone lid none ws else t).waves = t.waves := fun t b gid lid g ws => by
    split
    · exact State.gangDone_waves ..
    · rfl
  simp only [State.retireCheck]
  split
  · rfl
  · split
    · split
      · rfl
      · exact (last ..).trans ((bits ..).trans (closed _))
    · rfl

end Sys2Proof.Machine
end

section
/-! SUPPORT. Lanes that exit, and the end of a wave (02 R17, R23, R38, 09 R204). -/

set_option Elab.async false
namespace Sys2Proof.Machine

/-! ### The wave -/

theorem Wave.exitLanes_eq (w : Wave) (m : Mask) :
    w.exitLanes m = { w with exited := w.exited ||| m, panels := (w.exitLanes m).panels } := by
  unfold Wave.exitLanes
  dsimp only
  rw [Wave.mapPanels_eq, Wave.mapPanels_eq w]

/-- The lanes leave the panels of the wave, and the quads that have exited with them (R17). -/
theorem Wave.exitLanes_panel (w : Wave) (m : Mask) (e : Nat) : (w.exitLanes m).panel e =
    if e ∈ w.entries then ((w.panel e).removeLanes m).removeQuads { w with exited := w.exited ||| m }.exitedQuads else w.panel e := by
  obtain ⟨x, hx⟩ : ∃ x, x = w.mapPanels fun p => p.removeLanes m := ⟨_, rfl⟩
  have eq : x = { w with panels := x.panels } := hx ▸ Wave.mapPanels_eq ..
  have panel : ∀ k, x.panel k = if k ∈ w.entries then (w.panel k).removeLanes m else w.panel k := hx ▸ Wave.mapPanels_panel w _
  have entries : e ∈ ({ x with exited := x.exited ||| m } : Wave).entries ↔ e ∈ w.entries := by
    rw [Wave.mem_entries, Wave.mem_entries]
    refine and_congr_right fun _ => ?_
    rw [show ({ x with exited := x.exited ||| m } : Wave).panel e = x.panel e from rfl, panel]
    split <;> rfl
  have quads : ({ x with exited := x.exited ||| m } : Wave).exitedQuads = { w with exited := w.exited ||| m }.exitedQuads := by rw [eq]; rfl
  rw [Wave.exitLanes, ← hx, Wave.mapPanels_panel, quads, show ({ x with exited := x.exited ||| m } : Wave).panel e = x.panel e from rfl, panel]
  by_cases he : e ∈ w.entries
  · rw [if_pos (entries.mpr he), if_pos he, if_pos he]
  · rw [if_neg (mt entries.mp he), if_neg he, if_neg he]

theorem Wave.afterExit_runs {w : Wave} {e : Nat} (h : (w.panel e).mask ≠ 0#64) (len now : Nat) :
    w.afterExit e len now = w.setPanel e ((w.panel e).advance len now) := by
  unfold Wave.afterExit
  exact if_pos (bne_iff_ne.mpr h)

/-- The panel that takes up the top of its stack (R23). -/
def Panel.takeUp (p : Panel) (t : StackEntry) (rest : List StackEntry) (now : Nat) : Panel :=
  { p.jump t.pc now with mask := t.mask, stack := rest, clause := t.clause.map Clause.resumed }

theorem Wave.afterExit_pops {w : Wave} {e : Nat} {t : StackEntry} {rest : List StackEntry} (h : (w.panel e).mask = 0#64)
    (stack : (w.panel e).stack = t :: rest) (len now : Nat) :
    w.afterExit e len now = w.setPanel e ((w.panel e).takeUp t rest now) := by
  simp only [Wave.afterExit, h, stack]
  rfl

/-- What becomes of the panel leaves the wave as it is, but for its panels and for quads that leave with it (R23). -/
theorem Wave.afterExit_eq (w : Wave) (e len now : Nat) : ∃ x, w.afterExit e len now =
    { w with exited := w.exited ||| x, panels := (w.afterExit e len now).panels } := by
  unfold Wave.afterExit
  dsimp only
  split
  · exact ⟨0#64, by rw [BitVec.or_zero]; rfl⟩
  · split
    · exact ⟨0#64, by rw [BitVec.or_zero]; rfl⟩
    · exact ⟨quadLanes (w.panel e).qmask, by rw [Wave.mapPanels_eq]; rfl⟩

theorem Wave.allExited_iff {w : Wave} : w.allExited = true ↔ ∀ j, j < 64 → j < w.width → w.exited.getLsbD j = true := by
  have bits : ∀ j, j < 64 → (waveLanes w.width &&& ~~~w.exited).getLsbD j = (decide (j < w.width) && !w.exited.getLsbD j) := fun j hj => by
    rw [BitVec.getLsbD_and, BitVec.getLsbD_not, waveLanes, getLsbD_maskOf _ _ hj, decide_eq_true hj, Bool.true_and]
  rw [Wave.allExited, beq_iff_eq]
  refine ⟨fun h j hj hw => ?_, fun h => BitVec.eq_of_getLsbD_eq fun j hj => ?_⟩
  · have bit := bits j hj
    rw [h, decide_eq_true hw] at bit
    simpa using bit
  · rw [bits j hj]
    by_cases hw : j < w.width
    · simp [h j hj hw]
    · simp [hw]

/-! ### The end of a wave -/

theorem State.toBlender_eq (s : State) (pat core : Nat) (r : Record) : ∃ ns, s.toBlender pat core r = { s with nodes := ns } := by
  unfold State.toBlender
  split
  · exact ⟨s.nodes, rfl⟩
  · exact ⟨_, rfl⟩

/-- Settling the tickets of quads that have no lane left changes the wave's tickets and the blenders of the patterns alone (R272). -/
theorem State.settleTickets_eq (s : State) (wid : Nat) : ∃ ts ns, s.settleTickets wid =
    { s.setWave wid { s.wave wid with tickets := ts } with nodes := ns } := by
  unfold State.settleTickets
  dsimp only
  split
  · exact ⟨_, _, rfl⟩
  · refine ⟨_, List.foldlRecOn (motive := fun t : State => ∃ ns, t = { s.setWave wid _ with nodes := ns }) _ _ ⟨s.nodes, rfl⟩
      fun t ht x _ => ?_⟩
    obtain ⟨ns, rfl⟩ := ht
    obtain ⟨ms, eq⟩ := State.toBlender_eq { s.setWave wid _ with nodes := ns } (State.patternOf _ _) _ (emptyColour x.2)
    exact ⟨ms, eq⟩

theorem State.endWave_wave {s : State} {wid : Nat} {wg : Workgroup} {l : Launch} (e : Nat) (last : Panel)
    (hwg : s.wg? (s.wave wid).wg = some wg) (hl : s.launch? wg.lid = some l) (alive : (s.wave wid).alive = true) :
    (s.endWave wid e last).wave wid = Wave.empty := by
  simp only [State.endWave, hwg, hl]
  rw [State.wave_of_waves (State.retireCheck_waves ..), State.dropWave, State.wave_setWave, if_neg (by simp [alive]),
    State.wave_setWave]

/-! ### The claims -/

/-- An instruction that only moves on leaves everything but its panel's place. -/
theorem finish_spec (s : State) (c : Cur) :
    ∃ t, finish c s = .next t ∧ PanelOnly s t c ∧ MovedOn (s.panel c) (t.panel c) c.len 0 := by
  refine ⟨_, rfl, panelOnly_setPanel .., ?_⟩
  have flags : (s.panel c).raise 0 = s.panel c := by
    rw [Panel.raise, show (0 : Word) &&& 0xFF = 0#32 from rfl, BitVec.or_zero]
  rw [State.advance, State.panel_setPanel]
  have moved := movedOn_advance (s.panel c) 0 c.len s.cycle
  rw [flags] at moved
  exact moved

/-- The state after lanes of a panel have exited (R204). -/
def State.exited (s : State) (c : Cur) : State :=
  let w := ((s.curWave c).exitLanes (s.active c)).afterExit c.entry c.len s.cycle
  let t := (s.setWave c.wid w).settleTickets c.wid
  if w.allExited then t.endWave c.wid c.entry (s.panel c) else t.settleSeams c.wid

theorem exec_exit {s : State} {c : Cur} (h : Issues .exit s c) :
    exec .exit s = if s.active c = 0 then finish c s else .next (s.exited c) :=
  issue_eq h fun c s => if s.active c = 0 then finish c s else .next (s.exited c)

section
variable {s : State} {c : Cur} {m : Mask}

/-- The panel that its lanes leave (R17). -/
theorem exitLanes_panel_of_valid (he : c.entry < 8) (valid : (s.panel c).valid = true) :
    ∃ q, ((s.curWave c).exitLanes m).panel c.entry = ((s.panel c).removeLanes m).removeQuads q :=
  ⟨_, (Wave.exitLanes_panel (s.curWave c) m c.entry).trans (if_pos (Wave.mem_entries.mpr ⟨he, valid⟩))⟩

theorem Wave.exitLanes_mask_ne_zero {w : Wave} {e : Nat} (h : (w.panel e).mask &&& ~~~ m ≠ 0) : ((w.exitLanes m).panel e).mask ≠ 0#64 := by
  rw [Wave.exitLanes_panel]
  split
  · exact h
  · intro none
    exact h (by rw [none]; exact BitVec.zero_and)

/-- With a lane left to the wave, the wave and what waits at its seams go on (R204). -/
theorem State.exited_goesOn {w : Wave} (hw : ((s.curWave c).exitLanes (s.active c)).afterExit c.entry c.len s.cycle = w)
    (left : ∃ j, j < w.width ∧ j < 64 ∧ w.exited.getLsbD j = false) :
    ∃ (u : State) (ts : _), u.curWave c = { w with tickets := ts } ∧ s.exited c = u.settleSeams c.wid := by
  obtain ⟨ts, ns, eq⟩ := State.settleTickets_eq (s.setWave c.wid w) c.wid
  have goesOn : w.allExited = false := Bool.eq_false_iff.mpr fun all => by
    obtain ⟨j, hj, h64, out⟩ := left
    rw [Wave.allExited_iff.mp all j h64 hj] at out
    exact absurd out (by decide)
  refine ⟨(s.setWave c.wid w).settleTickets c.wid, ts, ?_, ?_⟩
  · rw [eq]
    show (State.setWave _ c.wid _).wave c.wid = _
    rw [State.wave_setWave, State.wave_setWave]
  · simp only [State.exited, hw, goesOn, Bool.false_eq_true, if_false]

end

theorem claim_exitLanes : Claim.ExitLanes := by
  intro s c h
  refine ⟨fun none => ?_, fun lanes keeps left => ?_⟩
  · rw [exec_exit h, if_pos none]
    exact finish_spec s c
  · obtain ⟨x, hx⟩ : ∃ x, x = (s.curWave c).exitLanes (s.active c) := ⟨_, rfl⟩
    have wave : x = { s.curWave c with exited := (s.curWave c).exited ||| s.active c, panels := x.panels } := hx ▸ Wave.exitLanes_eq ..
    have mask : (x.panel c.entry).mask ≠ 0#64 := hx ▸ Wave.exitLanes_mask_ne_zero keeps
    have after : ((s.curWave c).exitLanes (s.active c)).afterExit c.entry c.len s.cycle =
        x.setPanel c.entry ((x.panel c.entry).advance c.len s.cycle) := hx ▸ Wave.afterExit_runs (hx ▸ mask) c.len s.cycle
    obtain ⟨u, ts, hu, exits⟩ := State.exited_goesOn after (by rw [wave]; exact left)
    have settled : (u.curWave c).KeepsLanes ((s.exited c).curWave c) := exits ▸ State.settleSeams_wave u c.wid
    have old : (s.exited c).curWave c = { s.curWave c with
        exited := (s.curWave c).exited ||| s.active c, tickets := ts, panels := ((s.exited c).curWave c).panels
        owed := ((s.exited c).curWave c).owed } := by
      rw [settled, hu, wave]
      rfl
    refine ⟨s.exited c, by rw [exec_exit h, if_neg lanes], ?_, ?_, ?_, ?_, ?_, fun hc run => ?_⟩
    · rw [old]
      exact h.alive
    · rw [old]
    · rw [old]
    · rw [old]
    · rw [old]
    · obtain ⟨q, hq⟩ := exitLanes_panel_of_valid (m := s.active c) hc h.valid
      have panel : u.panel c = (((s.panel c).removeLanes (s.active c)).removeQuads q).advance c.len s.cycle := by
        rw [State.panel, show (u.wave c.wid) = _ from hu]
        show (x.setPanel c.entry _).panel c.entry = _
        rw [Wave.panel_setPanel, hx, hq]
      have stays : (s.exited c).panel c = u.panel c := by
        refine exits ▸ State.settleSeams_panel u c.wid ?_
        rw [show (u.wave c.wid).panel c.entry = _ from panel, Panel.advance_status]
        rw [show (((s.panel c).removeLanes (s.active c)).removeQuads q).status = (s.panel c).status from rfl, run]
        decide
      rw [stays, panel]
      simp only [Panel.advance_mask, Panel.advance_valid, Panel.advance_g, Panel.advance_pc]
      exact ⟨rfl, rfl, h.valid, rfl⟩

/-- A stack none of whose entries loses a lane stays as it is. -/
theorem cutStack_eq_self {m : Mask} {l : List StackEntry} (h : ∀ x ∈ l, x.mask ≠ 0 ∧ x.mask &&& m = x.mask) : cutStack m l = l := by
  have same : l.map (StackEntry.only m) = l := by
    refine (List.map_congr_left fun x hx => ?_).trans (List.map_id l)
    show ({ x with mask := x.mask &&& m } : StackEntry) = x
    rw [(h x hx).2]
  rw [cutStack, same, List.filter_eq_self]
  exact fun x hx => bne_iff_ne.mpr (h x hx).1

theorem claim_exitPops : Claim.ExitPops := by
  intro s c top rest h hc lanes all run stack disjoint left
  obtain ⟨q, hq⟩ := exitLanes_panel_of_valid (m := s.active c) hc h.valid
  obtain ⟨x, hx⟩ : ∃ x, x = (s.curWave c).exitLanes (s.active c) := ⟨_, rfl⟩
  obtain ⟨y, hy⟩ : ∃ y, y = ((s.panel c).removeLanes (s.active c)).removeQuads q := ⟨_, rfl⟩
  have wave : x = { s.curWave c with exited := (s.curWave c).exited ||| s.active c, panels := x.panels } := hx ▸ Wave.exitLanes_eq ..
  rw [← hx, ← hy] at hq
  have mask : y.mask = 0#64 := by
    rw [hy]
    show (s.panel c).mask &&& ~~~ s.active c = 0#64
    rw [all, BitVec.and_not_self]
    rfl
  have stack' : y.stack = top :: rest := by
    rw [hy, ← stack]
    refine cutStack_eq_self fun e he => ⟨(disjoint e he).1, ?_⟩
    rw [all]
    refine BitVec.eq_of_getLsbD_eq fun j hj => ?_
    have apart := congrArg (BitVec.getLsbD · j) (disjoint e he).2
    rw [BitVec.getLsbD_and, BitVec.getLsbD_not, decide_eq_true hj, Bool.true_and]
    simp only [BitVec.getLsbD_and] at apart
    revert apart
    cases e.mask.getLsbD j <;> simp
  have after : ((s.curWave c).exitLanes (s.active c)).afterExit c.entry c.len s.cycle =
      x.setPanel c.entry (y.takeUp top rest s.cycle) := by
    rw [← hx, Wave.afterExit_pops (t := top) (rest := rest) (by rw [hq, mask]) (by rw [hq, stack']), hq]
  obtain ⟨u, ts, hu, exits⟩ := State.exited_goesOn after (by rw [wave]; exact left)
  have panel : u.panel c = y.takeUp top rest s.cycle := by
    rw [State.panel, show (u.wave c.wid) = _ from hu]
    show (x.setPanel c.entry _).panel c.entry = _
    rw [Wave.panel_setPanel]
  have took : y.takeUp top rest s.cycle = { y with
      pc := top.pc % 2 ^ 57, clause := top.clause.map Clause.resumed, hold := (y.jump top.pc s.cycle).hold
      hinted := (y.jump top.pc s.cycle).hinted, doneAt := s.cycle, got := [], mask := top.mask, stack := rest } := by
    rw [Panel.takeUp, Panel.jump_eq]
  have stays : (s.exited c).panel c = u.panel c := by
    refine exits ▸ State.settleSeams_panel u c.wid ?_
    rw [show (u.wave c.wid).panel c.entry = _ from panel, took, hy]
    show (s.panel c).status ≠ .seamw
    rw [run]
    decide
  refine ⟨s.exited c, by rw [exec_exit h, if_neg lanes], ?_⟩
  rw [stays, panel, took, hy]
  exact ⟨rfl, rfl, rfl, rfl⟩

theorem claim_exitEndsWave : Claim.ExitEndsWave := by
  intro s c wg l h lanes hwg hl all
  obtain ⟨x, hx⟩ : ∃ x, x = ((s.curWave c).exitLanes (s.active c)).afterExit c.entry c.len s.cycle := ⟨_, rfl⟩
  obtain ⟨m, after⟩ := ((s.curWave c).exitLanes (s.active c)).afterExit_eq c.entry c.len s.cycle
  have wave : x = { s.curWave c with exited := ((s.curWave c).exited ||| s.active c) ||| m, panels := x.panels } := by
    rw [hx, after, Wave.exitLanes_eq]
  have ended : x.allExited = true := Wave.allExited_iff.mpr fun j hj hw => by
    rw [wave] at hw ⊢
    show BitVec.getLsbD (_ ||| m) j = true
    rw [BitVec.getLsbD_or, all j hj hw, Bool.true_or]
  obtain ⟨ts, ns, eq⟩ := State.settleTickets_eq (s.setWave c.wid x) c.wid
  have settled : ((s.setWave c.wid x).settleTickets c.wid).wave c.wid = { x with tickets := ts } := by
    rw [eq]
    show (State.setWave _ c.wid _).wave c.wid = _
    rw [State.wave_setWave, State.wave_setWave]
  refine ⟨s.exited c, by rw [exec_exit h, if_neg lanes], ?_⟩
  simp only [State.exited, ← hx, ended, if_true]
  refine State.endWave_wave (wg := wg) (l := l) c.entry (s.panel c) ?_ ?_ ?_
  · have same : (((s.setWave c.wid x).settleTickets c.wid).wave c.wid).wg = (s.curWave c).wg := by rw [settled, wave]
    rw [same, eq]
    exact hwg
  · rw [eq]
    exact hl
  · rw [settled, wave]
    exact h.alive

end Sys2Proof.Machine

namespace Sys2Proof

open Machine

/-- Settles O18: `Wave.exitLanes_panel` says what the lanes leave, `Wave.afterExit_runs` and `Wave.afterExit_pops` how the panel goes on,
and `State.endWave_wave` how the wave ends. -/
theorem exits : Obligations.Exits := ⟨claim_exitLanes, claim_exitPops, claim_exitEndsWave⟩

end Sys2Proof
end

section
/-! SUPPORT. A traversal that is resumed (12 R292): what its fork writes down. -/

set_option Elab.async false
namespace Sys2Proof.Machine

/-- The rays that `trace.resume` goes on with (R292). -/
def resumedRays (a : Nat) (z : Src) (l : Lanes) : List RayState :=
  (activeLanes l.act).map fun j =>
    { lane := j, resume := some (l.a32 z j), done := false, words := (List.range 32).map fun k => (l.w.vreg (a + k)).getD j 0 }

/-- `trace.resume` with a usable port and an active lane writes its panel back, with its streams moved on, before it forks. -/
theorem exec_traceResume {port : Option Nat} {d a : Nat} {z : Src} {s : State} {c : Cur} (h : Issues (.traceResume port d a z) s c)
    (plain : NoStreams (.traceResume port d a z)) (usable : s.traceBad c port = false) (lanes : s.active c ≠ 0) :
    exec (.traceResume port d a z) s = .next (((s.setPanel c (s.panel c)).startTrace c (.traceResume port d a z) port d (s.active c)
      (resumedRays a z (s.lanes c))).advance c) := by
  refine (issue_eq h fun c s => withLanes (.traceResume port d a z) c s fun l s =>
    if s.traceBad c port then illegal c s
    else
      let s := s.setPanel c ((s.panel c).advanceStreams l.w.width (usesOf (.traceResume port d a z)).srcStreams)
      if l.act = 0 then finish c s
      else finish c (s.startTrace c (.traceResume port d a z) port d l.act (resumedRays a z l))).trans ((withLanes_eq plain _).trans ?_)
  rw [if_neg (by simp [usable]), plain.1]
  exact if_neg lanes

/-- The thread that a trace forks carries the generation of the state that it forks from. -/
theorem State.thread_startTrace (s : State) (c : Cur) (i : Instr) (port : Option Nat) (d : Nat) (act : Mask) (rays : List RayState) :
    ∃ x, ((s.startTrace c i port d act rays).advance c).thread? s.serial = some x ∧ x.gen = (s.laneAcc c).gen :=
  ⟨_, Sparse.find_put_same .., rfl⟩

/-- The panel of the machine at its first fetch. -/
def firstPanel : Cur := { wid := 0, entry := 0, len := 1 }

/-- The machine at its first fetch, with a second entry for its wave that no wave number reads: a panel in it waits for a new
generation of the wave's address space. -/
def twinned : State :=
  let s := { State.reset.withFetchWord 32 0 with cur := some firstPanel }
  { s with waves := s.waves ++ [(0, (s.wave 0).setPanel 0 { s.panel firstPanel with
      wait := some { instr := .genInc .zero .zero, len := 1, since := 0, aux := (s.laneAcc firstPanel).asn * 2 ^ 16 } })] }

set_option maxRecDepth 100000 in
theorem twinned_issues : Issues (.traceResume none 8 32 (.v 0)) twinned firstPanel :=
  ⟨by decide, by decide, by decide, ⟨_, rfl, by decide⟩, by decide⟩

set_option maxRecDepth 100000 in
/-- Writing the panel back ends what looks like a change of the generation. -/
theorem twinned_gen : ((twinned.setPanel firstPanel (twinned.panel firstPanel)).laneAcc firstPanel).gen ≠ (twinned.laneAcc firstPanel).gen := by
  decide

end Sys2Proof.Machine

namespace Sys2Proof

open Machine

/-- Refutes O44: the statement is of every state, and `twinned` is one whose map of waves has two entries for wave 0. The second is
read by no accessor, but it counts where `State.changing` asks whether a generation change is under way; `trace.resume` writes its
panel back before it forks, which drops that entry, so that the thread has another generation than `Claim.Forked` says. -/
theorem not_raysAndMotion : ¬ Obligations.RaysAndMotion := by
  rintro ⟨⟨-, resumes⟩, -⟩
  have plain : NoStreams (.traceResume none 8 32 (.v 0)) := ⟨rfl, rfl⟩
  have lanes : twinned.active firstPanel ≠ 0 := by
    set_option maxRecDepth 100000 in decide
  obtain ⟨t, -, ht, -, ⟨-, -, x, hx, -, -, -, -, -, -, -, gen, -⟩, -⟩ :=
    (resumes none 8 32 (.v 0) twinned firstPanel twinned_issues plain rfl).2 lanes
  obtain ⟨y, hy, made⟩ := (twinned.setPanel firstPanel (twinned.panel firstPanel)).thread_startTrace firstPanel
    (.traceResume none 8 32 (.v 0)) none 8 (twinned.active firstPanel) (resumedRays 32 (.v 0) (twinned.lanes firstPanel))
  rw [exec_traceResume twinned_issues plain rfl lanes] at ht
  cases ht
  have same : y = x := Option.some.inj (hy.symm.trans hx)
  exact twinned_gen (made.symm.trans (same ▸ gen))

end Sys2Proof
end

section
/-! SUPPORT. A state that refutes O52: fixed filters (19 R379, R380) over a surface in which the head's own address-space entry lies. -/

set_option Elab.async false
namespace Sys2Proof.Machine

/-- A layout record of bytes in one place of its rows: KIND 0, BASE, the bytes from one row to the next. -/
def byteRows (base pitch : Nat) : List Byte :=
  toBytes 8 base ++ [0x40] ++ List.replicate 39 0 ++ toBytes 8 pitch

/-- A descriptor whose OUT is the low byte of the generation in entry 0 of the address-space table, with its motion in rows a line apart. -/
def selfPainting : FrameDesc :=
  { addr := 0, bytes := toBytes 128 3, btab := [], out := byteRows 8 0, src0 := byteRows 0x100 0, src1 := [], mot := byteRows 0x200 128 }

/-- A band that its fixed filter is to write. -/
def filtered : Band := { launch := none, published := false, killed := false, code := some 1 }

/-- Head 0 scans frames one pixel wide, and its band 0 waits for the fixed filter. -/
def selfPainter : Head :=
  { Head.reset with htim := 1 + 64 * 2 ^ 32, running := true, desc := some selfPainting, bands := [(0, filtered)] }

/-- Address space 0 of partition 0 is mapped where it lies, with the table itself; the second row of motion lies in a poisoned line. -/
def selfPainted : State :=
  { (State.reset.setPart 0 { Partition.reset with astcnt := 1, kcnt := 1, gsize := 1 }).setHead 0 selfPainter with
    mem := [(0, 1), (0x100, 5)], poison := [(5, true)]
    tlb := [{ unit := moduleTlb, part := 0, asn := 0, page := 0, level := 1, bits := 7 }] }

/-- The filter over the pixels of band 0, with the accesses of a state as it goes (R379). -/
def State.filterRun (s : State) (acc : State → Acc) : Except Verdict State :=
  s.paint (s.headAcc 0) (FrameDesc.surface selfPainting.out) (fun v i j => v.filterAt (acc v) selfPainting 1 64 0 i j) (bandPixels 1 0)

/-- With the generation that the head's space had at the start every pixel is written: a load of an old generation sees no poison. -/
theorem filterRun_of_start : (selfPainted.filterRun fun _ => selfPainted.headAcc 0).toBool = true := by decide +kernel

/-- The first pixel changes the generation, and with the new one the second pixel's motion is a poisoned read (R364). -/
theorem filterRun_as_it_goes : (selfPainted.filterRun fun v => v.headAcc 0).toBool = false := by decide +kernel

theorem selfPainted_head : selfPainted.head 0 = selfPainter := by decide

theorem selfPainter_target : selfPainter.target 0 = some (false, selfPainting, filtered) := by decide

/-- The filter meets a failed access, and the band stays unwritten. -/
theorem exec_bandFixedFilter_selfPainted : exec (.bandFixedFilter 0 0) selfPainted = .next selfPainted := by
  show execBandFixedFilter 0 0 selfPainted = _
  unfold execBandFixedFilter
  rw [selfPainted_head]
  dsimp only
  rw [selfPainter_target]
  dsimp only
  rw [if_neg (by decide)]
  have failed := filterRun_as_it_goes
  change (selfPainted.paint _ _ (fun v i j => v.filterAt (v.headAcc 0) selfPainting selfPainter.hact selfPainter.vact 0 i j)
    (bandPixels selfPainter.hact 0)).toBool = false at failed
  split
  · rfl
  · next hu =>
    rw [hu] at failed
    cases failed

end Sys2Proof.Machine
end

section
set_option Elab.async false
namespace Sys2Proof
open Machine

/-- Refutes O52: the fixed filter reads with the generation that the head's address space has at each pixel (R379), not with that at its
start. Where OUT covers the space's own table entry, the first pixel changes the generation, and the filter then meets a poisoned line
that loads of the old generation do not see, and leaves the band unwritten. -/
theorem not_displays : ¬ Obligations.Displays := by
  rintro ⟨-, -, -, -, filters, -⟩
  obtain ⟨u, painted⟩ : ∃ u, (selfPainted.filterRun fun _ => selfPainted.headAcc 0) = .ok u := by
    have written := filterRun_of_start
    cases run : selfPainted.filterRun fun _ => selfPainted.headAcc 0 with
    | error v =>
      rw [run] at written
      cases written
    | ok u => exact ⟨u, rfl⟩
  have holds := filters 0 0 selfPainted u false selfPainting filtered (by decide)
  simp only [selfPainted_head] at holds
  have run := (holds rfl selfPainter_target rfl rfl painted).symm.trans exec_bandFixedFilter_selfPainted
  have same := congrArg (fun t : State => (t.head 0).bands) (Host.Outcome.next.inj run)
  simp only [State.head_setHead, selfPainted_head] at same
  exact absurd same (by decide)

end Sys2Proof
end

section
/-! SUPPORT. How a gang of one workgroup with one wave starts (02 R16, R18, R41, 03 R50, R51, R62, 17 R330, R339). -/

set_option Elab.async false
namespace Sys2Proof.Machine

/-! ### Accesses of agents -/

@[simp] theorem State.fetchBytes_bare (s : State) (a : Acc) (va n : Nat) : (s.fetchBytes a va n).1.bare = s.bare := by
  unfold State.fetchBytes
  split
  · rfl
  · split <;> exact State.bare_of_readVa ‹_›

theorem State.bare_of_agentRead {s t : State} {a : Acc} {va n : Nat} {bs : List Byte} (h : s.agentRead a va n = .ok (t, bs)) :
    t.bare = s.bare := by
  unfold State.agentRead at h
  split at h
  · rw [← State.fetchBytes_bare s a (va % 2 ^ 64) n, Except.ok.inj h]
  · cases h

theorem State.bare_of_agentWrite {s t : State} {a : Acc} {va : Nat} {bs : List Byte} (h : s.agentWrite a va bs = .ok t) :
    t.bare = s.bare := by
  unfold State.agentWrite State.putBytes at h
  split at h
  · split at h
    · next u hu => exact Except.ok.inj h ▸ State.bare_of_writeVa hu
    · exact Except.ok.inj h ▸ rfl
  · cases h

/-! ### Putting a gang at its start -/

/-- The machine but for what the start of a gang leaves in memory, A stores and chains. -/
def State.manned (s : State) : State := { s.bare with aStore := [], shadow := [], chains := [] }

theorem State.manned_of_bare {s t : State} (h : t.bare = s.bare) : t.manned = s.manned := by
  unfold State.manned
  rw [h]

@[simp] theorem State.acquireL1_bare (s : State) (core : Nat) : (s.acquireL1 core).bare = s.bare :=
  foldl_keeps State.bare (fun s ix => by
    dsimp only
    split <;> simp) _ _

@[simp] theorem State.clearShadows_manned (s : State) (g : GridSpec) (w : Workgroup) : (s.clearShadows g w).manned = s.manned := by
  unfold State.clearShadows
  split <;> rfl

theorem State.writeStore_manned (s : State) (core ofs : Nat) (bs : List Byte) : (s.writeStore .a core ofs bs).manned = s.manned := by
  unfold State.writeStore State.setStore
  rfl

@[simp] theorem State.writeRecords_manned (s : State) (g : GridSpec) (wgs : List Workgroup) : (s.writeRecords g wgs).manned = s.manned :=
  foldl_keeps State.manned (fun s w => foldl_keeps State.manned (fun s e => by
    split
    · exact State.writeStore_manned ..
    · rfl) _ _) _ _

/-- The gang of one workgroup where a plan puts it. -/
def soloGang (lid index gid : Nat) (p : CorePlan) : Gang :=
  { lid := lid, index := index, wgs := [gid + 1], pre := .run, errors := 0, ended := none, done := false, saved := none, passed := false
    inherited := [], cluster := p.core / 48, base := p.core }

/-- A state with a gang of one workgroup and one wave put at its start. -/
def State.solo (s : State) (gid lid : Nat) (g : GridSpec) (index node : Nat) (p : CorePlan) (slot base : Nat) : State :=
  ((s.putGang gid (soloGang lid index gid p)).putWg (gid + 1) (newWg g gid lid index 0 node [p.core] p)).setWave (p.core * 64 + slot)
    (startWave g (gid + 1) (index * g.gang + 0) index 0 0 base node none s.cycle)

/-- Placing the one wave of a workgroup. -/
theorem State.startWaves_manned (s : State) (g : GridSpec) (k : Nat) (w : Workgroup) (gang slot base : Nat) :
    (s.startWaves g k w gang [(slot, base, none)]).manned =
      (s.setWave (w.core * 64 + slot) (startWave g k w.index gang w.gwg 0 base w.node none s.cycle)).manned := rfl

theorem State.setWave_manned {s t : State} (h : t.manned = s.manned) (k : Nat) (w : Wave) :
    (t.setWave k w).manned = (s.setWave k w).manned := (congrArg (State.setWave · k w) h : t.manned.setWave k w = s.manned.setWave k w)

theorem State.putWg_manned {s t : State} (h : t.manned = s.manned) (k : Nat) (w : Workgroup) :
    (t.putWg k w).manned = (s.putWg k w).manned := (congrArg (State.putWg · k w) h : t.manned.putWg k w = s.manned.putWg k w)

theorem State.cycle_of_manned {s t : State} (h : t.manned = s.manned) : t.cycle = s.cycle :=
  (congrArg State.cycle h : t.manned.cycle = s.manned.cycle)

theorem State.gangAt_manned {p : CorePlan} {slot base : Nat} (hp : p.slots = [(slot, base, none)]) (s : State) (gid lid : Nat) (g : GridSpec)
    (index node : Nat) : (s.gangAt gid lid g index node [p]).manned = (s.solo gid lid g index node p slot base).manned := by
  obtain ⟨wg, hwg⟩ : ∃ wg, wg = newWg g gid lid index 0 node [p.core] p := ⟨_, rfl⟩
  obtain ⟨u, hu⟩ : ∃ u, u = s.putGang gid (soloGang lid index gid p) := ⟨_, rfl⟩
  have entered : ((((u.acquireL1 p.core).putWg (gid + 1) wg).clearShadows g wg)).manned = (u.putWg (gid + 1) wg).manned :=
    (State.clearShadows_manned ..).trans (State.putWg_manned (State.manned_of_bare (State.acquireL1_bare ..)) _ _)
  have placed := State.startWaves_manned (((u.acquireL1 p.core).putWg (gid + 1) wg).clearShadows g wg) g (gid + 1) wg index slot base
  rw [State.setWave_manned entered, State.cycle_of_manned entered] at placed
  have gang : s.gangAt gid lid g index node [p] =
      ((((u.acquireL1 p.core).putWg (gid + 1) wg).clearShadows g wg).startWaves g (gid + 1) wg index p.slots).writeRecords g [wg] := by
    subst hwg hu
    unfold State.gangAt
    simp [hp, soloGang, newWg, List.zipIdx]
  rw [gang, State.writeRecords_manned, hp, placed, hwg, hu]
  rfl

/-! ### The wave that starts -/

/-- Values given to g registers change nothing else of a panel. -/
theorem Panel.foldl_setG_eq (gs : List (Nat × DWord)) (p : Panel) :
    gs.foldl (fun p e => p.setG e.1 e.2) p = { p with g := (gs.foldl (fun p e => p.setG e.1 e.2) p).g } := by
  induction gs generalizing p with
  | nil => rfl
  | cons e gs ih => exact ih _

theorem startPanel_eq (g : GridSpec) (gs : List (Nat × DWord)) (now : Nat) : startPanel g gs now =
    { Panel.empty with
      valid := true, pc := g.entry, qmask := lanesQuads (waveLanes g.width), mask := waveLanes g.width, ready := now
      g := (gs.foldl (fun p e => p.setG e.1 e.2) Panel.empty).g } := by
  rw [startPanel, Panel.foldl_setG_eq]

theorem startPanel_greg (g : GridSpec) (a b c d : DWord) (now n : Nat) :
    (startPanel g [(0, a), (1, b), (2, c), (3, d)] now).greg n = match n with
      | 0 => a
      | 1 => b
      | 2 => c
      | 3 => d
      | _ => 0 := by
  simp only [startPanel, List.foldl, Panel.greg, Panel.setG, Sparse.get_set]
  rcases n with _ | _ | _ | _ | n <;> simp [Panel.empty]

/-- R50, R51: the g registers of the one wave of gang i's one workgroup. -/
theorem startPanel_start_greg (g : GridSpec) (i now n : Nat) :
    (startPanel g (startG g (i * g.gang + 0) i 0 0 0) now).greg n = match n with
      | 0 => BitVec.ofNat 64 (i * g.gang % g.ex + i * g.gang / g.ex % g.ey * 2 ^ 21 + i * g.gang / (g.ex * g.ey) * 2 ^ 42)
      | 1 => BitVec.ofNat 64 (i * 2 ^ 40 + (g.nwav - 1) * 2 ^ 12 + g.width)
      | 2 => BitVec.ofNat 64 (g.ex + g.ey * 2 ^ 21 + g.ez * 2 ^ 42)
      | _ => 0 := by
  have place : i * 2 ^ 40 + 0 * 2 ^ 32 + (g.nwav - 1) * 2 ^ 12 + 0 * 2 ^ 8 + g.width = i * 2 ^ 40 + (g.nwav - 1) * 2 ^ 12 + g.width := by
    rw [Nat.zero_mul, Nat.zero_mul, Nat.add_zero, Nat.add_zero]
  unfold startG GridSpec.coords packXyz
  rw [startPanel_greg, place, Nat.add_zero]
  rcases n with _ | _ | _ | _ | n <;> rfl

/-- The wave of a workgroup that inherits nothing (R62). -/
theorem startWave_eq (g : GridSpec) (wg index gang gwg wave base node now : Nat) :
    startWave g wg index gang gwg wave base node none now =
      { Wave.empty with
        alive := true, wg := wg, idx := wave, width := g.width, base := base, regs := g.regs
        panels := [(0, startPanel g (startG g index gang gwg wave node) now)] } := by
  simp [startWave, Wave.empty]

theorem startWave_panel (g : GridSpec) (wg index gang gwg wave base node now e : Nat) :
    (startWave g wg index gang gwg wave base node none now).panel e =
      if e = 0 then startPanel g (startG g index gang gwg wave node) now else Panel.empty := by
  rw [startWave_eq]
  by_cases he : e = 0
  · subst he
    rfl
  · have ne : ¬ 0 = e := fun h => he h.symm
    simp [Wave.panel, Sparse.get, he, ne]

/-! ### The placement -/

theorem State.bare_of_depRead {s t : State} {l : Launch} {dep : List Byte × Nat} (h : s.depRead l = .ok (t, dep)) : t.bare = s.bare := by
  unfold State.depRead at h
  split at h
  · cases h
    rfl
  · dsimp only at h
    generalize read : s.agentRead _ _ _ = r at h
    cases r with
    | error v => cases h
    | ok r =>
      cases h
      exact State.bare_of_agentRead (bs := r.2) read

theorem exec_gangPlacement_start {s u : State} {die lid i : Nat} {l : Launch} {plan : List CorePlan} {dep : List Byte × Nat}
    (next : s.nextPlacement die = some (lid, i, .start plan)) (hl : s.launch? lid = some l) (cool : s.hot = false)
    (read : s.depRead l = .ok (u, dep)) :
    exec (.gangPlacement die lid i) s = .next ((u.putLaunch lid (l.take die i)).startGang lid l.spec i 0 plan) := by
  show execGangPlacement die lid i s = _
  unfold execGangPlacement
  rw [next, hl]
  dsimp only
  rw [if_neg (by simp [cool]), read]

theorem claim_gangStarts : Claim.GangStarts := by
  intro s u die lid i slot base l p dep next hl cool read hp wide g
  have same := State.bare_of_depRead read
  have serial : u.serial = s.serial := (congrArg State.serial same : u.bare.serial = s.bare.serial)
  obtain ⟨taken, htaken⟩ : ∃ taken, taken = u.putLaunch lid (l.take die i) := ⟨_, rfl⟩
  have number : taken.serial = s.serial := by rw [htaken]; exact serial
  have manned := State.gangAt_manned hp taken taken.serial lid g i 0
  obtain ⟨t, ht⟩ : ∃ t, t = taken.gangAt taken.serial lid g i 0 [p] := ⟨_, rfl⟩
  rw [← ht] at manned
  have gangs : t.gangs = Sparse.put taken.gangs taken.serial (soloGang lid i taken.serial p) :=
    (congrArg State.gangs manned : t.manned.gangs = (State.manned _).gangs)
  have waves : t.waves = (taken.solo taken.serial lid g i 0 p slot base).waves :=
    (congrArg State.waves manned : t.manned.waves = (State.manned _).waves)
  refine ⟨{ t with serial := taken.serial + 1 + 1 }, soloGang lid i taken.serial p, ?_, ?_, rfl, rfl, rfl, rfl, ?_, ?_, ?_⟩
  · rw [exec_gangPlacement_start next hl cool read, ← htaken, State.startGang, ← ht]
    rfl
  · show Sparse.find t.gangs s.serial = _
    rw [gangs, number, Sparse.find_put_same]
  · rw [soloGang, number]
  · rw [number]
  have wave : ∀ k, t.wave k = if k = p.core * 64 + slot then
      startWave g (taken.serial + 1) (i * g.gang + 0) i 0 0 base 0 none taken.cycle else u.wave k := by
    intro k
    rw [State.wave_of_waves waves]
    split
    · next hk => rw [hk, State.solo, State.wave_setWave]
    · next hk =>
      rw [State.solo, State.wave_setWave_other _ _ _ _ hk, htaken]
      rfl
  have started : t.wave (p.core * 64 + slot) = startWave g (taken.serial + 1) (i * g.gang + 0) i 0 0 base 0 none taken.cycle := by
    rw [wave, if_pos rfl]
  have first : (t.wave (p.core * 64 + slot)).panel 0 = startPanel g (startG g (i * g.gang + 0) i 0 0 0) taken.cycle := by
    rw [started, startWave_panel, if_pos rfl]
  have other : ∀ e, e ≠ 0 → ((t.wave (p.core * 64 + slot)).panel e).valid = false := fun e he => by
    rw [started, startWave_panel, if_neg he]
    rfl
  have lanes : ∀ j, j < 64 → ((t.wave (p.core * 64 + slot)).panel 0).mask.getLsbD j = decide (j < g.width) := fun j hj => by
    rw [first, startPanel_eq]
    exact getLsbD_maskOf _ _ hj
  have hw := started.trans (startWave_eq ..)
  have hq := first.trans (startPanel_eq ..)
  refine ⟨congrArg Wave.alive hw, congrArg Wave.width hw, congrArg Wave.regs hw, congrArg Wave.base hw, congrArg Wave.exited hw,
    congrArg Wave.v hw, congrArg Wave.o hw, congrArg Wave.p hw, other, congrArg Panel.valid hq, congrArg Panel.pc hq,
    congrArg Panel.status hq, congrArg Panel.stack hq, congrArg Panel.frame hq, congrArg Panel.fpc hq, congrArg Panel.mcr hq,
    congrArg Panel.s hq, lanes, fun n => ?_, fun k hk => (wave k).trans (if_neg hk)⟩
  refine (congrArg (Panel.greg · n) first).trans ((startPanel_start_greg g i taken.cycle n).trans ?_)
  rcases n with _ | _ | _ | _ | n <;> rfl

end Sys2Proof.Machine
end

section
/-! SUPPORT. Reports, steals and patterns (17 R333, R336-R338, 12 R259, R410). -/

set_option Elab.async false
namespace Sys2Proof.Machine

/-! ### Lists by place -/

theorem getD_map_zipIdx {α β : Type} (f : α × Nat → β) (l : List α) (x : α) (y : β) {d : Nat} (hd : d < l.length) :
    (l.zipIdx.map f).getD d y = f (l.getD d x, d) := by
  simp [List.getD_eq_getElem?_getD, hd]

/-- Values changed by something that leaves the value at a place. -/
theorem getD_map_zipIdx_of_fixed {α : Type} {f : α × Nat → α} (l : List α) (x : α) {d : Nat} (hf : ∀ a, f (a, d) = a) :
    (l.zipIdx.map f).getD d x = l.getD d x := by
  by_cases hd : d < l.length
  · rw [getD_map_zipIdx f l x x hd, hf]
  · simp [List.getD_eq_getElem?_getD, hd]

theorem Sparse.find_map {α : Type} (f : α → α) (l : List (Nat × α)) (k : Nat) :
    Sparse.find (l.map fun e => (e.1, f e.2)) k = (Sparse.find l k).map f := by
  unfold Sparse.find
  rw [List.find?_map]
  cases h : l.find? ((fun e => e.1 == k) ∘ fun e => (e.1, f e.2)) with
  | none => rw [show l.find? (fun e => e.1 == k) = none from h]; rfl
  | some e => rw [show l.find? (fun e => e.1 == k) = some e from h]; rfl

theorem insertBy_perm {α : Type} (key : α → Nat) (x : α) (l : List α) : (insertBy key x l).Perm (x :: l) := by
  induction l with
  | nil => exact .refl _
  | cons y l ih =>
    rw [insertBy]
    split
    · exact .refl _
    · exact (ih.cons y).trans (.swap x y l)

theorem sortBy_perm {α : Type} (key : α → Nat) (l : List α) : (sortBy key l).Perm l := by
  induction l with
  | nil => exact .refl _
  | cons x l ih => exact (insertBy_perm key x _).trans (ih.cons x)

/-! ### Reports and steals (R337, R338) -/

/-- A launch with the report of a die written down. -/
def State.reporting (s : State) (die : Nat) (l : Launch) : Launch :=
  if l.kind = .grid ∧ l.done = false then
    { l with reports := l.reports.zipIdx.map fun e => if e.2 = die then (s.allReady l die).length else e.1 }
  else l

theorem exec_residencyReport {s : State} {die : Nat} (hd : die < 4) (due : Sparse.get 0 s.reported die < s.fab / 4096) :
    exec (.residencyReport die) s = .next { s with
      reported := Sparse.set 0 s.reported die (s.fab / 4096), launches := s.launches.map fun e => (e.1, s.reporting die e.2) } := by
  refine (if_neg (by omega : ¬ (4 ≤ die ∨ s.fab / 4096 ≤ Sparse.get 0 s.reported die))).trans ?_
  congr 2
  refine List.map_congr_left fun e _ => ?_
  unfold State.reporting
  split <;> rfl

theorem exec_stealMessage {s : State} {thief victim lid : Nat} {l : Launch} (hl : s.launch? lid = some l) (ht : thief < 4)
    (grid : l.kind = .grid) (going : l.done = false) (idle : s.allReady l thief = []) (most : mostReady l.reports thief = victim)
    (room : (s.planGang lid l.spec l.spec.gang (s.openClusters l.part [2 * thief, 2 * thief + 1])).isSome = true) :
    exec (.stealMessage thief victim lid) s = .next (s.putLaunch lid { l with chunks := l.chunks.zipIdx.map fun e =>
      if e.2 = thief then (e.1.1, sortBy id (e.1.2 ++ stolen (s.readyGangs l victim)))
      else if e.2 = victim then (e.1.1, e.1.2.filter fun i => !(stolen (s.readyGangs l victim)).contains i) else e.1 }) := by
  show execStealMessage thief victim lid s = _
  unfold execStealMessage
  rw [hl]
  dsimp only
  exact if_neg (by simp [grid, going, idle, most, room, ht])

theorem claim_reportsAndSteals : Claim.ReportsAndSteals := by
  refine ⟨fun s die hd due => ?_, fun s thief victim lid l hl ht grid going idle most four hv ne room => ?_⟩
  · refine ⟨_, exec_residencyReport hd due, rfl, Sparse.get_set_same .., fun lid l hl grid going there => ?_⟩
    refine ⟨s.reporting die l, (Sparse.find_map _ _ _).trans (congrArg (Option.map (s.reporting die)) hl), ?_, ?_, fun d ne => ?_⟩
    · rw [State.reporting, if_pos ⟨grid, going⟩]
    · rw [State.reporting, if_pos ⟨grid, going⟩]
      exact (getD_map_zipIdx _ _ 0 0 there).trans (if_pos rfl)
    · rw [State.reporting, if_pos ⟨grid, going⟩]
      exact getD_map_zipIdx_of_fixed _ _ fun _ => if_neg ne
  · intro ready got
    refine ⟨_, _, exec_stealMessage hl ht grid going idle most room, rfl, State.launch_putLaunch .., rfl, ?_, ?_, fun g => ?_,
      fun d hd hv => getD_map_zipIdx_of_fixed _ _ fun _ => (if_neg hd).trans (if_neg hv), fun k hk => Sparse.find_put_other _ _ _ _ hk⟩
    · rw [getD_map_zipIdx _ _ (0, []) _ (by omega), if_pos rfl]
      exact sortBy_perm _ _
    · rw [getD_map_zipIdx _ _ (0, []) _ (by omega), if_pos rfl]
      exact sortBy_sorted id _
    · rw [getD_map_zipIdx _ _ (0, []) _ (by omega), if_neg ne.symm, if_pos rfl]
      simp [stolen, got, ready]

/-! ### Patterns (R333, R336, R410) -/

/-- A pattern whose writes are made completes when nothing of it runs (R331). -/
theorem State.settleTop_done {s : State} {lid : Nat} {l : Launch} (hl : s.launch? lid = some l) (going : l.done = false) (ended : l.live = 0)
    (held : l.held = none) (writes : l.writes = []) (unsignalled : l.signalled = false) (signal : l.spec.signal = 0) :
    ∃ m, (s.settleTop lid).launch? lid = some m ∧ m.done = true ∧ m.error = l.error := by
  have first : (s.putLaunch lid { l with signalled := true }).addWrites lid (signalWrites l) =
      (s.putLaunch lid { l with signalled := true }).putLaunch lid { l with signalled := true, writes := [] } := by
    simp [State.addWrites, held, writes, signalWrites, signal, State.schedWrites]
  refine ⟨{ l with signalled := true, writes := [], done := true }, ?_, rfl, rfl⟩
  simp only [State.settleTop, hl]
  rw [if_neg (by simp [going, ended]), if_neg (by simp [unsignalled]), first]
  simp only [State.launch_putLaunch]
  rw [if_pos (by simp [going])]
  exact State.launch_putLaunch ..

/-- A pattern that starts nothing completes with its code. -/
theorem State.failPattern_done {s : State} {lid code : Nat} {l : Launch} (hl : s.launch? lid = some l) (going : l.done = false)
    (writes : l.writes = []) (unsignalled : l.signalled = false) (signal : l.spec.signal = 0) :
    ∃ m, (s.failPattern lid code).launch? lid = some m ∧ m.done = true ∧ m.error = code := by
  unfold State.failPattern
  rw [hl]
  exact State.settleTop_done (State.launch_putLaunch ..) going rfl rfl writes unsignalled signal

@[simp] theorem State.failPattern_running (s : State) (lid code : Nat) : (s.failPattern lid code).running = s.running := by
  unfold State.failPattern
  split
  · rfl
  · rw [State.settleTop_running]
    rfl

theorem State.gangs_of_running {s t : State} (h : t.running = s.running) : t.gangs = s.gangs :=
  (congrArg State.gangs h : t.running.gangs = s.running.gangs)

theorem exec_patternPlacement {s t : State} {lid : Nat} (h : s.placeStep lid = .ok t) : exec (.patternPlacement lid) s = .next t := by
  show nodeDone s (s.placeStep lid) = _
  rw [h]
  rfl

section
variable {s : State} {lid : Nat} {l : Launch} {p : PatternSpec} (hl : s.launch? lid = some l) (hp : l.pattern = some p)
  (waits : l.placed = false) (going : l.done = false) (held : l.held = none) (cool : s.hot = false)
include hl hp waits going held cool

theorem exec_patternPlacement_misfit (misfit : s.emptied.placeWhole lid l p = none) :
    exec (.patternPlacement lid) s = .next (s.failPattern lid 0x02) := by
  refine exec_patternPlacement ?_
  unfold State.placeStep
  rw [hl]
  dsimp only
  rw [hp]
  dsimp only
  rw [if_neg (by simp [waits, going, held, cool]), misfit]
  rfl

theorem exec_patternPlacement_failed {u : State} (fits : (s.emptied.placeWhole lid l p).isSome = true)
    (failed : s.nodesReady p.nodes = .ok (u, true)) : exec (.patternPlacement lid) s = .next (u.failPattern lid 0x20) := by
  refine exec_patternPlacement ?_
  unfold State.placeStep
  rw [hl]
  dsimp only
  rw [hp]
  dsimp only
  rw [if_neg (by simp [waits, going, held, cool]), if_neg (by simp [Option.isSome_iff_ne_none.1 fits]), failed]

theorem exec_patternPlacement_placed {u v w : State} {fixed : List (Nat × Nat)} {made : List (Nat × SpoolPlan)}
    (fits : (s.emptied.placeWhole lid l p).isSome = true) (met : s.nodesReady p.nodes = .ok (u, false))
    (placed : u.placeWhole lid l p = some (v, fixed, made)) (tiles : v.tilesFit p = true) (spools : v.spoolFails lid = none)
    (written : v.agentWrite (v.launchAcc l) p.nrec (v.nodeRecords p fixed made) = .ok w) :
    exec (.patternPlacement lid) s = .next (w.putLaunch lid { l with
      placed := true, live := (p.nodes.filter fun n => n.kind.isNone).length + fixed.length }) := by
  refine exec_patternPlacement ?_
  unfold State.placeStep
  rw [hl]
  dsimp only
  rw [hp]
  dsimp only
  rw [if_neg (by simp [waits, going, held, cool]), if_neg (by simp [Option.isSome_iff_ne_none.1 fits]), met]
  dsimp only
  rw [placed]
  dsimp only
  rw [if_neg (by simp [tiles]), spools, written, ← hp]

end

theorem claim_patternPlacements : Claim.PatternPlacements := by
  intro s lid l p hl hp kind waits going held cool
  refine ⟨fun writes unsignalled signal misfit => ?_, fun u fits => ⟨fun failed writes unsignalled signal hu => ?_,
    fun v w fixed made met placed tiles spools written => ?_⟩⟩
  · obtain ⟨m, hm, done, error⟩ := State.failPattern_done (code := 0x02) hl going writes unsignalled signal
    exact ⟨_, m, exec_patternPlacement_misfit hl hp waits going held cool misfit, hm, done, error,
      State.waves_of_running (State.failPattern_running ..), State.gangs_of_running (State.failPattern_running ..)⟩
  · obtain ⟨m, hm, done, error⟩ := State.failPattern_done (code := 0x20) hu going writes unsignalled signal
    exact ⟨_, m, exec_patternPlacement_failed hl hp waits going held cool fits failed, hm, done, error,
      State.waves_of_running (State.failPattern_running ..), State.gangs_of_running (State.failPattern_running ..)⟩
  · exact ⟨_, _, exec_patternPlacement_placed hl hp waits going held cool fits met placed tiles spools written, rfl,
      State.launch_putLaunch .., rfl, fun k hk => Sparse.find_put_other _ _ _ _ hk⟩

end Sys2Proof.Machine
end

section
set_option Elab.async false
namespace Sys2Proof
open Machine

/-- Settles O50: what a start leaves but memory, A stores and chains is the gang, its workgroup and its wave; a report changes one number
of a launch, a steal two of its lists; a pattern is placed by one write, or completes with its code. -/
theorem placements : Obligations.Placements := ⟨claim_gangStarts, claim_reportsAndSteals, claim_patternPlacements⟩

end Sys2Proof
end

section
/-! SUPPORT. The debug port (16 R308-R311): its commands, stops and resumptions. -/

set_option Elab.async false
namespace Sys2Proof.Machine

/-! ### Fields of a command (R308) -/

theorem cmdOp_eq (cmd : DWord) : cmdOp cmd = cmd.toNat / 2 ^ 60 :=
  Nat.mod_eq_of_lt (Nat.div_lt_of_lt_mul (by have := cmd.isLt; omega))

theorem cmdEntry_eq (cmd : DWord) : cmdEntry cmd = (Claim.debugTarget cmd).entry := rfl
theorem cmdWid_eq (cmd : DWord) : cmdWid cmd = (Claim.debugTarget cmd).wid := rfl

section
variable {s : State} {p op : Nat} {cmd : DWord} {every : Bool} (act : State → Nat → State)

theorem dbgCommand_busy (hp : p < 8) (hop : cmd.toNat / 2 ^ 60 = op) (busy : (s.part p).dbgstat.getLsbD 0 = true) :
    dbgCommand op every p cmd s act = .next (s.setPart p { s.part p with dbgstat := 0x51 }) :=
  (if_neg (by rw [cmdOp_eq]; omega)).trans (if_pos busy)

theorem dbgCommand_reserved (hp : p < 8) (hop : cmd.toNat / 2 ^ 60 = op) (free : (s.part p).dbgstat.getLsbD 0 = false)
    (reserved : 8 ≤ cmd.toNat / 2 ^ 56 % 16 ∧ ¬ (every = true ∧ cmd.toNat / 2 ^ 56 % 16 = 15)) :
    dbgCommand op every p cmd s act = .next (s.setPart p { s.part p with dbgstat := 0x30 }) :=
  (if_neg (by rw [cmdOp_eq]; omega)).trans ((if_neg (by rw [Partition.busy, free]; decide)).trans (if_pos reserved))

theorem dbgCommand_noWave (hp : p < 8) (hop : cmd.toNat / 2 ^ 60 = op) (free : (s.part p).dbgstat.getLsbD 0 = false)
    (entry : ¬ (8 ≤ cmd.toNat / 2 ^ 56 % 16 ∧ ¬ (every = true ∧ cmd.toNat / 2 ^ 56 % 16 = 15)))
    (gone : s.waveOf p (cmd.toNat / 2 ^ 32 % 2 ^ 15) = false) :
    dbgCommand op every p cmd s act = .next (s.setPart p { s.part p with dbgstat := 0x10 }) :=
  (if_neg (by rw [cmdOp_eq]; omega)).trans
    ((if_neg (by rw [Partition.busy, free]; decide)).trans ((if_neg entry).trans (if_pos gone)))

/-- A command that is not refused acts on its wave. -/
theorem dbgCommand_acts (h : Claim.Commands s p op cmd every) :
    dbgCommand op every p cmd s act = .next (act s (Claim.debugTarget cmd).wid) := by
  obtain ⟨port, hop, free, entry, wave⟩ := h
  have named : ¬ (8 ≤ cmd.toNat / 2 ^ 56 % 16 ∧ ¬ (every = true ∧ cmd.toNat / 2 ^ 56 % 16 = 15)) := by
    rcases entry with below | all
    · exact fun h => absurd h.1 (Nat.not_le.2 below)
    · exact fun h => h.2 all
  refine (if_neg (by rw [cmdOp_eq]; omega)).trans
    ((if_neg (by rw [Partition.busy, free]; decide)).trans ((if_neg named).trans (if_neg ?_)))
  rw [show s.waveOf p (cmdWid cmd) = true from wave]
  decide

end

/-! ### Commands for stopped panels (R311) -/

theorem State.onStopped_stopped {s : State} {p : Nat} {c : Cur} (f : State → Cur → State) (hc : c.len = 1) (h : Claim.Stopped s c) :
    s.onStopped p c.wid c.entry f = f s c := by
  obtain ⟨wid, entry, len⟩ := c
  subst hc
  exact if_pos h

theorem State.onStopped_other {s : State} {p : Nat} {c : Cur} (f : State → Cur → State) (h : ¬ Claim.Stopped s c) :
    s.onStopped p c.wid c.entry f = s.setPart p { s.part p with dbgstat := 0x20 } := if_neg h

section
variable {s : State} {p op : Nat} {cmd : DWord} {i : Instr}

/-- What a command gives that is refused, whatever it would do. -/
theorem exec_refused (every : Bool) (act : State → Nat → State) (hi : exec i s = dbgCommand op every p cmd s act) (hp : p < 8)
    (hop : cmd.toNat / 2 ^ 60 = op) :
    let e := cmd.toNat / 2 ^ 56 % 16
    let gives := fun (st : DWord) => exec i s = .next (s.setPart p { s.part p with dbgstat := st })
    let reserved := 8 ≤ e ∧ ¬ (every = true ∧ e = 15)
    ((s.part p).dbgstat.getLsbD 0 = true → gives 0x51) ∧
    ((s.part p).dbgstat.getLsbD 0 = false → reserved → gives 0x30) ∧
    ((s.part p).dbgstat.getLsbD 0 = false → ¬ reserved → s.waveOf p (cmd.toNat / 2 ^ 32 % 2 ^ 15) = false → gives 0x10) :=
  ⟨fun busy => hi.trans (dbgCommand_busy act hp hop busy), fun free reserved => hi.trans (dbgCommand_reserved act hp hop free reserved),
    fun free entry gone => hi.trans (dbgCommand_noWave act hp hop free entry gone)⟩

/-- A command for a stopped panel, of one that is not. -/
theorem exec_notStopped (f : State → Cur → State)
    (hi : exec i s = dbgCommand op false p cmd s fun s wid => s.onStopped p wid (cmdEntry cmd) f)
    (h : Claim.Commands s p op cmd false) (runs : ¬ Claim.Stopped s (Claim.debugTarget cmd)) :
    exec i s = .next (s.setPart p { s.part p with dbgstat := 0x20 }) :=
  hi.trans ((dbgCommand_acts _ h).trans (congrArg Host.Outcome.next (State.onStopped_other f runs)))

end

theorem claim_commandErrors : Claim.CommandErrors := by
  intro p cmd s hp
  constructor
  · intro x hx
    simp only [List.mem_cons, List.not_mem_nil, or_false] at hx
    rcases hx with rfl | rfl | rfl | rfl | rfl | rfl | rfl | rfl
    · exact exec_refused true _ (show execDbgStop p cmd s = _ from rfl) hp
    · exact exec_refused true _ (show execDbgResume p cmd s = _ from rfl) hp
    · exact exec_refused false _ (show execDbgStep p cmd s = _ from rfl) hp
    · exact exec_refused false _ (show execDbgRead p cmd s = _ from rfl) hp
    · exact exec_refused false _ (show execDbgWrite p cmd s = _ from rfl) hp
    · exact exec_refused false _ (show execDbgReadpt p cmd s = _ from rfl) hp
    · exact exec_refused false _ (show execDbgWrpc p cmd s = _ from rfl) hp
    · exact exec_refused false _ (show execDbgReadcnt p cmd s = _ from rfl) hp
  · intro x hx
    simp only [List.mem_cons, List.not_mem_nil, or_false] at hx
    rcases hx with rfl | rfl | rfl | rfl
    · exact exec_notStopped _ (show execDbgStep p cmd s = _ from rfl)
    · exact exec_notStopped _ (show execDbgRead p cmd s = _ from rfl)
    · exact exec_notStopped _ (show execDbgWrite p cmd s = _ from rfl)
    · exact exec_notStopped _ (show execDbgWrpc p cmd s = _ from rfl)

/-! ### STOP (R309, R311) -/

theorem Wave.named_eq (w : Wave) (e : Nat) : w.named e = Claim.named w e := by
  unfold Wave.named Claim.named Wave.entries
  split
  · next all => simp [all]
  · next one => simp [List.filter_filter, show (e == 15) = false by simpa using one, Bool.and_comm]

/-- A panel that has been asked to stop. -/
def Panel.asked (q : Panel) : Panel := { q with stopAsked := q.stopAsked.or (some none) }

theorem State.askStops_eq (s : State) (p wid : Nat) (es : List Nat) : s.askStops p wid es =
    (s.setWave wid (es.foldl (fun w e => w.setPanel e (w.panel e).asked) (s.wave wid))).setPart p
      { s.part p with dbgstat := 1, stops := (s.part p).stops ++ es.map fun e => (wid, e) } := rfl

theorem portOnly_setWave_setPart (s : State) (p wid : Nat) (w : Wave) (st x : DWord) (stops : List (Nat × Nat)) :
    Claim.PortOnly s ((s.setWave wid w).setPart p { s.part p with dbgstat := st, dbgdata := x, stops := stops }) p wid st where
  rest := rfl
  parts q hq := State.part_setPart_other _ _ _ _ hq
  port := by simp
  waves k hk := State.wave_setWave_other _ _ _ _ hk

theorem claim_stopCommands : Claim.StopCommands := by
  intro p cmd s h c w es left
  have acts : exec (.dbgStop p cmd) s = .next (if es.isEmpty then s.dbgEnd p 2 else if left.isEmpty then s.dbgEnd p 0
      else s.askStops p c.wid left) := by
    refine (show execDbgStop p cmd s = _ from dbgCommand_acts _ h).trans ?_
    dsimp only
    rw [Wave.named_eq]
    rfl
  refine ⟨fun none => ?_, fun some done => ?_, fun some => ?_⟩
  · rw [acts, none]
    rfl
  · rw [acts, if_neg (by simpa using some), done]
    rfl
  · have any : es ≠ [] := fun none => some (by simp [left, none])
    have distinct : left.Nodup := (List.nodup_range.filter _).filter _
    obtain ⟨asked, hasked⟩ : ∃ asked, asked = left.foldl (fun w e => w.setPanel e (w.panel e).asked) w := ⟨_, rfl⟩
    obtain ⟨t, ht⟩ : ∃ t, t = s.askStops p c.wid left := ⟨_, rfl⟩
    have written := ht
    rw [State.askStops_eq, ← hasked] at written
    have wave : t.wave c.wid = asked := by
      rw [written]
      exact State.wave_setWave ..
    rw [acts, if_neg (by simpa using any), if_neg (by simpa using some), ← ht]
    refine ⟨t, rfl, written ▸ portOnly_setWave_setPart .., ?_, ?_, ?_, fun k => ?_⟩
    · simp [written]
    · simp [written]
    · rw [wave, hasked]
      exact Wave.foldl_setPanel_eq ..
    · rw [wave, hasked, Wave.foldl_setPanel_panel _ distinct]
      rfl

/-! ### What a trace record leaves of a port (R315) -/

/-- What a debug port holds of its command: its status and the stops that it awaits. -/
def State.awaits (s : State) (p : Nat) : DWord × List (Nat × Nat) := ((s.part p).dbgstat, (s.part p).stops)

theorem State.awaits_of_bare {s t : State} (h : t.bare = s.bare) (p : Nat) : t.awaits p = s.awaits p := by
  unfold State.awaits State.part
  rw [State.regs_of_bare h]

theorem State.setPart_awaits {s : State} {p : Nat} {x : Partition} (status : x.dbgstat = (s.part p).dbgstat)
    (stops : x.stops = (s.part p).stops) : (s.setPart p x).awaits = s.awaits := by
  funext q
  unfold State.awaits
  by_cases hq : q = p
  · subst hq
    rw [State.part_setPart, status, stops]
  · rw [State.part_setPart_other _ _ _ _ hq]

theorem State.writeRing_awaits (p base size n head : Nat) (bs : List Byte) (s : State) :
    (s.writeRing p base size head bs n).awaits = s.awaits := by
  induction n generalizing s head bs with
  | zero => rfl
  | succ n ih =>
    rw [State.writeRing, ih]
    split
    · exact funext (State.awaits_of_bare (State.bare_of_writeVa ‹_›))
    · rfl

theorem State.traceAppend_awaits (s : State) (p type rsn die : Nat) (body : List Byte) (len : Nat) :
    (s.traceAppend p type rsn die body len).awaits = s.awaits := by
  simp only [State.traceAppend]
  split
  · exact State.setPart_awaits rfl rfl
  · rw [State.setPart_awaits, State.writeRing_awaits] <;> rfl

theorem State.traceRecord_awaits (s : State) (p type rsn die : Nat) (body : List Byte) (len : Nat) :
    (s.traceRecord p type rsn die body len).awaits = s.awaits := by
  simp only [State.traceRecord]
  split
  · rfl
  · split
    · split
      · exact State.traceAppend_awaits ..
      · rw [State.traceAppend_awaits, State.setPart_awaits, State.traceAppend_awaits] <;> rfl
    · exact State.traceAppend_awaits ..

theorem State.fire_awaits (s : State) (p : Nat) : (s.fire p).awaits = s.awaits := by
  unfold State.fire
  split
  · exact State.setPart_awaits (s := s.strobe) rfl rfl
  · rfl

/-! ### Stops that complete (R309, R310) -/

theorem State.fire_waves (s : State) (p : Nat) : (s.fire p).waves = s.waves := by
  unfold State.fire
  split <;> rfl

/-- What the stop of a panel leaves in the trace and the mirror, by the code of its capture. -/
def State.recordStop (s : State) (p wid : Nat) (block : List Byte) (code : Option Byte) : State :=
  match code with
  | none => s.traceRecord p 0x03 0 (dieByte (wid / 64)) block 1
  | some k =>
    let t := s.traceRecord p 0x02 k.toNat (dieByte (wid / 64)) block 1
    if (t.part p).dbgctl.getLsbD 11 then t.fire p else t

theorem State.recordStop_waves (s : State) (p wid : Nat) (block : List Byte) (code : Option Byte) :
    (s.recordStop p wid block code).waves = s.waves := by
  have traced : ∀ type rsn die body len, (s.traceRecord p type rsn die body len).waves = s.waves := fun _ _ _ _ _ =>
    State.waves_of_unlogged (State.traceRecord_unlogged ..)
  unfold State.recordStop
  split
  · exact traced ..
  · dsimp only
    split
    · exact (State.fire_waves ..).trans (traced ..)
    · exact traced ..

theorem State.recordStop_awaits (s : State) (p wid : Nat) (block : List Byte) (code : Option Byte) :
    (s.recordStop p wid block code).awaits = s.awaits := by
  unfold State.recordStop
  split
  · exact State.traceRecord_awaits ..
  · dsimp only
    split
    · exact (State.fire_awaits ..).trans (State.traceRecord_awaits ..)
    · exact State.traceRecord_awaits ..

theorem exec_stopComplete {s : State} {wid e : Nat} {code : Option Byte} (alive : (s.wave wid).alive = true)
    (valid : ((s.wave wid).panel e).valid = true) (asked : ((s.wave wid).panel e).stopAsked = some code)
    (running : ((s.wave wid).panel e).status ≠ .stop) (quiet : ((s.wave wid).panel e).quiet = true) :
    let q := (s.wave wid).panel e
    let p := (s.laneAcc { wid := wid, entry := e, len := 1 }).part
    exec (.stopComplete wid e) s = .next
      (((s.setWave wid ((s.wave wid).setPanel e (q.stop s.cycle))).recordStop p wid (panelBlock wid e 4 q.qmask.toNat q.pc) code).stopDone
        p wid e 0) := by
  intro q p
  show execStopComplete wid e s = _
  unfold execStopComplete
  dsimp only
  rw [alive, valid, asked]
  refine (if_neg (by simp [running, quiet])).trans ?_
  cases code <;> rfl

theorem State.stopDone_part (s : State) (p wid e err : Nat) : (s.stopDone p wid e err).awaits p =
    (let x := s.awaits p
     let left := x.2.filter (· != (wid, e))
     (if x.2.contains (wid, e) then stopStatus (!left.isEmpty) (bits 7 4 x.1.toNat) err else x.1 ||| 2, left)) := by
  unfold State.stopDone State.awaits
  rw [State.part_setPart]

theorem filter_ne_self (x : Nat × Nat) : [x].filter (· != x) = [] := by simp

theorem filter_ne_of_not_mem {x : Nat × Nat} {l : List (Nat × Nat)} (h : x ∉ l) : l.filter (· != x) = l :=
  List.filter_eq_self.2 fun y hy => by
    have ne : y ≠ x := fun e => h (e ▸ hy)
    simpa using ne

/-- The last stop that a port awaits. -/
theorem stopDone_last {s : State} {p wid e err : Nat} {st : DWord} (h : s.awaits p = (st, [(wid, e)])) :
    (s.stopDone p wid e err).awaits p = (stopStatus false (bits 7 4 st.toNat) err, []) := by
  rw [State.stopDone_part, h]
  dsimp only
  rw [filter_ne_self, if_pos (by simp)]
  rfl

theorem stopDone_unawaited {s : State} {p wid e err : Nat} (h : (wid, e) ∉ (s.awaits p).2) :
    (s.stopDone p wid e err).awaits p = ((s.awaits p).1 ||| 2, (s.awaits p).2) := by
  rw [State.stopDone_part]
  dsimp only
  rw [filter_ne_of_not_mem h, if_neg (by simpa using h)]

theorem exec_stopComplete_gone {s : State} {wid e p : Nat}
    (gone : (s.wave wid).alive = false ∨ ((s.wave wid).panel e).valid = false ∨
      ((s.wave wid).panel e).stopAsked = none ∧ ((s.wave wid).panel e).stepping = false)
    (port : s.stopPort wid e = some p) : exec (.stopComplete wid e) s = .next (s.stopDone p wid e 2) := by
  show execStopComplete wid e s = _
  unfold execStopComplete
  dsimp only
  split
  · next code there asked =>
    rw [Bool.and_eq_true] at there
    rcases gone with dead | invalid | ⟨unasked, -⟩
    · exact absurd there.1 (by simp [dead])
    · exact absurd there.2 (by simp [invalid])
    · exact absurd asked (by simp [unasked])
  · next v o hv =>
    rw [if_neg, port]
    rw [Bool.and_eq_true, Bool.and_eq_true]
    rintro ⟨⟨alive, valid⟩, steps⟩
    rcases gone with dead | invalid | ⟨-, unstepped⟩
    · exact absurd alive (by simp [dead])
    · exact absurd valid (by simp [invalid])
    · exact absurd steps (by simp [unstepped])

/-- The one port that awaits the stop of an entry. -/
theorem State.stopPort_eq {s : State} {wid e p : Nat} (hp : p < 8) (awaited : (s.part p).stops = [(wid, e)])
    (only : ∀ k, k < 8 → k ≠ p → (wid, e) ∉ (s.part k).stops) : s.stopPort wid e = some p := by
  unfold State.stopPort
  cases found : (List.range 8).find? fun p => (s.part p).stops.contains (wid, e) with
  | none =>
    have none := List.find?_eq_none.1 found p (List.mem_range.2 hp)
    exact absurd (by simp [awaited]) none
  | some k =>
    have there := List.find?_some found
    have below := List.mem_range.1 (List.mem_of_find?_eq_some found)
    by_cases hk : k = p
    · rw [hk]
    · exact absurd (by simpa using there) (only k below hk)

theorem claim_stopsComplete : Claim.StopsComplete := by
  constructor
  · intro wid e code s w q p alive valid asked running written waits
    have quiet : q.quiet = true := by
      simp only [Panel.quiet, written, List.isEmpty_nil, Bool.true_and, Bool.or_eq_true, Option.isNone_iff_eq_none, beq_iff_eq]
      tauto
    obtain ⟨stopped, hstopped⟩ : ∃ stopped, stopped = s.setWave wid (w.setPanel e (q.stop s.cycle)) := ⟨_, rfl⟩
    obtain ⟨u, hu⟩ : ∃ u, u = stopped.recordStop p wid (panelBlock wid e 4 q.qmask.toNat q.pc) code := ⟨_, rfl⟩
    have acts := exec_stopComplete alive valid asked running quiet
    dsimp only at acts
    have waves : (u.stopDone p wid e 0).waves = stopped.waves := by
      rw [hu]
      exact State.recordStop_waves ..
    have port : u.awaits p = s.awaits p := by
      rw [hu, State.recordStop_awaits, hstopped]
      rfl
    have wave : (u.stopDone p wid e 0).wave wid = w.setPanel e (q.stop s.cycle) := by
      rw [State.wave_of_waves waves, hstopped, State.wave_setWave]
    rw [← hstopped, ← hu] at acts
    refine ⟨_, acts, ?_, ?_, fun k hk => ?_, fun v hv => ?_, fun stops status => ?_, fun stops status => ?_, fun unawaited => ?_⟩
    · rw [wave, Wave.panel_setPanel]
      rfl
    · rw [wave]
      rfl
    · rw [wave, Wave.panel_setPanel_other _ _ _ _ hk]
    · rw [State.wave_of_waves waves, hstopped, State.wave_setWave_other _ _ _ _ hv]
    · have done := stopDone_last (err := 0) (port.trans (Prod.ext status stops))
      exact ⟨congrArg Prod.snd done, congrArg Prod.fst done⟩
    · have done := stopDone_last (err := 0) (port.trans (Prod.ext status stops))
      exact ⟨congrArg Prod.snd done, congrArg Prod.fst done⟩
    · have done := stopDone_unawaited (err := 0) (show (wid, e) ∉ (u.awaits p).2 by rw [port]; exact unawaited)
      rw [port] at done
      exact ⟨congrArg Prod.snd done, congrArg Prod.fst done⟩
  · intro wid e p s q gone hp awaited status only
    have done := stopDone_last (err := 2) (Prod.ext status awaited : s.awaits p = (1, [(wid, e)]))
    refine ⟨_, exec_stopComplete_gone gone (State.stopPort_eq hp awaited only), ⟨rfl, fun q hq => State.part_setPart_other _ _ _ _ hq, ?_,
      fun _ _ => rfl⟩, rfl, congrArg Prod.snd done⟩
    have stat : ((s.stopDone p wid e 2).part p).dbgstat = 0x20 := congrArg Prod.fst done
    rw [← stat]
    unfold State.stopDone
    rw [State.part_setPart]

end Sys2Proof.Machine
end

section
/-! SUPPORT. Resumptions of stopped panels (16 R310, R311). -/

set_option Elab.async false
namespace Sys2Proof.Machine

/-- A panel that has left STOP: in the state that it left, behind a captured `bkpt` (R310). -/
structure Back (now : Nat) (q r : Panel) : Prop where
  status : r.status = q.under
  since : r.since = now - q.waitct
  stopAsked : r.stopAsked = none
  mask : r.mask = q.mask
  qmask : r.qmask = q.qmask
  stack : r.stack = q.stack
  frame : r.frame = q.frame
  g : r.g = q.g
  gp : r.gp = q.gp
  s : r.s = q.s
  fb : r.fb = q.fb
  wait : r.wait = q.wait
  pc : r.pc = (match q.stopAsked with
    | some (some _) => (q.pc + 4) % 2 ^ 57
    | _ => q.pc)

theorem Panel.resume_back (q : Panel) (now : Nat) : Back now q (q.resume now) ∧ (q.resume now).stepping = q.stepping := by
  unfold Panel.resume
  rcases hq : q.stopAsked with _ | _ | k
  · exact ⟨⟨rfl, rfl, rfl, rfl, rfl, rfl, rfl, rfl, rfl, rfl, rfl, rfl, by rw [hq]⟩, rfl⟩
  · exact ⟨⟨rfl, rfl, rfl, rfl, rfl, rfl, rfl, rfl, rfl, rfl, rfl, rfl, by rw [hq]⟩, rfl⟩
  · constructor <;> [constructor; skip] <;> simp [hq]

/-- A panel that waits for no sibling does not meet any (R311). -/
theorem State.rejoin_eq_self {s : State} {c : Cur} (forced : (s.panel c).status ≠ .ffw) (seam : (s.panel c).status ≠ .seamw) :
    s.rejoin c = s := by
  unfold State.rejoin
  dsimp only
  split
  · next h => exact absurd h forced
  · next h => exact absurd h seam
  · rfl

theorem State.resumePanel_eq {s : State} {c : Cur} (forced : (s.panel c).under ≠ .ffw) (seam : (s.panel c).under ≠ .seamw) :
    s.resumePanel c = s.setPanel c ((s.panel c).resume s.cycle) := by
  have status : ((s.setPanel c ((s.panel c).resume s.cycle)).panel c).status = (s.panel c).under := by
    rw [State.panel_setPanel]
    exact ((s.panel c).resume_back s.cycle).1.status
  exact State.rejoin_eq_self (by rw [status]; exact forced) (by rw [status]; exact seam)

/-- A panel that has not moved keeps stepping. -/
theorem Panel.stepped_self (q : Panel) : q.stepped q = q := by
  have still : q.moved q = false := by
    cases h : q.clause <;> simp [Panel.moved, h]
  simp [Panel.stepped, still]

/-- A panel and a port changed together. -/
theorem portOnly_setPanel_setPart (s : State) (p : Nat) (c : Cur) (q : Panel) (st : DWord) (stops : List (Nat × Nat)) :
    Claim.PortOnly s ((s.setPanel c q).setPart p { s.part p with dbgstat := st, stops := stops }) p c.wid st ∧
    PanelOnly s { (s.setPanel c q).setPart p { s.part p with dbgstat := st, stops := stops } with regs := s.regs } c :=
  ⟨portOnly_setWave_setPart s p c.wid _ st (s.part p).dbgdata stops, panelOnly_setPanel s c q⟩

/-- RESUME of one stopped panel. -/
theorem exec_dbgResume {s : State} {p : Nat} {cmd : DWord} (stopped : Claim.Stopped s (Claim.debugTarget cmd))
    (entry : (Claim.debugTarget cmd).entry < 8) (h : Claim.Commands s p 1 cmd true) :
    exec (.dbgResume p cmd) s = .next ((s.resumePanel (Claim.debugTarget cmd)).dbgEnd p 0) := by
  refine (show execDbgResume p cmd s = _ from dbgCommand_acts _ h).trans ?_
  obtain ⟨c, hc⟩ : ∃ c, c = Claim.debugTarget cmd := ⟨_, rfl⟩
  rw [← hc] at stopped entry
  have named : (((s.wave c.wid).named c.entry).filter fun e => ((s.wave c.wid).panel e).status == .stop) = [c.entry] := by
    obtain ⟨valid, status⟩ := stopped
    rw [Wave.named_eq, Claim.named, List.filter_filter]
    refine filter_range_eq_singleton entry fun k hk => ⟨fun hf => ?_, ?_⟩
    · simp only [Bool.and_eq_true, Bool.or_eq_true, beq_iff_eq] at hf
      exact hf.2.2.resolve_left (by omega)
    · rintro rfl
      simp [show ((s.wave c.wid).panel c.entry).valid = true from valid, show ((s.wave c.wid).panel c.entry).status = .stop from status]
  dsimp only
  rw [← hc, cmdEntry_eq, ← hc, named, hc]
  rfl

theorem claim_resumptions : Claim.Resumptions := by
  intro p cmd s c q back stopped entry
  have backs : ∀ r, Back s.cycle q r → back r := fun r h =>
    ⟨h.status, h.since, h.stopAsked, h.mask, h.qmask, h.stack, h.frame, h.g, h.gp, h.s, h.fb, h.wait, h.pc⟩
  obtain ⟨resumed, steps⟩ := q.resume_back s.cycle
  refine ⟨fun h => ⟨fun forced seam => ?_, fun _ => exec_dbgResume stopped entry h⟩, fun h forced seam => ?_⟩
  · obtain ⟨port, only⟩ := portOnly_setPanel_setPart s p c (q.resume s.cycle) 2 (s.part p).stops
    have panel : (((s.setPanel c (q.resume s.cycle)).setPart p { s.part p with dbgstat := 2, stops := (s.part p).stops }).panel c) =
        q.resume s.cycle := State.panel_setPanel ..
    refine ⟨_, (exec_dbgResume stopped entry h).trans ?_, port, only, ?_, ?_⟩
    · rw [State.resumePanel_eq forced seam]
      rfl
    · rw [panel]
      exact backs _ resumed
    · rw [panel, steps]
  · obtain ⟨r, hr⟩ : ∃ r, r = { q.resume s.cycle with stepping := true } := ⟨_, rfl⟩
    obtain ⟨t, ht⟩ : ∃ t, t = (s.setPanel c r).setPart p { s.part p with dbgstat := 1, stops := (s.part p).stops ++ [(c.wid, c.entry)] } :=
      ⟨_, rfl⟩
    have ready : Back s.cycle q r := by
      obtain ⟨h1, h2, h3, h4, h5, h6, h7, h8, h9, h10, h11, h12, h13⟩ := resumed
      subst hr
      exact ⟨h1, h2, h3, h4, h5, h6, h7, h8, h9, h10, h11, h12, h13⟩
    have panel : t.panel c = r := by
      rw [ht]
      exact State.panel_setPanel ..
    have alone : t.rejoin c = t := State.rejoin_eq_self (by rw [panel, ready.status]; exact forced) (by rw [panel, ready.status]; exact seam)
    have stays : t.setPanel c r = t := by
      rw [ht]
      exact congrArg (State.setPart · p _) (State.setPanel_setPanel s c r r)
    have run : exec (.dbgStep p cmd) s = .next t := by
      refine (show execDbgStep p cmd s = _ from dbgCommand_acts _ h).trans ?_
      rw [cmdEntry_eq, State.onStopped_stopped _ rfl stopped]
      have goesOn : (let u := t.rejoin c; if (u.panel c).stepping then u.setPanel c (r.stepped (u.panel c)) else u) = t := by
        dsimp only
        rw [alone, panel, if_pos (by rw [hr]), Panel.stepped_self, stays]
      rw [← goesOn, ht, hr]
      rfl
    obtain ⟨port, only⟩ := portOnly_setPanel_setPart s p c r 1 ((s.part p).stops ++ [(c.wid, c.entry)])
    rw [← ht] at port only
    refine ⟨t, run, port, only, ?_, ?_, ?_⟩
    · rw [panel]
      exact backs _ ready
    · rw [panel, hr]
    · simp [ht]

end Sys2Proof.Machine
end

section
/-! SUPPORT. Registers that the debug port reads and writes (16 R308, R311, R312, R314, 02 R18). -/

set_option Elab.async false
namespace Sys2Proof.Machine

/-! ### The registers that SEL names (R312) -/

/-- The registers by the ranges of SEL. -/
theorem dbgReg_eq (regs sel : Nat) : dbgReg regs sel =
    if sel < 0xC0 then (if sel < regs then some (.v sel) else none)
    else if sel < 0xD0 then some (.o (sel - 0xC0))
    else if sel < 0xD4 then some (.latch (sel - 0xD0))
    else if sel < 0xE0 then none
    else if sel < 0x100 then some (.g (sel - 0xE0))
    else if sel < 0x108 then some (.p (sel - 0x100))
    else if sel < 0x200 then none
    else if sel < 0x204 then some (.gp (sel - 0x200))
    else if sel < 0x300 then none
    else if sel < 0x307 then some (.ctl (sel - 0x300))
    else if sel < 0x400 then none
    else if sel < 0x410 then some (.fb ((sel - 0x400) / 2) (sel % 2))
    else if sel < 0x500 then none
    else if sel < 0x550 then some (.s ((sel - 0x500) / 10) ((sel - 0x500) % 10))
    else if sel = 0x600 then some .mask
    else none := by
  unfold dbgReg
  rcases page : sel / 256 with _ | _ | _ | _ | _ | _ | _ | k
  · rw [show sel % 256 = sel by omega]
    grind
  · rw [show sel % 256 = sel - 0x100 by omega]
    grind
  · rw [show sel % 256 = sel - 0x200 by omega]
    grind
  · rw [show sel % 256 = sel - 0x300 by omega]
    grind
  · rw [show sel % 256 = sel - 0x400 by omega]
    grind
  · rw [show sel % 256 = sel - 0x500 by omega]
    grind
  · rw [show sel % 256 = sel - 0x600 by omega]
    grind
  · grind (splits := 20)

/-- What READ brings of a register: of one held per lane, in the panel's own quads. -/
def State.dbgFetch (s : State) (c : Cur) (lane : Nat) : Option DbgReg → Option DWord
  | none => none
  | some r =>
    if r.perLane then (if (s.panel c).qmask.getLsbD (lane / 4) then some (s.dbgValue c lane r) else none) else some (s.dbgValue c lane r)

theorem State.dbgNamed_map (s : State) (c : Cur) (cmd : DWord) :
    (s.dbgNamed c cmd).map (s.dbgValue c (cmdLane cmd)) = s.dbgFetch c (cmdLane cmd) (dbgReg (s.curWave c).regs (cmdSel cmd)) := by
  unfold State.dbgNamed State.curWave
  dsimp only
  cases dbgReg (s.wave c.wid).regs (cmdSel cmd) with
  | none => rfl
  | some r =>
    show Option.map _ (if r.perLane && !((s.panel c).qmask.getLsbD (cmdLane cmd / 4)) then none else some r) =
      if r.perLane then (if (s.panel c).qmask.getLsbD (cmdLane cmd / 4) then _ else none) else _
    cases r.perLane <;> cases (s.panel c).qmask.getLsbD (cmdLane cmd / 4) <;> rfl

/-- A half of a block format register. -/
theorem dbgValue_fb (s : State) (c : Cur) (lane k h : Nat) :
    s.dbgValue c lane (.fb k h) = BitVec.ofNat 64 (((s.panel c).format k).toNat / 2 ^ (64 * h)) := by
  apply BitVec.eq_of_toNat_eq
  simp [State.dbgValue, Nat.shiftRight_eq_div_pow]

/-- READ brings the register that SEL names. -/
theorem State.dbgFetch_eq (s : State) (c : Cur) (lane sel : Nat) :
    s.dbgFetch c lane (dbgReg (s.curWave c).regs sel) = Claim.debugSelected s c lane sel := by
  have lanes : ∀ r : DbgReg, r.perLane = true → s.dbgFetch c lane (some r) =
      if (s.panel c).qmask.getLsbD (lane / 4) then some (s.dbgValue c lane r) else none := fun r hr => if_pos hr
  have group : ∀ r : DbgReg, r.perLane = false → s.dbgFetch c lane (some r) = some (s.dbgValue c lane r) :=
    fun r hr => if_neg (by simp [hr])
  unfold Claim.debugSelected
  rw [dbgReg_eq]
  simp only [apply_ite (s.dbgFetch c lane), lanes (.v _) rfl, lanes (.o _) rfl, lanes (.latch _) rfl, group (.g _) rfl, lanes (.p _) rfl,
    group (.gp _) rfl, group (.ctl _) rfl, group (.fb _ _) rfl, group (.s _ _) rfl, group .mask rfl, dbgValue_fb]
  rfl

/-! ### READ, READPT and READCNT (R311, R312, R314, R18) -/

/-- A command that brings a value into DBGDATA. -/
theorem State.fetched (s : State) (p : Nat) (x : DWord) :
    Claim.Fetched s ((s.setPart p { s.part p with dbgdata := x }).dbgEnd p 0) p x := by
  unfold State.dbgEnd
  rw [State.part_setPart]
  simp [Claim.Fetched, State.setPart]
  rfl

theorem cmdSel_eq (cmd : DWord) : cmdSel cmd = cmd.toNat % 2 ^ 16 := by simp [cmdSel, bits]

/-- A command for a panel in STOP acts on it. -/
theorem dbgCommand_onStopped {s : State} {p op : Nat} {cmd : DWord} (f : State → Cur → State) (h : Claim.Commands s p op cmd false)
    (stopped : Claim.Stopped s (Claim.debugTarget cmd)) :
    dbgCommand op false p cmd s (fun s wid => s.onStopped p wid (cmdEntry cmd) f) = .next (f s (Claim.debugTarget cmd)) :=
  (dbgCommand_acts _ h).trans (congrArg Host.Outcome.next (State.onStopped_stopped f rfl stopped))

theorem exec_dbgRead_named {s : State} {p : Nat} {cmd : DWord} {r : DbgReg} (h : Claim.Commands s p 3 cmd false)
    (stopped : Claim.Stopped s (Claim.debugTarget cmd)) (named : s.dbgNamed (Claim.debugTarget cmd) cmd = some r) :
    exec (.dbgRead p cmd) s = .next
      ((s.setPart p { s.part p with dbgdata := s.dbgValue (Claim.debugTarget cmd) (cmdLane cmd) r }).dbgEnd p 0) := by
  refine (show execDbgRead p cmd s = _ from dbgCommand_onStopped _ h stopped).trans ?_
  rw [named]

theorem exec_dbgRead_unnamed {s : State} {p : Nat} {cmd : DWord} (h : Claim.Commands s p 3 cmd false)
    (stopped : Claim.Stopped s (Claim.debugTarget cmd)) (named : s.dbgNamed (Claim.debugTarget cmd) cmd = none) :
    exec (.dbgRead p cmd) s = .next (s.dbgEnd p 3) := by
  refine (show execDbgRead p cmd s = _ from dbgCommand_onStopped _ h stopped).trans ?_
  rw [named]

theorem getD_map_range {α : Type} (f : Nat → α) (n : Nat) (x : α) {k : Nat} (hk : k < n) : ((List.range n).map f).getD k x = f k := by
  simp [List.getD_eq_getElem?_getD, hk]

theorem exec_dbgReadpt {s : State} {p : Nat} {cmd : DWord} (h : Claim.Commands s p 5 cmd false) :
    exec (.dbgReadpt p cmd) s = .next
      (if 2 ≤ cmdSel cmd % 2 ^ 15 then s.dbgEnd p 3
      else
        let c := Claim.debugTarget cmd
        let table := if cmdSel cmd / 2 ^ 15 = 1 then (Sparse.find s.mirror.tables c.wid).getD [] else (s.wave c.wid).table s.cycle
        (s.setPart p { s.part p with
          dbgdata := (table.getD c.entry 0 >>> (64 * (cmdSel cmd % 2))).setWidth 64 }).dbgEnd p 0) :=
  show execDbgReadpt p cmd s = _ from dbgCommand_acts _ h

theorem exec_dbgReadcnt {s : State} {p : Nat} {cmd : DWord} (h : Claim.Commands s p 7 cmd false) :
    exec (.dbgReadcnt p cmd) s = .next
      (let c := Claim.debugTarget cmd
       let l := if cmdSel cmd / 2 ^ 15 = 1 then (Sparse.find s.mirror.stalls c.wid).getD [] else (s.wave c.wid).counters
       (s.setPart p { s.part p with dbgdata := (l.getD (cmdSel cmd % 16) 0).setWidth 64 }).dbgEnd p 0) :=
  show execDbgReadcnt p cmd s = _ from dbgCommand_acts _ h

/-- A half of 128 bits. -/
theorem setWidth_shiftRight (x : BitVec 128) (k : Nat) : (x >>> (64 * k)).setWidth 64 = BitVec.ofNat 64 (x.toNat / 2 ^ (64 * k)) := by
  apply BitVec.eq_of_toNat_eq
  simp [Nat.shiftRight_eq_div_pow]

theorem claim_debugReads : Claim.DebugReads := by
  intro p cmd s c sel mirrored
  refine ⟨fun h stopped => ?_, fun h => ⟨fun half => ?_, fun other => ?_⟩, fun h => ?_⟩
  · have named := (s.dbgNamed_map c cmd).trans (s.dbgFetch_eq c (cmdLane cmd) (cmdSel cmd))
    rw [cmdSel_eq] at named
    refine ⟨fun x hx => ?_, fun unnamed => ?_⟩
    · obtain ⟨r, hr, value⟩ := Option.map_eq_some_iff.1 (named.trans hx)
      exact ⟨_, exec_dbgRead_named h stopped hr, value ▸ s.fetched p _⟩
    · exact exec_dbgRead_unnamed h stopped (Option.map_eq_none_iff.1 (named.trans unnamed))
  · have run := exec_dbgReadpt h
    have entry : c.entry < 8 := h.entry.resolve_right (by simp)
    rw [cmdSel_eq, if_neg (by omega)] at run
    refine ⟨_, run, ?_⟩
    have value : (if cmd.toNat % 2 ^ 16 / 2 ^ 15 = 1 then (Sparse.find s.mirror.tables c.wid).getD [] else (s.wave c.wid).table s.cycle).getD
        c.entry 0 = if mirrored then ((Sparse.find s.mirror.tables c.wid).getD []).getD c.entry 0 else (s.panel c).word s.cycle := by
      by_cases m : mirrored
      · rw [if_pos m, if_pos m]
      · rw [if_neg m, if_neg m]
        exact getD_map_range _ _ _ entry
    rw [← value, ← setWidth_shiftRight]
    exact s.fetched p _
  · rw [exec_dbgReadpt h, cmdSel_eq, if_pos other]
    rfl
  · have run := exec_dbgReadcnt h
    rw [cmdSel_eq] at run
    refine ⟨_, run, ?_⟩
    have value : (if cmd.toNat % 2 ^ 16 / 2 ^ 15 = 1 then (Sparse.find s.mirror.stalls c.wid).getD [] else (s.wave c.wid).counters).getD
        (sel % 16) 0 = if mirrored then ((Sparse.find s.mirror.stalls c.wid).getD []).getD (sel % 16) 0
          else Sparse.get 0 (s.wave c.wid).stalls (sel % 16) := by
      by_cases m : mirrored
      · rw [if_pos m, if_pos m]
      · rw [if_neg m, if_neg m]
        exact getD_map_range _ _ _ (Nat.mod_lt _ (by decide))
    rw [← value]
    exact s.fetched p _

end Sys2Proof.Machine
end

section
/-! SUPPORT. Writes of the debug port (16 R311, R312). -/

set_option Elab.async false
namespace Sys2Proof.Machine

/-! ### Where registers stand among the values of SEL -/

/-- The value of SEL that names a register, and the registers that there are. -/
def DbgReg.sel : DbgReg → Nat
  | .v n => n
  | .o n => 0xC0 + n
  | .latch n => 0xD0 + n
  | .g n => 0xE0 + n
  | .p n => 0x100 + n
  | .gp n => 0x200 + n
  | .ctl n => 0x300 + n
  | .fb k h => 0x400 + 2 * k + h
  | .s k w => 0x500 + 10 * k + w
  | .mask => 0x600

def DbgReg.there : DbgReg → Prop
  | .v n => n < 0xC0
  | .o n => n < 16
  | .latch n => n < 4
  | .g n => n < 32
  | .p n => n < 8
  | .gp n => n < 4
  | .ctl n => n < 7
  | .fb k h => k < 8 ∧ h < 2
  | .s k w => k < 8 ∧ w < 10
  | .mask => True

theorem dbgReg_sel {regs sel : Nat} {r : DbgReg} (h : dbgReg regs sel = some r) : r.sel = sel ∧ r.there := by
  rw [dbgReg_eq] at h
  cases r <;> simp only [DbgReg.sel, DbgReg.there] <;> grind (splits := 20)

/-! ### What a write does -/

/-- What WRITE does to the wave's own registers, and to the panel's. -/
def DbgReg.toWave (x : DWord) (lane : Nat) (w : Wave) : DbgReg → Wave
  | .v n => w.setV n (BitVec.twoPow 64 lane) fun _ => x.setWidth 32
  | .o n => w.setO n (BitVec.twoPow 64 lane) fun _ => x.setWidth 32
  | .p n => w.setPred n (BitVec.twoPow 64 lane) fun _ => x.getLsbD 0
  | _ => w

def DbgReg.toPanel (x : DWord) (q : Panel) : DbgReg → Panel
  | .g n => q.setG n x
  | .gp n => q.setGp n (x.getLsbD 0)
  | .ctl n => q.writeControl n (x.setWidth 32)
  | .fb k h => q.setFormat k (setHalf (q.format k) h x &&& formatMask)
  | _ => q

/-- The registers that WRITE may name. -/
def DbgReg.writable : DbgReg → Prop
  | .latch _ => False
  | .ctl n => n ≤ 1
  | .s _ _ => False
  | .mask => False
  | _ => True

theorem State.dbgSet_none {s : State} {c : Cur} {lane : Nat} {x : DWord} {r : DbgReg} (h : ¬ r.writable) : s.dbgSet c lane x r = none := by
  cases r with
  | latch n => rfl
  | s k w => rfl
  | mask => rfl
  | ctl n => exact if_neg h
  | _ => exact absurd trivial h

/-- The wave that a write leaves: its own registers as of `toWave`, the named panel as of `toPanel`. -/
structure DbgReg.Wrote (r : DbgReg) (x : DWord) (lane : Nat) (w : Wave) (e : Nat) (w' : Wave) : Prop where
  rest : w' = { w with v := w'.v, o := w'.o, p := w'.p, panels := w'.panels }
  v : w'.v = (r.toWave x lane w).v
  o : w'.o = (r.toWave x lane w).o
  p : w'.p = (r.toWave x lane w).p
  others : ∀ k, k ≠ e → w'.panel k = w.panel k
  mine : w'.panel e = r.toPanel x (w.panel e)

theorem State.dbgSet_some {s : State} {c : Cur} {lane : Nat} {x : DWord} {r : DbgReg} (h : r.writable) :
    ∃ w', s.dbgSet c lane x r = some (s.setWave c.wid w') ∧ r.Wrote x lane (s.wave c.wid) c.entry w' := by
  have panel : (r.toWave x lane (s.wave c.wid) = s.wave c.wid) →
      r.Wrote x lane (s.wave c.wid) c.entry ((s.wave c.wid).setPanel c.entry (r.toPanel x ((s.wave c.wid).panel c.entry))) := fun keeps =>
    { rest := rfl, v := by rw [keeps]; rfl, o := by rw [keeps]; rfl, p := by rw [keeps]; rfl
      others := fun k hk => Wave.panel_setPanel_other _ _ _ _ hk, mine := Wave.panel_setPanel .. }
  cases r with
  | v n => exact ⟨_, rfl, rfl, rfl, rfl, rfl, fun _ _ => rfl, rfl⟩
  | o n => exact ⟨_, rfl, rfl, rfl, rfl, rfl, fun _ _ => rfl, rfl⟩
  | p n => exact ⟨_, rfl, rfl, rfl, rfl, rfl, fun _ _ => rfl, rfl⟩
  | g n => exact ⟨_, rfl, panel rfl⟩
  | gp n => exact ⟨_, rfl, panel rfl⟩
  | fb k h => exact ⟨_, rfl, panel rfl⟩
  | ctl n => exact ⟨_, if_pos h, panel rfl⟩
  | latch n => exact h.elim
  | s k w => exact h.elim
  | mask => exact h.elim

/-! ### The registers after a write -/

theorem Panel.writeControl_eq (p : Panel) (c : Nat) (x : Word) :
    p.writeControl c x = { p with fpc := (p.writeControl c x).fpc, mcr := (p.writeControl c x).mcr } := by
  unfold Panel.writeControl
  split
  · rfl
  · split
    · split <;> rfl
    · rfl

theorem Panel.format_setFormat_other (p : Panel) {k j : Nat} (x : BitVec 128) (h : j ≠ k) : (p.setFormat k x).format j = p.format j :=
  Sparse.get_set_other _ _ _ _ _ h

section
variable {r : DbgReg} (hr : r.there) (x : DWord) (lane : Nat) (w : Wave) (q : Panel)

theorem getLsbD_twoPow_lane {j : Nat} (hj : j < 64) : (BitVec.twoPow 64 lane).getLsbD j = decide (j = lane) := by
  rw [BitVec.getLsbD_twoPow]
  by_cases h : j = lane
  · subst h
    simp [hj]
  · simp [h, Ne.symm h]

include hr

theorem DbgReg.toWave_vreg (n : Nat) {j : Nat} (hj : j < 64) : ((r.toWave x lane w).vreg n).getD j 0 =
    if r.sel = n ∧ n < 0xC0 ∧ j = lane then x.setWidth 32 else (w.vreg n).getD j 0 := by
  cases r with
  | v k =>
    simp only [DbgReg.toWave, Wave.vreg_setV]
    by_cases hn : n = k
    · subst hn
      rw [if_pos rfl, getD_mergeLanes _ _ _ _ hj, getLsbD_twoPow_lane _ hj]
      exact if_congr (by simp [DbgReg.sel, show n < 0xC0 from hr]) rfl rfl
    · rw [if_neg hn]
      exact (if_neg fun h => hn h.1.symm).symm
  | _ =>
    rw [if_neg (by simp only [DbgReg.sel, DbgReg.there] at *; omega)]
    rfl

theorem DbgReg.toWave_oreg (n : Nat) {j : Nat} (hj : j < 64) : ((r.toWave x lane w).oreg n).getD j 0 =
    if r.sel = 0xC0 + n ∧ n < 16 ∧ j = lane then x.setWidth 32 else (w.oreg n).getD j 0 := by
  cases r with
  | o k =>
    simp only [DbgReg.toWave, Wave.oreg_setO]
    by_cases hn : n = k
    · subst hn
      rw [if_pos rfl, getD_mergeLanes _ _ _ _ hj, getLsbD_twoPow_lane _ hj]
      exact if_congr (by simp [DbgReg.sel, show n < 16 from hr]) rfl rfl
    · rw [if_neg hn]
      exact (if_neg fun h => hn (Nat.add_left_cancel h.1).symm).symm
  | _ =>
    rw [if_neg (by simp only [DbgReg.sel, DbgReg.there] at *; omega)]
    rfl

theorem DbgReg.toWave_pred (n : Nat) {j : Nat} (hj : j < 64) : ((r.toWave x lane w).pred n).getLsbD j =
    if r.sel = 0x100 + n ∧ n < 8 ∧ j = lane then x.getLsbD 0 else (w.pred n).getLsbD j := by
  cases r with
  | p k =>
    simp only [DbgReg.toWave, Wave.pred_setPred]
    by_cases hn : n = k
    · subst hn
      rw [if_pos rfl, getLsbD_mergeMask _ _ _ _ hj, getLsbD_twoPow_lane _ hj]
      exact if_congr (by simp [DbgReg.sel, show n < 8 from hr]) rfl rfl
    · rw [if_neg hn]
      exact (if_neg fun h => hn (Nat.add_left_cancel h.1).symm).symm
  | _ =>
    rw [if_neg (by simp only [DbgReg.sel, DbgReg.there] at *; omega)]
    rfl

theorem DbgReg.toPanel_greg (n : Nat) : (r.toPanel x q).greg n = if r.sel = 0xE0 + n ∧ n < 32 then x else q.greg n := by
  cases r with
  | g k =>
    by_cases hn : n = k
    · subst hn
      exact (Panel.greg_setG ..).trans (if_pos ⟨rfl, hr⟩).symm
    · exact (Panel.greg_setG_other _ _ _ _ hn).trans (if_neg fun h => hn (Nat.add_left_cancel h.1).symm).symm
  | ctl k =>
    rw [if_neg (by simp only [DbgReg.sel, DbgReg.there] at *; omega)]
    exact (congrArg (Panel.greg · n) (Panel.writeControl_eq q k (x.setWidth 32)) :)
  | _ =>
    rw [if_neg (by simp only [DbgReg.sel, DbgReg.there] at *; omega)]
    rfl

theorem DbgReg.toPanel_gp {n : Nat} (hn : n < 4) : (r.toPanel x q).gp.getLsbD n =
    if r.sel = 0x200 + n then x.getLsbD 0 else q.gp.getLsbD n := by
  cases r with
  | gp k =>
    have bit : ((BitVec.twoPow 4 k).getLsbD n) = decide (n = k) := by
      rw [BitVec.getLsbD_twoPow]
      by_cases h : n = k
      · subst h
        simp [hn]
      · simp [h, Ne.symm h]
    show (if x.getLsbD 0 then q.gp ||| BitVec.twoPow 4 k else q.gp &&& ~~~ BitVec.twoPow 4 k).getLsbD n = _
    rw [apply_ite (BitVec.getLsbD · n), BitVec.getLsbD_or, BitVec.getLsbD_and, BitVec.getLsbD_not, bit]
    by_cases h : n = k
    · subst h
      rw [if_pos (show (DbgReg.gp n).sel = 0x200 + n from rfl)]
      cases x.getLsbD 0 <;> simp
    · rw [if_neg (show ¬ (DbgReg.gp k).sel = 0x200 + n from fun e => h (Nat.add_left_cancel e).symm)]
      simp [h, hn]
  | ctl k =>
    rw [if_neg (by simp only [DbgReg.sel, DbgReg.there] at *; omega)]
    exact (congrArg (fun p : Panel => p.gp.getLsbD n) (Panel.writeControl_eq q k (x.setWidth 32)) :)
  | _ =>
    rw [if_neg (by simp only [DbgReg.sel, DbgReg.there] at *; omega)]
    rfl

theorem DbgReg.toPanel_format (k : Nat) : (r.toPanel x q).format k =
    if r.sel = 0x400 + 2 * k ∧ k < 8 then ((q.format k >>> 64).setWidth 64 ++ x) &&& formatMask
    else if r.sel = 0x401 + 2 * k ∧ k < 8 then (x ++ (q.format k).setWidth 64) &&& formatMask
    else q.format k := by
  cases r with
  | fb j h =>
    obtain ⟨hj, hh⟩ := hr
    by_cases hk : k = j
    · subst hk
      refine (Panel.format_setFormat ..).trans ?_
      have low : ∀ h, h < 2 → (DbgReg.fb k h).sel = 0x400 + 2 * k + h := fun _ _ => rfl
      rcases h with _ | _ | h
      · exact (if_pos ⟨rfl, hj⟩).symm
      · rw [if_neg (by rw [low 1 hh]; omega), if_pos (by rw [low 1 hh]; omega)]
        rfl
      · omega
    · refine (Panel.format_setFormat_other _ _ hk).trans ?_
      rw [if_neg (by simp only [DbgReg.sel]; omega), if_neg (by simp only [DbgReg.sel]; omega)]
  | ctl j =>
    rw [if_neg (by simp only [DbgReg.sel, DbgReg.there] at *; omega), if_neg (by simp only [DbgReg.sel, DbgReg.there] at *; omega)]
    exact (congrArg (Panel.format · k) (Panel.writeControl_eq q j (x.setWidth 32)) :)
  | _ =>
    rw [if_neg (by simp only [DbgReg.sel, DbgReg.there] at *; omega), if_neg (by simp only [DbgReg.sel, DbgReg.there] at *; omega)]
    rfl

end

/-- COV of a word that is written to %mcr. -/
theorem cov_eq_three_iff (x : DWord) : x.setWidth 32 &&& 3#32 = 3#32 ↔ x.toNat % 4 = 3 := by
  rw [← BitVec.toNat_inj]
  simp only [BitVec.toNat_and, BitVec.toNat_setWidth]
  rw [show (3#32).toNat = 2 ^ 2 - 1 from rfl, Nat.and_two_pow_sub_one_eq_mod]
  omega

section
variable {r : DbgReg} (hr : r.there) (hw : r.writable) (x : DWord) (q : Panel)
include hr hw

theorem DbgReg.toPanel_control : (r.toPanel x q).fpc =
      (if r.sel = 0x300 then x.setWidth 32 &&& 0x7FFFF else if r.sel = 0x301 ∧ x.toNat % 4 = 3 then q.fpc ||| fINV else q.fpc) ∧
    (r.toPanel x q).mcr = (if r.sel ≠ 0x301 then q.mcr else if x.toNat % 4 = 3 then x.setWidth 32 &&& 0x10C ||| q.mcr &&& 3
      else x.setWidth 32 &&& 0x10F) := by
  cases r with
  | ctl n =>
    obtain rfl | rfl : n = 0 ∨ n = 1 := Nat.le_one_iff_eq_zero_or_eq_one.1 hw
    · exact ⟨rfl, rfl⟩
    · by_cases cov : x.toNat % 4 = 3
      · have written : (DbgReg.ctl 1).toPanel x q = { q with mcr := (x.setWidth 32 &&& 0x10C) ||| (q.mcr &&& 3), fpc := q.fpc ||| fINV } :=
          if_pos ((cov_eq_three_iff x).2 cov)
        rw [written]
        simp [DbgReg.sel, cov]
      · have written : (DbgReg.ctl 1).toPanel x q = { q with mcr := x.setWidth 32 &&& 0x10F } :=
          if_neg fun h => cov ((cov_eq_three_iff x).1 h)
        rw [written]
        simp [DbgReg.sel, cov]
  | _ =>
    rw [if_neg (by simp only [DbgReg.sel, DbgReg.there] at *; omega), if_neg (by simp only [DbgReg.sel, DbgReg.there] at *; omega),
      if_pos (by simp only [DbgReg.sel, DbgReg.there] at *; omega)]
    exact ⟨rfl, rfl⟩

end

theorem DbgReg.toPanel_eq (r : DbgReg) (x : DWord) (q : Panel) : r.toPanel x q = { q with
    g := (r.toPanel x q).g, gp := (r.toPanel x q).gp, fb := (r.toPanel x q).fb, fpc := (r.toPanel x q).fpc, mcr := (r.toPanel x q).mcr } := by
  cases r with
  | ctl n =>
    obtain ⟨fpc, mcr, written⟩ : ∃ fpc mcr, (DbgReg.ctl n).toPanel x q = { q with fpc := fpc, mcr := mcr } :=
      ⟨_, _, Panel.writeControl_eq ..⟩
    rw [written]
  | _ => rfl

/-! ### WRITE and WRPC (R311) -/

section
variable {s : State} {p : Nat} {cmd : DWord} (h : Claim.Commands s p 4 cmd false) (stopped : Claim.Stopped s (Claim.debugTarget cmd))
include h stopped

theorem exec_dbgWrite_unnamed (named : s.dbgNamed (Claim.debugTarget cmd) cmd = none) :
    exec (.dbgWrite p cmd) s = .next (s.dbgEnd p 3) := by
  refine (show execDbgWrite p cmd s = _ from dbgCommand_onStopped _ h stopped).trans ?_
  rw [named]

theorem exec_dbgWrite_fixed {r : DbgReg} (named : s.dbgNamed (Claim.debugTarget cmd) cmd = some r) (fixed : ¬ r.writable) :
    exec (.dbgWrite p cmd) s = .next (s.dbgEnd p 4) := by
  refine (show execDbgWrite p cmd s = _ from dbgCommand_onStopped _ h stopped).trans ?_
  rw [named]
  dsimp only
  rw [State.dbgSet_none fixed]

theorem exec_dbgWrite {r : DbgReg} {t : State} (named : s.dbgNamed (Claim.debugTarget cmd) cmd = some r)
    (set : s.dbgSet (Claim.debugTarget cmd) (cmdLane cmd) (s.part p).dbgdata r = some t) :
    exec (.dbgWrite p cmd) s = .next (t.dbgEnd p 0) := by
  refine (show execDbgWrite p cmd s = _ from dbgCommand_onStopped _ h stopped).trans ?_
  rw [named]
  dsimp only
  rw [set]

end

/-- A register that a command names is among those that there are. -/
theorem State.dbgNamed_sel {s : State} {c : Cur} {cmd : DWord} {r : DbgReg} (h : s.dbgNamed c cmd = some r) :
    r.sel = cmd.toNat % 2 ^ 16 ∧ r.there := by
  unfold State.dbgNamed at h
  dsimp only at h
  split at h
  · cases h
  · next r' hr =>
    split at h
    · cases h
    · obtain rfl := Option.some.inj h
      rw [← cmdSel_eq]
      exact dbgReg_sel hr

/-- The registers that WRITE may not name, by SEL. -/
theorem DbgReg.not_writable_iff {r : DbgReg} (hr : r.there) :
    ¬ r.writable ↔ (0xD0 ≤ r.sel ∧ r.sel < 0xD4) ∨ (0x302 ≤ r.sel ∧ r.sel < 0x307 ∨ 0x500 ≤ r.sel) := by
  cases r <;> simp only [DbgReg.writable, DbgReg.sel, DbgReg.there, not_true, not_false_eq_true, true_iff, false_iff] at * <;> omega

/-- A panel that WRPC has sent elsewhere: it is in nothing any more, an `mmq` that it drove included (R311). -/
def Panel.rerouted (q : Panel) (x : DWord) (drives : Bool) : Panel :=
  { q with
    pc := x.toNat % 2 ^ 57 / 4 * 4, clause := none, px := 0, hpx := 0, mmq := if drives then none else q.mmq
    wait := none, under := .run, stopAsked := some none }

theorem exec_dbgWrpc {s : State} {p : Nat} {cmd : DWord} (h : Claim.Commands s p 6 cmd false)
    (stopped : Claim.Stopped s (Claim.debugTarget cmd)) :
    let c := Claim.debugTarget cmd
    let q := (s.panel c).rerouted (s.part p).dbgdata (s.inMmq c)
    (s.inMmq c = false → exec (.dbgWrpc p cmd) s = .next ((s.setPanel c q).dbgEnd p 0)) ∧
    (s.inMmq c = true → exec (.dbgWrpc p cmd) s =
      .next ((s.setWave c.wid { (s.curWave c).setPanel c.entry q with matrix := none }).dbgEnd p 0)) := by
  intro c q
  have pc : bits 56 2 (s.part p).dbgdata.toNat * 4 = (s.part p).dbgdata.toNat % 2 ^ 57 / 4 * 4 := by
    unfold bits
    omega
  have run : exec (.dbgWrpc p cmd) s = _ := show execDbgWrpc p cmd s = _ from dbgCommand_onStopped _ h stopped
  refine ⟨fun free => run.trans ?_, fun drives => run.trans ?_⟩
  · dsimp only
    rw [pc, if_neg (by rw [free]; decide)]
    show Host.Outcome.next ((s.setPanel c _).dbgEnd p 0) = .next ((s.setPanel c ((s.panel c).rerouted (s.part p).dbgdata (s.inMmq c))).dbgEnd p 0)
    rw [free]
    rfl
  · dsimp only
    rw [pc, if_pos drives]
    obtain ⟨r, hr⟩ : ∃ r, r = (s.panel c).rerouted (s.part p).dbgdata true := ⟨_, rfl⟩
    have left : (s.leaveMmq c).panel c = { s.panel c with mmq := none } := by
      unfold State.leaveMmq
      rw [State.panel_setWave]
      exact Wave.panel_setPanel ..
    have twice : (s.leaveMmq c).setPanel c r = s.setWave c.wid { (s.curWave c).setPanel c.entry r with matrix := none } := by
      unfold State.leaveMmq
      rw [State.setPanel_setWave]
      exact congrArg (fun w : Wave => s.setWave c.wid { w with matrix := none }) (Wave.setPanel_setPanel (s.curWave c) c.entry _ r)
    rw [left, show q = r by rw [hr, ← drives], ← twice, hr]
    rfl

theorem claim_debugWrites : Claim.DebugWrites := by
  intro p cmd s c w q sel lane x stopped
  refine ⟨fun h => ?_, fun h => ?_⟩
  · intro named latches fixed
    have value : (s.dbgNamed c cmd).map (s.dbgValue c (cmdLane cmd)) = Claim.debugSelected s c lane sel := by
      have := (s.dbgNamed_map c cmd).trans (s.dbgFetch_eq c (cmdLane cmd) (cmdSel cmd))
      rwa [cmdSel_eq] at this
    have naming : named → ∃ r, s.dbgNamed c cmd = some r := fun hn => by
      obtain ⟨v, hv⟩ := Option.isSome_iff_exists.1 hn
      obtain ⟨r, hr, -⟩ := Option.map_eq_some_iff.1 (value.trans hv)
      exact ⟨r, hr⟩
    refine ⟨fun hn => ?_, fun hn no => ?_, fun hn writes moves => ?_⟩
    · have none : Claim.debugSelected s c lane sel = none := by simpa [named] using hn
      exact exec_dbgWrite_unnamed h stopped (Option.map_eq_none_iff.1 (value.trans none))
    · obtain ⟨r, hr⟩ := naming hn
      obtain ⟨at', there⟩ := State.dbgNamed_sel hr
      refine exec_dbgWrite_fixed h stopped hr ((DbgReg.not_writable_iff there).2 ?_)
      rw [at']
      exact no
    · obtain ⟨r, hr⟩ := naming hn
      obtain ⟨at', there⟩ := State.dbgNamed_sel hr
      have writable : r.writable := by
        by_contra no
        have := (DbgReg.not_writable_iff there).1 no
        rw [at'] at this
        exact this.elim writes moves
      obtain ⟨w', set, wrote⟩ := State.dbgSet_some (s := s) (c := c) (lane := lane) (x := x) writable
      obtain ⟨t, ht⟩ : ∃ t, t = (s.setWave c.wid w').dbgEnd p 0 := ⟨_, rfl⟩
      have run : exec (.dbgWrite p cmd) s = .next t := by
        rw [ht]
        exact exec_dbgWrite h stopped hr set
      have port : Claim.PortOnly s t p c.wid 2 := by
        rw [ht]
        exact portOnly_setWave_setPart s p c.wid w' 2 x (s.part p).stops
      have wave : t.wave c.wid = w' := by
        rw [ht]
        exact State.wave_setWave ..
      have panel : t.panel c = r.toPanel x q := (congrArg (Wave.panel · c.entry) wave).trans wrote.mine
      have vreg : ∀ n, w'.vreg n = (r.toWave x lane w).vreg n := fun n => congrArg (Sparse.get zeroLanes · n) wrote.v
      have oreg : ∀ n, w'.oreg n = (r.toWave x lane w).oreg n := fun n => congrArg (Sparse.get zeroLanes · n) wrote.o
      have pred : ∀ n, w'.pred n = (r.toWave x lane w).pred n := fun n => congrArg (Sparse.get 0 · n) wrote.p
      have sel_eq : r.sel = sel := at'
      obtain ⟨fpc, mcr⟩ := DbgReg.toPanel_control there writable x q
      rw [sel_eq] at fpc mcr
      refine ⟨t, run, port, ?_, fun n j hj => ?_, fun n j hj => ?_, fun n j hj => ?_, fun e he => ?_, ?_, fun n => ?_, fun n hn => ?_,
        fun k => ?_, ?_, ?_⟩
      · rw [wave]
        exact wrote.rest
      · rw [wave, vreg, DbgReg.toWave_vreg there x lane w n hj, sel_eq]
      · rw [wave, oreg, DbgReg.toWave_oreg there x lane w n hj, sel_eq]
      · rw [wave, pred, DbgReg.toWave_pred there x lane w n hj, sel_eq]
      · rw [wave]
        exact wrote.others e he
      · rw [panel]
        exact DbgReg.toPanel_eq ..
      · rw [panel, DbgReg.toPanel_greg there, sel_eq]
      · rw [panel, DbgReg.toPanel_gp there x q hn, sel_eq]
      · rw [panel, DbgReg.toPanel_format there, sel_eq]
      · rw [panel, fpc]
      · rw [panel, mcr]
  · obtain ⟨free, drives⟩ := exec_dbgWrpc h stopped
    obtain ⟨r, hr⟩ : ∃ r, r = (s.panel c).rerouted (s.part p).dbgdata (s.inMmq c) := ⟨_, rfl⟩
    cases hm : s.inMmq c with
    | false =>
      obtain ⟨port, only⟩ := portOnly_setPanel_setPart s p c r 2 (s.part p).stops
      refine ⟨_, free hm, hr ▸ port, fun _ => hr ▸ only, ?_⟩
      refine (State.panel_setPanel s c _).trans ?_
      rw [hm]
      rfl
    | true =>
      refine ⟨_, drives hm, portOnly_setWave_setPart s p c.wid _ 2 (s.part p).dbgdata (s.part p).stops, fun no => by simp at no, ?_⟩
      refine (State.panel_setWave s c _).trans ((Wave.panel_setPanel ..).trans ?_)
      rw [hm]
      rfl

end Sys2Proof.Machine
end

section
/-! SUPPORT. Panel-table entries, samples and the mirror (02 R18, 16 R315-R318, R323). -/

set_option Elab.async false
namespace Sys2Proof.Machine

/-! ### Panel-table entries (R18) -/

theorem Panel.stateCode_lt (q : Panel) : q.stateCode < 16 := by
  unfold Panel.stateCode
  split <;> [split; skip; skip; skip; skip] <;> decide

theorem Panel.waitCount_lt (q : Panel) (now : Nat) : q.waitCount now < 2 ^ 19 := by
  unfold Panel.waitCount
  split
  · exact Nat.lt_of_le_of_lt (Nat.min_le_right ..) (by decide)
  · exact Nat.lt_of_le_of_lt (Nat.min_le_right ..) (by decide)
  · exact Nat.lt_of_le_of_lt (Nat.min_le_right ..) (by decide)
  · decide

/-- The fields of a word are where they have been put. -/
theorem entry_fields {pc frame depth quads code seamk seamid wait origin stall iss : Nat} (hpc : pc < 2 ^ 55) (hf : frame < 2) (hd : depth < 32)
    (hq : quads < 2 ^ 16) (hc : code < 16) (hk : seamk < 8) (hi : seamid < 2 ^ 12) (hw : wait < 2 ^ 19) (ho : origin < 4) (hs : stall < 16)
    (hiss : iss < 2) :
    let x := pc * 2 ^ 73 + frame * 2 ^ 69 + depth * 2 ^ 64 + quads * 2 ^ 48 + code * 2 ^ 44 + seamk * 2 ^ 41 + seamid * 2 ^ 29 +
      wait * 2 ^ 10 + origin * 2 ^ 8 + stall * 2 ^ 4 + 8 + iss * 4
    x < 2 ^ 128 ∧ x / 2 ^ 73 = pc ∧ x / 2 ^ 69 % 2 = frame ∧ x / 2 ^ 64 % 2 ^ 5 = depth ∧ x / 2 ^ 48 % 2 ^ 16 = quads ∧
    x / 2 ^ 44 % 2 ^ 4 = code ∧ x / 2 ^ 41 % 2 ^ 3 = seamk ∧ x / 2 ^ 29 % 2 ^ 12 = seamid ∧ x / 2 ^ 10 % 2 ^ 19 = wait ∧
    x / 2 ^ 8 % 2 ^ 2 = origin ∧ x / 2 ^ 4 % 2 ^ 4 = stall ∧ x / 2 ^ 3 % 2 = 1 ∧ x / 2 ^ 2 % 2 = iss ∧ x % 4 = 0 := by
  refine ⟨?_, ?_, ?_, ?_, ?_, ?_, ?_, ?_, ?_, ?_, ?_, ?_, ?_, ?_⟩ <;> omega

theorem Panel.word_toNat {q : Panel} (now : Nat) (valid : q.valid = true) (far : q.pc < 2 ^ 57) (depth : q.stack.length < 32)
    (small : q.pc / 4 * 2 ^ 73 + q.frame.isSome.toNat * 2 ^ 69 + q.stack.length * 2 ^ 64 + q.qmask.toNat * 2 ^ 48 + q.stateCode * 2 ^ 44 +
      q.seamk.toNat * 2 ^ 41 + q.seamid.toNat * 2 ^ 29 + q.waitCount now * 2 ^ 10 + q.origin.toNat * 2 ^ 8 + q.stall.toNat * 2 ^ 4 + 8 +
      q.iss.toNat * 4 < 2 ^ 128) :
    (q.word now).toNat = q.pc / 4 * 2 ^ 73 + q.frame.isSome.toNat * 2 ^ 69 + q.stack.length * 2 ^ 64 + q.qmask.toNat * 2 ^ 48 +
      q.stateCode * 2 ^ 44 + q.seamk.toNat * 2 ^ 41 + q.seamid.toNat * 2 ^ 29 + q.waitCount now * 2 ^ 10 + q.origin.toNat * 2 ^ 8 +
      q.stall.toNat * 2 ^ 4 + 8 + q.iss.toNat * 4 := by
  rw [Panel.word, if_neg (by simp [valid]), BitVec.toNat_ofNat, Nat.mod_eq_of_lt (a := q.pc / 4) (by omega), Nat.mod_eq_of_lt depth,
    Nat.mod_eq_of_lt small]

theorem claim_panelEntries : Claim.PanelEntries := by
  intro q now
  refine ⟨fun invalid => ?_, fun valid aligned far depth => ?_⟩
  · rw [Panel.word, if_pos invalid]
    rfl
  · obtain ⟨small, rest⟩ := entry_fields (pc := q.pc / 4) (frame := q.frame.isSome.toNat) (depth := q.stack.length)
      (quads := q.qmask.toNat) (code := q.stateCode) (seamk := q.seamk.toNat) (seamid := q.seamid.toNat) (wait := q.waitCount now)
      (origin := q.origin.toNat) (stall := q.stall.toNat) (iss := q.iss.toNat) (by omega) (Bool.toNat_lt _) depth q.qmask.isLt
      q.stateCode_lt q.seamk.isLt q.seamid.isLt (q.waitCount_lt now) q.origin.isLt q.stall.isLt (Bool.toNat_lt _)
    rw [Panel.word_toNat now valid far depth small]
    exact rest

/-! ### Samples (R315-R318) -/

theorem nextInTurn_wraps {l : List Nat} {last k : Nat} (sorted : l.Pairwise (· < ·)) (hk : k ∈ l) (past : ∀ i ∈ l, i ≤ last)
    (least : ∀ i ∈ l, k ≤ i) : nextInTurn l last = some k := by
  unfold nextInTurn
  rw [List.find?_eq_none.2 fun i hi => by simpa using past i hi, Option.none_or]
  cases l with
  | nil => exact absurd hk List.not_mem_nil
  | cons a l =>
    obtain ⟨after, -⟩ := List.pairwise_cons.1 sorted
    rcases List.mem_cons.1 hk with rfl | later
    · rfl
    · exact absurd (after k later) (Nat.not_lt.2 (least a (List.mem_cons_self ..)))

theorem nextInTurn_last {l : List Nat} {last e : Nat} (he : e ∈ l) (after : last < e) (greatest : ∀ i ∈ l, i ≤ e)
    (past : ∀ i ∈ l, i < e → i ≤ last) : nextInTurn l last = some e := by
  unfold nextInTurn
  cases found : l.find? fun x => decide (last < x) with
  | none => exact absurd (by simpa using after) (List.find?_eq_none.1 found e he)
  | some y =>
    have mem := List.mem_of_find?_eq_some found
    have later : last < y := by simpa using List.find?_some found
    have : y = e := by
      rcases Nat.lt_or_ge y e with below | above
      · exact absurd (past y mem below) (Nat.not_le.2 later)
      · exact Nat.le_antisymm (greatest y mem) above
    rw [this]
    rfl

/-- The live waves of a core, by slot. -/
def State.liveSlots (s : State) (core : Nat) : List Nat := (List.range 64).filter fun k => (s.wave (core * 64 + k)).alive

/-- A state after a core's sample has fallen due, with what it has written. -/
def State.sampledAs (s u : State) (core now : Nat) (m : Sampler) : State :=
  { u with samplers := Sparse.set Sampler.reset s.samplers core { m with last := now } }

/-- A sample of an entry. -/
def State.entrySample (s : State) (p core slot e : Nat) : State :=
  let q := (s.wave (core * 64 + slot)).panel e
  s.traceRecord p 0x01 q.stall.toNat (dieByte core) (panelBlock (core * 64 + slot) e q.stateCode q.qmask.toNat q.pc) 1

theorem State.entrySample_unlogged (s : State) (p core slot e : Nat) : (s.entrySample p core slot e).unlogged = s.unlogged :=
  State.traceRecord_unlogged ..

theorem State.entrySample_samplers (s : State) (p core slot e : Nat) : (s.entrySample p core slot e).samplers = s.samplers :=
  (congrArg State.samplers (s.entrySample_unlogged p core slot e) : (State.unlogged _).samplers = s.unlogged.samplers)

theorem exec_traceSample_idle {s : State} {core p : Nat} (hp : s.corePart core = some p)
    (idle : s.fabStep ≤ s.fabric (dieByte core) % 2 ^ (bits 7 4 (s.part p).dbgctl.toNat + 10) ∨
      s.fabric (dieByte core) / 2 ^ (bits 7 4 (s.part p).dbgctl.toNat + 10) =
        (Sparse.get Sampler.reset s.samplers core).last / 2 ^ (bits 7 4 (s.part p).dbgctl.toNat + 10)) :
    exec (.traceSample core) s = .next s := by
  show execTraceSample core s = _
  unfold execTraceSample
  rw [hp]
  exact if_pos (.inr (.inr idle))

section
variable {s : State} {core p : Nat} (hc : core < 388) (hp : s.corePart core = some p) (on : (s.part p).dbgctl.getLsbD 3 = true)
  (due : s.fabric (dieByte core) % 2 ^ (bits 7 4 (s.part p).dbgctl.toNat + 10) < s.fabStep)
  (fresh : s.fabric (dieByte core) / 2 ^ (bits 7 4 (s.part p).dbgctl.toNat + 10) ≠
    (Sparse.get Sampler.reset s.samplers core).last / 2 ^ (bits 7 4 (s.part p).dbgctl.toNat + 10))
include hc hp on due fresh

/-- What falls due samples the next entry of the next wave, in turn. -/
theorem exec_traceSample : ∃ u m', exec (.traceSample core) s = .next (s.sampledAs u core (s.fabric (dieByte core)) m') ∧
    u.waves = s.waves ∧
    (s.liveSlots core = [] → u = s ∧ m' = Sparse.get Sampler.reset s.samplers core) ∧
    ∀ slot e, nextInTurn (s.liveSlots core) (Sparse.get Sampler.reset s.samplers core).slot = some slot →
      nextInTurn (s.wave (core * 64 + slot)).entries (Sparse.get 8 (Sparse.get Sampler.reset s.samplers core).entries slot) = some e →
      u = s.entrySample p core slot e ∧ m' = { Sparse.get Sampler.reset s.samplers core with
        slot := slot, entries := Sparse.set 8 (Sparse.get Sampler.reset s.samplers core).entries slot e } := by
  have starts : ¬ (388 ≤ core ∨ (s.part p).dbgctl.getLsbD 3 = false ∨
      s.fabStep ≤ s.fabric (dieByte core) % 2 ^ (bits 7 4 (s.part p).dbgctl.toNat + 10) ∨
      s.fabric (dieByte core) / 2 ^ (bits 7 4 (s.part p).dbgctl.toNat + 10) =
        (Sparse.get Sampler.reset s.samplers core).last / 2 ^ (bits 7 4 (s.part p).dbgctl.toNat + 10)) := by
    simp [on, fresh, hc, due]
  have acts : exec (.traceSample core) s = execTraceSample core s := rfl
  rw [acts]
  unfold execTraceSample
  rw [hp]
  dsimp only
  rw [if_neg starts]
  have none_of_empty : s.liveSlots core = [] → nextInTurn (s.liveSlots core) (Sparse.get Sampler.reset s.samplers core).slot = none :=
    fun empty => by rw [empty]; rfl
  split
  · next hs =>
    exact ⟨s, _, rfl, rfl, fun _ => ⟨rfl, rfl⟩, fun slot e h => absurd (h.symm.trans hs) (by simp)⟩
  · next slot hs =>
    have some : ∀ slot', nextInTurn (s.liveSlots core) (Sparse.get Sampler.reset s.samplers core).slot = some slot' → slot' = slot :=
      fun slot' h => Option.some.inj (h.symm.trans hs)
    have full : s.liveSlots core = [] → False := fun empty => absurd ((none_of_empty empty).symm.trans hs) (by simp)
    split
    · next he =>
      refine ⟨s, { Sparse.get Sampler.reset s.samplers core with slot := slot }, rfl, rfl, fun empty => (full empty).elim,
        fun slot' e h h' => ?_⟩
      obtain rfl := some slot' h
      exact absurd (h'.symm.trans he) (by simp)
    · next e he =>
      refine ⟨s.entrySample p core slot e, { Sparse.get Sampler.reset s.samplers core with
        slot := slot, entries := Sparse.set 8 (Sparse.get Sampler.reset s.samplers core).entries slot e }, ?_,
        State.waves_of_unlogged (s.entrySample_unlogged ..), fun empty => (full empty).elim, fun slot' e' h h' => ?_⟩
      · rw [State.sampledAs, ← s.entrySample_samplers p core slot e]
        rfl
      · obtain rfl := some slot' h
        obtain rfl := Option.some.inj (h'.symm.trans he)
        exact ⟨rfl, rfl⟩

end

theorem claim_traceSamples : Claim.TraceSamples := by
  intro core p s hc hp on period now m
  have die : (if core < 384 then core / 96 else 4) = dieByte core := rfl
  refine ⟨fun idle => exec_traceSample_idle hp idle, fun due fresh => ?_⟩
  obtain ⟨u, m', run, waves, empty, entry⟩ := exec_traceSample hc hp on due fresh
  have sampler : Sparse.get Sampler.reset (s.sampledAs u core now m').samplers core = { m' with last := now } := Sparse.get_set_same ..
  intro live
  refine ⟨_, run, waves, ?_⟩
  intro n
  have hn : n = { m' with last := now } := sampler
  refine ⟨by rw [hn], fun k hk => Sparse.get_set_other _ _ _ _ _ hk, fun none => ?_, ?_⟩
  · obtain ⟨rfl, rfl⟩ := empty none
    exact ⟨rfl, hn⟩
  · intro k hk past least e he q valid greatest before after
    have sorted : live.Pairwise (· < ·) := List.pairwise_lt_range.filter _
    have mem : e ∈ (s.wave (core * 64 + k)).entries := Wave.mem_entries.2 ⟨he, valid⟩
    obtain ⟨hu, hm⟩ := entry k e (nextInTurn_wraps sorted hk past least)
      (nextInTurn_last mem after (fun i hi => greatest i (Wave.mem_entries.1 hi).1 (Wave.mem_entries.1 hi).2)
        fun i hi below => before i below (Wave.mem_entries.1 hi).2)
    refine ⟨by rw [hn, hm], ?_, ?_⟩
    · rw [hn, hm]
      exact Sparse.get_set_same ..
    · rw [hu]
      rfl

/-! ### The mirror (R323) -/

/-- A live wave is listed. -/
theorem State.mem_waves_of_alive {s : State} {k : Nat} (h : (s.wave k).alive = true) : (k, s.wave k) ∈ s.waves := by
  unfold State.wave Sparse.get at *
  cases found : s.waves.find? fun e => e.1 == k with
  | none => simp [found, Wave.empty] at h
  | some e =>
    have key : e.1 = k := by simpa using List.find?_some found
    have mem := List.mem_of_find?_eq_some found
    rw [← key]
    exact mem

theorem claim_mirrors : Claim.Mirrors := by
  intro p v s hp fire
  have run : exec (.mirrorStrobe p v) s = .next (if (s.part p).mirctl.getLsbD 0 then s.fire p
      else (s.fire p).setPart p { (s.fire p).part p with mirctl := v &&& 1 }) :=
    if_neg (by simp [fire, hp])
  cases arm : (s.part p).mirctl.getLsbD 0 with
  | true =>
    rw [arm, if_pos rfl] at run
    have fired : s.fire p = s.strobe.setPart p { s.part p with mirctl := 0 } := if_pos arm
    have mirror : (s.fire p).mirror = s.strobe.mirror := by rw [fired]; rfl
    refine ⟨_, run, State.fire_waves .., fun _ => ⟨?_, ?_, fun w alive => ?_⟩, fun no => by cases no⟩
    · rw [fired, State.part_setPart]
    · rw [mirror]
      rfl
    · have listed : (w, s.wave w) ∈ s.waves.filter fun e => e.2.alive := List.mem_filter.2 ⟨State.mem_waves_of_alive alive, alive⟩
      rw [mirror]
      exact ⟨⟨_, List.mem_map_of_mem listed, fun e he => getD_map_range _ _ _ he⟩,
        ⟨_, List.mem_map_of_mem listed, fun k hk => getD_map_range _ _ _ hk⟩⟩
  | false =>
    rw [arm, if_neg (by decide)] at run
    have unfired : s.fire p = s := if_neg (by rw [arm]; decide)
    rw [unfired] at run
    exact ⟨_, run, rfl, fun no => (Bool.false_ne_true no).elim, fun _ => rfl⟩

end Sys2Proof.Machine
end

section
/-! SUPPORT. Sixteen bytes that an agent writes at once, in one page (06 R110, 18 R345-R347). -/

set_option Elab.async false
namespace Sys2Proof.Machine

/-! ### The bytes of a page translate alike -/

theorem levelShift_ge (l : Nat) : 16 ≤ levelShift l := Nat.le_add_right ..

/-- Bytes of an aligned block of 16 have one index at each level. -/
theorem div_levelShift_eq {va k : Nat} (aligned : va % 16 = 0) (hk : k < 16) (l : Nat) :
    (va + k) / 2 ^ levelShift l = va / 2 ^ levelShift l := by
  obtain ⟨m, hm⟩ : ∃ m, 2 ^ levelShift l = 16 * m := ⟨2 ^ (levelShift l - 4), by
    rw [show (16 : Nat) = 2 ^ 4 from rfl, ← Nat.pow_add, Nat.add_sub_cancel' (Nat.le_trans (by decide) (levelShift_ge l))]⟩
  rw [hm, ← Nat.div_div_eq_div_mul, ← Nat.div_div_eq_div_mul, show (va + k) / 16 = va / 16 by omega]

theorem mod_levelShift_eq {va k : Nat} (aligned : va % 16 = 0) (hk : k < 16) (l : Nat) :
    (va + k) % 2 ^ levelShift l = va % 2 ^ levelShift l + k := by
  have same := div_levelShift_eq aligned hk l
  have h1 := Nat.div_add_mod (va + k) (2 ^ levelShift l)
  have h2 := Nat.div_add_mod va (2 ^ levelShift l)
  rw [same] at h1
  omega

/-- A walk goes the way that the indices of the address say. -/
theorem State.walk_congr {s : State} {tkey va va' : Nat} (same : ∀ l, va' / 2 ^ levelShift l = va / 2 ^ levelShift l) {levels : List Nat}
    {node : Nat} {o : Option (DWord × Nat)} (h : s.walk tkey va levels node = .ok o) : s.walk tkey va' levels node = .ok o := by
  induction levels generalizing node with
  | nil => cases h
  | cons l levels ih =>
    simp only [State.walk, same l] at h ⊢
    generalize node + 8 * (_ % _) = ea at h ⊢
    by_cases outside : memorySize ≤ ea
    · rw [if_pos outside] at h
      cases h
    rw [if_neg outside] at h ⊢
    by_cases poisoned : s.poisoned ea = true
    · rw [if_pos poisoned] at h
      cases h
    rw [if_neg poisoned] at h ⊢
    cases hw : walkStep (BitVec.ofNat 64 (ofBytes (s.readKeyedBytes tkey ea 8))) l with
    | sparse => rw [hw] at h; exact h
    | leaf e => rw [hw] at h; exact h
    | node a => rw [hw] at h; exact ih h
    | fail sub => rw [hw] at h; cases h

theorem State.leafOf_congr {s : State} {a : Acc} {va va' : Nat} (same : ∀ l, va' / 2 ^ levelShift l = va / 2 ^ levelShift l)
    {o : Option (DWord × Nat)} (h : s.leafOf a va = .ok o) : s.leafOf a va' = .ok o := by
  have tlb : s.tlbFind a va' = s.tlbFind a va := by
    simp only [State.tlbFind, State.tlbIn, TlbEntry.covers, same]
  unfold State.leafOf at h ⊢
  rw [tlb]
  cases hx : s.tlbFind a va with
  | some x => rw [hx] at h; exact h
  | none => rw [hx] at h; exact State.walk_congr same h

/-- A translation that leads to a byte of memory, taken apart (R347). -/
structure State.Leads (s : State) (a : Acc) (va : Nat) (need : Need) (e : DWord) (level : Nat) : Prop where
  low : ¬ 2 ^ 57 ≤ va
  space : ¬ s.asnOk a.part a.asn = false
  clean : ¬ s.poisoned (s.astAddr a.part a.asn) = true
  leaf : s.leafOf a va = .ok (some (e, level))
  granted : ¬ ((s.part a.part).grants e level = false ∨ (ptePeer e = false ∧ memorySize ≤ pteAddr e + va % 2 ^ levelShift level))
  allowed : ¬ need.allowed e = false

theorem State.Leads.translate {s : State} {a : Acc} {va : Nat} {need : Need} {e : DWord} {level : Nat} (h : s.Leads a va need e level) :
    s.translate a va need = .ok (.leaf e (pteAddr e + va % 2 ^ levelShift level)) := by
  unfold State.translate
  rw [if_neg h.low, if_neg h.space, if_neg h.clean, h.leaf]
  dsimp only
  rw [if_neg h.granted, if_neg h.allowed]

theorem State.leads_of_translate {s : State} {a : Acc} {va pa : Nat} {need : Need} {e : DWord} (h : s.translate a va need = .ok (.leaf e pa)) :
    ∃ level, s.Leads a va need e level ∧ pa = pteAddr e + va % 2 ^ levelShift level := by
  unfold State.translate at h
  by_cases low : 2 ^ 57 ≤ va
  · rw [if_pos low] at h
    cases h
  rw [if_neg low] at h
  by_cases space : s.asnOk a.part a.asn = false
  · rw [if_pos space] at h
    cases h
  rw [if_neg space] at h
  by_cases clean : s.poisoned (s.astAddr a.part a.asn) = true
  · rw [if_pos clean] at h
    cases h
  rw [if_neg clean] at h
  cases leaf : s.leafOf a va with
  | error f =>
    rw [leaf] at h
    cases h
  | ok o =>
    rw [leaf] at h
    cases o with
    | none => cases h
    | some x =>
      obtain ⟨b, level⟩ := x
      dsimp only at h
      by_cases granted : (s.part a.part).grants b level = false ∨ (ptePeer b = false ∧ memorySize ≤ pteAddr b + va % 2 ^ levelShift level)
      · rw [if_pos granted] at h
        cases h
      rw [if_neg granted] at h
      by_cases allowed : need.allowed b = false
      · rw [if_pos allowed] at h
        cases h
      rw [if_neg allowed] at h
      obtain ⟨rfl, rfl⟩ := Place.leaf.inj (Except.ok.inj h)
      exact ⟨level, ⟨low, space, clean, leaf, granted, allowed⟩, rfl⟩

/-- A block of 16 bytes lies in one page, one after another. -/
theorem State.translate_block {s : State} {a : Acc} {va k pa : Nat} {need : Need} {e : DWord} (aligned : va % 16 = 0) (hk : k < 16)
    (h : s.translate a va need = .ok (.leaf e pa)) : s.translate a (va + k) need = .ok (.leaf e (pa + k)) := by
  obtain ⟨level, leads, rfl⟩ := State.leads_of_translate h
  have place : pteAddr e + va % 2 ^ levelShift level + k = pteAddr e + (va + k) % 2 ^ levelShift level := by
    rw [mod_levelShift_eq aligned hk, Nat.add_assoc]
  rw [place]
  refine State.Leads.translate ⟨?_, leads.space, leads.clean, State.leafOf_congr (div_levelShift_eq aligned hk) leads.leaf, ?_,
    leads.allowed⟩
  · have := leads.low
    omega
  · rw [← place]
    rintro (ungranted | ⟨onDie, outside⟩)
    · exact leads.granted (.inl ungranted)
    · have inside : ¬ memorySize ≤ pteAddr e + va % 2 ^ levelShift level := fun out => leads.granted (.inr ⟨onDie, out⟩)
      have frame : pteAddr e % 16 = 0 := by unfold pteAddr; omega
      have offset : va % 2 ^ levelShift level % 16 = 0 := by
        rw [Nat.mod_mod_of_dvd _ (Nat.pow_dvd_pow 2 (Nat.le_trans (by decide : 4 ≤ 16) (levelShift_ge level)))]
        exact aligned
      unfold memorySize at inside outside
      omega

/-! ### Writing it -/

/-- The places of a block. -/
def blockPlaces (e : DWord) (pa n : Nat) : List Place := (List.range' pa n).map (Place.leaf e)

theorem State.translateAll_block {s : State} {a : Acc} {va pa : Nat} {need : Need} {e : DWord} (aligned : va % 16 = 0)
    (h : s.translate a va need = .ok (.leaf e pa)) : s.translateAll a need (spanOf va 16) = .ok (blockPlaces e pa 16) := by
  have low : va + 16 ≤ 2 ^ 57 := by
    obtain ⟨_, leads, _⟩ := State.leads_of_translate h
    have := leads.low
    omega
  have each : ∀ n k, n + k = 16 → s.translateAll a need ((List.range' k n).map fun i => (va + i) % 2 ^ 64) =
      .ok (blockPlaces e (pa + k) n) := by
    intro n
    induction n with
    | zero => exact fun _ _ => rfl
    | succ n ih =>
      intro k hk
      have here : s.translate a ((va + k) % 2 ^ 64) need = .ok (.leaf e (pa + k)) := by
        rw [Nat.mod_eq_of_lt (by omega)]
        exact State.translate_block aligned (by omega) h
      rw [List.range'_succ, List.map_cons, State.translateAll, here, ih (k + 1) (by omega)]
      rfl
  rw [spanOf, List.range_eq_range']
  exact each 16 0 rfl

/-- An agent writes past the L1s, under the key of the page. -/
theorem State.writePlaces_block {e : DWord} (near : ptePeer e = false) {a : Acc} (ha : a.core = none) (bs : List Byte) (s : State) (pa : Nat) :
    s.writePlaces a (blockPlaces e pa bs.length) bs = s.writeKeyedBytes (pteKey e) pa bs := by
  induction bs generalizing s pa with
  | nil => rfl
  | cons b bs ih =>
    have line : a.line (.leaf e pa) = none := by
      unfold Acc.line
      rw [ha]
    have byte : s.writePlace a b (.leaf e pa) = s.writeKeyed (pteKey e) pa b := by
      unfold State.writePlace State.bypass
      dsimp only
      rw [near, line, ha]
      rfl
    rw [State.writeKeyedBytes, ← ih, ← byte]
    rfl

theorem State.clearCovered_readKeyed (s : State) (pas : List Nat) : (s.clearCovered pas).readKeyed = s.readKeyed :=
  foldl_keeps (f := State.clearPoison) State.readKeyed (fun _ _ => rfl) _ s

/-- Sixteen bytes that an agent writes to a page of memory are read there under its key. -/
theorem State.writeVa_block {s : State} {a : Acc} (ha : a.core = none) {va pa : Nat} {e : DWord} (aligned : va % 16 = 0)
    (h : s.translate a va .write = .ok (.leaf e pa)) (near : ptePeer e = false) {bs : List Byte} (len : bs.length = 16) :
    ∃ t, s.writeVa a va bs = .ok t ∧ ∀ k, k < 16 → t.readKeyed (pteKey e) (pa + k) = bs.getD k 0 := by
  have places := State.translateAll_block aligned h
  have alive : ((blockPlaces e pa 16).any s.deadPlace) = false := by
    rw [List.any_eq_false]
    intro x hx
    obtain ⟨i, -, rfl⟩ := List.mem_map.1 hx
    simp [State.deadPlace, near]
  unfold State.writeVa
  rw [len, places]
  dsimp only
  rw [if_neg (by rw [alive]; decide), ← len, State.writePlaces_block near ha]
  refine ⟨_, rfl, fun k hk => ?_⟩
  rw [State.clearCovered_readKeyed]
  generalize s.cacheLeaves a (spanOf va bs.length) = u
  have read := State.writeKeyedBytes_readKeyedBytes (pteKey e) bs u pa
  rw [State.readKeyedBytes] at read
  rw [← getD_map_range (fun i => (u.writeKeyedBytes (pteKey e) pa bs).readKeyed (pteKey e) (pa + i)) bs.length 0 (by omega), read]

end Sys2Proof.Machine
end

section
/-! SUPPORT. The record log and replay from it (16 R321, R322). -/

set_option Elab.async false
namespace Sys2Proof.Machine

/-! ### The log ring -/

/-- A log with room has a ring. -/
theorem logsize_pos_of_free {x : Partition} {n : Nat} (hn : 0 < n) (h : n ≤ logFree x) : 0 < x.logsize.toNat := by
  rcases Nat.eq_zero_or_pos x.logsize.toNat with none | some
  · rw [logFree, none] at h
    exact absurd h (Nat.not_le.2 hn)
  · exact some

/-- LOGHEAD moved on by one entry. -/
theorem loghead_toNat {x : Partition} (some : 0 < x.logsize.toNat) (small : x.logsize.toNat ≤ 65536) :
    (BitVec.ofNat 64 ((x.loghead.toNat + 16) % (x.logsize.toNat * 4096))).toNat = (x.loghead.toNat + 16) % (x.logsize.toNat * 4096) := by
  have := Nat.mod_lt (x.loghead.toNat + 16) (show 0 < x.logsize.toNat * 4096 by omega)
  rw [BitVec.toNat_ofNat, Nat.mod_eq_of_lt]
  omega

/-- The memory that an entry's write leaves, where its slot translates. -/
def State.logSlot (s : State) (p : Nat) (bs : List Byte) : State :=
  match s.writeVa (s.ringAcc p) ((s.part p).logbase.toNat + (s.part p).loghead.toNat % ((s.part p).logsize.toNat * 4096)) bs with
  | .ok t => t
  | .error _ => s

theorem State.logSlot_bare (s : State) (p : Nat) (bs : List Byte) : (s.logSlot p bs).bare = s.bare := by
  unfold State.logSlot
  split
  · exact State.bare_of_writeVa ‹_›
  · rfl

theorem State.part_of_bare {s t : State} (h : t.bare = s.bare) (q : Nat) : t.part q = s.part q := by
  unfold State.part
  rw [State.regs_of_bare h]

theorem State.logWrite_eq (s : State) (p : Nat) (bs : List Byte) : s.logWrite p bs = (s.logSlot p bs).setPart p
    { s.part p with loghead := BitVec.ofNat 64 (((s.part p).loghead.toNat + 16) % ((s.part p).logsize.toNat * 4096)) } := by
  have form : s.logWrite p bs = (s.logSlot p bs).setPart p { (s.logSlot p bs).part p with
      loghead := BitVec.ofNat 64 (((s.part p).loghead.toNat + 16) % ((s.part p).logsize.toNat * 4096)) } := rfl
  rw [form, State.part_of_bare (s.logSlot_bare p bs)]

theorem State.setPart_setPart (s : State) (p : Nat) (x y : Partition) : (s.setPart p x).setPart p y = s.setPart p y := by
  simp [State.setPart]

theorem claim_logGaps : Claim.LogGaps := by
  intro p first s hp due room small
  have pos := logsize_pos_of_free (by decide) room
  obtain ⟨bs, hbs⟩ : ∃ bs, bs = logEntry ((s.part p).logseq % 2 ^ 32) (Config.free s.freeCtr 0).toNat (Config.free s.freeCtr 1).toNat 4
      (BitVec.ofNat 64 first) := ⟨_, rfl⟩
  have run : exec (.logGapEntry p) s = .next (s.logGapWrite p) := if_neg (by simp [due, hp, room])
  have written : s.logGapWrite p = ((s.logSlot p bs).setPart p { s.part p with
      loghead := BitVec.ofNat 64 (((s.part p).loghead.toNat + 16) % ((s.part p).logsize.toNat * 4096))
      logGap := none, logseq := (s.part p).logseq + 1 }).bumpFree := by
    unfold State.logGapWrite
    rw [due]
    dsimp only
    rw [if_neg (by omega), ← hbs, State.logWrite_eq, State.part_setPart, State.setPart_setPart]
  obtain ⟨t, ht⟩ : ∃ t, t = s.logGapWrite p := ⟨_, rfl⟩
  have part : t.part p = { s.part p with
      loghead := BitVec.ofNat 64 (((s.part p).loghead.toNat + 16) % ((s.part p).logsize.toNat * 4096))
      logGap := none, logseq := (s.part p).logseq + 1 } := by
    rw [ht, written]
    exact State.part_setPart ..
  have slot := s.logSlot_bare p bs
  refine ⟨t, ht ▸ run, ?_, ?_, ?_, ?_, fun q hq => ?_⟩
  · rw [part]
  · rw [part]
  · rw [part]
    exact loghead_toNat pos small
  · rw [ht, written]
    exact (congrArg State.waves slot : (s.logSlot p bs).bare.waves = s.bare.waves)
  · rw [ht, written]
    exact (State.part_setPart_other _ _ _ _ hq).trans (State.part_of_bare slot q)

/-! ### Appending (R321, R322) -/

theorem State.logAppend_off {s : State} {p : Nat} (off : (s.part p).dbgctl.getLsbD 9 = false) (wid lane kind : Nat) (v : DWord) :
    s.logAppend p wid lane kind v = s := if_pos off

section
variable {s : State} {p : Nat} (on : (s.part p).dbgctl.getLsbD 9 = true) (whole : (s.part p).logGap = none) (wid lane kind : Nat) (v : DWord)
include on whole

theorem State.logAppend_drops (full : logFree (s.part p) < 16) : s.logAppend p wid lane kind v =
    s.setPart p { s.part p with logseq := (s.part p).logseq + 1, logGap := some (s.part p).logseq } := by
  have gap : s.logGapWrite p = s := by
    unfold State.logGapWrite
    rw [whole]
  unfold State.logAppend
  rw [if_neg (by rw [on]; decide), gap]
  dsimp only
  rw [if_pos full, whole]
  rfl

theorem State.logAppend_writes (room : 16 ≤ logFree (s.part p)) : s.logAppend p wid lane kind v =
    (s.logSlot p (logEntry ((s.part p).logseq % 2 ^ 32) wid lane kind v)).setPart p { s.part p with
      loghead := BitVec.ofNat 64 (((s.part p).loghead.toNat + 16) % ((s.part p).logsize.toNat * 4096))
      logseq := (s.part p).logseq + 1 } := by
  have gap : s.logGapWrite p = s := by
    unfold State.logGapWrite
    rw [whole]
  unfold State.logAppend
  rw [if_neg (by rw [on]; decide), gap]
  dsimp only
  rw [if_neg (Nat.not_lt.2 room), State.logWrite_eq, State.part_setPart, State.setPart_setPart]

end

theorem logEntry_length (seq wid lane kind : Nat) (v : DWord) : (logEntry seq wid lane kind v).length = 16 := by
  simp [logEntry, toBytes]

/-- The slot of an entry that translates holds it. -/
theorem State.logSlot_readKeyed {s : State} {p : Nat} {bs : List Byte} {e : DWord} {pa : Nat} (len : bs.length = 16)
    (aligned : ((s.part p).logbase.toNat + (s.part p).loghead.toNat % ((s.part p).logsize.toNat * 4096)) % 16 = 0)
    (h : s.translate (s.ringAcc p) ((s.part p).logbase.toNat + (s.part p).loghead.toNat % ((s.part p).logsize.toNat * 4096)) .write =
      .ok (.leaf e pa)) (near : ptePeer e = false) {k : Nat} (hk : k < 16) :
    (s.logSlot p bs).readKeyed (pteKey e) (pa + k) = bs.getD k 0 := by
  obtain ⟨t, written, bytes⟩ := State.writeVa_block rfl aligned h near len
  unfold State.logSlot
  rw [written]
  exact bytes k hk

/-! ### Replay (R322) -/

theorem logMatches_iff {bs : List Byte} {wid lane kind : Nat} : logMatches bs wid lane kind = true ↔
    fieldAt bs 4 2 = wid ∧ fieldAt bs 7 1 = kind ∧ (kind = 1 → fieldAt bs 6 1 = lane) := by
  simp [logMatches, and_assoc, Classical.or_iff_not_imp_left]

section
variable {s : State} {p wid lane kind : Nat}

/-- An entry that the log has whole, and one that records the outcome sought and is not taken. -/
def State.logWhole (s : State) (p k : Nat) : Prop := s.logRead p k ≠ [] ∧ fieldAt (s.logRead p k) 7 1 ≠ 4
def State.logFits (s : State) (p wid lane kind k : Nat) : Prop :=
  fieldAt (s.logRead p k) 4 2 = wid ∧ fieldAt (s.logRead p k) 7 1 = kind ∧ (kind = 1 → fieldAt (s.logRead p k) 6 1 = lane) ∧
    k ∉ (s.part p).replay

theorem State.logFits_iff {k : Nat} : (logMatches (s.logRead p k) wid lane kind && !(s.part p).replay.contains k) = true ↔
    s.logFits p wid lane kind k := by
  rw [Bool.and_eq_true, logMatches_iff]
  simp [State.logFits, and_assoc]

theorem State.replayFind_some {k : Nat} (whole : s.logWhole p k) (fits : s.logFits p wid lane kind k) (n i : Nat) (hi : i ≤ k) (hk : k < i + n)
    (before : ∀ j, i ≤ j → j < k → s.logWhole p j ∧ ¬ s.logFits p wid lane kind j) :
    s.replayFind p wid lane kind n i = some (k, BitVec.ofNat 64 (fieldAt (s.logRead p k) 8 8)) := by
  induction n generalizing i with
  | zero => omega
  | succ n ih =>
    rw [State.replayFind]
    rcases Nat.eq_or_lt_of_le hi with rfl | below
    · rw [if_neg (by rintro (h | h); exacts [whole.1 h, whole.2 h]), if_pos (State.logFits_iff.2 fits)]
    · obtain ⟨wi, ni⟩ := before i (Nat.le_refl i) below
      rw [if_neg (by rintro (h | h); exacts [wi.1 h, wi.2 h]), if_neg fun h => ni (State.logFits_iff.1 h)]
      exact ih (i + 1) below (by omega) fun j hj => before j (by omega)

theorem State.replayFind_sound (n i : Nat) {k : Nat} {v : DWord} (h : s.replayFind p wid lane kind n i = some (k, v))
    (before : ∀ j, j < i → s.logWhole p j ∧ ¬ s.logFits p wid lane kind j) :
    k < i + n ∧ s.logWhole p k ∧ s.logFits p wid lane kind k ∧ ∀ j, j < k → s.logWhole p j ∧ ¬ s.logFits p wid lane kind j := by
  induction n generalizing i with
  | zero => cases h
  | succ n ih =>
    rw [State.replayFind] at h
    by_cases broken : s.logRead p i = [] ∨ fieldAt (s.logRead p i) 7 1 = 4
    · rw [if_pos broken] at h
      cases h
    rw [if_neg broken] at h
    have whole : s.logWhole p i := ⟨fun e => broken (.inl e), fun e => broken (.inr e)⟩
    by_cases fits : s.logFits p wid lane kind i
    · rw [if_pos (State.logFits_iff.2 fits)] at h
      obtain ⟨rfl, -⟩ := Prod.mk.inj (Option.some.inj h)
      exact ⟨by omega, whole, fits, before⟩
    · rw [if_neg fun h => fits (State.logFits_iff.1 h)] at h
      have := ih (i + 1) h fun j hj => by
        rcases Nat.eq_or_lt_of_le (Nat.le_of_lt_succ hj) with rfl | below
        · exact ⟨whole, fits⟩
        · exact before j below
      exact ⟨by omega, this.2⟩

theorem State.replayNext_some {k : Nat} (h : Claim.nextLogged s p wid lane kind k) :
    s.replayNext p wid lane kind = some (k, BitVec.ofNat 64 (fieldAt (s.logRead p k) 8 8)) := by
  obtain ⟨inside, whole, fits, before⟩ := h
  exact State.replayFind_some whole fits _ 0 (Nat.zero_le k) (by omega) fun j _ hj => before j hj

theorem State.replayNext_none (h : ∀ k, ¬ Claim.nextLogged s p wid lane kind k) : s.replayNext p wid lane kind = none := by
  cases found : s.replayNext p wid lane kind with
  | none => rfl
  | some x =>
    obtain ⟨k, v⟩ := x
    obtain ⟨inside, rest⟩ := State.replayFind_sound _ 0 found fun j hj => absurd hj (Nat.not_lt_zero j)
    exact absurd ⟨by omega, rest⟩ (h k)

end

/-- The entries that gangs in replay mode have taken stay taken. -/
theorem State.logWrite_replay (s : State) (p : Nat) (bs : List Byte) : ((s.logWrite p bs).part p).replay = (s.part p).replay := by
  rw [State.logWrite_eq, State.part_setPart]

theorem State.logGapWrite_replay (s : State) (p : Nat) : ((s.logGapWrite p).part p).replay = (s.part p).replay := by
  unfold State.logGapWrite
  split
  · rfl
  · split
    · rfl
    · dsimp only
      rw [State.part_of_bare (State.bumpFree_bare _), State.part_setPart]
      dsimp only
      rw [State.logWrite_replay]

theorem State.logAppend_replay (s : State) (p wid lane kind : Nat) (v : DWord) :
    ((s.logAppend p wid lane kind v).part p).replay = (s.part p).replay := by
  unfold State.logAppend
  split
  · rfl
  · dsimp only
    split
    · rw [State.part_setPart]
      dsimp only
      rw [State.logGapWrite_replay]
    · rw [State.part_setPart]
      dsimp only
      rw [State.logWrite_replay, State.logGapWrite_replay]

theorem State.mem_notReplayed {s t : State} {p k : Nat} (h : k ∈ (t.part p).replay) : k ∈ ((s.notReplayed t p).part p).replay := by
  unfold State.notReplayed
  dsimp only
  split
  · exact h
  · rw [State.part_setPart]
    exact List.mem_cons_of_mem _ h

theorem State.setPart_readKeyed (s : State) (p : Nat) (x : Partition) : (s.setPart p x).readKeyed = s.readKeyed := rfl

theorem claim_loggedOutcomes : Claim.LoggedOutcomes := by
  refine ⟨fun s c lane kind v => ?_, fun s p wid lane kind v hp small => ?_⟩
  · intro p r hp
    refine ⟨fun live => ?_, fun replays => ⟨fun k next => ?_, fun none => ?_⟩⟩
    · have outcome : r = (s.logAppend p c.wid lane kind v, v) := if_neg (by rw [live]; decide)
      rw [outcome]
      exact ⟨rfl, rfl⟩
    · obtain ⟨value, hvalue⟩ : ∃ value, value = BitVec.ofNat 64 (fieldAt (s.logRead p k) 8 8) := ⟨_, rfl⟩
      obtain ⟨taken, htaken⟩ : ∃ taken, taken = s.setPart p { s.part p with replay := k :: (s.part p).replay } := ⟨_, rfl⟩
      have found := State.replayNext_some next
      have outcome : r = (taken.notReplayed (taken.logAppend p c.wid lane kind value) p, value) := by
        refine (if_pos replays).trans ?_
        rw [show s.replayNext (s.laneAcc c).part c.wid lane kind = _ from found, htaken, hvalue]
      rw [outcome]
      refine ⟨hvalue, State.mem_notReplayed ?_⟩
      rw [State.logAppend_replay, htaken, State.part_setPart]
      exact List.mem_cons_self ..
    · have found := State.replayNext_none none
      refine (congrArg Prod.snd (if_pos replays : r = _)).trans ?_
      rw [show s.replayNext (s.laneAcc c).part c.wid lane kind = _ from found]
  · intro x size slot t
    refine ⟨fun off => State.logAppend_off off .., fun on whole full => State.logAppend_drops on whole _ _ _ _ full,
      fun on whole room => ?_⟩
    have written : t = _ := State.logAppend_writes on whole wid lane kind v room
    have bare := s.logSlot_bare p (logEntry (x.logseq % 2 ^ 32) wid lane kind v)
    refine ⟨?_, ?_, fun q hq => ?_, fun e pa aligned leads near k hk => ?_⟩
    · rw [written]
      exact State.part_setPart ..
    · rw [written]
      exact (congrArg State.waves bare : (State.bare _).waves = s.bare.waves)
    · rw [written]
      exact (State.part_setPart_other _ _ _ _ hq).trans (State.part_of_bare bare q)
    · rw [written, State.setPart_readKeyed, State.logSlot_readKeyed (logEntry_length ..) aligned leads near hk, logEntry]

end Sys2Proof.Machine
end

section
set_option Elab.async false
namespace Sys2Proof
open Machine

/-- Settles O51: commands by what they do to one port and one panel, stops and samples by what records leave alone, registers by their
place among the values of SEL, and an entry of the log by the write of a block of one page. -/
theorem debugging : Obligations.Debugging :=
  ⟨claim_commandErrors, claim_stopCommands, claim_stopsComplete, claim_resumptions, claim_debugReads, claim_panelEntries,
    claim_debugWrites, claim_traceSamples, claim_logGaps, claim_loggedOutcomes, claim_mirrors⟩

end Sys2Proof
end
